-- ==== Sys2Proof/Word.lean ====
section
/-! DEFINITION. The word types of the model and the plainest arithmetic on them (R10, R67). -/

namespace Sys2Proof

abbrev Byte := BitVec 8
abbrev Word := BitVec 32
abbrev DWord := BitVec 64
/-- A vector register (R67, R70). -/
abbrev VWord := BitVec 256
/-- The data of one 64-byte line (R213). -/
abbrev Line := BitVec 512

/-- A 64-bit word with the value of a natural number, modulo 2^64. -/
abbrev dw (n : Nat) : DWord := BitVec.ofNat 64 n

/-- One bit of a Bool. -/
abbrev b2n (b : Bool) : Nat := if b then 1 else 0

end Sys2Proof
end

