-- ==== Sys2Proof/Syntax.lean ====
section
/-! DEFINITION. The commands of the block: one constructor of `Instr` for each row of the opcode table, with the
operands the row's rule names, and the small types those operands need. A command that needs something only the
outside knows (a reading, a received packet, what an array check found) carries it as an operand. -/

namespace Sys2Proof

/-- What a check of R142 covers: a residue, the parity of a register or of the bypass network whose producing µop has not
committed, the parity of a rename map or of the reorder buffer. -/
inductive CheckKind where
  | residue
  | register
  | map
deriving DecidableEq, Repr

/-- What the checks of R142 found while an instruction was at the head (R143-R145, R438): nothing; one to three failed
attempts and then a good one; a fourth failed attempt, in core 2t, in core 2t+1 or in both; or bad parity in a register
whose producer has committed, or in the committed rename map, in core 2t, in core 2t+1 or in both. -/
inductive Checks where
  | pass
  | retried (n : Fin 3) (kind : CheckKind)
  | exhausted (kind : CheckKind) (inEven inOdd : Bool)
  | committed (map : Bool) (inEven inOdd : Bool)
deriving DecidableEq, Repr

/-- What the L1 or L2 array check found on the access of an instruction (R241); `l1`: in the L1D. -/
inductive ArrErr where
  | none
  | corrected (l1 : Bool) (tag : Bool)
  /-- an uncorrectable error in the data of the line -/
  | data (l1 : Bool)
  | tagLost (l1 : Bool)
  /-- the parity of the L1I line that the fetch reads -/
  | l1iParity
deriving DecidableEq, Repr

/-- The kinds of access a translation serves (R189). -/
inductive Acc where
  | read
  | write
  | fetch
deriving DecidableEq, Repr

/-- An access that a core makes on a wrong path (R140): its address and kind. -/
structure Wrong where
  va : BitVec 64
  acc : Acc
deriving DecidableEq, Repr

/-- How an instruction is issued: by which core, with which results of its checks, and what the core had under way. -/
structure Issue where
  core : BitVec 8
  checks : Checks
  arr : ArrErr
  /-- how many of the core's youngest stores had no known address when this load took its data (R126) -/
  passed : BitVec 8 := 0
  /-- physical addresses of instructions fetched behind this one and not committed (R136) -/
  behind : List (BitVec 52) := []
  /-- accesses made on a wrong path since the instruction before it committed (R140) -/
  wrong : List Wrong := []
  /-- this Device-G store stays at the head of the store queue to be gathered with the next one (R171) -/
  gathers : Bool := false
deriving DecidableEq, Repr

/-- What the L3 or directory array check found on a request (R241). -/
inductive SliceErr where
  | none
  | single
  | dataUncorr
  | tagFound
  | dirSingle
  | dirUncorr
deriving DecidableEq, Repr

/-- The supplies monitored by the chip (R483). -/
inductive Rail where
  | vin
  | vao
  | v1p8
deriving DecidableEq, Repr

/-- A DIMM found in a slot, as its SPD describes it (R347, R348, R496). -/
structure Dimm where
  mc : BitVec 4
  slot : Bool
  mrdimm : Bool
  x8 : Bool
  gib : BitVec 10
  ranks : BitVec 3
  speed : BitVec 16
  serial : BitVec 32
  mfr : BitVec 16
deriving DecidableEq, Repr

/-- A directly attached CXL Type 3 device found in phase 7 (R370); its capacity in GiB. -/
structure CxlDev where
  port : BitVec 3
  rp : BitVec 2
  gib : BitVec 20
  ready : Bool
deriving DecidableEq, Repr

/-- An interrupt that becomes pending during an entry sequence, and the cycle at which it does (R134): an INT, or the
request of the core timer of a level (`timer`), whose vector is 1 and whose priority is its own register's. -/
structure LateInt where
  timer : Bool
  world : Bool
  vec : BitVec 9
  prio : BitVec 4
  lvl : BitVec 2
  cycle : BitVec 6
deriving DecidableEq, Repr

/-- The header fields of a request packet that its target uses (R248): initiator in the numbering of R268, tag,
generation, identity (R271), key ID, memory type, whether it travels on ESC, and DPOISON. -/
structure Hdr where
  init : Fin 272
  tag : BitVec 12
  gen : BitVec 4
  world : Bool
  vmid : BitVec 16
  locket : BitVec 12
  key : BitVec 12
  mtype : BitVec 2
  esc : Bool
  dpoison : BitVec 8
deriving DecidableEq, Repr

/-- A mesh stop (R17, R20). -/
structure Stop where
  x : BitVec 4
  y : Fin 10
deriving DecidableEq, Repr

/-- One direction of one link: the receiving router, the side it arrives from (0 west, 1 east, 2 south, 3 north) and
the physical mesh (R243, R246). -/
structure LinkId where
  stop : Stop
  side : BitVec 2
  rsp : Bool
deriving DecidableEq, Repr

/-- An input buffer of a router (R254): its stop; the side it takes packets from (0-3 as `LinkId` numbers them, 4 to 7 the
local ports 0 to 3); its virtual channel by the VC code of R243, or 3 for the one channel of the RSP mesh. -/
structure BufId where
  stop : Stop
  side : BitVec 3
  vc : BitVec 2
deriving DecidableEq, Repr

/-- An input of a router at a stop: the side and the virtual channel of its buffer. -/
structure InputVc where
  side : BitVec 3
  vc : BitVec 2
deriving DecidableEq, Repr

/-- Ordering and size of an ATOMIC: AUX [6:4] (R250). -/
structure AtomicForm where
  ord : BitVec 2
  size8 : Bool
deriving DecidableEq, Repr

/-- The way of an INT: the stop that sends it, and its core. -/
structure IntPath where
  src : Stop
  core : BitVec 8
deriving DecidableEq, Repr

/-- A PTP Sync: its transport, domain and VLAN (R47), and the master's time at its timestamp in nanoseconds, as the Steward has
it from the Sync, one-step or with its Follow_Up, and the path delay of its delay request-response exchange (R415, log entry
134). -/
structure PtpMsg where
  udp : Bool
  domain : BitVec 8
  vlan : BitVec 12
  time : BitVec 64
deriving DecidableEq, Repr

/-- An INT: its core and world, and its AUX fields (R310). -/
structure HeldInt where
  core : BitVec 8
  world : Bool
  vec : BitVec 9
  prio : BitVec 4
  lvl : BitVec 2
deriving DecidableEq, Repr

/-- What a router holds: a request of a command for an address, or an INT. -/
structure Announced where
  cmd : BitVec 8
  pa : BitVec 52
  int : Option HeldInt
deriving DecidableEq, Repr

/-- An array that hardware invalidates (R240). -/
inductive ArrayId where
  | l1i (c : BitVec 8)
  | l1d (c : BitVec 8)
  | l2 (c : BitVec 8)
  | l3 (n : BitVec 7)
  | dir (n : BitVec 7)
deriving DecidableEq, Repr

/-- The agent that sends a register access (R464, R469). -/
inductive Agent where
  | core (c : BitVec 8)
  | dm (d : Fin 2)
  | io (p : BitVec 3)
  | station (t : BitVec 7)
  | stw
  | sec
  | debug
deriving DecidableEq, Repr

/-- A register access with the identity of its header (R271, R469). -/
structure Req where
  agent : Agent
  world : Bool
  vmid : BitVec 16
  locket : BitVec 12
deriving DecidableEq, Repr

/-- A source of an interrupt: a routing entry of an I/O stop or of the STW stop (R307, R308). -/
inductive IntSrc where
  | io (p : BitVec 3) (k : BitVec 11)
  | stw (k : BitVec 8)
deriving DecidableEq, Repr

/-- How a queue aperture access reached the port: a device behind a root port, or an endpoint window (R336). -/
inductive ApVia where
  | device (rp : BitVec 2) (rid : BitVec 16)
  | window (k : BitVec 10)
deriving DecidableEq, Repr

/-- A row of a DRAM device (R360). -/
structure DramRow where
  slot : Bool
  rank : BitVec 3
  dev : BitVec 5
  bank : BitVec 5
  row : BitVec 18
deriving DecidableEq, Repr

/-- Where a frame that reaches the Steward Ethernet is sent: its VLAN, 0 untagged, and its IPv6 destination (R47). -/
structure NetFrame where
  vlan : BitVec 12
  dest : BitVec 128
deriving DecidableEq, Repr

/-- What a read of a DRAM line found (R352, R353): the line, the error, the row it lies in, and whether the mirror partner
reads good. -/
inductive DramErr where
  | none
  /-- the bits of the code word of R352 that are in error, 16 for each of the 40 DQ lines in turn -/
  | burst (pa : BitVec 52) (flips : BitVec 640) (row : DramRow) (partnerGood : Bool)
  | stored (pa : BitVec 52)
deriving DecidableEq, Repr

/-- What an inbound TLP asks for (R368, R373). -/
inductive TlpOp where
  | read (len : BitVec 13)
  | write (data : List (BitVec 8))
  | fetchAdd (eight : Bool) (v : BitVec 64)
  | swap (eight : Bool) (v : BitVec 64)
  | cas (log : Fin 3) (cmp new : BitVec 128)
deriving DecidableEq, Repr

/-- An inbound TLP of a device behind a root port (R373-R375). -/
structure Tlp where
  rid : BitVec 16
  addr : BitVec 64
  op : TlpOp
  translated : Bool
  pasid : Bool
  poison : Bool
deriving DecidableEq, Repr

/-- The triggers of a clasp (R380). -/
inductive ClaspReason where
  | surpriseDown
  | uncorrectable
  | errFatal
  | atsTimeout
  | software
deriving DecidableEq, Repr

/-- The sources of a wake request (R404). -/
inductive WakeSrc where
  | packet
  | timer
  | candle
  | link
  | perst
  | gpio (p : Fin 24)
deriving DecidableEq, Repr

/-- The commands, in the order of the opcode table. -/
inductive Instr where
  /-- PWROK_RISE (R30): PWROK rises after the supplies are in range, and the power-on start-up sequence begins -/
  | pwrokRise (rcvrLow : Bool) (testHigh : Bool)
  /-- PWROK_FALL (R30): PWROK falls and forces the chip into power-on reset until it rises again -/
  | pwrokFall
  /-- SUPPLY_OUT_OF_RANGE (R483): A monitored rail stays below its range for 2 µs and acts as a fall of PWROK -/
  | supplyOutOfRange (rail : Rail)
  /-- WARM_RST_L_REQUEST (R489): WARM_RST_L reads low for 100 consecutive CD0 samples and requests a warm reset -/
  | warmRstLRequest
  /-- WARM_RESET_DRAIN_DEADLINE (R182): The 10 µs drain timer expires and the store entries not yet performed are discarded and logged -/
  | warmResetDrainDeadline
  /-- FUSE_LOAD (R34): Phase 1 loads fuses, self-checks the ROM and makes STW.DEVID valid -/
  | fuseLoad
  /-- FLASH_DISCOVERY (R34): Phase 2 discovers the flash through SFDP and switches it to quad or octal mode -/
  | flashDiscovery (octal : Bool)
  /-- IMAGE_SELECTION (R48): Phase 3 reads and checks both Configuration Image banks and selects one -/
  | imageSelection
  /-- IMAGE_APPLY (R34): Phase 4 applies the selected Configuration Image -/
  | imageApply (applied : Bool)
  /-- FIRMWARE_SELECTION (R34): Phase 5 checks both firmware banks, selects one and continues from the Steward runtime -/
  | firmwareSelection
  /-- SEC_START (R35): Phase 6 starts the SEC, derives keys and measures the DICE layers -/
  | secStart
  /-- MEMORY_TRAINING (R38): Phase 7 trains the channels, places the DRAM and CXL sets and fixes the firmware reserve -/
  | memoryTraining (dimms : List Dimm) (cacheBad : BitVec 16) (untrained : BitVec 16) (cxl : List CxlDev)
  /-- FIRMWARE_RESERVE_SETUP (R278): Phase 8 gives the reserve areas their owners, copies and verifies the components and starts the SEC firmware -/
  | firmwareReserveSetup
  /-- BOOT_CORE_RELEASE (R37): Phase 9 releases the boot core into the trusted world and opens the endpoint windows -/
  | bootCoreRelease
  /-- RECOVERY_IMAGE_RECEIVED (R50): In recovery, an image arriving through I3C MCTP or TFTP is verified and, when valid, written, followed by a cold reset -/
  | recoveryImageReceived (firmware : Bool) (tftp : Option NetFrame) (image : List (BitVec 8))
  /-- IMAGE_UPDATE_TIMEOUT (R53): 60 s pass without an IMAGE_CHUNK or IMAGE_END, and the bank being written is left invalid -/
  | imageUpdateTimeout
  /-- MBOX_COLLIDE (R59): A write to CMD or an ARG register while GO = 1 is ignored and sets COLLIDE -/
  | mboxCollide (mb : Fin 5)
  /-- MBOX_UNKNOWN_CODE (R62): A command with an unlisted code completes with BADCMD -/
  | mboxUnknownCode (mb : Fin 5)
  /-- GET_INFO (R62): Returns STW.DEVID, the enabled-core summary and the installed memory -/
  | getInfo (mb : Fin 5)
  /-- GET_BOOTSTAT (R62): Returns STW.BOOTSTAT and the selected banks with their SEQ values -/
  | getBootstat (mb : Fin 5)
  /-- IMAGE_BEGIN (R62): Opens an image update and erases the bank not selected -/
  | imageBegin (mb : Fin 5) (flashOk : Bool)
  /-- IMAGE_CHUNK (R62): Writes a chunk of image data into the open bank -/
  | imageChunk (mb : Fin 5) (flashOk : Bool)
  /-- IMAGE_END (R52): Verifies the written image and checks that it is newer, erasing it with VERIFY_FAIL or STALE otherwise -/
  | imageEnd (mb : Fin 5) (flashOk : Bool)
  /-- RESET (R62): Requests a warm or cold reset, completing before the reset starts -/
  | reset (mb : Fin 5)
  /-- CORE_RELEASE (R37): Releases a held core at L3 in the trusted world at the given entry address -/
  | coreRelease (mb : Fin 5)
  /-- SET_POWER (R62): Sets the package power setting, in force within 1 ms -/
  | setPower (mb : Fin 5)
  /-- TELEMETRY_READ (R444): Returns eight readings of a sensor class from a given index -/
  | telemetryRead (mb : Fin 5)
  /-- ERRLOG_READ (R449): Returns a persistent error log entry by index -/
  | errlogRead (mb : Fin 5)
  /-- GET_SIGNET (R62): Returns 56 bytes of a Signet certificate chain at a given offset -/
  | getSignet (mb : Fin 5)
  /-- SVN_COMMIT (R62): Raises the fused minimum security version to the SVN of the selected image -/
  | svnCommit (mb : Fin 5)
  /-- KEY_REVOKE (R63): Blows the revocation fuse of an owner key slot, unless the slot signed a selected image -/
  | keyRevoke (mb : Fin 5)
  /-- KEY_PROGRAM (R45): Programs an unprogrammed owner key slot with a SHA-384 hash -/
  | keyProgram (mb : Fin 5)
  /-- TW_RESTART (R298): Reloads the trusted world as after a watchdog expiry -/
  | twRestart (mb : Fin 5)
  /-- ILLEGAL_INSTR (R75): An undefined encoding, or one with a non-zero reserved field, raises ILLEGAL_INSTR -/
  | illegalInstr (x : Issue) (word : BitVec 32)
  /-- ADD (R82): rd := rs1 + rs2 -/
  | add (x : Issue) (rd : BitVec 5) (rs1 : BitVec 5) (rs2 : BitVec 5)
  /-- SUB (R82): rd := rs1 − rs2 -/
  | sub (x : Issue) (rd : BitVec 5) (rs1 : BitVec 5) (rs2 : BitVec 5)
  /-- AND (R82): rd := rs1 AND rs2 -/
  | and (x : Issue) (rd : BitVec 5) (rs1 : BitVec 5) (rs2 : BitVec 5)
  /-- OR (R82): rd := rs1 OR rs2 -/
  | or (x : Issue) (rd : BitVec 5) (rs1 : BitVec 5) (rs2 : BitVec 5)
  /-- XOR (R82): rd := rs1 XOR rs2 -/
  | xor (x : Issue) (rd : BitVec 5) (rs1 : BitVec 5) (rs2 : BitVec 5)
  /-- ANDN (R82): rd := rs1 AND NOT rs2 -/
  | andn (x : Issue) (rd : BitVec 5) (rs1 : BitVec 5) (rs2 : BitVec 5)
  /-- SLL (R82): Shifts left logically by rs2[5:0] -/
  | sll (x : Issue) (rd : BitVec 5) (rs1 : BitVec 5) (rs2 : BitVec 5)
  /-- SRL (R82): Shifts right logically by rs2[5:0] -/
  | srl (x : Issue) (rd : BitVec 5) (rs1 : BitVec 5) (rs2 : BitVec 5)
  /-- SRA (R82): Shifts right arithmetically by rs2[5:0] -/
  | sra (x : Issue) (rd : BitVec 5) (rs1 : BitVec 5) (rs2 : BitVec 5)
  /-- ROR (R82): Rotates right by rs2[5:0] -/
  | ror (x : Issue) (rd : BitVec 5) (rs1 : BitVec 5) (rs2 : BitVec 5)
  /-- SLT (R82): Sets rd to 1 when rs1 < rs2 signed -/
  | slt (x : Issue) (rd : BitVec 5) (rs1 : BitVec 5) (rs2 : BitVec 5)
  /-- SLTU (R82): Sets rd to 1 when rs1 < rs2 unsigned -/
  | sltu (x : Issue) (rd : BitVec 5) (rs1 : BitVec 5) (rs2 : BitVec 5)
  /-- SEQ (R82): Sets rd to 1 when rs1 = rs2 -/
  | seq (x : Issue) (rd : BitVec 5) (rs1 : BitVec 5) (rs2 : BitVec 5)
  /-- SNE (R82): Sets rd to 1 when rs1 ≠ rs2 -/
  | sne (x : Issue) (rd : BitVec 5) (rs1 : BitVec 5) (rs2 : BitVec 5)
  /-- MIN (R82): Signed minimum -/
  | min (x : Issue) (rd : BitVec 5) (rs1 : BitVec 5) (rs2 : BitVec 5)
  /-- MAX (R82): Signed maximum -/
  | max (x : Issue) (rd : BitVec 5) (rs1 : BitVec 5) (rs2 : BitVec 5)
  /-- MINU (R82): Unsigned minimum -/
  | minu (x : Issue) (rd : BitVec 5) (rs1 : BitVec 5) (rs2 : BitVec 5)
  /-- MAXU (R82): Unsigned maximum -/
  | maxu (x : Issue) (rd : BitVec 5) (rs1 : BitVec 5) (rs2 : BitVec 5)
  /-- CLZ (R82): Counts the leading zero bits -/
  | clz (x : Issue) (rd : BitVec 5) (rs1 : BitVec 5)
  /-- CTZ (R82): Counts the trailing zero bits -/
  | ctz (x : Issue) (rd : BitVec 5) (rs1 : BitVec 5)
  /-- POPC (R82): Counts the one bits -/
  | popc (x : Issue) (rd : BitVec 5) (rs1 : BitVec 5)
  /-- BSWAP (R82): Reverses the byte order -/
  | bswap (x : Issue) (rd : BitVec 5) (rs1 : BitVec 5)
  /-- MUL (R82): Low 64 bits of the product -/
  | mul (x : Issue) (rd : BitVec 5) (rs1 : BitVec 5) (rs2 : BitVec 5)
  /-- MULH (R82): High 64 bits of the signed product -/
  | mulh (x : Issue) (rd : BitVec 5) (rs1 : BitVec 5) (rs2 : BitVec 5)
  /-- MULHU (R82): High 64 bits of the unsigned product -/
  | mulhu (x : Issue) (rd : BitVec 5) (rs1 : BitVec 5) (rs2 : BitVec 5)
  /-- MULHSU (R82): High 64 bits of the signed-by-unsigned product -/
  | mulhsu (x : Issue) (rd : BitVec 5) (rs1 : BitVec 5) (rs2 : BitVec 5)
  /-- DIV (R83): Signed division, with the results of R83 for zero and overflow -/
  | div (x : Issue) (rd : BitVec 5) (rs1 : BitVec 5) (rs2 : BitVec 5)
  /-- DIVU (R83): Unsigned division -/
  | divu (x : Issue) (rd : BitVec 5) (rs1 : BitVec 5) (rs2 : BitVec 5)
  /-- REM (R83): Signed remainder -/
  | rem (x : Issue) (rd : BitVec 5) (rs1 : BitVec 5) (rs2 : BitVec 5)
  /-- REMU (R83): Unsigned remainder -/
  | remu (x : Issue) (rd : BitVec 5) (rs1 : BitVec 5) (rs2 : BitVec 5)
  /-- ADDI (R83): rd := rs1 + sext(imm16) -/
  | addi (x : Issue) (rd : BitVec 5) (rs1 : BitVec 5) (imm : BitVec 16)
  /-- ANDI (R83): rd := rs1 AND zext(imm16) -/
  | andi (x : Issue) (rd : BitVec 5) (rs1 : BitVec 5) (imm : BitVec 16)
  /-- ORI (R83): rd := rs1 OR zext(imm16) -/
  | ori (x : Issue) (rd : BitVec 5) (rs1 : BitVec 5) (imm : BitVec 16)
  /-- XORI (R83): rd := rs1 XOR zext(imm16) -/
  | xori (x : Issue) (rd : BitVec 5) (rs1 : BitVec 5) (imm : BitVec 16)
  /-- SLTI (R83): Signed compare with the immediate -/
  | slti (x : Issue) (rd : BitVec 5) (rs1 : BitVec 5) (imm : BitVec 16)
  /-- SLTIU (R83): Unsigned compare with the immediate -/
  | sltiu (x : Issue) (rd : BitVec 5) (rs1 : BitVec 5) (imm : BitVec 16)
  /-- LUI (R83): rd := sext(imm16 << 16) -/
  | lui (x : Issue) (rd : BitVec 5) (imm : BitVec 16)
  /-- AUIPC (R83): rd := pc + sext(imm16 << 16) -/
  | auipc (x : Issue) (rd : BitVec 5) (imm : BitVec 16)
  /-- MOVK (R83): Writes imm16 into the 16-bit field k of rd -/
  | movk (x : Issue) (rd : BitVec 5) (k : BitVec 2) (imm : BitVec 16)
  /-- SLLI (R84): Shifts left logically by an immediate amount -/
  | slli (x : Issue) (rd : BitVec 5) (rs1 : BitVec 5) (sh : BitVec 6)
  /-- SRLI (R84): Shifts right logically by an immediate amount -/
  | srli (x : Issue) (rd : BitVec 5) (rs1 : BitVec 5) (sh : BitVec 6)
  /-- SRAI (R84): Shifts right arithmetically by an immediate amount -/
  | srai (x : Issue) (rd : BitVec 5) (rs1 : BitVec 5) (sh : BitVec 6)
  /-- RORI (R84): Rotates right by an immediate amount -/
  | rori (x : Issue) (rd : BitVec 5) (rs1 : BitVec 5) (sh : BitVec 6)
  /-- BEQ (R85): Branches when rs1 = rs2 -/
  | beq (x : Issue) (rs1 : BitVec 5) (rs2 : BitVec 5) (off : BitVec 16)
  /-- BNE (R85): Branches when rs1 ≠ rs2 -/
  | bne (x : Issue) (rs1 : BitVec 5) (rs2 : BitVec 5) (off : BitVec 16)
  /-- BLT (R85): Branches when rs1 < rs2 signed -/
  | blt (x : Issue) (rs1 : BitVec 5) (rs2 : BitVec 5) (off : BitVec 16)
  /-- BGE (R85): Branches when rs1 ≥ rs2 signed -/
  | bge (x : Issue) (rs1 : BitVec 5) (rs2 : BitVec 5) (off : BitVec 16)
  /-- BLTU (R85): Branches when rs1 < rs2 unsigned -/
  | bltu (x : Issue) (rs1 : BitVec 5) (rs2 : BitVec 5) (off : BitVec 16)
  /-- BGEU (R85): Branches when rs1 ≥ rs2 unsigned -/
  | bgeu (x : Issue) (rs1 : BitVec 5) (rs2 : BitVec 5) (off : BitVec 16)
  /-- J (R86): Jumps to the target -/
  | j (x : Issue) (off : BitVec 26)
  /-- JAL (R86): Links into g31 and jumps -/
  | jal (x : Issue) (off : BitVec 26)
  /-- JALR (R86): Links into rd and jumps to rs1 + sext(imm16), raising ALIGN on a misaligned target -/
  | jalr (x : Issue) (rd : BitVec 5) (rs1 : BitVec 5) (imm : BitVec 16)
  /-- LB (R88): Loads 1 byte, sign-extended -/
  | lb (x : Issue) (rt : BitVec 5) (rb : BitVec 5) (off : BitVec 12)
  /-- LBU (R88): Loads 1 byte, zero-extended -/
  | lbu (x : Issue) (rt : BitVec 5) (rb : BitVec 5) (off : BitVec 12)
  /-- LH (R88): Loads 2 bytes, sign-extended -/
  | lh (x : Issue) (rt : BitVec 5) (rb : BitVec 5) (off : BitVec 12)
  /-- LHU (R88): Loads 2 bytes, zero-extended -/
  | lhu (x : Issue) (rt : BitVec 5) (rb : BitVec 5) (off : BitVec 12)
  /-- LW (R88): Loads 4 bytes, sign-extended -/
  | lw (x : Issue) (rt : BitVec 5) (rb : BitVec 5) (off : BitVec 12)
  /-- LWU (R88): Loads 4 bytes, zero-extended -/
  | lwu (x : Issue) (rt : BitVec 5) (rb : BitVec 5) (off : BitVec 12)
  /-- LD (R88): Loads 8 bytes -/
  | ld (x : Issue) (rt : BitVec 5) (rb : BitVec 5) (off : BitVec 12)
  /-- LV (R88): Loads 32 bytes into a vector register -/
  | lv (x : Issue) (rt : BitVec 5) (rb : BitVec 5) (off : BitVec 12)
  /-- LAB (R167): Load-acquire of 1 byte -/
  | lab (x : Issue) (rt : BitVec 5) (rb : BitVec 5) (off : BitVec 12)
  /-- LAH (R167): Load-acquire of 2 bytes -/
  | lah (x : Issue) (rt : BitVec 5) (rb : BitVec 5) (off : BitVec 12)
  /-- LAW (R167): Load-acquire of 4 bytes -/
  | law (x : Issue) (rt : BitVec 5) (rb : BitVec 5) (off : BitVec 12)
  /-- LAD (R167): Load-acquire of 8 bytes -/
  | lad (x : Issue) (rt : BitVec 5) (rb : BitVec 5) (off : BitVec 12)
  /-- FLW (R88): Loads 4 bytes into lane 0 of a vector register -/
  | flw (x : Issue) (rt : BitVec 5) (rb : BitVec 5) (off : BitVec 12)
  /-- FLD (R88): Loads 8 bytes into lane 0 of a vector register -/
  | fld (x : Issue) (rt : BitVec 5) (rb : BitVec 5) (off : BitVec 12)
  /-- SB (R88): Stores 1 byte -/
  | sb (x : Issue) (rt : BitVec 5) (rb : BitVec 5) (off : BitVec 12)
  /-- SH (R88): Stores 2 bytes -/
  | sh (x : Issue) (rt : BitVec 5) (rb : BitVec 5) (off : BitVec 12)
  /-- SW (R88): Stores 4 bytes -/
  | sw (x : Issue) (rt : BitVec 5) (rb : BitVec 5) (off : BitVec 12)
  /-- SD (R88): Stores 8 bytes -/
  | sd (x : Issue) (rt : BitVec 5) (rb : BitVec 5) (off : BitVec 12)
  /-- SV (R88): Stores 32 bytes from a vector register -/
  | sv (x : Issue) (rt : BitVec 5) (rb : BitVec 5) (off : BitVec 12)
  /-- SRB (R167): Store-release of 1 byte -/
  | srb (x : Issue) (rt : BitVec 5) (rb : BitVec 5) (off : BitVec 12)
  /-- SRH (R167): Store-release of 2 bytes -/
  | srh (x : Issue) (rt : BitVec 5) (rb : BitVec 5) (off : BitVec 12)
  /-- SRW (R167): Store-release of 4 bytes -/
  | srw (x : Issue) (rt : BitVec 5) (rb : BitVec 5) (off : BitVec 12)
  /-- SRD (R167): Store-release of 8 bytes -/
  | srd (x : Issue) (rt : BitVec 5) (rb : BitVec 5) (off : BitVec 12)
  /-- FSW (R88): Stores lane 0 bits [31:0] -/
  | fsw (x : Issue) (rt : BitVec 5) (rb : BitVec 5) (off : BitVec 12)
  /-- FSD (R88): Stores lane 0 bits [63:0] -/
  | fsd (x : Issue) (rt : BitVec 5) (rb : BitVec 5) (off : BitVec 12)
  /-- SWAP (R90): Atomically swaps memory with rs2 -/
  | swap (x : Issue) (rd : BitVec 5) (rs1 : BitVec 5) (rs2 : BitVec 5) (ord : BitVec 2) (size8 : Bool)
  /-- AADD (R90): Atomic add -/
  | aadd (x : Issue) (rd : BitVec 5) (rs1 : BitVec 5) (rs2 : BitVec 5) (ord : BitVec 2) (size8 : Bool)
  /-- AAND (R90): Atomic AND -/
  | aand (x : Issue) (rd : BitVec 5) (rs1 : BitVec 5) (rs2 : BitVec 5) (ord : BitVec 2) (size8 : Bool)
  /-- AOR (R90): Atomic OR -/
  | aor (x : Issue) (rd : BitVec 5) (rs1 : BitVec 5) (rs2 : BitVec 5) (ord : BitVec 2) (size8 : Bool)
  /-- AXOR (R90): Atomic XOR -/
  | axor (x : Issue) (rd : BitVec 5) (rs1 : BitVec 5) (rs2 : BitVec 5) (ord : BitVec 2) (size8 : Bool)
  /-- ASMIN (R90): Atomic signed minimum -/
  | asmin (x : Issue) (rd : BitVec 5) (rs1 : BitVec 5) (rs2 : BitVec 5) (ord : BitVec 2) (size8 : Bool)
  /-- ASMAX (R90): Atomic signed maximum -/
  | asmax (x : Issue) (rd : BitVec 5) (rs1 : BitVec 5) (rs2 : BitVec 5) (ord : BitVec 2) (size8 : Bool)
  /-- AUMIN (R90): Atomic unsigned minimum -/
  | aumin (x : Issue) (rd : BitVec 5) (rs1 : BitVec 5) (rs2 : BitVec 5) (ord : BitVec 2) (size8 : Bool)
  /-- AUMAX (R90): Atomic unsigned maximum -/
  | aumax (x : Issue) (rd : BitVec 5) (rs1 : BitVec 5) (rs2 : BitVec 5) (ord : BitVec 2) (size8 : Bool)
  /-- CAS (R91): Compare-and-swap of 8 bytes, checked as a write -/
  | cas (x : Issue) (rd : BitVec 5) (rs1 : BitVec 5) (rs2 : BitVec 5) (ord : BitVec 2) (size8 : Bool)
  /-- CASP (R91): Compare-and-swap of a 16-byte pair -/
  | casp (x : Issue) (rd : BitVec 5) (rs1 : BitVec 5) (rs2 : BitVec 5) (ord : BitVec 2) (size8 : Bool)
  /-- VFADD (R95): Floating-point add per lane -/
  | vfadd (x : Issue) (w : BitVec 2) (vd : BitVec 5) (vs1 : BitVec 5) (vs2 : BitVec 5)
  /-- VFSUB (R95): Floating-point subtract per lane -/
  | vfsub (x : Issue) (w : BitVec 2) (vd : BitVec 5) (vs1 : BitVec 5) (vs2 : BitVec 5)
  /-- VFMUL (R95): Floating-point multiply per lane -/
  | vfmul (x : Issue) (w : BitVec 2) (vd : BitVec 5) (vs1 : BitVec 5) (vs2 : BitVec 5)
  /-- VFDIV (R95): Floating-point divide per lane -/
  | vfdiv (x : Issue) (w : BitVec 2) (vd : BitVec 5) (vs1 : BitVec 5) (vs2 : BitVec 5)
  /-- VFSQRT (R95): Floating-point square root per lane -/
  | vfsqrt (x : Issue) (w : BitVec 2) (vd : BitVec 5) (vs1 : BitVec 5)
  /-- VFMIN (R95): minimumNumber per lane -/
  | vfmin (x : Issue) (w : BitVec 2) (vd : BitVec 5) (vs1 : BitVec 5) (vs2 : BitVec 5)
  /-- VFMAX (R95): maximumNumber per lane -/
  | vfmax (x : Issue) (w : BitVec 2) (vd : BitVec 5) (vs1 : BitVec 5) (vs2 : BitVec 5)
  /-- VFCMPEQ (R95): Floating-point equal compare per lane -/
  | vfcmpeq (x : Issue) (w : BitVec 2) (vd : BitVec 5) (vs1 : BitVec 5) (vs2 : BitVec 5)
  /-- VFCMPLT (R95): Floating-point less-than compare per lane -/
  | vfcmplt (x : Issue) (w : BitVec 2) (vd : BitVec 5) (vs1 : BitVec 5) (vs2 : BitVec 5)
  /-- VFCMPLE (R95): Floating-point less-or-equal compare per lane -/
  | vfcmple (x : Issue) (w : BitVec 2) (vd : BitVec 5) (vs1 : BitVec 5) (vs2 : BitVec 5)
  /-- VFABS (R95): Clears the sign per lane -/
  | vfabs (x : Issue) (w : BitVec 2) (vd : BitVec 5) (vs1 : BitVec 5)
  /-- VFNEG (R95): Inverts the sign per lane -/
  | vfneg (x : Issue) (w : BitVec 2) (vd : BitVec 5) (vs1 : BitVec 5)
  /-- VFSGNJ (R95): Takes the sign of vs2 per lane -/
  | vfsgnj (x : Issue) (w : BitVec 2) (vd : BitVec 5) (vs1 : BitVec 5) (vs2 : BitVec 5)
  /-- VBDOT (R95): bfloat16 dot product accumulated into binary32 lanes -/
  | vbdot (x : Issue) (w : BitVec 2) (vd : BitVec 5) (vs1 : BitVec 5) (vs2 : BitVec 5)
  /-- SFP_ADD (R95): Scalar floating-point add on lane 0 -/
  | sfpAdd (x : Issue) (w : BitVec 2) (vd : BitVec 5) (vs1 : BitVec 5) (vs2 : BitVec 5)
  /-- SFP_SUB (R95): Scalar floating-point subtract -/
  | sfpSub (x : Issue) (w : BitVec 2) (vd : BitVec 5) (vs1 : BitVec 5) (vs2 : BitVec 5)
  /-- SFP_MUL (R95): Scalar floating-point multiply -/
  | sfpMul (x : Issue) (w : BitVec 2) (vd : BitVec 5) (vs1 : BitVec 5) (vs2 : BitVec 5)
  /-- SFP_DIV (R95): Scalar floating-point divide -/
  | sfpDiv (x : Issue) (w : BitVec 2) (vd : BitVec 5) (vs1 : BitVec 5) (vs2 : BitVec 5)
  /-- SFP_SQRT (R95): Scalar floating-point square root -/
  | sfpSqrt (x : Issue) (w : BitVec 2) (vd : BitVec 5) (vs1 : BitVec 5)
  /-- SFP_MIN (R95): Scalar minimumNumber -/
  | sfpMin (x : Issue) (w : BitVec 2) (vd : BitVec 5) (vs1 : BitVec 5) (vs2 : BitVec 5)
  /-- SFP_MAX (R95): Scalar maximumNumber -/
  | sfpMax (x : Issue) (w : BitVec 2) (vd : BitVec 5) (vs1 : BitVec 5) (vs2 : BitVec 5)
  /-- SFP_CMPEQ (R95): Scalar equal compare writing 1 or 0 to g[vd] -/
  | sfpCmpeq (x : Issue) (w : BitVec 2) (vd : BitVec 5) (vs1 : BitVec 5) (vs2 : BitVec 5)
  /-- SFP_CMPLT (R95): Scalar less-than compare writing g[vd] -/
  | sfpCmplt (x : Issue) (w : BitVec 2) (vd : BitVec 5) (vs1 : BitVec 5) (vs2 : BitVec 5)
  /-- SFP_CMPLE (R95): Scalar less-or-equal compare writing g[vd] -/
  | sfpCmple (x : Issue) (w : BitVec 2) (vd : BitVec 5) (vs1 : BitVec 5) (vs2 : BitVec 5)
  /-- SFP_ABS (R95): Scalar sign clear -/
  | sfpAbs (x : Issue) (w : BitVec 2) (vd : BitVec 5) (vs1 : BitVec 5)
  /-- SFP_NEG (R95): Scalar sign inversion -/
  | sfpNeg (x : Issue) (w : BitVec 2) (vd : BitVec 5) (vs1 : BitVec 5)
  /-- SFP_SGNJ (R95): Scalar sign injection -/
  | sfpSgnj (x : Issue) (w : BitVec 2) (vd : BitVec 5) (vs1 : BitVec 5) (vs2 : BitVec 5)
  /-- VFMADD (R95): Fused multiply-add per lane -/
  | vfmadd (x : Issue) (w : BitVec 2) (vd : BitVec 5) (vs1 : BitVec 5) (vs2 : BitVec 5) (vs3 : BitVec 5)
  /-- VFMSUB (R95): Fused multiply-subtract per lane -/
  | vfmsub (x : Issue) (w : BitVec 2) (vd : BitVec 5) (vs1 : BitVec 5) (vs2 : BitVec 5) (vs3 : BitVec 5)
  /-- VFNMADD (R95): Negated fused multiply-add per lane -/
  | vfnmadd (x : Issue) (w : BitVec 2) (vd : BitVec 5) (vs1 : BitVec 5) (vs2 : BitVec 5) (vs3 : BitVec 5)
  /-- VFNMSUB (R95): Negated fused multiply-subtract per lane -/
  | vfnmsub (x : Issue) (w : BitVec 2) (vd : BitVec 5) (vs1 : BitVec 5) (vs2 : BitVec 5) (vs3 : BitVec 5)
  /-- FMADD (R95): Scalar fused multiply-add -/
  | fmadd (x : Issue) (w : BitVec 2) (vd : BitVec 5) (vs1 : BitVec 5) (vs2 : BitVec 5) (vs3 : BitVec 5)
  /-- FMSUB (R95): Scalar fused multiply-subtract -/
  | fmsub (x : Issue) (w : BitVec 2) (vd : BitVec 5) (vs1 : BitVec 5) (vs2 : BitVec 5) (vs3 : BitVec 5)
  /-- FNMADD (R95): Scalar negated fused multiply-add -/
  | fnmadd (x : Issue) (w : BitVec 2) (vd : BitVec 5) (vs1 : BitVec 5) (vs2 : BitVec 5) (vs3 : BitVec 5)
  /-- FNMSUB (R95): Scalar negated fused multiply-subtract -/
  | fnmsub (x : Issue) (w : BitVec 2) (vd : BitVec 5) (vs1 : BitVec 5) (vs2 : BitVec 5) (vs3 : BitVec 5)
  /-- FCVT_D_S (R95): Converts binary32 to binary64 -/
  | fcvtDS (x : Issue) (vd : BitVec 5) (vs1 : BitVec 5)
  /-- FCVT_S_D (R95): Converts binary64 to binary32 -/
  | fcvtSD (x : Issue) (vd : BitVec 5) (vs1 : BitVec 5)
  /-- FCVT_S_H (R95): Widens 8 binary16 values to binary32 -/
  | fcvtSH (x : Issue) (vd : BitVec 5) (vs1 : BitVec 5)
  /-- FCVT_H_S (R96): Narrows 8 binary32 lanes to binary16 -/
  | fcvtHS (x : Issue) (vd : BitVec 5) (vs1 : BitVec 5)
  /-- FCVT_S_BF (R95): Widens 8 bfloat16 values to binary32 -/
  | fcvtSBf (x : Issue) (vd : BitVec 5) (vs1 : BitVec 5)
  /-- FCVT_BF_S (R96): Narrows 8 binary32 lanes to bfloat16 -/
  | fcvtBfS (x : Issue) (vd : BitVec 5) (vs1 : BitVec 5)
  /-- FCVT_G_S (R96): Converts binary32 to a saturating signed integer -/
  | fcvtGS (x : Issue) (vd : BitVec 5) (vs1 : BitVec 5)
  /-- FCVT_G_D (R96): Converts binary64 to a saturating signed integer -/
  | fcvtGD (x : Issue) (vd : BitVec 5) (vs1 : BitVec 5)
  /-- FCVT_S_G (R95): Converts a signed integer to binary32 -/
  | fcvtSG (x : Issue) (vd : BitVec 5) (vs1 : BitVec 5)
  /-- FCVT_D_G (R95): Converts a signed integer to binary64 -/
  | fcvtDG (x : Issue) (vd : BitVec 5) (vs1 : BitVec 5)
  /-- VFCVT_S_W (R95): Converts 8 signed 32-bit lanes to binary32 -/
  | vfcvtSW (x : Issue) (vd : BitVec 5) (vs1 : BitVec 5)
  /-- VFCVT_W_S (R96): Converts 8 binary32 lanes to signed 32-bit -/
  | vfcvtWS (x : Issue) (vd : BitVec 5) (vs1 : BitVec 5)
  /-- FMV_G_V (R95): Moves v[vs1][63:0] to a general register -/
  | fmvGV (x : Issue) (vd : BitVec 5) (vs1 : BitVec 5)
  /-- FMV_V_G (R95): Moves a general register into a vector register -/
  | fmvVG (x : Issue) (vd : BitVec 5) (vs1 : BitVec 5)
  /-- VADD (R97): Vector add per lane -/
  | vadd (x : Issue) (w : BitVec 2) (vd : BitVec 5) (vs1 : BitVec 5) (vs2 : BitVec 5)
  /-- VSUB (R97): Vector subtract per lane -/
  | vsub (x : Issue) (w : BitVec 2) (vd : BitVec 5) (vs1 : BitVec 5) (vs2 : BitVec 5)
  /-- VMUL (R97): Vector multiply per lane -/
  | vmul (x : Issue) (w : BitVec 2) (vd : BitVec 5) (vs1 : BitVec 5) (vs2 : BitVec 5)
  /-- VAND (R97): Vector bitwise AND -/
  | vand (x : Issue) (w : BitVec 2) (vd : BitVec 5) (vs1 : BitVec 5) (vs2 : BitVec 5)
  /-- VOR (R97): Vector bitwise OR -/
  | vor (x : Issue) (w : BitVec 2) (vd : BitVec 5) (vs1 : BitVec 5) (vs2 : BitVec 5)
  /-- VXOR (R97): Vector bitwise XOR -/
  | vxor (x : Issue) (w : BitVec 2) (vd : BitVec 5) (vs1 : BitVec 5) (vs2 : BitVec 5)
  /-- VSLL (R97): Vector shift left logical -/
  | vsll (x : Issue) (w : BitVec 2) (vd : BitVec 5) (vs1 : BitVec 5) (vs2 : BitVec 5)
  /-- VSRL (R97): Vector shift right logical -/
  | vsrl (x : Issue) (w : BitVec 2) (vd : BitVec 5) (vs1 : BitVec 5) (vs2 : BitVec 5)
  /-- VSRA (R97): Vector shift right arithmetic -/
  | vsra (x : Issue) (w : BitVec 2) (vd : BitVec 5) (vs1 : BitVec 5) (vs2 : BitVec 5)
  /-- VMIN (R97): Vector signed minimum -/
  | vmin (x : Issue) (w : BitVec 2) (vd : BitVec 5) (vs1 : BitVec 5) (vs2 : BitVec 5)
  /-- VMINU (R97): Vector unsigned minimum -/
  | vminu (x : Issue) (w : BitVec 2) (vd : BitVec 5) (vs1 : BitVec 5) (vs2 : BitVec 5)
  /-- VMAX (R97): Vector signed maximum -/
  | vmax (x : Issue) (w : BitVec 2) (vd : BitVec 5) (vs1 : BitVec 5) (vs2 : BitVec 5)
  /-- VMAXU (R97): Vector unsigned maximum -/
  | vmaxu (x : Issue) (w : BitVec 2) (vd : BitVec 5) (vs1 : BitVec 5) (vs2 : BitVec 5)
  /-- VCMPEQ (R97): Vector equal compare -/
  | vcmpeq (x : Issue) (w : BitVec 2) (vd : BitVec 5) (vs1 : BitVec 5) (vs2 : BitVec 5)
  /-- VCMPLT (R97): Vector signed less-than compare -/
  | vcmplt (x : Issue) (w : BitVec 2) (vd : BitVec 5) (vs1 : BitVec 5) (vs2 : BitVec 5)
  /-- VCMPLTU (R97): Vector unsigned less-than compare -/
  | vcmpltu (x : Issue) (w : BitVec 2) (vd : BitVec 5) (vs1 : BitVec 5) (vs2 : BitVec 5)
  /-- VSEL (R97): Bitwise select under vs3 -/
  | vsel (x : Issue) (vd : BitVec 5) (vs1 : BitVec 5) (vs2 : BitVec 5) (vs3 : BitVec 5)
  /-- VPERMB (R97): Byte permute -/
  | vpermb (x : Issue) (vd : BitVec 5) (vs1 : BitVec 5) (vs2 : BitVec 5)
  /-- VBCAST (R97): Broadcasts a general register to every lane -/
  | vbcast (x : Issue) (w : BitVec 2) (vd : BitVec 5) (vs1 : BitVec 5)
  /-- VINS (R98): Inserts a general register into lane n -/
  | vins (x : Issue) (w : BitVec 2) (vd : BitVec 5) (vs1 : BitVec 5) (n : BitVec 5)
  /-- VEXT (R98): Extracts lane n into a general register -/
  | vext (x : Issue) (w : BitVec 2) (vd : BitVec 5) (vs1 : BitVec 5) (n : BitVec 5)
  /-- VREDADD (R97): Sums all lanes into a general register -/
  | vredadd (x : Issue) (w : BitVec 2) (vd : BitVec 5) (vs1 : BitVec 5)
  /-- SYSRD (R99): Reads a system register, subject to the level and trap checks -/
  | sysrd (x : Issue) (rd : BitVec 5) (num : BitVec 16)
  /-- SYSWR (R99): Writes a system register, subject to the level and trap checks; serialising -/
  | syswr (x : Issue) (num : BitVec 16) (rs1 : BitVec 5)
  /-- PDT_WRITE (R120): A write of SYS.PDT clears histories and, with CLR_ON_SWITCH, the prediction state of the old tag -/
  | pdtWrite (x : Issue) (rs1 : BitVec 5)
  /-- MATTR_WRITE (R153): A write of SYS.MATTR or SYS.S2MATTR retypes every later access -/
  | mattrWrite (x : Issue) (s2 : Bool) (rs1 : BitVec 5)
  /-- SPAN_REGISTER_WRITE (R201): A write of a span register takes effect for every later access and removes that span's dirty-log entries -/
  | spanRegisterWrite (x : Issue) (s2 : Bool) (n : BitVec 4) (part : BitVec 2) (rs1 : BitVec 5)
  /-- TIMER_REGISTER_WRITE (R312): A write of SYS.TMRCMP or SYS.TMRCTL may withdraw a timer request that has not been accepted -/
  | timerRegisterWrite (x : Issue) (lvl : Fin 3) (ctl : Bool) (rs1 : BitVec 5)
  /-- IEOI_WRITE (R306): A write of SYS.IEOI ends service of a vector at the current level and world -/
  | ieoiWrite (x : Issue) (lvl : Fin 3) (rs1 : BitVec 5)
  /-- VCPU_ENABLE (R314): Setting SYS.VCPU.EN reads NOTICE and VSERV from the virtual interrupt record -/
  | vcpuEnable (x : Issue) (rs1 : BitVec 5)
  /-- VCPU_WRITEBACK (R316): Clearing EN or changing ADDR writes the virtual state back to the old record -/
  | vcpuWriteback (x : Issue) (rs1 : BitVec 5)
  /-- FENCE_L (R165): Orders earlier loads before later loads -/
  | fenceL (x : Issue)
  /-- FENCE_S (R165): Orders earlier stores before later stores and closes the merge buffer -/
  | fenceS (x : Issue)
  /-- FENCE_LS (R166): Orders all earlier accesses before all later ones -/
  | fenceLs (x : Issue)
  /-- FENCE_I (R139): Drains stores and discards the loop buffer before later fetches -/
  | fenceI (x : Issue)
  /-- CMO_CLEAN_VA (R231): Writes a dirty line to memory in every cache and keeps the copies clean -/
  | cmoCleanVa (x : Issue) (rs1 : BitVec 5)
  /-- CMO_INV_VA (R231): Removes every copy of a line and discards dirty data -/
  | cmoInvVa (x : Issue) (rs1 : BitVec 5)
  /-- CMO_CLINV_VA (R231): Writes dirty data to memory and removes every copy -/
  | cmoClinvVa (x : Issue) (rs1 : BitVec 5)
  /-- CMO_CLEAN_SW (R233): Cleans one set and way of a local cache -/
  | cmoCleanSw (x : Issue) (rs1 : BitVec 5)
  /-- CMO_INV_SW (R233): Invalidates one set and way, discarding dirty data only at L3 -/
  | cmoInvSw (x : Issue) (rs1 : BitVec 5)
  /-- CMO_CLINV_SW (R233): Cleans and invalidates one set and way -/
  | cmoClinvSw (x : Issue) (rs1 : BitVec 5)
  /-- CMO_PRELOAD (R235): Places a line in a locked way of its home slice and returns a status -/
  | cmoPreload (x : Issue) (rd : BitVec 5) (rs1 : BitVec 5)
  /-- TINV_VA (R206): Removes the local translations of one page -/
  | tinvVa (x : Issue) (rs1 : BitVec 5) (rs2 : BitVec 5)
  /-- TINV_ASID (R206): Removes the local non-global translations of an ASID -/
  | tinvAsid (x : Issue) (rs1 : BitVec 5)
  /-- TINV_VMID (R206): Removes every local entry of a VMID -/
  | tinvVmid (x : Issue) (rs1 : BitVec 5)
  /-- TINV_IPA (R206): Removes stage-2 entries of an IPA page and the final translations of its VMID -/
  | tinvIpa (x : Issue) (rs1 : BitVec 5) (rs2 : BitVec 5)
  /-- TINV_ALL (R206): Removes every local entry in scope and the dirty-log entries -/
  | tinvAll (x : Issue)
  /-- TSYNC (R207): Completes when every earlier TINV and walk on the core has finished -/
  | tsync (x : Issue)
  /-- PRED_FLUSH (R121): Clears the current world's prediction state -/
  | predFlush (x : Issue)
  /-- PRED_BAR (R122): Bars prediction at the current level -/
  | predBar (x : Issue)
  /-- PRED_UNBAR (R122): Ends the prediction bar -/
  | predUnbar (x : Issue)
  /-- SCALL (R102): Raises SCALL -/
  | scall (x : Issue)
  /-- HCALL (R103): Raises HCALL to L2 -/
  | hcall (x : Issue)
  /-- TCALL (R275): Raises TCALL to L3, or TRAPPED_SYS when trapped, or returns −16 while trusted services are unavailable -/
  | tcall (x : Issue)
  /-- ERET (R274): Returns from an exception to the saved level, world and pc -/
  | eret (x : Issue)
  /-- WFI (R306): Waits until an interrupt becomes deliverable -/
  | wfi (x : Issue)
  /-- WFQ (R335): Waits for the queue latch or a deliverable interrupt, then clears the latch -/
  | wfq (x : Issue)
  /-- BREAK (R102): Raises BREAK -/
  | break (x : Issue)
  /-- LKENTER (R289): Enters a locket thread slot, or returns a status -/
  | lkenter (x : Issue) (rd : BitVec 5) (rs1 : BitVec 5)
  /-- LKEXIT (R290): Leaves the locket, sets the slot FRESH and returns to after LKENTER -/
  | lkexit (x : Issue)
  /-- LKREPORT (R293): Queues a Hallmark report request at the SEC -/
  | lkreport (x : Issue) (rd : BitVec 5) (rs1 : BitVec 5) (rs2 : BitVec 5)
  /-- QPUT (R106): Sends a one-word message to a queue and returns a status -/
  | qput (x : Issue) (rd : BitVec 5) (rs1 : BitVec 5) (rs2 : BitVec 5)
  /-- QPUTM (R107): Sends a message of 1 to 64 words read from memory -/
  | qputm (x : Issue) (rd : BitVec 5) (rs1 : BitVec 5) (rs2 : BitVec 5) (n : BitVec 6)
  /-- QGET (R331): Takes the word at the head of a queue, or EMPTY -/
  | qget (x : Issue) (rd : BitVec 5) (rs1 : BitVec 5) (bad : Bool)
  /-- DOORBELL (R317): Reads a descriptor and sends it to the STW stop, returning the count of targets or a status -/
  | doorbell (x : Issue) (rd : BitVec 5) (rs1 : BitVec 5)
  /-- INTERRUPT_ACCEPT (R133): At a commit boundary the core accepts a deliverable interrupt and runs the entry sequence -/
  | interruptAccept (core : BitVec 8) (late : List LateInt)
  /-- L2_PORT_ESCALATION (R131): After 32 ungranted cycles the instruction class is granted ahead of data -/
  | l2PortEscalation (core : BitVec 8)
  /-- L2PORT_PF_DROP (R132): A prefetch that has waited 256 cycles is dropped and counted -/
  | l2portPfDrop (core : BitVec 8)
  /-- L2_PREFETCH (R217): The L2 prefetcher issues a Normal-WB read within the page that trained it -/
  | l2Prefetch (core : BitVec 8) (line : BitVec 6)
  /-- PMC_OVERFLOW (R147): A counter wraps, sets its PMOVF bit and may raise the overflow interrupt -/
  | pmcOverflow (core : BitVec 8) (n : Fin 10)
  /-- MERGE_BUFFER_WRITEOUT (R169): A merge-buffer entry is written out when full, displaced, aged or closed -/
  | mergeBufferWriteout (core : BitVec 8) (i : Fin 8)
  /-- COMMITTED_STORE_FAILURE (R180): A committed store that gets an error or times out is not written, is logged and raises MC_NOTIFY -/
  | committedStoreFailure (core : BitVec 8) (i : Fin 8) (status : BitVec 8)
  /-- PAGE_WALK (R190): A TLB miss starts a table walk through the L2 that ends in a leaf or a fault -/
  | pageWalk (core : BitVec 8) (va : BitVec 64) (acc : Acc)
  /-- AD_MARK_UPDATE (R196): At commit the core sets A or D in a table entry by compare-and-update, re-executing on failure -/
  | adMarkUpdate (core : BitVec 8) (va : BitVec 64) (acc : Acc)
  /-- SPAN_MARK_UPDATE (R200): At commit the core sets A or D in the span descriptor and register, or raises SPAN_FAULT -/
  | spanMarkUpdate (core : BitVec 8) (va : BitVec 64) (acc : Acc)
  /-- DIRTY_LOG_SET (R202): The first committed write to a logged 2 MiB chunk ORs its bit into the bitmap -/
  | dirtyLogSet (core : BitVec 8) (va : BitVec 64)
  /-- RD_SHARED (R220): The home supplies a line in S or E, snooping an owner if needed -/
  | rdShared (h : Hdr) (pa : BitVec 52) (instr : Bool) (err : SliceErr)
  /-- RD_UNIQUE (R220): The home invalidates every other copy and supplies the line in M or E -/
  | rdUnique (h : Hdr) (pa : BitVec 52)
  /-- RD_NC (R220): An uncached read; the home cleans a dirty owner and returns data without adding an entry -/
  | rdNc (h : Hdr) (pa : BitVec 52) (count : BitVec 7)
  /-- WR_LINE (R220): A whole-line write or dirty victim, handled by the home and memory -/
  | wrLine (h : Hdr) (pa : BitVec 52) (data : BitVec 512) (victim : Bool)
  /-- WR_PARTIAL (R498): A partial write, merged at the home or by read-merge-write at the controller -/
  | wrPartial (h : Hdr) (pa : BitVec 52) (data : BitVec 512) (mask : BitVec 64)
  /-- VICTIM_CLEAN (R227): A clean L2 victim updates the directory and is accepted or declined by the L3 slice -/
  | victimClean (h : Hdr) (pa : BitVec 52) (err : SliceErr)
  /-- ATOMIC (R220): A Normal-NC atomic performed at the home slice -/
  | atomic (h : Hdr) (pa : BitVec 52) (op : BitVec 4) (form : AtomicForm) (operand : BitVec 128) (compare : BitVec 128)
  /-- MSG (R328): A queue station checks and appends a message, or refuses it -/
  | msg (h : Hdr) (handle : BitVec 32) (words : List (BitVec 56)) (more : Bool) (part1 : Bool)
  /-- QREAD (R331): A queue station returns the head word and manages the claim -/
  | qread (h : Hdr) (handle : BitVec 32) (bad : Bool)
  /-- INT (R303): An INT reaches an LIU and sets or merges a pending bit, or sets the queue latch -/
  | int (path : IntPath) (world : Bool) (vec : BitVec 9) (prio : BitVec 4) (lvl : BitVec 2)
  /-- DOORBELL_PACKET (R318): The STW stop checks a doorbell, loads the counter and fans out INTs -/
  | doorbellPacket (h : Hdr) (mask : BitVec 256) (aux : BitVec 32)
  /-- CMO_CLEAN (R231): The home cleans a line chip-wide -/
  | cmoClean (h : Hdr) (pa : BitVec 52)
  /-- CMO_INV (R231): The home invalidates a line chip-wide -/
  | cmoInv (h : Hdr) (pa : BitVec 52)
  /-- CMO_CLINV (R231): The home cleans and invalidates a line chip-wide -/
  | cmoClinv (h : Hdr) (pa : BitVec 52)
  /-- PRELOAD (R235): The home installs a line in a locked slot and acknowledges with a status -/
  | preload (h : Hdr) (pa : BitVec 52)
  /-- SNP_SHARED (R222): A snooped L2 downgrades its copy and supplies data or acknowledges -/
  | snpShared (core : BitVec 8) (pa : BitVec 52)
  /-- SNP_INV (R222): A snooped L2 invalidates its copy and returns dirty data or acknowledges -/
  | snpInv (core : BitVec 8) (pa : BitVec 52)
  /-- RSP_DATA (R260): A data response completes the open transaction whose TAG and GEN match, or is discarded as late -/
  | rspData (i : Fin 272) (tag : BitVec 12) (gen : BitVec 4) (latency : BitVec 32) (granted : BitVec 2) (dpoison : BitVec 2)
  /-- RSP_ACK (R260): An acknowledgement completes the matching transaction -/
  | rspAck (i : Fin 272) (tag : BitVec 12) (gen : BitVec 4) (latency : BitVec 32) (code : BitVec 8)
  /-- RSP_ERR (R262): An error response ends the matching transaction with the outcome of R262 -/
  | rspErr (i : Fin 272) (tag : BitVec 12) (gen : BitVec 4) (latency : BitVec 32) (status : BitVec 8)
  /-- WAKE_PAUSE (R267): Stops the initiator's timer for a held transaction -/
  | wakePause (i : Fin 272) (tag : BitVec 12) (gen : BitVec 4)
  /-- WAKE_RESUME (R267): Restarts the initiator's timer for a transaction that was held -/
  | wakeResume (i : Fin 272) (tag : BitVec 12) (gen : BitVec 4)
  /-- BAD_CMD_RECEIVED (R251): An agent receiving a command not meant for it answers BAD_CMD and logs it -/
  | badCmdReceived (stop : Stop) (port : BitVec 2) (h : Hdr) (cmd : BitVec 8)
  /-- NO_AGENT_ANSWER (R21): A router answers a packet for a port without an agent with NO_AGENT and records it -/
  | noAgentAnswer (stop : Stop) (port : BitVec 2) (h : Hdr) (cmd : BitVec 8) (pa : BitVec 52)
  /-- FLIT_CRC_MISMATCH (R246): A receiver finds a CRC mismatch, discards flits and sends a negative acknowledgement -/
  | flitCrcMismatch (l : LinkId) (lseq : BitVec 8)
  /-- LINK_RETRY (R246): A sender receiving a negative acknowledgement resends from that flit, and fails the link after eight failed replays -/
  | linkRetry (l : LinkId) (lseq : BitVec 8) (failed : Bool)
  /-- AGE_STEP (R255): A packet waiting STEP mesh cycles without winning has its AGE raised -/
  | ageStep (stop : Stop) (q : InputVc)
  /-- TRANSACTION_TIMEOUT (R261): An initiator's timer expires and it synthesizes RSP_ERR TIMEOUT and quarantines the tag -/
  | transactionTimeout (i : Fin 272) (tag : BitVec 12) (performed : Bool)
  /-- TAG_QUARANTINE_RELEASE (R261): A quarantined tag is released after 15 further periods of its class -/
  | tagQuarantineRelease (i : Fin 272) (tag : BitVec 12)
  /-- SNOOP_TIMEOUT (R263): A home's snoop expires and the home removes the core and completes with poisoned or acknowledged data -/
  | snoopTimeout (core : BitVec 8) (pa : BitVec 52)
  /-- ROUTER_WAKE_HOLD (R265): A router holds a packet for a domain not ON, raises a wake and sends WAKE_PAUSE -/
  | routerWakeHold (dom : Fin 417) (h : Hdr) (what : Announced)
  /-- WAKE_LIMIT_EXPIRY (R266): The domain is not ON within WAKE_LIMIT and held packets are answered WAKE_FAIL -/
  | wakeLimitExpiry (dom : Fin 417)
  /-- STAT_WINDOW_END (R269): WINDOW µs pass and the statistics are copied and cleared -/
  | statWindowEnd
  /-- STAT_SNAP (R269): A write of SNAP = 1 ends the statistics window at once -/
  | statSnap (r : Req)
  /-- WAY_POWER_REQUEST (R237): A write of L3.WAYPWR.REQ starts powering ways up or down, or is refused -/
  | wayPowerRequest (r : Req) (n : BitVec 7) (ways : BitVec 8)
  /-- WAY_POWER_CHANGE_DONE (R237): One way finishes its power change and the next changed way begins -/
  | wayPowerChangeDone (n : BitVec 7)
  /-- L3_LOCK_WRITE (R238): A write of L3.LOCK locks ways and stops any power-down of them -/
  | l3LockWrite (r : Req) (n : BitVec 7) (ways : BitVec 12)
  /-- WAY_DISABLE (R242): A way reaching its error threshold is cleaned, invalidated and disabled, or the disable is refused -/
  | wayDisable (l3 : Bool) (idx : BitVec 8) (way : BitVec 4)
  /-- WAY_ERROR_WINDOW_END (R242): A fixed error window ends and each way's count is cleared -/
  | wayErrorWindowEnd (l3 : Bool) (idx : BitVec 8)
  /-- ARRAY_INIT_DONE (R240): An array finishes invalidation and sets its INIT_DONE bit, releasing held requests -/
  | arrayInitDone (a : ArrayId)
  /-- LK_CREATE (R285): Creates a locket in state BUILDING with a fresh key -/
  | lkCreate (core : BitVec 8)
  /-- LK_ADD_RANGE (R286): Takes pages into a building locket, fills them and extends the measurement -/
  | lkAddRange (core : BitVec 8)
  /-- LK_INIT (R285): Freezes the measurement and makes the locket READY -/
  | lkInit (core : BitVec 8)
  /-- LK_DESTROY (R288): Marks the locket DYING and starts its scrub -/
  | lkDestroy (core : BitVec 8)
  /-- LOCKET_SCRUB_DONE (R288): The SEC finishes the scrub, frees the locket and raises vector 5 -/
  | locketScrubDone (l : BitVec 12)
  /-- LK_STATUS (R285): Returns the locket's state, pages and running threads -/
  | lkStatus (core : BitVec 8)
  /-- LK_ASSIGN (R285): Assigns a Data Mover channel or device context to the locket -/
  | lkAssign (core : BitVec 8)
  /-- HALLMARK_REPORT_COMPLETE (R293): The SEC writes the signed report under the locket key, STATUS last -/
  | hallmarkReportComplete (l : BitVec 12) (slot : BitVec 8)
  /-- OWNERSHIP_INVALIDATION (R281): The SEC invalidates an extent at every checking agent and changes the owner after every acknowledgement -/
  | ownershipInvalidation (first : BitVec 40) (last : BitVec 40)
  /-- KEYPART_WRITE (R282): A write of SEC.KEYPART repartitions key IDs, unless a locket exists or the split is invalid -/
  | keypartWrite (r : Req) (value : BitVec 32)
  /-- GENERATE (R284): A KEYCMD write with OP GENERATE starts a key change for a key ID, or is denied -/
  | generate (r : Req) (keyid : BitVec 12)
  /-- KEY_GENERATE_COMPLETE (R284): The SEC discards the key ID's cached lines, installs a fresh key and sets STATUS -/
  | keyGenerateComplete
  /-- TWRANGE_WRITE (R278): A write of SEC.TWRANGEk sets a TRUSTED range, or is refused with REFUSED -/
  | twrangeWrite (r : Req) (k : BitVec 4) (hi : Bool) (value : BitVec 64)
  /-- TWDOG_KICK (R295): A trusted-world write to SEC.TWDOG restarts the watchdog period -/
  | twdogKick (r : Req)
  /-- AVAIL_WRITE (R295): A trusted-world write of AVAIL makes services available, or with 0 acts as expiry -/
  | availWrite (r : Req) (v : Bool)
  /-- TRUSTED_WATCHDOG_EXPIRY (R297): The watchdog expires and trusted services become unavailable with the outcomes of R297 -/
  | trustedWatchdogExpiry
  /-- TRUSTED_RESTART (R298): The Steward reloads the trusted world and redirects one core into L3 -/
  | trustedRestart (own : Bool)
  /-- EXTEST (R300): TAP EXTEST, effective only while the cores are held in reset -/
  | extest
  /-- IDCODE (R300): TAP IDCODE -/
  | idcode
  /-- SAMPLE_PRELOAD (R300): TAP SAMPLE/PRELOAD -/
  | samplePreload
  /-- CLAMP (R300): TAP CLAMP, effective as EXTEST -/
  | clamp
  /-- HIGHZ (R300): TAP HIGHZ, effective as EXTEST -/
  | highz
  /-- BYPASS (R300): TAP BYPASS, and every unaccepted instruction -/
  | bypass
  /-- DEBUG_HALT (R457): On QTR-9256-E a halt request stops a core, first exiting any locket -/
  | debugHalt (core : BitVec 8)
  /-- INTERNAL_SCAN_ENTRY (R301): On QTR-9256-E entry into internal scan zeroes every key -/
  | internalScanEntry
  /-- DEBUG_MEMORY_ACCESS (R457): A debug-port memory access acts with WORLD 1, VMID 0xFFFF and LOCKET 0 -/
  | debugMemoryAccess (pa : BitVec 52) (write : Option (BitVec 64))
  /-- MSI (R307): An MSI write selects a routing entry and is turned into an INT, or dropped -/
  | msi (p : BitVec 3) (rid : BitVec 16) (data : BitVec 32)
  /-- VIRTUAL_INTERRUPT_DELIVERY (R313): A source stop marks a virtual vector in the record and sends a notice when its class is new -/
  | virtualInterruptDelivery (src : IntSrc) (vec : BitVec 9)
  /-- ROUTING_ENTRY_WRITE (R309): A write to a routing entry is accepted or ignored with DENIED -/
  | routingEntryWrite (r : Req) (src : IntSrc) (hi : Bool) (value : BitVec 64)
  /-- CORE_TIMER_DUE (R312): SYS.TIME reaches CMP and the timer holds its vector-1 request, waking a sleeping core -/
  | coreTimerDue (core : BitVec 8) (timer : Fin 4)
  /-- GATHER_ACK (R320): A store to STW.GACKk decrements the counter and sends GATHER_DONE at zero -/
  | gatherAck (r : Req) (k : BitVec 6)
  /-- QCFG_WRITE (R324): A write of QSs.QCFGk enables, changes or empties a queue, or refuses the enable -/
  | qcfgWrite (r : Req) (t : BitVec 7) (k : BitVec 9) (value : BitVec 64)
  /-- REASSEMBLY_TIMEOUT (R329): A held part 0 without a part 1 for 1 ms is discarded and recorded -/
  | reassemblyTimeout (t : BitVec 7) (buf : BitVec 2)
  /-- CLAIM_BREAK (R332): A claim holder making no QGET for 100 µs loses the claim and the rest of the message -/
  | claimBreak (t : BitVec 7) (k : BitVec 9)
  /-- APERTURE_PUT (R336): A device or host write to a queue slot is sent as one message -/
  | aperturePut (p : BitVec 3) (via : ApVia) (handle : BitVec 32) (words : List (BitVec 64)) (poisoned : Bool)
  /-- APERTURE_GET (R336): A device or host 8-byte read at slot offset 0x100 performs one QGET -/
  | apertureGet (p : BitVec 3) (via : ApVia) (handle : BitVec 32) (bad : Bool)
  /-- DM_CHANNEL_ENABLE (R339): Setting CHc_CTL.EN starts the channel taking descriptors, or leaves EN 0 with ERR 0x1 -/
  | dmChannelEnable (r : Req) (d : Fin 2) (c : BitVec 5) (sq : BitVec 32)
  /-- DM_CHANNEL_DISABLE (R339): Clearing EN stops the channel once the descriptor in progress completes -/
  | dmChannelDisable (r : Req) (d : Fin 2) (c : BitVec 5)
  /-- DM_CHANNEL_RESUME (R344): A write of HALTED = 1 resumes a halted channel -/
  | dmChannelResume (r : Req) (d : Fin 2) (c : BitVec 5)
  /-- DM_TINV (R340): A write of DMd.TINV invalidates every TLB entry of that Data Mover -/
  | dmTinv (r : Req) (d : Fin 2)
  /-- COPY (R342): A COPY descriptor copies LENGTH bytes from SRC to DST -/
  | copy (d : Fin 2) (c : BitVec 5) (bad : Bool)
  /-- FILL (R342): A FILL descriptor writes PATTERN repeatedly to DST -/
  | fill (d : Fin 2) (c : BitVec 5) (bad : Bool)
  /-- ZERO (R342): A ZERO descriptor writes zeros to DST -/
  | zero (d : Fin 2) (c : BitVec 5) (bad : Bool)
  /-- CRC32C (R342): A CRC32C descriptor computes the checksum of SRC -/
  | crc32c (d : Fin 2) (c : BitVec 5) (bad : Bool)
  /-- REKEY (R343): A REKEY descriptor copies from the source key to the destination key -/
  | rekey (d : Fin 2) (c : BitVec 5) (bad : Bool)
  /-- DESCRIPTOR_COMPLETE (R344): A descriptor's writes become visible and its completion message is sent, halting the channel on failure -/
  | descriptorComplete (d : Fin 2) (c : BitVec 5)
  /-- COMPLETION_RETRY (R345): A completion put refused FULL or BUSY is retried every 1 µs -/
  | completionRetry (d : Fin 2) (c : BitVec 5)
  /-- PATROL_SCRUB_READ (R355): The controller reads, corrects and writes back the next line of its patrol pass -/
  | patrolScrubRead (n : BitVec 4) (found : DramErr)
  /-- MC_REFRESH (R357): A channel starts an all-bank refresh at its grid instant -/
  | mcRefresh (n : BitVec 4)
  /-- DIMM_TEMPERATURE_CHANGE (R358): A DIMM temperature crossing a threshold changes refresh rate or bandwidth limits -/
  | dimmTemperatureChange (n : BitVec 4) (slot : Bool) (celsius : BitVec 8)
  /-- SOFT_PPR (R360): A row reaching PPR_THRESH is repaired by sPPR with its lines rewritten -/
  | softPpr (n : BitVec 4) (row : DramRow) (spare : Bool)
  /-- RANK_COPY_START (R361): A rank reaching SPARE_THRESH starts copying to the spare rank -/
  | rankCopyStart (n : BitVec 4) (rank : BitVec 3)
  /-- RANK_COPY_DONE (R361): The copy finishes and the spare is mapped in place of the failing rank -/
  | rankCopyDone (n : BitVec 4)
  /-- MIRROR_CHANNEL_FAIL (R362): A channel of a mirrored pair fails and the pair runs on the survivor -/
  | mirrorChannelFail (n : BitVec 4)
  /-- MIRROR_REBUILD_DONE (R362): A retrained channel finishes its rebuild and serves reads again -/
  | mirrorRebuildDone (n : BitVec 4)
  /-- INBOUND_REQUEST (R373): An inbound TLP is translated, checked and sent on the mesh with its context identity -/
  | inboundRequest (p : BitVec 3) (rp : BitVec 2) (t : Tlp)
  /-- ATS_TRANSLATION_REQUEST (R375): The IOTU answers a Translation Request from the context's tables -/
  | atsTranslationRequest (p : BitVec 3) (rp : BitVec 2) (rid : BitVec 16) (addr : BitVec 52) (write : Bool)
  /-- INV_RID (R376): Removes the IOTU entries of one requester ID -/
  | invRid (p : BitVec 3)
  /-- INV_RANGE (R376): Removes the IOTU entries of a page range of one requester ID -/
  | invRange (p : BitVec 3)
  /-- INV_ALL (R376): Removes every IOTU entry -/
  | invAll (p : BitVec 3)
  /-- ATS_INV (R376): Sends an ATS Invalidate Request and completes on the device's completion -/
  | atsInv (p : BitVec 3)
  /-- ATS_INV_TIMEOUT (R376): An ATS_INV without completion for 100 ms clasps the root port and completes -/
  | atsInvTimeout (p : BitVec 3)
  /-- WAIT (R376): Writes 4 bytes of data after every earlier command completes -/
  | wait (p : BitVec 3)
  /-- ICQ_UNKNOWN_OP (R376): An unknown OP stops HEAD and sets ICQ_STAT.BADOP -/
  | icqUnknownOp (p : BitVec 3)
  /-- ICQ_SKIP (R377): A write of 1 to BADOP skips the unknown command and resumes -/
  | icqSkip (r : Req) (p : BitVec 3)
  /-- COMPLETION_TIMEOUT (R371): An outbound request's completion timeout expires and the initiator receives TARGET_ERR -/
  | completionTimeout (p : BitVec 3) (rp : BitVec 2) (i : Fin 272) (tag : BitVec 12)
  /-- L0P_IDLE_EXPIRY (R372): After L0P_IDLE of idleness the link narrows by L0p -/
  | l0pIdleExpiry (p : BitVec 3) (rp : BitVec 2)
  /-- L1_IDLE_EXPIRY (R372): After L1_IDLE of idleness the link enters L1 or L1.2 -/
  | l1IdleExpiry (p : BitVec 3) (rp : BitVec 2)
  /-- LINK_ACTIVITY_WAKE (R404): Link activity on a root port in L1 wakes the port's domain -/
  | linkActivityWake (p : BitVec 3)
  /-- SURPRISE_LINK_DOWN (R380): A link leaving its active states without Link Disable clasps the root port -/
  | surpriseLinkDown (p : BitVec 3) (rp : BitVec 2)
  /-- ROOT_PORT_UNCORRECTABLE (R380): An uncorrectable error at the root port clasps it -/
  | rootPortUncorrectable (p : BitVec 3) (rp : BitVec 2)
  /-- ERR_FATAL (R380): Receipt of ERR_FATAL clasps the root port -/
  | errFatal (p : BitVec 3) (rp : BitVec 2)
  /-- LINK_DISABLE (R380): A software Link Disable clasps the root port -/
  | linkDisable (p : BitVec 3) (rp : BitVec 2)
  /-- FORCE (R381): A write of FORCE clasps the root port with reason SOFTWARE -/
  | force (r : Req) (p : BitVec 3) (rp : BitVec 2)
  /-- RELEASE (R381): A write of RELEASE leaves clasp when the link is up, or is refused -/
  | release (r : Req) (p : BitVec 3) (rp : BitVec 2) (trigger : Option ClaspReason)
  /-- LINK_UP (R381): An inserted device is detected and trains while clasped, setting LINKUP -/
  | linkUp (p : BitVec 3) (rp : BitVec 2)
  /-- EP_MSIX_SEND (R383): A chip-side write of IOp.EP_MSIX sends an MSI-X message to the host -/
  | epMsixSend (r : Req) (p : BitVec 3) (func : BitVec 5) (vec : BitVec 5)
  /-- BAR2_ACCESS (R384): A host BAR2 access is decoded through the window entries -/
  | bar2Access (p : BitVec 3) (func : BitVec 5) (off : BitVec 40) (len : BitVec 10) (write : Option (List (BitVec 8)))
  /-- EXPANSION_ROM_READ (R386): A host read of the expansion ROM window reads chip memory under key ID 0 -/
  | expansionRomRead (p : BitVec 3) (off : BitVec 20) (len : BitVec 10)
  /-- HOST_APERTURE_REQUEST (R385): A chip request to the host aperture is sent through its slice, or ends TARGET_ERR -/
  | hostApertureRequest (h : Hdr) (pa : BitVec 52) (write : Bool)
  /-- FLR_START (R389): A Function Level Reset snuffs DMA of the functions concerned within 2 µs -/
  | flrStart (p : BitVec 3) (func : BitVec 5)
  /-- FLR_DONE (R389): The functions' configuration state is reset and FLR_DONE is reported -/
  | flrDone (p : BitVec 3) (func : BitVec 5)
  /-- PERST_ASSERT (R390): PERST# assertion resets every function of the endpoint port -/
  | perstAssert (p : BitVec 3)
  /-- PERST_DEASSERT (R390): PERST# deassertion lets the endpoint link train again -/
  | perstDeassert (p : BitVec 3)
  /-- LINK_DOWN (R390): Loss of the endpoint link resets every function as for PERST# -/
  | linkDown (p : BitVec 3)
  /-- BME_CLEAR (R387): The host clears Bus Master Enable and the event is reported -/
  | bmeClear (p : BitVec 3) (func : BitVec 5)
  /-- NUMVF_CHANGE (R387): The host changes NumVFs and the event is reported -/
  | numvfChange (p : BitVec 3) (num : BitVec 5)
  /-- CANDLE_WRITE (R395): A write of a candle lights or changes it, possibly requesting a wake -/
  | candleWrite (r : Req) (k : BitVec 12) (value : BitVec 32)
  /-- CANDLE_FREE (R396): A write of FREE unlights the candle and clears ALLOC -/
  | candleFree (r : Req) (k : BitVec 12)
  /-- CALLOC_READ (R396): A read of PWR.CALLOC allocates the lowest free candle of the reader's world -/
  | callocRead (r : Req)
  /-- NOP (R400): Legacy command with no effect -/
  | nop (r : Req) (cls : BitVec 4) (idx : BitVec 12)
  /-- UP (R400): Sets the legacy candle to the domain at ON -/
  | up (r : Req) (cls : BitVec 4) (idx : BitVec 12)
  /-- RETAIN (R400): Sets the legacy candle to the domain at RET -/
  | retain (r : Req) (cls : BitVec 4) (idx : BitVec 12)
  /-- DOWN (R400): Unlights the legacy candle when it names the domain -/
  | down (r : Req) (cls : BitVec 4) (idx : BitVec 12)
  /-- LEGACY_BUSY_TIMEOUT (R400): BUSY of PWR.LEGACY_CMD clears after 1 ms when the domain has not reached the candle's state -/
  | legacyBusyTimeout
  /-- HYSTERESIS_EXPIRY (R394): A domain's hold has been absent for its hysteresis time and it may leave ON -/
  | hysteresisExpiry (dom : Fin 417)
  /-- POWER_ENTRY_START (R401): A target deeper than STATE starts the entry sequence of the domain -/
  | powerEntryStart (dom : Fin 417)
  /-- POWER_ENTRY_COMMIT (R401): The entry reaches its last step and STATE becomes RET or OFF -/
  | powerEntryCommit (dom : Fin 417)
  /-- POWER_WAKE_START (R405): A wake request starts the bring-up of a domain -/
  | powerWakeStart (dom : Fin 417) (src : WakeSrc)
  /-- POWER_WAKE_COMPLETE (R405): The domain reaches ON, a core restores its state, and held packets are forwarded -/
  | powerWakeComplete (dom : Fin 417) (restoreOk : Bool)
  /-- GPIO_INPUT_CHANGE (R404): A sampled GPIO level or edge wakes or holds the domain its GPWAKE names -/
  | gpioInputChange (pin : Fin 24) (level : Bool) (window : Bool)
  /-- RT_PPS_EDGE (R414): A PPS rising edge anchors or disciplines RTCNT -/
  | rtPpsEdge (frac : BitVec 30)
  /-- PTP_SYNC (R415): An accepted PTP Sync anchors or disciplines RTCNT -/
  | ptpSync (sync : PtpMsg)
  /-- RTU_LOAD (R413): A write of RTU.LOAD anchors RTCNT, or is taken at the next PPS edge -/
  | rtuLoad (r : Req) (value : BitVec 64)
  /-- HOLDOVER_ENTRY (R414): The discipline source is missing past its limit and RTCNT runs in holdover -/
  | holdoverEntry
  /-- SYNC_OUT_PULSE (R416): RT_SYNC_OUT rises at each whole second of RTCNT -/
  | syncOutPulse
  /-- POWER (R418): A Lamplighter POWER action sets or releases a domain's SCHED -/
  | power (k : BitVec 9)
  /-- POWER_WIDTH_END (R418): The WIDTH of the newest POWER firing ends and SCHED_V is cleared -/
  | powerWidthEnd (dom : Fin 417)
  /-- FREQ (R418): A Lamplighter FREQ action replaces a cluster's scheduled ceiling -/
  | freq (k : BitVec 9)
  /-- REFRESH (R422): A Lamplighter REFRESH action opens a refresh quiet window -/
  | refresh (k : BitVec 9)
  /-- REFRESH_WINDOW_END (R422): The quiet window ends and postponed refreshes are issued -/
  | refreshWindowEnd (n : BitVec 4)
  /-- SCRUB (R418): A Lamplighter SCRUB action opens a patrol window -/
  | scrub (k : BitVec 9)
  /-- SNAPSHOT (R423): A Lamplighter SNAPSHOT copies telemetry and may end the mesh statistics window -/
  | snapshot (k : BitVec 9)
  /-- ROUTE_INT (R418): A Lamplighter action sends one INT through an STW routing entry -/
  | routeInt (k : BitVec 9)
  /-- CORE_INT (R418): A Lamplighter action sends vector 3 to a core -/
  | coreInt (k : BitVec 9)
  /-- PKG_POWER (R418): A trusted Lamplighter action replaces the package power setting -/
  | pkgPower (k : BitVec 9)
  /-- SD_UPDATE (R425): Every 100 ns Steady Draw updates G, F, filler and ballast -/
  | sdUpdate (demand : BitVec 32) (power : BitVec 32)
  /-- FATAL_SEQUENCE (R434): A fatal record stops the cores, clasps ports, logs and performs the fatal action -/
  | fatalSequence
  /-- THERMAL_SAMPLE (R441): Sensors are read every 100 µs, raising alert or trip as thresholds are met -/
  | thermalSample (edge : Bool) (idx : BitVec 8) (centi : BitVec 16)
  /-- THERMAL_STEP (R441): Each ms the thermal ceiling and TLIM step down or up -/
  | thermalStep
  /-- DROOP_EVENT (R442): A supply droop below MARGIN halves the cluster clock until recovery -/
  | droopEvent (cl : BitVec 4)
  /-- DROOP_WINDOW_END (R442): Each ms the droop counts step the ceiling and DLIM -/
  | droopWindowEnd
  /-- IFT_GO (R445): A write of GO tests a tile, or returns NOT_ELIGIBLE -/
  | iftGo (r : Req) (tile : BitVec 7) (part : BitVec 2)
  /-- IFT_AUTO_TEST (R445): Every PERIOD hours the Steward tests the next eligible tile -/
  | iftAutoTest
  /-- IFT_COMPLETE (R445): A test ends with PASS restoring the tile, or FAIL fencing it -/
  | iftComplete (fail0 : Bool) (fail1 : Bool) (failUncore : Bool)
  /-- FENCE_REQUEST (R446): A write of RAS.FENCE_REQ.GO fences a core or tile, or returns a refusal -/
  | fenceRequest (r : Req) (tileKind : Bool) (unfence : Bool) (index : BitVec 8)
  /-- RETIRE (R447): A retirement trigger starts moving a slice's hash indices to other slices -/
  | retire (r : Req) (tile : BitVec 7)
  /-- SLICE_RETIRE_DONE (R447): Every remap copy takes the new entries and held requests are released -/
  | sliceRetireDone
  /-- LOG_ENTRY_WRITE (R450): The Steward writes a queued entry to the persistent log, sealing a full bank -/
  | logEntryWrite
  /-- CORRECTED_SUMMARY (R449): Hourly, a corrected summary is logged for banks whose counts changed -/
  | correctedSummary (b : Fin 161)
  /-- REGISTER_WRITE (R11): A write to a register with no row of its own follows the access codes of R11 -/
  | registerWrite (r : Req) (off : BitVec 28) (eight : Bool) (value : BitVec 64)
  /-- SCRUB_WINDOW_END (R355): The WIDTH of a Lamplighter SCRUB window runs out and the controller stops patrol scrubbing on that channel until the next window -/
  | scrubWindowEnd (n : BitVec 4)
  /-- SOFT_PPR_COMPLETE (R360): The soft post-package repair finishes, the row's lines are rewritten and the row is unblocked after about 2 ms -/
  | softPprComplete (n : BitVec 4)
  /-- TWIN_CORE_STOPS_RESPONDING (R438): One core of a twin tile fails its ready bits or stops responding, and the tile hands over to its partner -/
  | twinCoreStopsResponding (core : BitVec 8)
  /-- DROOP_RECOVERY (R442): The cluster supply recovers to within MARGIN of target and the cluster clocks return from half frequency -/
  | droopRecovery (cl : BitVec 4)
  /-- ROOT_PORT_PERST_RELEASE (R490): The chip drives IOp_PERST_L high once phase 4 has ended and 100 ms have passed, or 1 to 2 ms into a warm reset, and the link trains -/
  | rootPortPerstRelease (p : BitVec 3) (rp : BitVec 2)
  /-- RING_OSCILLATOR_COUNT (R443): Once per second each process ring oscillator is counted over 1 ms and its telemetry reading is updated -/
  | ringOscillatorCount (tile : BitVec 7) (count : BitVec 32)
  /-- INVALIDATE_COMPLETION (R376): A device's ATS Invalidate Completion arrives and completes the pending ATS_INV command, advancing ICQ_HEAD -/
  | invalidateCompletion (p : BitVec 3)
  /-- IN_BAND_INTERRUPT_ENABLE (R58): The I3C management controller enables or disables In-Band Interrupts from the chip, deciding whether MB4 completions send an IBI -/
  | inBandInterruptEnable (en : Bool)
  /-- FREQ_SUPPLY_CHANGE (R419): Up to 100 µs before a FREQ action's DUE, the RTU starts the supply and bias change that the new frequency needs -/
  | freqSupplyChange (k : BitVec 9)
deriving DecidableEq, Repr

end Sys2Proof
end

