-- ==== Sys2Proof/Config.lean ====
section
/-! DEFINITION. What an implementation fixes and the spec leaves open: constants without a body, so that no proof can
see their values. A statement about the model holds whatever they are. -/

namespace Sys2Proof

/-- A fresh free value for each counter value: an undefined or unstated result (log entry 2). -/
opaque Config.freeValue : Nat → BitVec 64

/-- How many cycles, or events that only cycles and wrong paths give, pass during an instruction: the draw, and the event's
code (R148, R150, log entry 90). -/
opaque Config.eventCount : Nat → Nat → Nat

/-- What a line written under one key and key generation reads as under another (R216, R364): the stored line, the key
and generation of the write, those of the read, and the line number. -/
opaque Config.xtsMismatch : Line → Nat → Nat → Nat → Nat → Nat → Line

/-- SHA-384 of a byte string; its values are left open (log entry 13). -/
opaque Config.sha384 : List Byte → BitVec 384

/-- HMAC-SHA-384 under the device-unique key of R43, which is never exported. -/
opaque Config.hmac384 : List Byte → BitVec 384

/-- Whether an ECDSA signature on brainpoolP384r1 checks: public key, hash, signature (R43, R44). -/
opaque Config.ecdsaOk : List Byte → BitVec 384 → List Byte → Bool

/-- The signature r ‖ s that a Hallmark key gives a hash (R292, R293). The key is derived from the compound identifier: the
hashes of the four firmware components. -/
opaque Config.hallmarkSign : List (BitVec 384) → BitVec 384 → List Byte
/-- The signature of a digest under a Hallmark key that internal scan has zeroed (R301). -/
opaque Config.hallmarkZero : BitVec 384 → List Byte

/-- The certificates read by GET_SIGNET and put into a report, by index: Hallmark, Signet, Stephor CA; then by byte (R292,
R293). They depend on the part, whose CA issues the Signet, and carry the layer measurements: the ROM and the four
components. -/
opaque Config.certificate : Bool → List (BitVec 384) → Nat → Nat → Byte

/-- Their lengths. -/
opaque Config.certificateLen : Bool → List (BitVec 384) → Nat → Nat

/-- The way an L1 or L2 replaces when none is free: array (0 L1I, 1 L1D, 2 L2), core, set, use count; the spec names
no rule (R213). -/
opaque Config.victimWay : Nat → Nat → Nat → Nat → Nat

/-- The TLB and walk-cache entry replaced when all are in use (R204 names no rule). -/
opaque Config.victimEntry : Nat → Nat → Nat

/-- The layout of GET_INFO RES1, the enabled-core mask summary, which the spec does not give (R62). -/
opaque Config.coreSummary : List Nat → BitVec 64

/-- The layout of GET_BOOTSTAT RES1, the selected banks and their SEQ values, which the spec does not give (R62). -/
opaque Config.bankSummary : Bool → Bool → Nat → Nat → BitVec 64

/-- What a channel's record in a training cache holds: private to the Steward (R496). -/
opaque Config.trainingData : Nat → List Byte

/-- The lines of the block that a save engine writes, by a free value of the save and the line's number: R407 lists what it
holds, a generation number and a CRC-32C among it, and gives no layout. -/
opaque Config.saveLine : BitVec 64 → Nat → Line

/-- The supply of a cluster in mV at a frequency in MHz; the operating points are not given (R409, R443). -/
opaque Config.supply : Nat → Nat → Nat

/-- Package power limit in MHz per cluster that a granted budget allows (R425, R455); the estimate is not given. -/
opaque Config.budgetMHz : Nat → Nat → Nat

/-- The wake power estimate of a domain, in units of 10^-7 W (R426); not given. -/
opaque Config.wakePower : Nat → Nat

/-- What TLIM and DLIM read while they do not bind (R441, R442, R444), in units of 0.01 W. -/
opaque Config.unboundLimit : Nat → BitVec 64

/-- Bytes of PCIe configuration space that the spec leaves to PCIe: port, function, dword (R474). -/
opaque Config.pcieDword : Nat → Nat → Nat → BitVec 32

/-- The dword at which a capability of a function's configuration space begins, extended ones numbered from 0x10000 (R382):
PCIe leaves it to the part. -/
opaque Config.pcieCap : Nat → Nat → Nat

/-- The measurement of the ROM in the Signet identity (R292). -/
opaque Config.romMeasure : BitVec 384

/-- The key ID of an ATS Translated Request to a physical address, by requester ID (R375): the spec does not say where it
comes from. -/
opaque Config.atsKey : Nat → Nat → BitVec 12

/-- Whether a fused multiply-add of infinity and zero with a quiet NaN addend signals invalid: IEEE 754-2019 leaves it to
the implementation (R92). -/
opaque Config.fmaNanInvalid : Bool

/-- Whether a conversion to an integer that drops a fraction raises inexact: IEEE 754-2019 has both forms, and R96 names
neither. -/
opaque Config.toIntInexact : Bool

end Sys2Proof
end

