-- ==== Sys2Proof/Machine/Map.lean ====
section
/-! DEFINITION. Finite maps kept as lists of key and value, with a default for the keys not listed: the form in which
the state holds what the spec gives in large numbers (registers, cores, lines, entries). -/

namespace Sys2Proof.Machine

/-- A finite map as a list of pairs; the first pair of a key counts. -/
abbrev Map (κ α : Type) := List (κ × α)

variable {κ α : Type} [DecidableEq κ]

/-- The value of a key, if one is listed. -/
def Map.find : Map κ α → κ → Option α
  | [], _ => none
  | (j, a) :: m, k => if j = k then some a else Map.find m k

/-- The value of a key, or the default. -/
def Map.getD (m : Map κ α) (k : κ) (d : α) : α := (Map.find m k).getD d

/-- The map with a key's value replaced, in place where the key is listed. -/
def Map.set : Map κ α → κ → α → Map κ α
  | [], k, a => [(k, a)]
  | (j, b) :: m, k, a => if j = k then (k, a) :: m else (j, b) :: Map.set m k a

/-- The map without a key. -/
def Map.erase (m : Map κ α) (k : κ) : Map κ α := m.filter fun p => decide (p.1 ≠ k)

/-- The map with a key's value replaced, or the key removed. -/
def Map.put (m : Map κ α) (k : κ) (a : Option α) : Map κ α := match a with | some v => Map.set m k v | none => Map.erase m k

/-- The map with a key's value changed by a function of its old value. -/
def Map.upd (m : Map κ α) (k : κ) (d : α) (f : α → α) : Map κ α := Map.set m k (f (Map.getD m k d))

/-- The map with only the pairs that a test keeps. -/
def Map.keep (m : Map κ α) (f : κ → α → Bool) : Map κ α := m.filter fun p => f p.1 p.2

/-- The map with every value changed. -/
def Map.mapV (m : Map κ α) (f : κ → α → α) : Map κ α := List.map (fun p => (p.1, f p.1 p.2)) m

/-- The lowest element of a list of numbers that a test accepts. -/
def firstOf (f : Nat → Bool) (l : List Nat) : Option Nat := l.find? f

/-- Whether a test holds of some number below a bound. -/
def anyBelow (n : Nat) (f : Nat → Bool) : Bool := (List.range n).any f

end Sys2Proof.Machine
end

