-- ==== Sys2Proof/Machine/Regs.lean ====
section
/-! DEFINITION. The registers outside the cores (R469-R474) and the core system registers: one constructor of `Reg`
for each 64-bit slot, and for each register its fields with their places, access kinds (R11), reset values and
reserved encodings (R13), as the field tables of the spec give them. -/

namespace Sys2Proof.Machine

/-- Access behaviour of a field (R11). -/
inductive Access where
  | rw | ro | wo | w1c | w1s | rwo | rwt
deriving DecidableEq, Repr

/-- Which values of a field are defined; a write of another value keeps the field (R13). -/
inductive Legal where
  | any
  | ne (v : Nat)
  | le (v : Nat)
  | range (a b : Nat)
  | oneOf (l : List Nat)
deriving DecidableEq, Repr

def Legal.ok : Legal → Nat → Bool
  | .any, _ => true
  | .ne v, n => n != v
  | .le v, n => decide (n ≤ v)
  | .range a b, n => decide (a ≤ n) && decide (n ≤ b)
  | .oneOf l, n => l.contains n

/-- The place of a field: its highest and lowest bit. -/
abbrev Place := Nat × Nat

/-- A field of a register: place, access, reset value, defined values. -/
structure Field where
  at_ : Place
  acc : Access
  reset : Nat
  legal : Legal
deriving DecidableEq, Repr

/-- The field of a word at a place. -/
def getF (w : BitVec 64) (p : Place) : Nat := (w.toNat >>> p.2) % 2 ^ (p.1 - p.2 + 1)

/-- A word with ones at a place. -/
def maskF (p : Place) : BitVec 64 := BitVec.ofNat 64 ((2 ^ (p.1 - p.2 + 1) - 1) <<< p.2)

/-- A word with the field at a place replaced. -/
def setF (w : BitVec 64) (p : Place) (v : Nat) : BitVec 64 :=
  (w &&& ~~~maskF p) ||| (BitVec.ofNat 64 (v <<< p.2) &&& maskF p)

/-- The registers of the Chip Control Space, one constructor for each slot (R471, R472). -/
inductive Reg where
  /-- STW.DEVID (R4): loaded from fuses in phase 1 (R4, R31) -/
  | stwDevid
  /-- STW.BOOTSTAT (R39) -/
  | stwBootstat
  /-- STW.MBn_CMD (R57) -/
  | mbCmd (n : Fin 5)
  /-- STW.MBn_STS (R57) -/
  | mbSts (n : Fin 5)
  /-- STW.MBn_ARGk (R57) -/
  | mbArg (n : Fin 5) (k : Fin 8)
  /-- STW.MBn_RESk (R57) -/
  | mbRes (n : Fin 5) (k : Fin 8)
  /-- STW.INTRTk[63:0] (R308): LEVEL and VECTOR reserved values by R308/R310 -/
  | stwIntLo (k : Fin 256)
  /-- STW.INTRTk[127:64] (R308) -/
  | stwIntHi (k : Fin 256)
  /-- STW.GATHERk (R319) -/
  | gather (k : Fin 64)
  /-- STW.GACKk (R319) -/
  | gack (k : Fin 64)
  /-- PWR.CALLOC (R396) -/
  | calloc
  /-- PWR.LEGACY_CMD (R400): STATUS at [30:28] in the heading table is [27:24]: see R400 -/
  | legacyCmd
  /-- PWR.HYST (R399) -/
  | hyst
  /-- PWR.SAVEBASE (R406) -/
  | savebase
  /-- PWR.CANDLEk (R395): k >= 3840: RWT -/
  | candle (k : Fin 4096)
  /-- PWR.DOMn (R399): STATE, TARGET and ready bits reset per R393 -/
  | dom (n : Fin 417)
  /-- PWR.LTOLn (R398) -/
  | ltol (n : Fin 417)
  /-- PWR.GPWAKEp (R404) -/
  | gpwake (p : Fin 24)
  /-- PWR.TWUSEk (R299): domains 414 and 416 read 1; bits beyond domain 416 RsvdZ -/
  | twuse (k : Fin 14)
  /-- CLK.TWUSE (R299): CD0-CD2 read 1 -/
  | clkTwuse
  /-- CLK.CDn_CTL (R474): SPREAD only in CD3-CD22 -/
  | cdCtl (n : Fin 40)
  /-- RAS.FATALCTL (R433) -/
  | fatalctl
  /-- RAS.THERM (R441) -/
  | therm
  /-- RAS.DROOP (R442) -/
  | droop
  /-- RAS.IFT_CTL (R445): GO is RWT -/
  | iftCtl
  /-- RAS.FENCE_REQ (R446): GO is RWT -/
  | fenceReq
  /-- RAS.RETIRE (R447): GO is RWT -/
  | retireReg
  /-- RAS.FENCE_COREk (R446) -/
  | fenceCore (k : Fin 8)
  /-- RAS.FENCE_TILEk (R446) -/
  | fenceTile (k : Fin 4)
  /-- RAS.EBb_CTL (R431) -/
  | ebCtl (b : Fin 161)
  /-- RAS.EBb_CNT (R431) -/
  | ebCnt (b : Fin 161)
  /-- RAS.EBb_RECi_STAT (R431) -/
  | ebStat (b : Fin 161) (i : Fin 8)
  /-- RAS.EBb_RECi_ADDR (R431) -/
  | ebAddr (b : Fin 161) (i : Fin 8)
  /-- RAS.EBb_RECi_INFO (R431) -/
  | ebInfo (b : Fin 161) (i : Fin 8)
  /-- RAS.EBb_RECi_TIME (R431) -/
  | ebTime (b : Fin 161) (i : Fin 8)
  /-- GPIO.DIR (R474) -/
  | gpioDir
  /-- GPIO.OUT (R474) -/
  | gpioOut
  /-- GPIO.IN (R474) -/
  | gpioIn
  /-- GPIO.WORLD (R474) -/
  | gpioWorld
  /-- GPIO.DENIED (R474) -/
  | gpioDenied
  /-- GPIO.ALTFN (R453) -/
  | gpioAltfn
  /-- RTU.CTL (R416): SOURCE reset: record RT.SOURCE, default 1 -/
  | rtuCtl
  /-- RTU.STATUS (R416) -/
  | rtuStatus
  /-- RTU.LOAD (R416) -/
  | rtuLoad
  /-- RTU.SYNCOUT (R416) -/
  | rtuSyncout
  /-- RTU.CNT (R410) -/
  | rtuCnt
  /-- RTU.FRAC (R410) -/
  | rtuFrac
  /-- RTU.SNAPTIME (R423) -/
  | rtuSnaptime
  /-- RTU.SNAPSEQ (R423) -/
  | rtuSnapseq
  /-- RTU.SD_STAT (R428) -/
  | rtuSdStat
  /-- RTU.SD_PARAMk (R424) -/
  | rtuSdParam (k : Fin 4)
  /-- RTU.LLk_DUE (R417) -/
  | llDue (k : Fin 512)
  /-- RTU.LLk_CTL (R417): k >= 480: RWT, WORLD reads 1 -/
  | llCtl (k : Fin 512)
  /-- RTU.LLk_ARG (R417) -/
  | llArg (k : Fin 512)
  /-- RTU.LLk_STAT (R417) -/
  | llStat (k : Fin 512)
  /-- SEC.KEYPART (R282) -/
  | keypart
  /-- SEC.KEYCMD (R284) -/
  | keycmd
  /-- SEC.TWDOG (R295): reads 0 -/
  | twdog
  /-- SEC.TWSTATE (R295) -/
  | twstate
  /-- SEC.TWRANGEk[63:0] (R474) -/
  | twrangeLo (k : Fin 16)
  /-- SEC.TWRANGEk[127:64] (R474) -/
  | twrangeHi (k : Fin 16)
  /-- MESH.AGE_CTL (R255) -/
  | ageCtl
  /-- MESH.TMO_RD (R258) -/
  | tmoRd
  /-- MESH.TMO_WR (R258) -/
  | tmoWr
  /-- MESH.TMO_ATOM (R258) -/
  | tmoAtom
  /-- MESH.TMO_Q (R258) -/
  | tmoQ
  /-- MESH.TMO_DEV (R258) -/
  | tmoDev
  /-- MESH.TMO_SNP (R258) -/
  | tmoSnp
  /-- MESH.LATE_CNT (R261) -/
  | lateCnt
  /-- MESH.WAKE_LIMIT (R266) -/
  | wakeLimit
  /-- MESH.STAT_CTL (R269) -/
  | statCtl
  /-- MESH.STAT_SEQ (R269) -/
  | statSeq
  /-- MESH.HIST_EDGEk (R269): reset 64 x 2^k -/
  | histEdge (k : Fin 7)
  /-- MESH.STATi_REQ (R269) -/
  | statReq (i : Fin 272)
  /-- MESH.STATi_BYTES (R269) -/
  | statBytes (i : Fin 272)
  /-- MESH.STATi_HISTb (R269) -/
  | statHist (i : Fin 272) (b : Fin 8)
  /-- MESH.STATi_MAX (R269) -/
  | statMax (i : Fin 272)
  /-- MESH.STATi_TMO (R269) -/
  | statTmo (i : Fin 272)
  /-- DMd.TINV (R340) -/
  | dmTinv (d : Fin 2)
  /-- DMd.CHc_ATTR (R294) -/
  | dmAttr (d : Fin 2) (c : Fin 32)
  /-- DMd.CHc_CTL (R338) -/
  | dmCtl (d : Fin 2) (c : Fin 32)
  /-- DMd.CHc_XLAT (R338) -/
  | dmXlat (d : Fin 2) (c : Fin 32)
  /-- MCn.RAS (R363) -/
  | mcRas (n : Fin 16)
  /-- IOp.CTXBASE (R373) -/
  | ctxbase (p : Fin 8)
  /-- IOp.FAULTQ (R377) -/
  | faultq (p : Fin 8)
  /-- IOp.FAULTCNT (R377) -/
  | faultcnt (p : Fin 8)
  /-- IOp.ICQ_BASE (R377) -/
  | icqBase (p : Fin 8)
  /-- IOp.ICQ_TAIL (R377) -/
  | icqTail (p : Fin 8)
  /-- IOp.ICQ_HEAD (R377) -/
  | icqHead (p : Fin 8)
  /-- IOp.ICQ_STAT (R377) -/
  | icqStat (p : Fin 8)
  /-- IOp.EP_CFG (R388) -/
  | epCfg (p : Fin 8)
  /-- IOp.EP_MSIX (R388) -/
  | epMsix (p : Fin 8)
  /-- IOp.EP_WINSYNC (R388) -/
  | epWinsync (p : Fin 8)
  /-- IOp.EP_ROMBASE (R388) -/
  | epRombase (p : Fin 8)
  /-- IOp.EP_EVQ (R388) -/
  | epEvq (p : Fin 8)
  /-- IOp.EP_STAT (R388) -/
  | epStat (p : Fin 8)
  /-- IOp.RPr_CTL (R371) -/
  | rpCtl (p : Fin 8) (r : Fin 4)
  /-- IOp.CLASPr (R381) -/
  | clasp (p : Fin 8) (r : Fin 4)
  /-- IOp.INTRTk[63:0] (R308): LEVEL and VECTOR reserved values by R308/R310 -/
  | ioIntLo (p : Fin 8) (k : Fin 2048)
  /-- IOp.INTRTk[127:64] (R308) -/
  | ioIntHi (p : Fin 8) (k : Fin 2048)
  /-- IOp.EP_WINk word A (R384) -/
  | epWinA (p : Fin 8) (k : Fin 1024)
  /-- IOp.EP_WINk word B (R384) -/
  | epWinB (p : Fin 8) (k : Fin 1024)
  /-- IOp.EP_WINk word C (R384) -/
  | epWinC (p : Fin 8) (k : Fin 1024)
  /-- IOp.EP_OUTk (R385) -/
  | epOut (p : Fin 8) (k : Fin 64)
  /-- IOp.EP_CFGMf_j (R474): reset per PCIe -/
  | epCfgm (p : Fin 8) (f : Fin 32) (j : Fin 768)
  /-- L2.STATc (R240) -/
  | l2Stat (c : Fin 256)
  /-- L2.WAYERR_THRESH (R242) -/
  | l2Thresh
  /-- LIUc.MERGED (R474) -/
  | liuMerged (c : Fin 256)
  /-- LIUc.VSTATj (R474) -/
  | liuVstat (c : Fin 256) (j : Fin 256)
  /-- L3.POLICYn (R228): MODE reset: record L3.POLICY, default 2 -/
  | l3Policy (n : Fin 128)
  /-- L3.ADMITn (R228) -/
  | l3Admit (n : Fin 128)
  /-- L3.LOCKn (R234) -/
  | l3Lock (n : Fin 128)
  /-- L3.WAYPWRn (R238) -/
  | l3Waypwr (n : Fin 128)
  /-- L3.STATn (R240) -/
  | l3Stat (n : Fin 128)
  /-- L3.WAYERR_THRESH (R242) -/
  | l3Thresh
  /-- L3.REMAPh (R225): reset SLICE = h -/
  | l3Remap (h : Fin 128)
  /-- QSs.QCFGk (R323) -/
  | qcfg (s : Fin 128) (k : Fin 512)
  /-- QSs.QOWNk (R325) -/
  | qown (s : Fin 128) (k : Fin 512)
  /-- QSs.QNADDRk (R325) -/
  | qnaddr (s : Fin 128) (k : Fin 512)
  /-- QSs.QSTATk (R325) -/
  | qstat (s : Fin 128) (k : Fin 512)
deriving DecidableEq, Repr

/-! The places of the fields. -/
abbrev F.stwDevid.PART : Place := (31, 16)
abbrev F.stwDevid.STEP_MAJOR : Place := (15, 12)
abbrev F.stwDevid.STEP_MINOR : Place := (11, 8)
abbrev F.stwDevid.VARIANT : Place := (7, 4)
abbrev F.stwDevid.DBG_OPEN : Place := (0, 0)
abbrev F.stwBootstat.UNK_TYPE : Place := (63, 48)
abbrev F.stwBootstat.UNK_COUNT : Place := (47, 40)
abbrev F.stwBootstat.TC_USED : Place := (35, 35)
abbrev F.stwBootstat.TC_BANK : Place := (34, 34)
abbrev F.stwBootstat.FW_BANK : Place := (33, 33)
abbrev F.stwBootstat.CFG_BANK : Place := (32, 32)
abbrev F.stwBootstat.CH_FAIL : Place := (31, 16)
abbrev F.stwBootstat.CAUSE : Place := (15, 8)
abbrev F.stwBootstat.STRAP_TEST : Place := (7, 7)
abbrev F.stwBootstat.STRAP_RCVR : Place := (6, 6)
abbrev F.stwBootstat.RCVR : Place := (5, 5)
abbrev F.stwBootstat.FAIL : Place := (4, 4)
abbrev F.stwBootstat.PHASE : Place := (3, 0)
abbrev F.mbCmd.GO : Place := (31, 31)
abbrev F.mbCmd.IRQ_EN : Place := (30, 30)
abbrev F.mbCmd.TAG : Place := (15, 8)
abbrev F.mbCmd.CODE : Place := (7, 0)
abbrev F.mbSts.DONE : Place := (31, 31)
abbrev F.mbSts.COLLIDE : Place := (30, 30)
abbrev F.mbSts.TAG : Place := (23, 16)
abbrev F.mbSts.STATUS : Place := (15, 0)
abbrev F.mbArg.VALUE : Place := (63, 0)
abbrev F.mbRes.VALUE : Place := (63, 0)
abbrev F.stwIntLo.RID : Place := (47, 32)
abbrev F.stwIntLo.VIRT : Place := (25, 25)
abbrev F.stwIntLo.TARGET : Place := (24, 17)
abbrev F.stwIntLo.VECTOR : Place := (16, 8)
abbrev F.stwIntLo.PRIO : Place := (7, 4)
abbrev F.stwIntLo.LEVEL : Place := (3, 2)
abbrev F.stwIntLo.WORLD : Place := (1, 1)
abbrev F.stwIntLo.V : Place := (0, 0)
abbrev F.stwIntHi.KEYID : Place := (63, 52)
abbrev F.stwIntHi.RECORD : Place := (51, 7)
abbrev F.stwIntHi.DENIED : Place := (0, 0)
abbrev F.gather.ZIE : Place := (31, 31)
abbrev F.gather.WORLD : Place := (30, 30)
abbrev F.gather.NLVL : Place := (29, 28)
abbrev F.gather.NCORE : Place := (27, 20)
abbrev F.gather.NPRIO : Place := (19, 16)
abbrev F.gather.COUNT : Place := (8, 0)
abbrev F.gack.VALUE : Place := (63, 0)
abbrev F.calloc.INDEX : Place := (15, 0)
abbrev F.legacyCmd.BUSY : Place := (31, 31)
abbrev F.legacyCmd.STATUS : Place := (27, 24)
abbrev F.legacyCmd.CMD : Place := (19, 16)
abbrev F.legacyCmd.CLASS : Place := (15, 12)
abbrev F.legacyCmd.INDEX : Place := (11, 0)
abbrev F.hyst.SEC : Place := (55, 48)
abbrev F.hyst.MESH : Place := (47, 40)
abbrev F.hyst.DM : Place := (39, 32)
abbrev F.hyst.IO : Place := (31, 24)
abbrev F.hyst.MC : Place := (23, 16)
abbrev F.hyst.UNCORE : Place := (15, 8)
abbrev F.hyst.CORE : Place := (7, 0)
abbrev F.savebase.ADDR : Place := (51, 22)
abbrev F.candle.ALLOC : Place := (31, 31)
abbrev F.candle.MIN : Place := (25, 24)
abbrev F.candle.FREE : Place := (16, 16)
abbrev F.candle.DOMAIN : Place := (8, 0)
abbrev F.dom.STATE : Place := (31, 30)
abbrev F.dom.TARGET : Place := (29, 28)
abbrev F.dom.FLOOR : Place := (27, 26)
abbrev F.dom.HOLD : Place := (25, 25)
abbrev F.dom.SCHED_V : Place := (24, 24)
abbrev F.dom.SCHED : Place := (23, 22)
abbrev F.dom.LIMIT : Place := (21, 20)
abbrev F.dom.TWUSE : Place := (19, 19)
abbrev F.dom.REG_RDY : Place := (15, 15)
abbrev F.dom.CLK_RDY : Place := (14, 14)
abbrev F.dom.SRAM_RDY : Place := (13, 13)
abbrev F.dom.LOGIC_REL : Place := (12, 12)
abbrev F.dom.ABORTS : Place := (7, 0)
abbrev F.ltol.NS : Place := (31, 0)
abbrev F.gpwake.EN : Place := (31, 31)
abbrev F.gpwake.MODE : Place := (30, 29)
abbrev F.gpwake.DOMAIN : Place := (8, 0)
abbrev F.twuse.BITS : Place := (31, 0)
abbrev F.clkTwuse.BITS : Place := (63, 0)
abbrev F.cdCtl.FREQ : Place := (27, 16)
abbrev F.cdCtl.DENIED : Place := (2, 2)
abbrev F.cdCtl.GATED : Place := (1, 1)
abbrev F.cdCtl.SPREAD : Place := (0, 0)
abbrev F.fatalctl.ACT : Place := (1, 0)
abbrev F.therm.HYST : Place := (23, 16)
abbrev F.therm.ALERT : Place := (15, 8)
abbrev F.therm.THROTTLE : Place := (7, 0)
abbrev F.droop.MARGIN : Place := (23, 16)
abbrev F.droop.COUNT : Place := (15, 0)
abbrev F.iftCtl.GO : Place := (31, 31)
abbrev F.iftCtl.AUTO : Place := (30, 30)
abbrev F.iftCtl.PART : Place := (29, 28)
abbrev F.iftCtl.STATUS : Place := (27, 24)
abbrev F.iftCtl.PERIOD : Place := (23, 8)
abbrev F.iftCtl.TILE : Place := (6, 0)
abbrev F.fenceReq.GO : Place := (31, 31)
abbrev F.fenceReq.KIND : Place := (30, 30)
abbrev F.fenceReq.UNFENCE : Place := (29, 29)
abbrev F.fenceReq.STATUS : Place := (28, 26)
abbrev F.fenceReq.INDEX : Place := (7, 0)
abbrev F.retireReg.GO : Place := (31, 31)
abbrev F.retireReg.STATUS : Place := (30, 28)
abbrev F.retireReg.TILE : Place := (6, 0)
abbrev F.fenceCore.BITS : Place := (31, 0)
abbrev F.fenceTile.BITS : Place := (31, 0)
abbrev F.ebCtl.CE_THRESH : Place := (31, 16)
abbrev F.ebCtl.UC_IE : Place := (1, 1)
abbrev F.ebCtl.CE_IE : Place := (0, 0)
abbrev F.ebCnt.CORR : Place := (63, 32)
abbrev F.ebCnt.DEFER : Place := (31, 16)
abbrev F.ebCnt.UC : Place := (15, 0)
abbrev F.ebStat.V : Place := (63, 63)
abbrev F.ebStat.OVF : Place := (62, 62)
abbrev F.ebStat.SEV : Place := (61, 60)
abbrev F.ebStat.HIDDEN : Place := (59, 59)
abbrev F.ebStat.ADDRV : Place := (58, 58)
abbrev F.ebStat.CLASS : Place := (47, 40)
abbrev F.ebStat.REPEAT : Place := (39, 32)
abbrev F.ebStat.SRCID : Place := (15, 0)
abbrev F.ebAddr.KEYID : Place := (63, 52)
abbrev F.ebAddr.PA : Place := (51, 0)
abbrev F.ebInfo.INFO : Place := (63, 0)
abbrev F.ebTime.TIME : Place := (63, 0)
abbrev F.gpioDir.PINS : Place := (23, 0)
abbrev F.gpioOut.PINS : Place := (23, 0)
abbrev F.gpioIn.PINS : Place := (23, 0)
abbrev F.gpioWorld.PINS : Place := (23, 0)
abbrev F.gpioDenied.PINS : Place := (23, 0)
abbrev F.gpioAltfn.OWN21 : Place := (5, 4)
abbrev F.gpioAltfn.OWN20 : Place := (3, 2)
abbrev F.gpioAltfn.TALERT_EN : Place := (1, 1)
abbrev F.rtuCtl.SOURCE : Place := (17, 16)
abbrev F.rtuCtl.REF25 : Place := (15, 15)
abbrev F.rtuCtl.SLEW_MAX : Place := (9, 0)
abbrev F.rtuStatus.OFFSET : Place := (63, 32)
abbrev F.rtuStatus.PTP_OK : Place := (7, 7)
abbrev F.rtuStatus.PPS_OK : Place := (6, 6)
abbrev F.rtuStatus.REF_OK : Place := (5, 5)
abbrev F.rtuStatus.ANCHORED : Place := (4, 4)
abbrev F.rtuStatus.STATE : Place := (3, 0)
abbrev F.rtuLoad.LOAD : Place := (63, 0)
abbrev F.rtuSyncout.EN : Place := (31, 31)
abbrev F.rtuSyncout.WIDTH : Place := (19, 0)
abbrev F.rtuCnt.CNT : Place := (63, 0)
abbrev F.rtuFrac.FRAC : Place := (15, 0)
abbrev F.rtuSnaptime.TIME : Place := (63, 0)
abbrev F.rtuSnapseq.SEQ : Place := (63, 0)
abbrev F.rtuSdStat.G : Place := (63, 48)
abbrev F.rtuSdStat.F : Place := (47, 32)
abbrev F.rtuSdStat.BALLAST : Place := (31, 24)
abbrev F.rtuSdStat.FILLER : Place := (23, 16)
abbrev F.rtuSdStat.DEBT : Place := (15, 8)
abbrev F.rtuSdStat.SHORTFALL : Place := (7, 7)
abbrev F.rtuSdParam.VALUE : Place := (63, 0)
abbrev F.llDue.DUE : Place := (63, 0)
abbrev F.llCtl.V : Place := (63, 63)
abbrev F.llCtl.WORLD : Place := (62, 62)
abbrev F.llCtl.ACTION : Place := (59, 56)
abbrev F.llCtl.TARGET : Place := (55, 47)
abbrev F.llCtl.PERIOD : Place := (39, 0)
abbrev F.llArg.ARG : Place := (63, 0)
abbrev F.llStat.SKIPPED : Place := (63, 48)
abbrev F.llStat.LATE : Place := (47, 32)
abbrev F.llStat.FIRED : Place := (31, 0)
abbrev F.keypart.TWBASE : Place := (27, 16)
abbrev F.keypart.NWMAX : Place := (11, 0)
abbrev F.keycmd.GO : Place := (31, 31)
abbrev F.keycmd.STATUS : Place := (30, 28)
abbrev F.keycmd.OP : Place := (27, 24)
abbrev F.keycmd.KEYID : Place := (11, 0)
abbrev F.twdog.KICK : Place := (31, 0)
abbrev F.twstate.RESTARTS : Place := (31, 24)
abbrev F.twstate.RESTARTING : Place := (1, 1)
abbrev F.twstate.AVAIL : Place := (0, 0)
abbrev F.twrangeLo.BASE : Place := (51, 12)
abbrev F.twrangeLo.REFUSED : Place := (1, 1)
abbrev F.twrangeLo.V : Place := (0, 0)
abbrev F.twrangeHi.LAST : Place := (51, 12)
abbrev F.ageCtl.STEP : Place := (7, 0)
abbrev F.tmoRd.TIME : Place := (19, 0)
abbrev F.tmoWr.TIME : Place := (19, 0)
abbrev F.tmoAtom.TIME : Place := (19, 0)
abbrev F.tmoQ.TIME : Place := (19, 0)
abbrev F.tmoDev.TIME : Place := (19, 0)
abbrev F.tmoSnp.TIME : Place := (19, 0)
abbrev F.lateCnt.COUNT : Place := (31, 0)
abbrev F.wakeLimit.TIME : Place := (15, 0)
abbrev F.statCtl.EN : Place := (31, 31)
abbrev F.statCtl.TW_COUNT : Place := (30, 30)
abbrev F.statCtl.SNAP : Place := (24, 24)
abbrev F.statCtl.WINDOW : Place := (23, 0)
abbrev F.statSeq.SEQ : Place := (31, 0)
abbrev F.histEdge.EDGE : Place := (15, 0)
abbrev F.statReq.COUNT : Place := (63, 0)
abbrev F.statBytes.COUNT : Place := (63, 0)
abbrev F.statHist.VALUE : Place := (31, 0)
abbrev F.statMax.VALUE : Place := (31, 0)
abbrev F.statTmo.VALUE : Place := (31, 0)
abbrev F.dmTinv.VALUE : Place := (63, 0)
abbrev F.dmAttr.WORLD : Place := (44, 44)
abbrev F.dmAttr.LOCKET : Place := (43, 32)
abbrev F.dmAttr.VMID : Place := (31, 16)
abbrev F.dmCtl.SQ : Place := (63, 32)
abbrev F.dmCtl.ERR : Place := (11, 8)
abbrev F.dmCtl.BUSY : Place := (2, 2)
abbrev F.dmCtl.HALTED : Place := (1, 1)
abbrev F.dmCtl.EN : Place := (0, 0)
abbrev F.dmXlat.KEYID : Place := (63, 52)
abbrev F.dmXlat.TABLE : Place := (51, 12)
abbrev F.dmXlat.EN : Place := (0, 0)
abbrev F.mcRas.PASSES : Place := (63, 32)
abbrev F.mcRas.SPARED : Place := (27, 24)
abbrev F.mcRas.COPYING : Place := (23, 23)
abbrev F.mcRas.MIRR_DEGR : Place := (22, 22)
abbrev F.mcRas.SHORTFALL : Place := (21, 21)
abbrev F.mcRas.THROTTLE : Place := (20, 18)
abbrev F.mcRas.HOTREF : Place := (17, 17)
abbrev F.mcRas.SELFREF : Place := (16, 16)
abbrev F.mcRas.PPR_CNT : Place := (15, 0)
abbrev F.ctxbase.KEYID : Place := (63, 52)
abbrev F.ctxbase.ADDR : Place := (51, 12)
abbrev F.ctxbase.EN : Place := (0, 0)
abbrev F.faultq.HANDLE : Place := (63, 32)
abbrev F.faultq.EN : Place := (0, 0)
abbrev F.faultcnt.COUNT : Place := (31, 0)
abbrev F.icqBase.KEYID : Place := (63, 52)
abbrev F.icqBase.ADDR : Place := (51, 12)
abbrev F.icqTail.INDEX : Place := (7, 0)
abbrev F.icqHead.INDEX : Place := (7, 0)
abbrev F.icqStat.BUSY : Place := (1, 1)
abbrev F.icqStat.BADOP : Place := (0, 0)
abbrev F.epCfg.VFBAR2_LOG2 : Place := (13, 8)
abbrev F.epCfg.BAR2_LOG2 : Place := (5, 0)
abbrev F.epMsix.FUNC : Place := (12, 8)
abbrev F.epMsix.VECTOR : Place := (4, 0)
abbrev F.epWinsync.PENDING : Place := (0, 0)
abbrev F.epRombase.ADDR : Place := (51, 20)
abbrev F.epEvq.HANDLE : Place := (63, 32)
abbrev F.epEvq.EN : Place := (0, 0)
abbrev F.epStat.EVLOST : Place := (63, 32)
abbrev F.epStat.NUMVF : Place := (12, 8)
abbrev F.epStat.BME_PF : Place := (2, 2)
abbrev F.epStat.PERST : Place := (1, 1)
abbrev F.epStat.LINKUP : Place := (0, 0)
abbrev F.rpCtl.L1_IDLE : Place := (63, 48)
abbrev F.rpCtl.L0P_IDLE : Place := (47, 32)
abbrev F.rpCtl.L12_EN : Place := (27, 27)
abbrev F.rpCtl.L1_EN : Place := (26, 26)
abbrev F.rpCtl.L0P_EN : Place := (25, 25)
abbrev F.rpCtl.CTO : Place := (9, 0)
abbrev F.clasp.CLASPED : Place := (31, 31)
abbrev F.clasp.LINKUP : Place := (30, 30)
abbrev F.clasp.RELEASE : Place := (29, 29)
abbrev F.clasp.FORCE : Place := (28, 28)
abbrev F.clasp.STATUS : Place := (27, 24)
abbrev F.clasp.REASON : Place := (23, 20)
abbrev F.clasp.DROPPED : Place := (15, 0)
abbrev F.ioIntLo.RID : Place := (47, 32)
abbrev F.ioIntLo.VIRT : Place := (25, 25)
abbrev F.ioIntLo.TARGET : Place := (24, 17)
abbrev F.ioIntLo.VECTOR : Place := (16, 8)
abbrev F.ioIntLo.PRIO : Place := (7, 4)
abbrev F.ioIntLo.LEVEL : Place := (3, 2)
abbrev F.ioIntLo.WORLD : Place := (1, 1)
abbrev F.ioIntLo.V : Place := (0, 0)
abbrev F.ioIntHi.KEYID : Place := (63, 52)
abbrev F.ioIntHi.RECORD : Place := (51, 7)
abbrev F.ioIntHi.DENIED : Place := (0, 0)
abbrev F.epWinA.KEYID : Place := (63, 52)
abbrev F.epWinA.TARGET : Place := (51, 12)
abbrev F.epWinA.TYPE : Place := (9, 9)
abbrev F.epWinA.W : Place := (8, 8)
abbrev F.epWinA.R : Place := (7, 7)
abbrev F.epWinA.FUNC : Place := (5, 1)
abbrev F.epWinA.V : Place := (0, 0)
abbrev F.epWinB.OFFSET : Place := (39, 9)
abbrev F.epWinC.WORLD : Place := (63, 63)
abbrev F.epWinC.LOCKET : Place := (59, 48)
abbrev F.epWinC.VMID : Place := (47, 32)
abbrev F.epWinC.PAGES : Place := (28, 0)
abbrev F.epOut.HADDR : Place := (63, 34)
abbrev F.epOut.FUNC : Place := (8, 4)
abbrev F.epOut.NS : Place := (1, 1)
abbrev F.epOut.V : Place := (0, 0)
abbrev F.epCfgm.DATA : Place := (31, 0)
abbrev F.l2Stat.WAY_DIS : Place := (23, 16)
abbrev F.l2Stat.DIS_REFUSED : Place := (3, 3)
abbrev F.l2Stat.L2_INIT_DONE : Place := (2, 2)
abbrev F.l2Stat.L1D_INIT_DONE : Place := (1, 1)
abbrev F.l2Stat.L1I_INIT_DONE : Place := (0, 0)
abbrev F.l2Thresh.COUNT : Place := (7, 0)
abbrev F.liuMerged.COUNT : Place := (31, 0)
abbrev F.liuVstat.V1 : Place := (63, 32)
abbrev F.liuVstat.V0 : Place := (31, 0)
abbrev F.l3Policy.THRESH : Place := (15, 10)
abbrev F.l3Policy.FREE_ACCEPT : Place := (8, 8)
abbrev F.l3Policy.MODE : Place := (1, 0)
abbrev F.l3Admit.DECLINED : Place := (63, 32)
abbrev F.l3Admit.ACCEPTED : Place := (31, 0)
abbrev F.l3Lock.WAYS : Place := (11, 0)
abbrev F.l3Waypwr.STATUS : Place := (31, 28)
abbrev F.l3Waypwr.OFF : Place := (23, 16)
abbrev F.l3Waypwr.REQ : Place := (7, 0)
abbrev F.l3Stat.WAY_DIS : Place := (31, 16)
abbrev F.l3Stat.DIS_REFUSED : Place := (2, 2)
abbrev F.l3Stat.DIR_INIT_DONE : Place := (1, 1)
abbrev F.l3Stat.INIT_DONE : Place := (0, 0)
abbrev F.l3Thresh.COUNT : Place := (7, 0)
abbrev F.l3Remap.MOVED : Place := (7, 7)
abbrev F.l3Remap.SLICE : Place := (6, 0)
abbrev F.qcfg.KEY : Place := (63, 48)
abbrev F.qcfg.BASE : Place := (47, 35)
abbrev F.qcfg.CAP : Place := (34, 31)
abbrev F.qcfg.NMODE : Place := (30, 29)
abbrev F.qcfg.NCORE : Place := (28, 21)
abbrev F.qcfg.NLVL : Place := (20, 19)
abbrev F.qcfg.NPRIO : Place := (18, 15)
abbrev F.qcfg.DMCH : Place := (14, 9)
abbrev F.qcfg.KIND : Place := (8, 8)
abbrev F.qcfg.V : Place := (0, 0)
abbrev F.qown.WORLD : Place := (31, 31)
abbrev F.qown.PUTSCOPE : Place := (30, 29)
abbrev F.qown.LOCKET : Place := (28, 17)
abbrev F.qown.VMID : Place := (16, 1)
abbrev F.qnaddr.ADDR : Place := (51, 2)
abbrev F.qstat.FULLCNT : Place := (63, 48)
abbrev F.qstat.PERR : Place := (47, 40)
abbrev F.qstat.BROKEN : Place := (39, 32)
abbrev F.qstat.CFGERR : Place := (31, 29)
abbrev F.qstat.CLAIMED : Place := (28, 28)
abbrev F.qstat.MSGS : Place := (27, 14)
abbrev F.qstat.WORDS : Place := (13, 0)
abbrev G.fcsr.TEN : Place := (12, 8)
abbrev G.fcsr.RM : Place := (7, 5)
abbrev G.fcsr.FLAGS : Place := (4, 0)
abbrev G.pmcnt.COUNT : Place := (63, 0)
abbrev G.pmcyc.COUNT : Place := (63, 0)
abbrev G.pmcmt.COUNT : Place := (63, 0)
abbrev G.time.TIME : Place := (63, 0)
abbrev G.epc.PC : Place := (63, 2)
abbrev G.ecause.VECTOR : Place := (24, 16)
abbrev G.ecause.INNER : Place := (15, 8)
abbrev G.ecause.CODE : Place := (7, 0)
abbrev G.eaddr.ADDR : Place := (63, 0)
abbrev G.estate.PLK : Place := (4, 4)
abbrev G.estate.PIE : Place := (3, 3)
abbrev G.estate.PWORLD : Place := (2, 2)
abbrev G.estate.PLVL : Place := (1, 0)
abbrev G.vbase.BASE : Place := (63, 13)
abbrev G.status.INLK : Place := (4, 4)
abbrev G.status.IE : Place := (3, 3)
abbrev G.status.WORLD : Place := (2, 2)
abbrev G.status.LVL : Place := (1, 0)
abbrev G.scratch.DATA : Place := (63, 0)
abbrev G.ipmr.PMASK : Place := (3, 0)
abbrev G.ieoi.VECTOR : Place := (8, 0)
abbrev G.irpr.RPRIO : Place := (3, 0)
abbrev G.mattr.ENT0 : Place := (1, 0)
abbrev G.mattr.ENT1 : Place := (9, 8)
abbrev G.mattr.ENT2 : Place := (17, 16)
abbrev G.mattr.ENT3 : Place := (25, 24)
abbrev G.mattr.ENT4 : Place := (33, 32)
abbrev G.mattr.ENT5 : Place := (41, 40)
abbrev G.mattr.ENT6 : Place := (49, 48)
abbrev G.mattr.ENT7 : Place := (57, 56)
abbrev G.s2mattr.ENT0 : Place := (1, 0)
abbrev G.s2mattr.ENT1 : Place := (9, 8)
abbrev G.s2mattr.ENT2 : Place := (17, 16)
abbrev G.s2mattr.ENT3 : Place := (25, 24)
abbrev G.s2mattr.ENT4 : Place := (33, 32)
abbrev G.s2mattr.ENT5 : Place := (41, 40)
abbrev G.s2mattr.ENT6 : Place := (49, 48)
abbrev G.s2mattr.ENT7 : Place := (57, 56)
abbrev G.tctl.ASID : Place := (63, 48)
abbrev G.tctl.SPAN_EN : Place := (5, 5)
abbrev G.tctl.HAD : Place := (4, 4)
abbrev G.tctl.EN1 : Place := (3, 3)
abbrev G.tctl.EN0 : Place := (2, 2)
abbrev G.tctl.TEN : Place := (0, 0)
abbrev G.htctl.HAD : Place := (4, 4)
abbrev G.htctl.EN0 : Place := (2, 2)
abbrev G.htctl.TEN : Place := (0, 0)
abbrev G.mtctl.HAD : Place := (4, 4)
abbrev G.mtctl.EN0 : Place := (2, 2)
abbrev G.mtctl.TEN : Place := (0, 0)
abbrev G.troot0.KEYID : Place := (63, 52)
abbrev G.troot0.TABLE : Place := (51, 12)
abbrev G.troot1.KEYID : Place := (63, 52)
abbrev G.troot1.TABLE : Place := (51, 12)
abbrev G.s2root.KEYID : Place := (63, 52)
abbrev G.s2root.TABLE : Place := (51, 12)
abbrev G.htroot.KEYID : Place := (63, 52)
abbrev G.htroot.TABLE : Place := (51, 12)
abbrev G.mtroot.KEYID : Place := (63, 52)
abbrev G.mtroot.TABLE : Place := (51, 12)
abbrev G.spantbl.KEYID : Place := (63, 52)
abbrev G.spantbl.ADDR : Place := (51, 9)
abbrev G.s2spantbl.KEYID : Place := (63, 52)
abbrev G.s2spantbl.ADDR : Place := (51, 9)
abbrev G.tfinfo.SPAN : Place := (15, 12)
abbrev G.tfinfo.IPAV : Place := (11, 11)
abbrev G.tfinfo.WALK : Place := (10, 10)
abbrev G.tfinfo.STAGE : Place := (9, 9)
abbrev G.tfinfo.WRITE : Place := (8, 8)
abbrev G.tfinfo.FETCH : Place := (7, 7)
abbrev G.tfinfo.SRC : Place := (6, 4)
abbrev G.tfinfo.KIND : Place := (3, 0)
abbrev G.tfipa.IPA : Place := (51, 12)
abbrev G.spanBase.ADDR : Place := (47, 16)
abbrev G.spanLimit.ADDR : Place := (47, 16)
abbrev G.spanMap.KEYID : Place := (63, 52)
abbrev G.spanMap.PBASE : Place := (51, 16)
abbrev G.spanMap.DLOG : Place := (10, 10)
abbrev G.spanMap.D : Place := (9, 9)
abbrev G.spanMap.A : Place := (8, 8)
abbrev G.spanMap.ATTR : Place := (6, 4)
abbrev G.spanMap.X : Place := (3, 3)
abbrev G.spanMap.W : Place := (2, 2)
abbrev G.spanMap.U : Place := (1, 1)
abbrev G.spanMap.V : Place := (0, 0)
abbrev G.spanDlog.ADDR : Place := (51, 3)
abbrev G.s2spanBase.ADDR : Place := (47, 16)
abbrev G.s2spanLimit.ADDR : Place := (47, 16)
abbrev G.s2spanMap.KEYID : Place := (63, 52)
abbrev G.s2spanMap.PBASE : Place := (51, 16)
abbrev G.s2spanMap.DLOG : Place := (10, 10)
abbrev G.s2spanMap.D : Place := (9, 9)
abbrev G.s2spanMap.A : Place := (8, 8)
abbrev G.s2spanMap.ATTR : Place := (6, 4)
abbrev G.s2spanMap.X : Place := (3, 3)
abbrev G.s2spanMap.W : Place := (2, 2)
abbrev G.s2spanMap.U : Place := (1, 1)
abbrev G.s2spanMap.V : Place := (0, 0)
abbrev G.s2spanDlog.ADDR : Place := (51, 3)
abbrev G.s2ctl.VMID : Place := (63, 48)
abbrev G.s2ctl.SPAN_EN : Place := (3, 3)
abbrev G.s2ctl.HAD : Place := (2, 2)
abbrev G.s2ctl.S2EN : Place := (0, 0)
abbrev G.mcinfo.INPROG : Place := (15, 15)
abbrev G.mcinfo.RESTART : Place := (14, 14)
abbrev G.mcinfo.SLOTV : Place := (11, 11)
abbrev G.mcinfo.SLOT : Place := (10, 8)
abbrev G.mcinfo.KIND : Place := (7, 0)
abbrev G.tmrcmp.CMP : Place := (63, 0)
abbrev G.tmrctl.PRIO : Place := (7, 4)
abbrev G.tmrctl.FIRED : Place := (2, 2)
abbrev G.tmrctl.EN : Place := (0, 0)
abbrev G.pdt.TAG : Place := (11, 0)
abbrev G.predctl.BARRED : Place := (2, 2)
abbrev G.predctl.LB_DIS : Place := (1, 1)
abbrev G.predctl.CLR_ON_SWITCH : Place := (0, 0)
abbrev G.pmctl.OVF_PRIO : Place := (17, 14)
abbrev G.pmctl.OVF_IE : Place := (13, 13)
abbrev G.pmctl.VEC : Place := (12, 4)
abbrev G.pmctl.TW_COUNT : Place := (2, 2)
abbrev G.pmctl.UEN : Place := (1, 1)
abbrev G.pmctl.EN : Place := (0, 0)
abbrev G.pmevsel.LVL : Place := (19, 16)
abbrev G.pmevsel.EVENT : Place := (15, 0)
abbrev G.pmovf.CMT : Place := (9, 9)
abbrev G.pmovf.CYC : Place := (8, 8)
abbrev G.pmovf.CNT : Place := (7, 0)
abbrev G.htrap.TPRED : Place := (6, 6)
abbrev G.htrap.TTCALL : Place := (5, 5)
abbrev G.htrap.TSW : Place := (4, 4)
abbrev G.htrap.TPMU : Place := (3, 3)
abbrev G.htrap.TTCTL : Place := (2, 2)
abbrev G.htrap.TMATTR : Place := (1, 1)
abbrev G.htrap.TWFI : Place := (0, 0)
abbrev G.vcpu.KEYID : Place := (63, 52)
abbrev G.vcpu.ADDR : Place := (51, 7)
abbrev G.vcpu.EN : Place := (0, 0)
abbrev G.dbctl.GUEST : Place := (0, 0)

/-- The fields of each register. -/
def Reg.fields : Reg → List Field
  | .stwDevid =>
    [⟨F.stwDevid.PART, .ro, 0x9256, .any⟩,
     ⟨F.stwDevid.STEP_MAJOR, .ro, 1, .any⟩,
     ⟨F.stwDevid.STEP_MINOR, .ro, 0, .any⟩,
     ⟨F.stwDevid.VARIANT, .ro, 1, .any⟩,
     ⟨F.stwDevid.DBG_OPEN, .ro, 0, .any⟩]
  | .stwBootstat =>
    [⟨F.stwBootstat.UNK_TYPE, .ro, 0, .any⟩,
     ⟨F.stwBootstat.UNK_COUNT, .ro, 0, .any⟩,
     ⟨F.stwBootstat.TC_USED, .ro, 0, .any⟩,
     ⟨F.stwBootstat.TC_BANK, .ro, 0, .any⟩,
     ⟨F.stwBootstat.FW_BANK, .ro, 0, .any⟩,
     ⟨F.stwBootstat.CFG_BANK, .ro, 0, .any⟩,
     ⟨F.stwBootstat.CH_FAIL, .ro, 0, .any⟩,
     ⟨F.stwBootstat.CAUSE, .ro, 0, .any⟩,
     ⟨F.stwBootstat.STRAP_TEST, .ro, 0, .any⟩,
     ⟨F.stwBootstat.STRAP_RCVR, .ro, 1, .any⟩,
     ⟨F.stwBootstat.RCVR, .ro, 0, .any⟩,
     ⟨F.stwBootstat.FAIL, .ro, 0, .any⟩,
     ⟨F.stwBootstat.PHASE, .ro, 1, .any⟩]
  | .mbCmd _ =>
    [⟨F.mbCmd.GO, .w1s, 0, .any⟩,
     ⟨F.mbCmd.IRQ_EN, .rw, 0, .any⟩,
     ⟨F.mbCmd.TAG, .rw, 0, .any⟩,
     ⟨F.mbCmd.CODE, .rw, 0, .any⟩]
  | .mbSts _ =>
    [⟨F.mbSts.DONE, .w1c, 0, .any⟩,
     ⟨F.mbSts.COLLIDE, .w1c, 0, .any⟩,
     ⟨F.mbSts.TAG, .ro, 0, .any⟩,
     ⟨F.mbSts.STATUS, .ro, 0, .any⟩]
  | .mbArg _ _ =>
    [⟨F.mbArg.VALUE, .rw, 0, .any⟩]
  | .mbRes _ _ =>
    [⟨F.mbRes.VALUE, .ro, 0, .any⟩]
  | .stwIntLo _ =>
    [⟨F.stwIntLo.RID, .rw, 0, .any⟩,
     ⟨F.stwIntLo.VIRT, .rw, 0, .any⟩,
     ⟨F.stwIntLo.TARGET, .rw, 0, .any⟩,
     ⟨F.stwIntLo.VECTOR, .rw, 0, .any⟩,
     ⟨F.stwIntLo.PRIO, .rw, 0, .any⟩,
     ⟨F.stwIntLo.LEVEL, .rw, 1, .any⟩,
     ⟨F.stwIntLo.WORLD, .rwt, 0, .any⟩,
     ⟨F.stwIntLo.V, .rw, 0, .any⟩]
  | .stwIntHi _ =>
    [⟨F.stwIntHi.KEYID, .rw, 0, .any⟩,
     ⟨F.stwIntHi.RECORD, .rw, 0, .any⟩,
     ⟨F.stwIntHi.DENIED, .w1c, 0, .any⟩]
  | .gather _ =>
    [⟨F.gather.ZIE, .rw, 0, .any⟩,
     ⟨F.gather.WORLD, .rwt, 0, .any⟩,
     ⟨F.gather.NLVL, .rw, 1, .any⟩,
     ⟨F.gather.NCORE, .rw, 0, .any⟩,
     ⟨F.gather.NPRIO, .rw, 0, .any⟩,
     ⟨F.gather.COUNT, .rw, 0, .range 0 256⟩]
  | .gack _ =>
    [⟨F.gack.VALUE, .wo, 0, .any⟩]
  | .calloc =>
    [⟨F.calloc.INDEX, .ro, 0, .any⟩]
  | .legacyCmd =>
    [⟨F.legacyCmd.BUSY, .ro, 0, .any⟩,
     ⟨F.legacyCmd.STATUS, .ro, 0, .any⟩,
     ⟨F.legacyCmd.CMD, .rw, 0, .any⟩,
     ⟨F.legacyCmd.CLASS, .rw, 0, .any⟩,
     ⟨F.legacyCmd.INDEX, .rw, 0, .any⟩]
  | .hyst =>
    [⟨F.hyst.SEC, .rwt, 0x14, .any⟩,
     ⟨F.hyst.MESH, .rwt, 5, .any⟩,
     ⟨F.hyst.DM, .rwt, 0xa, .any⟩,
     ⟨F.hyst.IO, .rwt, 0x64, .any⟩,
     ⟨F.hyst.MC, .rwt, 0x32, .any⟩,
     ⟨F.hyst.UNCORE, .rwt, 0xa, .any⟩,
     ⟨F.hyst.CORE, .rwt, 0, .any⟩]
  | .savebase =>
    [⟨F.savebase.ADDR, .rwo, 0, .any⟩]
  | .candle _ =>
    [⟨F.candle.ALLOC, .ro, 0, .any⟩,
     ⟨F.candle.MIN, .rw, 0, .ne 2⟩,
     ⟨F.candle.FREE, .w1s, 0, .any⟩,
     ⟨F.candle.DOMAIN, .rw, 0, .le 416⟩]
  | .dom _ =>
    [⟨F.dom.STATE, .ro, 0, .any⟩,
     ⟨F.dom.TARGET, .ro, 0, .any⟩,
     ⟨F.dom.FLOOR, .ro, 0, .any⟩,
     ⟨F.dom.HOLD, .ro, 0, .any⟩,
     ⟨F.dom.SCHED_V, .ro, 0, .any⟩,
     ⟨F.dom.SCHED, .ro, 3, .any⟩,
     ⟨F.dom.LIMIT, .ro, 0, .any⟩,
     ⟨F.dom.TWUSE, .ro, 0, .any⟩,
     ⟨F.dom.REG_RDY, .ro, 0, .any⟩,
     ⟨F.dom.CLK_RDY, .ro, 0, .any⟩,
     ⟨F.dom.SRAM_RDY, .ro, 0, .any⟩,
     ⟨F.dom.LOGIC_REL, .ro, 0, .any⟩,
     ⟨F.dom.ABORTS, .ro, 0, .any⟩]
  | .ltol _ =>
    [⟨F.ltol.NS, .rw, 0x7d0, .any⟩]
  | .gpwake _ =>
    [⟨F.gpwake.EN, .rw, 0, .any⟩,
     ⟨F.gpwake.MODE, .rw, 0, .any⟩,
     ⟨F.gpwake.DOMAIN, .rw, 0, .le 416⟩]
  | .twuse _ =>
    [⟨F.twuse.BITS, .rwt, 0, .any⟩]
  | .clkTwuse =>
    [⟨F.clkTwuse.BITS, .rwt, 0, .any⟩]
  | .cdCtl _ =>
    [⟨F.cdCtl.FREQ, .ro, 0, .any⟩,
     ⟨F.cdCtl.DENIED, .w1c, 0, .any⟩,
     ⟨F.cdCtl.GATED, .ro, 0, .any⟩,
     ⟨F.cdCtl.SPREAD, .rw, 0, .any⟩]
  | .fatalctl =>
    [⟨F.fatalctl.ACT, .rwt, 0, .le 1⟩]
  | .therm =>
    [⟨F.therm.HYST, .rwt, 3, .range 1 20⟩,
     ⟨F.therm.ALERT, .rwt, 0x69, .range 80 115⟩,
     ⟨F.therm.THROTTLE, .rwt, 0x64, .range 70 115⟩]
  | .droop =>
    [⟨F.droop.MARGIN, .rwt, 0x28, .range 10 100⟩,
     ⟨F.droop.COUNT, .rwt, 0x40, .any⟩]
  | .iftCtl =>
    [⟨F.iftCtl.GO, .w1s, 0, .any⟩,
     ⟨F.iftCtl.AUTO, .rwt, 0, .any⟩,
     ⟨F.iftCtl.PART, .rwt, 1, .ne 0⟩,
     ⟨F.iftCtl.STATUS, .ro, 0, .any⟩,
     ⟨F.iftCtl.PERIOD, .rwt, 0x18, .range 1 65535⟩,
     ⟨F.iftCtl.TILE, .rwt, 0, .any⟩]
  | .fenceReq =>
    [⟨F.fenceReq.GO, .w1s, 0, .any⟩,
     ⟨F.fenceReq.KIND, .rwt, 0, .any⟩,
     ⟨F.fenceReq.UNFENCE, .rwt, 0, .any⟩,
     ⟨F.fenceReq.STATUS, .ro, 0, .any⟩,
     ⟨F.fenceReq.INDEX, .rwt, 0, .any⟩]
  | .retireReg =>
    [⟨F.retireReg.GO, .w1s, 0, .any⟩,
     ⟨F.retireReg.STATUS, .ro, 0, .any⟩,
     ⟨F.retireReg.TILE, .rwt, 0, .any⟩]
  | .fenceCore _ =>
    [⟨F.fenceCore.BITS, .ro, 0, .any⟩]
  | .fenceTile _ =>
    [⟨F.fenceTile.BITS, .ro, 0, .any⟩]
  | .ebCtl _ =>
    [⟨F.ebCtl.CE_THRESH, .rw, 0x100, .any⟩,
     ⟨F.ebCtl.UC_IE, .rw, 1, .any⟩,
     ⟨F.ebCtl.CE_IE, .rw, 1, .any⟩]
  | .ebCnt _ =>
    [⟨F.ebCnt.CORR, .ro, 0, .any⟩,
     ⟨F.ebCnt.DEFER, .ro, 0, .any⟩,
     ⟨F.ebCnt.UC, .ro, 0, .any⟩]
  | .ebStat _ _ =>
    [⟨F.ebStat.V, .w1c, 0, .any⟩,
     ⟨F.ebStat.OVF, .w1c, 0, .any⟩,
     ⟨F.ebStat.SEV, .ro, 0, .any⟩,
     ⟨F.ebStat.HIDDEN, .ro, 0, .any⟩,
     ⟨F.ebStat.ADDRV, .ro, 0, .any⟩,
     ⟨F.ebStat.CLASS, .ro, 0, .any⟩,
     ⟨F.ebStat.REPEAT, .ro, 0, .any⟩,
     ⟨F.ebStat.SRCID, .ro, 0, .any⟩]
  | .ebAddr _ _ =>
    [⟨F.ebAddr.KEYID, .ro, 0, .any⟩,
     ⟨F.ebAddr.PA, .ro, 0, .any⟩]
  | .ebInfo _ _ =>
    [⟨F.ebInfo.INFO, .ro, 0, .any⟩]
  | .ebTime _ _ =>
    [⟨F.ebTime.TIME, .ro, 0, .any⟩]
  | .gpioDir =>
    [⟨F.gpioDir.PINS, .rw, 0, .any⟩]
  | .gpioOut =>
    [⟨F.gpioOut.PINS, .rw, 0, .any⟩]
  | .gpioIn =>
    [⟨F.gpioIn.PINS, .ro, 0, .any⟩]
  | .gpioWorld =>
    [⟨F.gpioWorld.PINS, .rwt, 0, .any⟩]
  | .gpioDenied =>
    [⟨F.gpioDenied.PINS, .w1c, 0, .any⟩]
  | .gpioAltfn =>
    [⟨F.gpioAltfn.OWN21, .ro, 0, .any⟩,
     ⟨F.gpioAltfn.OWN20, .ro, 0, .any⟩,
     ⟨F.gpioAltfn.TALERT_EN, .rwt, 0, .any⟩]
  | .rtuCtl =>
    [⟨F.rtuCtl.SOURCE, .rwt, 1, .ne 3⟩,
     ⟨F.rtuCtl.REF25, .rwt, 0, .any⟩,
     ⟨F.rtuCtl.SLEW_MAX, .rwt, 0xc8, .range 1 1000⟩]
  | .rtuStatus =>
    [⟨F.rtuStatus.OFFSET, .ro, 0, .any⟩,
     ⟨F.rtuStatus.PTP_OK, .ro, 0, .any⟩,
     ⟨F.rtuStatus.PPS_OK, .ro, 0, .any⟩,
     ⟨F.rtuStatus.REF_OK, .ro, 0, .any⟩,
     ⟨F.rtuStatus.ANCHORED, .ro, 0, .any⟩,
     ⟨F.rtuStatus.STATE, .ro, 0, .any⟩]
  | .rtuLoad =>
    [⟨F.rtuLoad.LOAD, .rwt, 0, .any⟩]
  | .rtuSyncout =>
    [⟨F.rtuSyncout.EN, .rwt, 0, .any⟩,
     ⟨F.rtuSyncout.WIDTH, .rwt, 0x186a0, .range 1 1000000⟩]
  | .rtuCnt =>
    [⟨F.rtuCnt.CNT, .ro, 0, .any⟩]
  | .rtuFrac =>
    [⟨F.rtuFrac.FRAC, .ro, 0, .any⟩]
  | .rtuSnaptime =>
    [⟨F.rtuSnaptime.TIME, .ro, 0, .any⟩]
  | .rtuSnapseq =>
    [⟨F.rtuSnapseq.SEQ, .ro, 0, .any⟩]
  | .rtuSdStat =>
    [⟨F.rtuSdStat.G, .ro, 0, .any⟩,
     ⟨F.rtuSdStat.F, .ro, 0, .any⟩,
     ⟨F.rtuSdStat.BALLAST, .ro, 0, .any⟩,
     ⟨F.rtuSdStat.FILLER, .ro, 0, .any⟩,
     ⟨F.rtuSdStat.DEBT, .ro, 0, .any⟩,
     ⟨F.rtuSdStat.SHORTFALL, .w1c, 0, .any⟩]
  | .rtuSdParam _ =>
    [⟨F.rtuSdParam.VALUE, .rwt, 0, .any⟩]
  | .llDue _ =>
    [⟨F.llDue.DUE, .rw, 0, .any⟩]
  | .llCtl k =>
    [⟨F.llCtl.V, .rw, 0, .any⟩,
     ⟨F.llCtl.WORLD, .ro, b2n (decide (480 ≤ k.val)), .any⟩,
     ⟨F.llCtl.ACTION, .rw, 0, .range 1 8⟩,
     ⟨F.llCtl.TARGET, .rw, 0, .any⟩,
     ⟨F.llCtl.PERIOD, .rw, 0, .any⟩]
  | .llArg _ =>
    [⟨F.llArg.ARG, .rw, 0, .any⟩]
  | .llStat _ =>
    [⟨F.llStat.SKIPPED, .ro, 0, .any⟩,
     ⟨F.llStat.LATE, .ro, 0, .any⟩,
     ⟨F.llStat.FIRED, .ro, 0, .any⟩]
  | .keypart =>
    [⟨F.keypart.TWBASE, .rwt, 0xf80, .any⟩,
     ⟨F.keypart.NWMAX, .rwt, 0x3ff, .any⟩]
  | .keycmd =>
    [⟨F.keycmd.GO, .w1s, 0, .any⟩,
     ⟨F.keycmd.STATUS, .ro, 0, .any⟩,
     ⟨F.keycmd.OP, .rw, 0, .range 1 1⟩,
     ⟨F.keycmd.KEYID, .rw, 0, .any⟩]
  | .twdog =>
    [⟨F.twdog.KICK, .rwt, 0, .any⟩]
  | .twstate =>
    [⟨F.twstate.RESTARTS, .ro, 0, .any⟩,
     ⟨F.twstate.RESTARTING, .ro, 0, .any⟩,
     ⟨F.twstate.AVAIL, .rwt, 0, .any⟩]
  | .twrangeLo _ =>
    [⟨F.twrangeLo.BASE, .rwt, 0, .any⟩,
     ⟨F.twrangeLo.REFUSED, .ro, 0, .any⟩,
     ⟨F.twrangeLo.V, .rwt, 0, .any⟩]
  | .twrangeHi _ =>
    [⟨F.twrangeHi.LAST, .rwt, 0, .any⟩]
  | .ageCtl =>
    [⟨F.ageCtl.STEP, .rwt, 0x20, .range 1 255⟩]
  | .tmoRd =>
    [⟨F.tmoRd.TIME, .rwt, 0xc8, .range 2 1000000⟩]
  | .tmoWr =>
    [⟨F.tmoWr.TIME, .rwt, 0xc8, .range 2 1000000⟩]
  | .tmoAtom =>
    [⟨F.tmoAtom.TIME, .rwt, 0xc8, .range 2 1000000⟩]
  | .tmoQ =>
    [⟨F.tmoQ.TIME, .rwt, 0xc8, .range 2 1000000⟩]
  | .tmoDev =>
    [⟨F.tmoDev.TIME, .rwt, 0x186a0, .range 2 1000000⟩]
  | .tmoSnp =>
    [⟨F.tmoSnp.TIME, .rwt, 0x32, .range 2 1000000⟩]
  | .lateCnt =>
    [⟨F.lateCnt.COUNT, .rw, 0, .any⟩]
  | .wakeLimit =>
    [⟨F.wakeLimit.TIME, .rwt, 0x7d0, .range 100 65535⟩]
  | .statCtl =>
    [⟨F.statCtl.EN, .rw, 0, .any⟩,
     ⟨F.statCtl.TW_COUNT, .rwt, 0, .any⟩,
     ⟨F.statCtl.SNAP, .w1s, 0, .any⟩,
     ⟨F.statCtl.WINDOW, .rw, 0x3e8, .any⟩]
  | .statSeq =>
    [⟨F.statSeq.SEQ, .ro, 0, .any⟩]
  | .histEdge k => [⟨F.histEdge.EDGE, .rw, 64 * 2 ^ k.val, .any⟩]
  | .statReq _ =>
    [⟨F.statReq.COUNT, .ro, 0, .any⟩]
  | .statBytes _ =>
    [⟨F.statBytes.COUNT, .ro, 0, .any⟩]
  | .statHist _ _ =>
    [⟨F.statHist.VALUE, .ro, 0, .any⟩]
  | .statMax _ =>
    [⟨F.statMax.VALUE, .ro, 0, .any⟩]
  | .statTmo _ =>
    [⟨F.statTmo.VALUE, .ro, 0, .any⟩]
  | .dmTinv _ =>
    [⟨F.dmTinv.VALUE, .wo, 0, .any⟩]
  | .dmAttr _ _ =>
    [⟨F.dmAttr.WORLD, .rwt, 0, .any⟩,
     ⟨F.dmAttr.LOCKET, .rwt, 0, .any⟩,
     ⟨F.dmAttr.VMID, .rwt, 0, .any⟩]
  | .dmCtl _ _ =>
    [⟨F.dmCtl.SQ, .rw, 0, .any⟩,
     ⟨F.dmCtl.ERR, .ro, 0, .any⟩,
     ⟨F.dmCtl.BUSY, .ro, 0, .any⟩,
     ⟨F.dmCtl.HALTED, .w1c, 0, .any⟩,
     ⟨F.dmCtl.EN, .rw, 0, .any⟩]
  | .dmXlat _ _ =>
    [⟨F.dmXlat.KEYID, .rw, 0, .any⟩,
     ⟨F.dmXlat.TABLE, .rw, 0, .any⟩,
     ⟨F.dmXlat.EN, .rw, 0, .any⟩]
  | .mcRas _ =>
    [⟨F.mcRas.PASSES, .ro, 0, .any⟩,
     ⟨F.mcRas.SPARED, .ro, 0xf, .any⟩,
     ⟨F.mcRas.COPYING, .ro, 0, .any⟩,
     ⟨F.mcRas.MIRR_DEGR, .ro, 0, .any⟩,
     ⟨F.mcRas.SHORTFALL, .w1c, 0, .any⟩,
     ⟨F.mcRas.THROTTLE, .ro, 0, .any⟩,
     ⟨F.mcRas.HOTREF, .ro, 0, .any⟩,
     ⟨F.mcRas.SELFREF, .ro, 0, .any⟩,
     ⟨F.mcRas.PPR_CNT, .ro, 0, .any⟩]
  | .ctxbase _ =>
    [⟨F.ctxbase.KEYID, .rw, 0, .any⟩,
     ⟨F.ctxbase.ADDR, .rw, 0, .any⟩,
     ⟨F.ctxbase.EN, .rw, 0, .any⟩]
  | .faultq _ =>
    [⟨F.faultq.HANDLE, .rw, 0, .any⟩,
     ⟨F.faultq.EN, .rw, 0, .any⟩]
  | .faultcnt _ =>
    [⟨F.faultcnt.COUNT, .rw, 0, .any⟩]
  | .icqBase _ =>
    [⟨F.icqBase.KEYID, .rw, 0, .any⟩,
     ⟨F.icqBase.ADDR, .rw, 0, .any⟩]
  | .icqTail _ =>
    [⟨F.icqTail.INDEX, .rw, 0, .any⟩]
  | .icqHead _ =>
    [⟨F.icqHead.INDEX, .ro, 0, .any⟩]
  | .icqStat _ =>
    [⟨F.icqStat.BUSY, .ro, 0, .any⟩,
     ⟨F.icqStat.BADOP, .w1c, 0, .any⟩]
  | .epCfg _ =>
    [⟨F.epCfg.VFBAR2_LOG2, .rw, 0x14, .range 16 32⟩,
     ⟨F.epCfg.BAR2_LOG2, .rw, 0x1e, .range 20 40⟩]
  | .epMsix _ =>
    [⟨F.epMsix.FUNC, .wo, 0, .any⟩,
     ⟨F.epMsix.VECTOR, .wo, 0, .any⟩]
  | .epWinsync _ =>
    [⟨F.epWinsync.PENDING, .ro, 0, .any⟩]
  | .epRombase _ =>
    [⟨F.epRombase.ADDR, .rw, 0, .any⟩]
  | .epEvq _ =>
    [⟨F.epEvq.HANDLE, .rw, 0, .any⟩,
     ⟨F.epEvq.EN, .rw, 0, .any⟩]
  | .epStat _ =>
    [⟨F.epStat.EVLOST, .rw, 0, .any⟩,
     ⟨F.epStat.NUMVF, .ro, 0, .any⟩,
     ⟨F.epStat.BME_PF, .ro, 0, .any⟩,
     ⟨F.epStat.PERST, .ro, 1, .any⟩,
     ⟨F.epStat.LINKUP, .ro, 0, .any⟩]
  | .rpCtl _ _ =>
    [⟨F.rpCtl.L1_IDLE, .rw, 0x64, .range 1 65535⟩,
     ⟨F.rpCtl.L0P_IDLE, .rw, 0xa, .range 1 65535⟩,
     ⟨F.rpCtl.L12_EN, .rw, 1, .any⟩,
     ⟨F.rpCtl.L1_EN, .rw, 1, .any⟩,
     ⟨F.rpCtl.L0P_EN, .rw, 1, .any⟩,
     ⟨F.rpCtl.CTO, .rw, 0x28, .range 1 500⟩]
  | .clasp _ _ =>
    [⟨F.clasp.CLASPED, .ro, 1, .any⟩,
     ⟨F.clasp.LINKUP, .ro, 0, .any⟩,
     ⟨F.clasp.RELEASE, .w1s, 0, .any⟩,
     ⟨F.clasp.FORCE, .w1s, 0, .any⟩,
     ⟨F.clasp.STATUS, .ro, 0, .any⟩,
     ⟨F.clasp.REASON, .ro, 1, .any⟩,
     ⟨F.clasp.DROPPED, .ro, 0, .any⟩]
  | .ioIntLo _ _ =>
    [⟨F.ioIntLo.RID, .rw, 0, .any⟩,
     ⟨F.ioIntLo.VIRT, .rw, 0, .any⟩,
     ⟨F.ioIntLo.TARGET, .rw, 0, .any⟩,
     ⟨F.ioIntLo.VECTOR, .rw, 0, .any⟩,
     ⟨F.ioIntLo.PRIO, .rw, 0, .any⟩,
     ⟨F.ioIntLo.LEVEL, .rw, 1, .any⟩,
     ⟨F.ioIntLo.WORLD, .rwt, 0, .any⟩,
     ⟨F.ioIntLo.V, .rw, 0, .any⟩]
  | .ioIntHi _ _ =>
    [⟨F.ioIntHi.KEYID, .rw, 0, .any⟩,
     ⟨F.ioIntHi.RECORD, .rw, 0, .any⟩,
     ⟨F.ioIntHi.DENIED, .w1c, 0, .any⟩]
  | .epWinA _ _ =>
    [⟨F.epWinA.KEYID, .rw, 0, .any⟩,
     ⟨F.epWinA.TARGET, .rw, 0, .any⟩,
     ⟨F.epWinA.TYPE, .rw, 0, .any⟩,
     ⟨F.epWinA.W, .rw, 0, .any⟩,
     ⟨F.epWinA.R, .rw, 0, .any⟩,
     ⟨F.epWinA.FUNC, .rw, 0, .any⟩,
     ⟨F.epWinA.V, .rw, 0, .any⟩]
  | .epWinB _ _ =>
    [⟨F.epWinB.OFFSET, .rw, 0, .any⟩]
  | .epWinC _ _ =>
    [⟨F.epWinC.WORLD, .rwt, 0, .any⟩,
     ⟨F.epWinC.LOCKET, .rw, 0, .any⟩,
     ⟨F.epWinC.VMID, .rw, 0, .any⟩,
     ⟨F.epWinC.PAGES, .rw, 0, .any⟩] -- a value outside 1 to 2^28 is kept as written (log entry 104)
  | .epOut _ _ =>
    [⟨F.epOut.HADDR, .rw, 0, .any⟩,
     ⟨F.epOut.FUNC, .rw, 0, .any⟩,
     ⟨F.epOut.NS, .rw, 0, .any⟩,
     ⟨F.epOut.V, .rw, 0, .any⟩]
  | .epCfgm _ _ _ =>
    [⟨F.epCfgm.DATA, .ro, 0, .any⟩]
  | .l2Stat _ =>
    [⟨F.l2Stat.WAY_DIS, .ro, 0, .any⟩,
     ⟨F.l2Stat.DIS_REFUSED, .w1c, 0, .any⟩,
     ⟨F.l2Stat.L2_INIT_DONE, .ro, 0, .any⟩,
     ⟨F.l2Stat.L1D_INIT_DONE, .ro, 0, .any⟩,
     ⟨F.l2Stat.L1I_INIT_DONE, .ro, 0, .any⟩]
  | .l2Thresh =>
    [⟨F.l2Thresh.COUNT, .rw, 0x10, .any⟩]
  | .liuMerged _ =>
    [⟨F.liuMerged.COUNT, .rw, 0, .any⟩]
  | .liuVstat _ _ =>
    [⟨F.liuVstat.V1, .ro, 0, .any⟩,
     ⟨F.liuVstat.V0, .ro, 0, .any⟩]
  | .l3Policy _ =>
    [⟨F.l3Policy.THRESH, .rw, 0x20, .any⟩,
     ⟨F.l3Policy.FREE_ACCEPT, .rw, 1, .any⟩,
     ⟨F.l3Policy.MODE, .rw, 2, .ne 3⟩]
  | .l3Admit _ =>
    [⟨F.l3Admit.DECLINED, .ro, 0, .any⟩,
     ⟨F.l3Admit.ACCEPTED, .ro, 0, .any⟩]
  | .l3Lock _ =>
    [⟨F.l3Lock.WAYS, .rw, 0, .any⟩]
  | .l3Waypwr _ =>
    [⟨F.l3Waypwr.STATUS, .ro, 0, .any⟩,
     ⟨F.l3Waypwr.OFF, .ro, 0, .any⟩,
     ⟨F.l3Waypwr.REQ, .rw, 0, .any⟩]
  | .l3Stat _ =>
    [⟨F.l3Stat.WAY_DIS, .ro, 0, .any⟩,
     ⟨F.l3Stat.DIS_REFUSED, .w1c, 0, .any⟩,
     ⟨F.l3Stat.DIR_INIT_DONE, .ro, 0, .any⟩,
     ⟨F.l3Stat.INIT_DONE, .ro, 0, .any⟩]
  | .l3Thresh =>
    [⟨F.l3Thresh.COUNT, .rw, 0x10, .any⟩]
  | .l3Remap h =>
    [⟨F.l3Remap.MOVED, .ro, 0, .any⟩,
     ⟨F.l3Remap.SLICE, .ro, h.val, .any⟩]
  | .qcfg _ _ =>
    [⟨F.qcfg.KEY, .rw, 0, .any⟩,
     ⟨F.qcfg.BASE, .rw, 0, .any⟩,
     ⟨F.qcfg.CAP, .rw, 4, .range 4 13⟩,
     ⟨F.qcfg.NMODE, .rw, 0, .any⟩,
     ⟨F.qcfg.NCORE, .rw, 0, .any⟩,
     ⟨F.qcfg.NLVL, .rw, 1, .any⟩,
     ⟨F.qcfg.NPRIO, .rw, 0, .any⟩,
     ⟨F.qcfg.DMCH, .rw, 0, .any⟩,
     ⟨F.qcfg.KIND, .rw, 0, .any⟩,
     ⟨F.qcfg.V, .rw, 0, .any⟩]
  | .qown _ _ =>
    [⟨F.qown.WORLD, .rwt, 0, .any⟩,
     ⟨F.qown.PUTSCOPE, .rw, 0, .any⟩,
     ⟨F.qown.LOCKET, .rw, 0, .any⟩,
     ⟨F.qown.VMID, .rw, 0, .any⟩]
  | .qnaddr _ _ =>
    [⟨F.qnaddr.ADDR, .rw, 0, .any⟩]
  | .qstat _ _ =>
    [⟨F.qstat.FULLCNT, .ro, 0, .any⟩,
     ⟨F.qstat.PERR, .ro, 0, .any⟩,
     ⟨F.qstat.BROKEN, .ro, 0, .any⟩,
     ⟨F.qstat.CFGERR, .ro, 0, .any⟩,
     ⟨F.qstat.CLAIMED, .ro, 0, .any⟩,
     ⟨F.qstat.MSGS, .ro, 0, .any⟩,
     ⟨F.qstat.WORDS, .ro, 0, .any⟩]

/-- The reset value of a register: its fields' reset values, reserved bits 0. -/
def resetOf (fs : List Field) : BitVec 64 := fs.foldl (fun w f => setF w f.at_ f.reset) 0

def Reg.reset (r : Reg) : BitVec 64 := resetOf r.fields

/-! The numbers of the core system registers that have one number (R99); the others are given by `Sys` functions. -/
abbrev Sys.fcsr : Nat := 0x0003
abbrev Sys.pmcyc : Nat := 0x0068
abbrev Sys.pmcmt : Nat := 0x0069
abbrev Sys.time : Nat := 0x0070
abbrev Sys.status : Nat := 0x4005
abbrev Sys.mattr : Nat := 0x4010
abbrev Sys.s2mattr : Nat := 0x8010
abbrev Sys.tctl : Nat := 0x4020
abbrev Sys.htctl : Nat := 0x8024
abbrev Sys.mtctl : Nat := 0xC020
abbrev Sys.troot0 : Nat := 0x4021
abbrev Sys.troot1 : Nat := 0x4022
abbrev Sys.s2root : Nat := 0x8021
abbrev Sys.htroot : Nat := 0x8025
abbrev Sys.mtroot : Nat := 0xC021
abbrev Sys.spantbl : Nat := 0x4023
abbrev Sys.s2spantbl : Nat := 0x8022
abbrev Sys.tfinfo : Nat := 0x4028
abbrev Sys.tfipa : Nat := 0x4029
abbrev Sys.s2ctl : Nat := 0x8020
abbrev Sys.pdt : Nat := 0x4040
abbrev Sys.predctl : Nat := 0x4041
abbrev Sys.pmctl : Nat := 0x4050
abbrev Sys.pmovf : Nat := 0x406A
abbrev Sys.htrap : Nat := 0x8007
abbrev Sys.vcpu : Nat := 0x8034
abbrev Sys.dbctl : Nat := 0x8035

/-- The per-level registers at the numbers of L1, L2 and L3 (R272, R306, R311, R436). -/
def Sys.epcAt (lvl : Nat) : Nat := if lvl = 3 then 0xC000 else if lvl = 2 then 0x8000 else 0x4000
def Sys.ecauseAt (lvl : Nat) : Nat := if lvl = 3 then 0xC001 else if lvl = 2 then 0x8001 else 0x4001
def Sys.eaddrAt (lvl : Nat) : Nat := if lvl = 3 then 0xC002 else if lvl = 2 then 0x8002 else 0x4002
def Sys.estateAt (lvl : Nat) : Nat := if lvl = 3 then 0xC003 else if lvl = 2 then 0x8003 else 0x4003
def Sys.vbaseAt (lvl : Nat) : Nat := if lvl = 3 then 0xC004 else if lvl = 2 then 0x8004 else 0x4004
def Sys.scratchAt (lvl : Nat) : Nat := if lvl = 3 then 0xC006 else if lvl = 2 then 0x8006 else 0x4006
def Sys.ipmrAt (lvl : Nat) : Nat := if lvl = 3 then 0xC008 else if lvl = 2 then 0x8008 else 0x4008
def Sys.ieoiAt (lvl : Nat) : Nat := if lvl = 3 then 0xC009 else if lvl = 2 then 0x8009 else 0x4009
def Sys.irprAt (lvl : Nat) : Nat := if lvl = 3 then 0xC00A else if lvl = 2 then 0x800A else 0x400A
def Sys.mcinfoAt (lvl : Nat) : Nat := if lvl = 3 then 0xC02B else if lvl = 2 then 0x802B else 0x402B
def Sys.tmrcmpAt (lvl : Nat) : Nat := if lvl = 3 then 0xC030 else if lvl = 2 then 0x8030 else 0x4030
def Sys.tmrctlAt (lvl : Nat) : Nat := if lvl = 3 then 0xC031 else if lvl = 2 then 0x8031 else 0x4031
/-- The copy of SYS.TFINFO of a level (R184): the L2 and L3 copies are kept under numbers of their own. -/
def Sys.tfinfoAt (lvl : Nat) : Nat := if lvl = 3 then 0xC028 else if lvl = 2 then 0x8028 else 0x4028
/-- The copy of SYS.TFIPA of a level (R184): the L2 and L3 copies are kept under numbers of their own. -/
def Sys.tfipaAt (lvl : Nat) : Nat := if lvl = 3 then 0xC029 else if lvl = 2 then 0x8029 else 0x4029

/-- The fields of each core system register; `none` where no register has the number (R99). -/
def Sys.fields (num : Nat) : Option (List Field) :=
  if num = 0x0003 then
    some [⟨G.fcsr.TEN, .rw, 0, .any⟩,
     ⟨G.fcsr.RM, .rw, 0, .le 4⟩,
     ⟨G.fcsr.FLAGS, .rw, 0, .any⟩]
  else   if 0x0060 ≤ num ∧ num ≤ 0x0067 then
    some [⟨G.pmcnt.COUNT, .rw, 0, .any⟩]
  else   if num = 0x0068 then
    some [⟨G.pmcyc.COUNT, .rw, 0, .any⟩]
  else   if num = 0x0069 then
    some [⟨G.pmcmt.COUNT, .rw, 0, .any⟩]
  else   if num = 0x0070 then
    some [⟨G.time.TIME, .ro, 0, .any⟩]
  else   if num = 0x4000 ∨ num = 0x8000 ∨ num = 0xC000 then
    some [⟨G.epc.PC, .rw, 0, .any⟩]
  else   if num = 0x4001 ∨ num = 0x8001 ∨ num = 0xC001 then
    some [⟨G.ecause.VECTOR, .rw, 0, .any⟩,
     ⟨G.ecause.INNER, .rw, 0, .any⟩,
     ⟨G.ecause.CODE, .rw, 0, .any⟩]
  else   if num = 0x4002 ∨ num = 0x8002 ∨ num = 0xC002 then
    some [⟨G.eaddr.ADDR, .rw, 0, .any⟩]
  else   if num = 0x4003 ∨ num = 0x8003 ∨ num = 0xC003 then
    some [⟨G.estate.PLK, .rw, 0, .any⟩,
     ⟨G.estate.PIE, .rw, 0, .any⟩,
     ⟨G.estate.PWORLD, .rw, 0, .any⟩,
     ⟨G.estate.PLVL, .rw, 0, .any⟩]
  else   if num = 0x4004 ∨ num = 0x8004 ∨ num = 0xC004 then
    some [⟨G.vbase.BASE, .rw, 0, .any⟩]
  else   if num = 0x4005 then
    some [⟨G.status.INLK, .ro, 0, .any⟩,
     ⟨G.status.IE, .rw, 0, .any⟩,
     ⟨G.status.WORLD, .ro, 1, .any⟩,
     ⟨G.status.LVL, .ro, 3, .any⟩]
  else   if num = 0x4006 ∨ num = 0x8006 ∨ num = 0xC006 then
    some [⟨G.scratch.DATA, .rw, 0, .any⟩]
  else   if num = 0x4008 ∨ num = 0x8008 ∨ num = 0xC008 then
    some [⟨G.ipmr.PMASK, .rw, 0, .any⟩]
  else   if num = 0x4009 ∨ num = 0x8009 ∨ num = 0xC009 then
    some [⟨G.ieoi.VECTOR, .wo, 0, .any⟩]
  else   if num = 0x400A ∨ num = 0x800A ∨ num = 0xC00A then
    some [⟨G.irpr.RPRIO, .ro, 0, .any⟩]
  else   if num = 0x4010 then
    some [⟨G.mattr.ENT0, .rw, 0, .any⟩,
     ⟨G.mattr.ENT1, .rw, 0, .any⟩,
     ⟨G.mattr.ENT2, .rw, 0, .any⟩,
     ⟨G.mattr.ENT3, .rw, 0, .any⟩,
     ⟨G.mattr.ENT4, .rw, 0, .any⟩,
     ⟨G.mattr.ENT5, .rw, 0, .any⟩,
     ⟨G.mattr.ENT6, .rw, 0, .any⟩,
     ⟨G.mattr.ENT7, .rw, 0, .any⟩]
  else   if num = 0x8010 then
    some [⟨G.s2mattr.ENT0, .rw, 0, .any⟩,
     ⟨G.s2mattr.ENT1, .rw, 0, .any⟩,
     ⟨G.s2mattr.ENT2, .rw, 0, .any⟩,
     ⟨G.s2mattr.ENT3, .rw, 0, .any⟩,
     ⟨G.s2mattr.ENT4, .rw, 0, .any⟩,
     ⟨G.s2mattr.ENT5, .rw, 0, .any⟩,
     ⟨G.s2mattr.ENT6, .rw, 0, .any⟩,
     ⟨G.s2mattr.ENT7, .rw, 0, .any⟩]
  else   if num = 0x4020 then
    some [⟨G.tctl.ASID, .rw, 0, .any⟩,
     ⟨G.tctl.SPAN_EN, .rw, 0, .any⟩,
     ⟨G.tctl.HAD, .rw, 0, .any⟩,
     ⟨G.tctl.EN1, .rw, 0, .any⟩,
     ⟨G.tctl.EN0, .rw, 0, .any⟩,
     ⟨G.tctl.TEN, .rw, 0, .any⟩]
  else   if num = 0x8024 then
    some [⟨G.htctl.HAD, .rw, 0, .any⟩,
     ⟨G.htctl.EN0, .rw, 0, .any⟩,
     ⟨G.htctl.TEN, .rw, 0, .any⟩]
  else   if num = 0xC020 then
    some [⟨G.mtctl.HAD, .rw, 0, .any⟩,
     ⟨G.mtctl.EN0, .rw, 0, .any⟩,
     ⟨G.mtctl.TEN, .rw, 0, .any⟩]
  else   if num = 0x4021 then
    some [⟨G.troot0.KEYID, .rw, 0, .any⟩,
     ⟨G.troot0.TABLE, .rw, 0, .any⟩]
  else   if num = 0x4022 then
    some [⟨G.troot1.KEYID, .rw, 0, .any⟩,
     ⟨G.troot1.TABLE, .rw, 0, .any⟩]
  else   if num = 0x8021 then
    some [⟨G.s2root.KEYID, .rw, 0, .any⟩,
     ⟨G.s2root.TABLE, .rw, 0, .any⟩]
  else   if num = 0x8025 then
    some [⟨G.htroot.KEYID, .rw, 0, .any⟩,
     ⟨G.htroot.TABLE, .rw, 0, .any⟩]
  else   if num = 0xC021 then
    some [⟨G.mtroot.KEYID, .rw, 0, .any⟩,
     ⟨G.mtroot.TABLE, .rw, 0, .any⟩]
  else   if num = 0x4023 then
    some [⟨G.spantbl.KEYID, .rw, 0, .any⟩,
     ⟨G.spantbl.ADDR, .rw, 0, .any⟩]
  else   if num = 0x8022 then
    some [⟨G.s2spantbl.KEYID, .rw, 0, .any⟩,
     ⟨G.s2spantbl.ADDR, .rw, 0, .any⟩]
  else   if num = 0x4028 ∨ num = 0x8028 ∨ num = 0xC028 then
    some [⟨G.tfinfo.SPAN, .rw, 0, .any⟩,
     ⟨G.tfinfo.IPAV, .rw, 0, .any⟩,
     ⟨G.tfinfo.WALK, .rw, 0, .any⟩,
     ⟨G.tfinfo.STAGE, .rw, 0, .any⟩,
     ⟨G.tfinfo.WRITE, .rw, 0, .any⟩,
     ⟨G.tfinfo.FETCH, .rw, 0, .any⟩,
     ⟨G.tfinfo.SRC, .rw, 7, .any⟩,
     ⟨G.tfinfo.KIND, .rw, 0, .le 10⟩]
  else   if num = 0x4029 ∨ num = 0x8029 ∨ num = 0xC029 then
    some [⟨G.tfipa.IPA, .rw, 0, .any⟩]
  else   if 0x4100 ≤ num ∧ num ≤ 0x413C ∧ (num - 0x4100) % 4 = 0 then
    some [⟨G.spanBase.ADDR, .rw, 0, .any⟩]
  else   if 0x4101 ≤ num ∧ num ≤ 0x413D ∧ (num - 0x4101) % 4 = 0 then
    some [⟨G.spanLimit.ADDR, .rw, 0, .any⟩]
  else   if 0x4102 ≤ num ∧ num ≤ 0x413E ∧ (num - 0x4102) % 4 = 0 then
    some [⟨G.spanMap.KEYID, .rw, 0, .any⟩,
     ⟨G.spanMap.PBASE, .rw, 0, .any⟩,
     ⟨G.spanMap.DLOG, .rw, 0, .any⟩,
     ⟨G.spanMap.D, .rw, 0, .any⟩,
     ⟨G.spanMap.A, .rw, 0, .any⟩,
     ⟨G.spanMap.ATTR, .rw, 0, .any⟩,
     ⟨G.spanMap.X, .rw, 0, .any⟩,
     ⟨G.spanMap.W, .rw, 0, .any⟩,
     ⟨G.spanMap.U, .rw, 0, .any⟩,
     ⟨G.spanMap.V, .rw, 0, .any⟩]
  else   if 0x4103 ≤ num ∧ num ≤ 0x413F ∧ (num - 0x4103) % 4 = 0 then
    some [⟨G.spanDlog.ADDR, .rw, 0, .any⟩]
  else   if 0x8100 ≤ num ∧ num ≤ 0x811C ∧ (num - 0x8100) % 4 = 0 then
    some [⟨G.s2spanBase.ADDR, .rw, 0, .any⟩]
  else   if 0x8101 ≤ num ∧ num ≤ 0x811D ∧ (num - 0x8101) % 4 = 0 then
    some [⟨G.s2spanLimit.ADDR, .rw, 0, .any⟩]
  else   if 0x8102 ≤ num ∧ num ≤ 0x811E ∧ (num - 0x8102) % 4 = 0 then
    some [⟨G.s2spanMap.KEYID, .rw, 0, .any⟩,
     ⟨G.s2spanMap.PBASE, .rw, 0, .any⟩,
     ⟨G.s2spanMap.DLOG, .rw, 0, .any⟩,
     ⟨G.s2spanMap.D, .rw, 0, .any⟩,
     ⟨G.s2spanMap.A, .rw, 0, .any⟩,
     ⟨G.s2spanMap.ATTR, .rw, 0, .any⟩,
     ⟨G.s2spanMap.X, .rw, 0, .any⟩,
     ⟨G.s2spanMap.W, .rw, 0, .any⟩,
     ⟨G.s2spanMap.U, .rw, 0, .any⟩,
     ⟨G.s2spanMap.V, .rw, 0, .any⟩]
  else   if 0x8103 ≤ num ∧ num ≤ 0x811F ∧ (num - 0x8103) % 4 = 0 then
    some [⟨G.s2spanDlog.ADDR, .rw, 0, .any⟩]
  else   if num = 0x8020 then
    some [⟨G.s2ctl.VMID, .rw, 0, .le 65534⟩,
     ⟨G.s2ctl.SPAN_EN, .rw, 0, .any⟩,
     ⟨G.s2ctl.HAD, .rw, 0, .any⟩,
     ⟨G.s2ctl.S2EN, .rw, 0, .any⟩]
  else   if num = 0x402B ∨ num = 0x802B ∨ num = 0xC02B then
    some [⟨G.mcinfo.INPROG, .rw, 0, .any⟩,
     ⟨G.mcinfo.RESTART, .rw, 0, .any⟩,
     ⟨G.mcinfo.SLOTV, .rw, 0, .any⟩,
     ⟨G.mcinfo.SLOT, .rw, 0, .any⟩,
     ⟨G.mcinfo.KIND, .rw, 0, .any⟩]
  else   if num = 0x4030 ∨ num = 0x8030 ∨ num = 0xC030 then
    some [⟨G.tmrcmp.CMP, .rw, 0xffffffffffffffff, .any⟩]
  else   if num = 0x4031 ∨ num = 0x8031 ∨ num = 0xC031 then
    some [⟨G.tmrctl.PRIO, .rw, 0, .any⟩,
     ⟨G.tmrctl.FIRED, .ro, 0, .any⟩,
     ⟨G.tmrctl.EN, .rw, 0, .any⟩]
  else   if num = 0x4040 then
    some [⟨G.pdt.TAG, .rw, 0, .any⟩]
  else   if num = 0x4041 then
    some [⟨G.predctl.BARRED, .ro, 0, .any⟩,
     ⟨G.predctl.LB_DIS, .rw, 0, .any⟩,
     ⟨G.predctl.CLR_ON_SWITCH, .rw, 0, .any⟩]
  else   if num = 0x4050 then
    some [⟨G.pmctl.OVF_PRIO, .rw, 8, .range 1 15⟩,
     ⟨G.pmctl.OVF_IE, .rw, 0, .any⟩,
     ⟨G.pmctl.VEC, .rw, 0x20, .range 32 511⟩,
     ⟨G.pmctl.TW_COUNT, .rwt, 0, .any⟩,
     ⟨G.pmctl.UEN, .rw, 0, .any⟩,
     ⟨G.pmctl.EN, .rw, 0, .any⟩]
  else   if 0x4058 ≤ num ∧ num ≤ 0x405F then
    some [⟨G.pmevsel.LVL, .rw, 0, .any⟩,
     ⟨G.pmevsel.EVENT, .rw, 0, .oneOf [0, 1, 2, 3, 4, 0x10, 0x11, 0x12, 0x13, 0x14, 0x15, 0x16, 0x20, 0x21, 0x30, 0x31, 0x32, 0x33, 0x34, 0x35, 0x36, 0x37, 0x38, 0x39, 0x3A, 0x3B, 0x3C, 0x3D, 0x40, 0x41, 0x42, 0x43, 0x44, 0x50, 0x51, 0x60, 0x61, 0x70, 0x71, 0x80, 0x81, 0x82, 0x83]⟩]
  else   if num = 0x406A then
    some [⟨G.pmovf.CMT, .w1c, 0, .any⟩,
     ⟨G.pmovf.CYC, .w1c, 0, .any⟩,
     ⟨G.pmovf.CNT, .w1c, 0, .any⟩]
  else   if num = 0x8007 then
    some [⟨G.htrap.TPRED, .rw, 0, .any⟩,
     ⟨G.htrap.TTCALL, .rw, 0, .any⟩,
     ⟨G.htrap.TSW, .rw, 0, .any⟩,
     ⟨G.htrap.TPMU, .rw, 0, .any⟩,
     ⟨G.htrap.TTCTL, .rw, 0, .any⟩,
     ⟨G.htrap.TMATTR, .rw, 0, .any⟩,
     ⟨G.htrap.TWFI, .rw, 0, .any⟩]
  else   if num = 0x8034 then
    some [⟨G.vcpu.KEYID, .rw, 0, .any⟩,
     ⟨G.vcpu.ADDR, .rw, 0, .any⟩,
     ⟨G.vcpu.EN, .rw, 0, .any⟩]
  else   if num = 0x8035 then
    some [⟨G.dbctl.GUEST, .rw, 0, .any⟩]
  else none

end Sys2Proof.Machine
end

