-- ==== Sys2Proof/Machine/CoreState.lean ====
section
/-! DEFINITION. The state of one core: architectural registers, interrupt unit, and the structures that cache
translations, predictions and stores. -/

namespace Sys2Proof.Machine

/-- What a core is doing: held in reset (R37), running, waiting in WFI (R306) or WFQ (R335), stopped by the fatal
sequence (R434), evicted from the trusted world with nothing to return to (R297), halted by debug (R457). -/
inductive RunState where
  | held
  | running
  | wfi
  | wfq
  | stopped
  | evicted
  | halted
deriving DecidableEq, Repr

/-- The locket a core is inside: its ID, the thread slot, the address of the LKENTER and that instruction's rd
(R289-R291). -/
structure LkCtx where
  id : Nat
  slot : Nat
  enter : DWord
  rd : BitVec 5
deriving DecidableEq, Repr

/-- The world return record (R296), with the way the trusted world was entered (R297): by TCALL, or by the trusted
interrupt with a vector. -/
structure WorldRet where
  pc : DWord
  lvl : Nat
  ie : Bool
  g : Map (BitVec 5) DWord
  v : Map (BitVec 5) VWord
  fcsr : DWord
  byCall : Bool
  vec : Nat
deriving DecidableEq, Repr

/-- An interrupt pending or in service in a local interrupt unit (R303, R305): its level is the target while it is
pending and the level it was taken at while it is in service; `tmr` is the level of the core timer whose request it is,
0 for any other (R312). -/
structure IntBit where
  world : Bool
  vec : Nat
  lvl : Nat
  prio : Nat
  tmr : Nat
deriving DecidableEq, Repr

/-- The virtual state a core holds while SYS.VCPU.EN = 1 (R314): the notice vector, the classes in service, and one
pending bit for each virtual vector. -/
structure VState where
  nvec : Nat
  serv : BitVec 16
  pend : BitVec 512
deriving DecidableEq, Repr

/-- A core (R67, R270, R272, R296, R303, R335). System registers are keyed by number and, for the registers banked per
world (R119), by the world of the copy. SYS.STATUS is held in `lvl`, `world`, `ie` and `lk`. -/
structure Core where
  run : RunState
  pc : DWord
  g : Map (BitVec 5) DWord
  v : Map (BitVec 5) VWord
  lvl : Nat
  world : Bool
  ie : Bool
  lk : Option LkCtx
  wret : Option WorldRet
  barred : Bool
  sys : Map (Nat × Bool) DWord
  pend : List IntBit
  serv : List IntBit
  latchN : Bool
  latchT : Bool
  vcpu : VState
  mchecks : List DWord
  /-- the world whose software last wrote SYS.PMCTL: it owns the monitor registers (R147, log entry 47) -/
  pmWorld : Bool
deriving DecidableEq, Repr

/-- A core at reset: held at level L3 of the trusted world (R37, R272), registers at the values log entry 3 names. -/
def Core.reset : Core :=
  { run := .held, pc := 0, g := [], v := [], lvl := 3, world := true, ie := false, lk := none, wret := none,
    barred := false, sys := [], pend := [], serv := [], latchN := false, latchT := false,
    vcpu := { nvec := 0, serv := 0, pend := 0 }, mchecks := [], pmWorld := false }

/-- The arrays that cache final translations (R204). -/
inductive TlbArray where
  | itlb | dtlb | l2 | giant
deriving DecidableEq, Repr

/-- A cached final translation or stage-2 leaf (R204): the array that holds it, its tags under R183, the page it covers, what it maps to, and the
leaf entries its walk read, with their addresses and keys, for R196. -/
structure TlbEntry where
  arr : TlbArray
  world : Bool
  vmid : Nat
  asid : Nat
  glob : Bool
  /-- true for a stage-2 leaf translation of an IPA page -/
  s2only : Bool
  /-- page number of the 4 KiB page of the first address covered, and the number of address bits covered -/
  vpage : Nat
  bits : Nat
  /-- stage-1 leaf: value, address, key ID; none where stage 1 was a span or the identity -/
  e1 : Option (DWord × Nat × Nat)
  /-- stage-2 leaf: value, address -/
  e2 : Option (DWord × Nat)
  lvl1 : Nat
  lvl2 : Nat
  /-- the IPA page of the leaf (stage-1 output) -/
  ipa : Nat
  used : Nat
deriving DecidableEq, Repr

/-- A walk-cache entry (R204): a table entry at L0-L2 of either stage. -/
structure WalkEntry where
  world : Bool
  vmid : Nat
  asid : Nat
  stage2 : Bool
  lvl : Nat
  /-- the address bits above the level's index, index included -/
  prefix_ : Nat
  high : Bool
  next : Nat
  /-- physical address and key of the next table (stage 1 under stage 2 keeps its IPA in `next`) -/
  used : Nat
deriving DecidableEq, Repr

/-- A dirty-log cache entry (R203). -/
structure DlogEntry where
  world : Bool
  vmid : Nat
  stage2 : Bool
  span : Nat
  chunk : Nat
deriving DecidableEq, Repr

/-- The identity of an access: that of R271 with the key ID and memory type it settles to (R179). -/
structure Ident where
  world : Bool
  vmid : Nat
  locket : Nat
deriving DecidableEq, Repr

/-- A merge-buffer entry (R169, R170, R179); `lows` and `highs` number the split stores whose lower or higher part it
holds, `age` orders entries by the commit of their first store (R176, R182). -/
structure MbEntry where
  line : Nat
  id : Ident
  key : Nat
  mtype : Nat
  data : Line
  mask : BitVec 64
  closed : Bool
  lows : List Nat
  highs : List Nat
  age : Nat := 0
deriving DecidableEq, Repr

/-- A tagged prediction entry (R114). -/
structure TagEntry where
  tag : Nat
  pdt : Nat
  ctr : BitVec 3
  useful : BitVec 2
deriving DecidableEq, Repr

/-- The types of branch that a target-buffer entry records (R87, R114). -/
inductive BranchType where
  | cond | jump | call | ret | indirect
deriving DecidableEq, Repr

/-- A target-buffer or indirect-predictor entry (R114, R115). -/
structure TargetEntry where
  tag : Nat
  pdt : Nat
  kind : BranchType
  target : BitVec 48
deriving DecidableEq, Repr

/-- A return-stack entry (R114, R115). -/
structure RasEntry where
  pdt : Nat
  addr : BitVec 48
deriving DecidableEq, Repr

/-- A loop that may come to qualify (R111, R112): its target T and its branch P; the iterations in a row whose end was
predicted taken to T; of the running iteration its µops, its taken branches, the outcomes of its conditional branches and
the physical lines its instructions came from. -/
structure LoopCand where
  start : DWord
  stop : DWord
  count : Nat
  uops : Nat
  taken : Nat
  path : List Bool
  lines : List Nat
deriving DecidableEq, Repr

/-- The loop whose µops the buffer replays (R112, R113): T and P, the captured outcomes, how many of them the running
iteration has passed, and the lines its instructions came from. -/
structure LoopRun where
  start : DWord
  stop : DWord
  path : List Bool
  at_ : Nat
  lines : List Nat
deriving DecidableEq, Repr

/-- The loop buffer and what decides what it takes in (R111-R113). -/
structure LoopBuf where
  cands : List LoopCand
  run : Option LoopRun
deriving DecidableEq, Repr

def LoopBuf.reset : LoopBuf := { cands := [], run := none }

/-- The branch predictor of a core (R108, R114-R116). -/
structure Predictor where
  base0 : Map Nat (BitVec 2)
  base1 : Map Nat (BitVec 2)
  tagged : Map (Nat × Nat) TagEntry
  btb : Map Nat TargetEntry
  ind : Map Nat TargetEntry
  ras : List RasEntry
  hist : BitVec 160
  itargets : List DWord
deriving DecidableEq, Repr

/-- The L2 request port (R129-R132): the cycles in a row that an instruction-class request has waited without a grant,
those that the prefetch request at its head has waited, and whether a waiting instruction-class request was granted ahead
of data before the fetch that it serves (log entry 115). -/
structure L2Port where
  instr : Nat
  prefetch : Nat
  ahead : Bool := false
deriving DecidableEq, Repr

/-- A gathered Device-G write that waits at the head of the store queue (R171): its 64-byte block, identity, bytes, and its
age among the entries of the merge buffer (R182). -/
structure Gathered where
  block : Nat
  id : Ident
  key : Nat
  data : Line
  mask : BitVec 64
  age : Nat := 0
deriving DecidableEq, Repr

/-- A performance event that a core has met (R148-R150): how often, the level it ran at, whether it counts there, and whether
it belongs to a store that had committed before. -/
structure Met where
  ev : Nat
  amt : Nat := 1
  lvl : Nat
  counts : Bool
  past : Bool := false
deriving DecidableEq, Repr

/-- Sizes of R108 that bound what a core has in flight: reorder buffer, physical registers, scheduler entries, load and
store queue. -/
def robSize : Nat := 512
def intPhysRegs : Nat := 384
def vecPhysRegs : Nat := 320
def schedulerSize : Nat := 4 * 48
def loadQueueSize : Nat := 192
def storeQueueSize : Nat := 128

/-- The structures of a core that hold copies of what lies elsewhere, or stores on their way. -/
structure UCore where
  tlb : List TlbEntry
  walks : List WalkEntry
  dlog : List DlogEntry
  mbuf : List MbEntry
  pred : Predictor
  loop : LoopBuf
  /-- the ownership check cache (R280): first page, last page -/
  own : List (Nat × Nat)
  /-- page, key and identity of the committed demand accesses that trained the prefetcher, newest last (R217) -/
  trained : List (Nat × Nat × Ident)
  port : L2Port
  gath : Option Gathered
  /-- lines and bytes of the newest stores, newest last: those a younger load may have passed (R126) -/
  stores : List (Nat × BitVec 64)
  /-- performance events met by the attempt under way (R149) -/
  seen : List Met
  stamp : Nat
deriving DecidableEq, Repr

def Predictor.reset : Predictor :=
  { base0 := [], base1 := [], tagged := [], btb := [], ind := [], ras := [], hist := 0, itargets := [] }

def UCore.reset : UCore :=
  { tlb := [], walks := [], dlog := [], mbuf := [], pred := Predictor.reset,
    loop := LoopBuf.reset, own := [], trained := [], port := { instr := 0, prefetch := 0 }, gath := none, stores := [],
    seen := [], stamp := 0 }

end Sys2Proof.Machine
end

