-- ==== Sys2Proof/Machine/State.lean ====
section
/-! DEFINITION. The state of the block: every register, buffer, queue, pin and unit that the spec gives the chip, as
plain data, with the queue of waiting commands; the reasons a step can stop; and the state after reset. -/

namespace Sys2Proof.Machine

/-- Why the machine stops. No command of the block stops it: what the spec calls a fault is an effect on the state. -/
inductive Fault where
  /-- Raised by nothing: the block's faults (R275, R429) are effects. Safe. -/
  | stopped
deriving DecidableEq, Repr

/-- Why a command has no meaning. -/
inductive Refusal where
  /-- Raised by an arm of `exec` whose command has no meaning yet. Safe: the machine stops. -/
  | notModelled (mnemonic : String)
deriving DecidableEq, Repr

/-! ### Memory and caches -/

/-- An interleave set (R350, R370): its base and size in the address map, and its members in order. -/
structure MemSet where
  base : Nat
  size : Nat
  members : List Nat
deriving DecidableEq, Repr

/-- What memory, or an older copy, holds below newer data of a line (R231, R284): its data, key and key generation, and its
poison marks. -/
structure Below where
  val : Line
  key : Option (Nat × Nat)
  poison : Option (BitVec 32) × Option (BitVec 32)
deriving DecidableEq, Repr

/-- Memory as every coherent reader sees it, and what lies beneath: for a line that some cache holds dirty, the older
contents of memory; the key and key generation a line was last written under; poisoned 32-byte halves with the bytes
written since; the memory map of phase 7 (R216, R231, R350, R354, R365, R435, R465, R466). -/
structure MemState where
  mem : List Host.Cell
  stale : Map Nat Below
  lkey : Map Nat (Nat × Nat)
  keyGen : Map Nat Nat
  /-- how often every key was cleared at once (R31) -/
  epoch : Nat
  poison : Map Nat (BitVec 32)
  /-- errors that stand in DRAM and no read has met, by channel and line (R353, R498) -/
  latent : Map (Nat × Nat) DramErr
  dram : List MemSet
  cxl : List MemSet
  fr : Option Nat
deriving DecidableEq, Repr

/-- The coherence state of a line in a private hierarchy (R218). -/
inductive Moesi where
  | m | o | e | s
deriving DecidableEq, Repr

/-- A line of a private hierarchy (R214, R216, R218): state, key, L2 way; its L1D way and whether that copy is newer than
the L2's, with the L2's older copy; its L1I way. -/
structure PrivLine where
  st : Moesi
  key : Nat
  way : Nat
  l1d : Option (Nat × Bool)
  l1i : Option Nat
  l2old : Option Below
deriving DecidableEq, Repr

/-- A directory entry (R219). -/
structure DirEntry where
  key : Nat
  owner : Option Nat
  sharers : List Nat
  coarse : Option (BitVec 32)
  used : Nat
deriving DecidableEq, Repr

/-- A slot of an L3 slice that holds a line, or that is lent for it (R226-R236). `old` is the copy, with its poison marks,
where a private hierarchy holds newer data. -/
structure L3Line where
  way : Nat
  dirty : Bool
  lent : Bool
  key : Nat
  old : Option Below
deriving DecidableEq, Repr

/-- Caches and directory (R213-R242). -/
structure CohState where
  priv : Map (Nat × Nat) PrivLine
  dir : Map Nat DirEntry
  l3 : Map Nat L3Line
  /-- victims in the L2s' write-back buffers (R222): core and line, whether dirty, key -/
  wbuf : Map (Nat × Nat) (Bool × Nat)
  /-- pseudo-LRU bits per slice and set (R230) -/
  plru : Map (Nat × Nat) (BitVec 16)
  /-- reuse counters and shadows per slice and region (R228) -/
  ru : Map (Nat × Nat) Nat
  shadow : Map (Nat × Nat) (List Nat)
  /-- corrected errors of a way in the window (R242): L3 or L2, index, way -/
  wayErr : Map (Bool × Nat × Nat) Nat
  /-- RTCNT of "way disable refused" events per slice (R447) -/
  refused : Map Nat (List DWord)
  /-- way whose power change is under way, per slice (R237) -/
  wayBusy : Map Nat Nat
  /-- clean victims accepted and declined per slice (R228) -/
  accepts : Map Nat (Nat × Nat)
  /-- slice whose retirement is under way (R447) -/
  retiring : Option Nat
  stamp : Nat
deriving DecidableEq, Repr

/-! ### Mesh -/

/-- A packet (R248): the fields of its header, and its data flits. -/
structure Packet where
  dst : Stop
  dport : BitVec 2
  src : Stop
  sport : BitVec 2
  cmd : BitVec 8
  tag : BitVec 12
  gen : BitVec 4
  world : Bool
  vmid : BitVec 16
  locket : BitVec 12
  key : BitVec 12
  mtype : BitVec 2
  age : BitVec 4 := 0
  addr : BitVec 52
  aux : BitVec 32 := 0
  bmask : BitVec 64 := 0
  dpoison : BitVec 8 := 0
  data : List (BitVec 256) := []
deriving DecidableEq, Repr

/-- The response that a target or a router has given to a request (R250, R252): the state granted, the poison of each data
flit and the flits; AUX of an acknowledgement; an error status. -/
inductive Answer where
  | data (granted : BitVec 2) (dpoison : BitVec 2) (flits : List (BitVec 256))
  | ack (aux : BitVec 32)
  | err (status : Nat)
deriving DecidableEq, Repr

/-- An open or quarantined transaction of an initiator (R258-R267). While it is open its initiator keeps buffer space for
the response (R244). -/
structure Txn where
  pkt : Packet
  /-- TIME of its class in µs when it was issued (R258) -/
  time : Nat
  /-- half of it, while its home holds a request to memory for it (R259) -/
  inner : Option Nat
  paused : Bool
  quarantined : Bool
  /-- the request has reached its target -/
  arrived : Bool
  /-- the response that has reached its initiator -/
  answer : Option Answer
  /-- the request went on ESC (R243) -/
  esc : Bool := false
deriving DecidableEq, Repr

/-- What a request packet asks of its target beside its header and address (R250). -/
inductive Ask where
  | rdShared (instr : Bool) (err : SliceErr)
  | rdUnique
  | rdNc (count : BitVec 7)
  | wrLine (data : BitVec 512)
  /-- the victim of a write-back buffer: WR_LINE of dirty data, or VICTIM_CLEAN -/
  | victim (dirty : Bool) (err : SliceErr)
  | wrPartial (data : BitVec 512) (mask : BitVec 64)
  | atomic (op : BitVec 4) (ord : BitVec 2) (size8 : Bool) (operand compare : BitVec 128)
  | msg (handle : BitVec 32) (words : List (BitVec 56)) (more part1 : Bool)
  | qread (handle : BitVec 32) (bad : Bool)
  | doorbell (mask : BitVec 256) (aux : BitVec 32)
  | cmoClean
  | cmoInv
  | cmoClinv
  | preload
deriving DecidableEq, Repr

/-- A snoop on its way to a core, or the answer on its way back: its core and line, whether it is SNP_INV; and for an answer
what the core held: whether dirty, whether alone, and its key (R220, R222). -/
structure SnoopMsg where
  core : Nat
  line : Nat
  inv : Bool
  found : Option (Bool × Bool × Nat) := none
deriving DecidableEq, Repr

/-- A snoop that its home awaits an answer for (R258, R263): TIME when it was issued, whether its timer is paused, whether the
directory entry recorded the core as owner, and whether the core has given up dirty data for it. -/
structure OpenSnoop where
  time : Nat
  paused : Bool
  owner : Bool
  taken : Bool
deriving DecidableEq, Repr

/-- A packet that waits at a router, or still with its sender (R254, R257, R265, R266): the input buffer, its channel, the
power domain its destination port leads into; whether it is the packet that the router holds for a wake; its initiator; and
the request, the INT, the response or the snoop it carries. -/
structure HeldPacket where
  pkt : Packet
  vc : BitVec 2
  dom : Nat
  init : Nat
  at_ : Option BufId := none
  wake : Bool := false
  req : Option Ask := none
  int : Option HeldInt := none
  rsp : Option Answer := none
  snoop : Option SnoopMsg := none
  /-- an INT to a Data Mover (R334) -/
  note : Bool := false
deriving DecidableEq, Repr

/-- One direction of a link (R245, R246): the LSEQ of its next flit, its replay buffer, oldest first; the last idle flit with
a link acknowledgement; and the flits that a replay resends. -/
structure Link where
  next : BitVec 8
  sent : List (BitVec 288)
  idle : Option (BitVec 288)
  again : List (BitVec 288) := []
deriving DecidableEq, Repr

structure MeshState where
  txns : Map (Nat × Nat) Txn
  gens : Map (Nat × Nat) (BitVec 4)
  links : Map LinkId Link
  failed : List LinkId
  /-- per link: the LSEQ the receiver waits for while it discards, and the failed replays so far (R246) -/
  retry : Map LinkId (BitVec 8 × Nat)
  /-- the packets that wait, those of one buffer or one sender in the order in which they came there -/
  held : List HeldPacket
  /-- requests in the request queue of a slice that wait for its arrays (R221, R240) -/
  queue : Map Nat (List HeldPacket)
  /-- domains whose wake limit has passed (R266) -/
  wakeFail : List Nat
  /-- RSP_ERRs that an initiator has received and not yet acted on: initiator, command, line, status (R262) -/
  errs : List (Nat × Nat × Nat × Nat)
  /-- live counts per initiator and counter: 0 REQ, 1 BYTES, 2-9 HIST, 10 MAX, 11 TMO (R268) -/
  live : Map (Nat × Nat) Nat
  /-- snoops of home slices that have not ended: core and line (R263) -/
  snoops : Map (Nat × Nat) OpenSnoop := []
  /-- round-robin pointers of the routers' outputs: router and output, rule 1 of R255 apart from rule 4; the input that
  won last -/
  turn : Map (Stop × Nat × Bool) Nat := []
deriving DecidableEq, Repr

/-! ### Steward -/

/-- Reset types, broadest first (R30). -/
inductive ResetType where
  | powerOn | cold | warm
deriving DecidableEq, Repr

/-- Fuses (R4, R45, R382, R443). -/
structure Fuses where
  engineering : Bool
  vendorHash : BitVec 384
  ownerHash : Map Nat (BitVec 384)
  revoked : List Nat
  /-- the thermometer code of the minimum security version -/
  svnFuses : BitVec 64
  serial : BitVec 64
  vendorId : BitVec 16
  ringZero : Map Nat Nat
deriving DecidableEq, Repr

/-- The record values of the applied Configuration Image (R46, R47, R349, R366, R424). -/
structure Cfg where
  power : Nat
  iso : Nat
  twRestart : Bool
  watchdog : Nat
  twin : BitVec 128
  disable : BitVec 256
  bootCore : Nat
  split : Nat
  port : BitVec 64
  memCfg : BitVec 128
  scrub : Nat
  trainFull : Bool
  l3 : Nat
  rtSource : Nat
  sd : BitVec 256
  gpioSafe : BitVec 192
  net : BitVec 192
  nwReset : Bool
deriving DecidableEq, Repr

/-- An open image update (R62, R64): mailbox, region (0 Configuration Image, 1 firmware), bank. -/
structure Update where
  mb : Nat
  region : Nat
  bank : Bool
deriving DecidableEq, Repr

/-- The owner of an area of the firmware reserve (R278, R466). -/
inductive AreaOwner where
  | unowned | trusted | sec
deriving DecidableEq, Repr

/-- An area of the firmware reserve in the memory map passed to the trusted world (R55, R466). -/
structure MemArea where
  base : Nat
  size : Nat
  owner : AreaOwner
deriving DecidableEq, Repr

/-- Pins and what the chip drives on them (R441, R453, R478-R491). -/
structure Pins where
  pwrok : Bool
  warmRstL : Bool
  gpio : BitVec 24
  /-- RTCNT at which RT_SYNC_OUT last rose (R416) -/
  syncRise : Option DWord
  thermTrip : Bool
  thermAlert : Bool
  i3cIbi : Nat
  /-- root ports whose IOp_PERST_L is driven high (R490) -/
  perstHigh : List (Nat × Nat)
deriving DecidableEq, Repr

/-- Instructions of the test port (R300, R301). -/
inductive TapInstr where
  | extest | idcode | sample | clamp | highz | bypass | scan
deriving DecidableEq, Repr

structure BootState where
  fuses : Fuses
  flash : List Host.Cell
  octal : Bool
  /-- the reset being performed and, for a warm reset, whether the drain of R182 is still running -/
  resetting : Option ResetType
  draining : Bool
  /-- banks A and B of each region that start-up has marked failed (R36, R49) -/
  cfgFailed : Bool × Bool
  fwFailed : Bool × Bool
  cfg : Cfg
  cfgSvn : Nat
  fwSvn : Nat
  cfgSlot : Nat
  fwSlot : Nat
  fwSel : Bool
  cfgSel : Bool
  /-- measurements: Configuration Image, Steward runtime, SEC, trusted-world and normal-world firmware (R292, R293) -/
  measures : List (BitVec 384)
  /-- entry address of the trusted-world firmware component (R37, R55) -/
  twEntry : Nat
  /-- PWR.SAVEBASE has been written since the reset (R11) -/
  saveSet : Bool
  cfgHash : BitVec 384
  update : Option Update
  /-- the reserve's placement and owners, as the trusted world is told them (R55) -/
  memMap : List MemArea
  /-- the mailbox served last (R60) -/
  mbLast : Fin 5
  ibiEn : Bool
  pins : Pins
  tap : TapInstr
  /-- the boundary cells of the GPIO pins as last preloaded: which are driven, and their levels (R300) -/
  cells : BitVec 24 × BitVec 24
deriving DecidableEq, Repr

/-- An entry of the persistent error log (R449). -/
structure LogEntry where
  num : BitVec 32
  typ : Nat
  sev : Nat
  trusted : Bool
  time : DWord
  payload : List DWord
deriving DecidableEq, Repr

structure LogState where
  entries : List LogEntry
  queue : List LogEntry
  lost : Nat
  bank : Bool
  seq : BitVec 32
  /-- power-on counts in the headers of the banks A and B -/
  heads : Nat × Nat
  count : Nat
  powerOns : Nat
  next : BitVec 32
  fences : List (Bool × Nat)
  retired : List Nat
  unfence : List (Bool × Nat)
  pprPending : List (Nat × DramRow)
deriving DecidableEq, Repr

/-! ### Security engine -/

/-- A range of a locket (R278, R285): pages from PBASE bound to VBASE; R, W, X and the thread save area kind. -/
structure LkRange where
  pbase : Nat
  vbase : Nat
  pages : Nat
  r : Bool
  w : Bool
  x : Bool
  thread : Bool
deriving DecidableEq, Repr

/-- A locket (R278, R285-R288); `devs`: the device contexts assigned to it, by port and requester ID; `caller` is who
is told when the scrub ends (R302). -/
structure Locket where
  st : Nat
  vmid : Nat
  key : Nat
  ranges : List LkRange
  slots : List Nat
  meas : BitVec 384
  devs : List (Nat × Nat)
  caller : Option (Nat × Nat × Bool)
deriving DecidableEq, Repr

/-- A Hallmark report queued at the SEC (R293). -/
structure Report where
  locket : Nat
  slot : Nat
  buf : Nat
  user : Line
deriving DecidableEq, Repr

structure SecState where
  /-- pages of the SEC, first and last (R278) -/
  pages : List (Nat × Nat)
  lockets : Map Nat Locket
  reports : List Report
  serial : Nat
  /-- the ownership check caches of the other agents (R280), by stop: first page, last page -/
  owns : Map Stop (List (Nat × Nat))
  /-- RTCNT at the last start of the watchdog period (R295) -/
  kicked : DWord
  /-- trusted interrupts are discarded: from the loss of AVAIL until a restart redirects a core (R297) -/
  discard : Bool
  discarded : Nat
  autoRestarts : Nat
  /-- the reload under way was not asked for by a command (R298) -/
  autoReload : Bool
  keyBusy : Option Nat
  keyTrusted : Bool
  /-- fatal sequence: 0 none, 1 ordered, 2 halted (R434) -/
  fatal : Nat
  fatalRec : List DWord
  /-- the SEC's own keys have been zeroed (R301) -/
  zeroed : Bool := false
deriving DecidableEq, Repr

/-! ### Queues and Data Movers -/

/-- A hardware queue: its words with tags, oldest first, and the core that holds its claim (R321-R333). -/
structure Queue where
  words : List DWord
  claim : Option Nat
deriving DecidableEq, Repr

/-- A held part 0 (R329): source port, handle, payloads. -/
structure Part where
  src : Nat
  handle : Word
  words : List (BitVec 56)
deriving DecidableEq, Repr

structure QueueState where
  q : Map (Nat × Nat) Queue
  parts : Map (Nat × Nat) Part
deriving DecidableEq, Repr

/-- A descriptor that a channel has performed and not yet completed (R341, R344): its words, its status, and the CRC or
the bytes completed. -/
structure Desc where
  words : List DWord
  status : Nat
  result : Nat
deriving DecidableEq, Repr

/-- A Data Mover channel (R338-R345). -/
structure Chan where
  descs : List Desc
  retry : Option (Word × List (BitVec 56))
deriving DecidableEq, Repr

/-- A cached translation of a Data Mover (by channel) or an I/O Translation Unit (by requester ID) (R340, R374): the page
it covers and its size in address bits, what it maps to, and what it lets an access do without a further mark. -/
structure LeafEntry where
  tag : Nat
  page : Nat
  bits : Nat
  out : Nat
  key : Nat
  r : Bool
  w : Bool
  mtype : Nat
deriving DecidableEq, Repr

/-- A table entry in the walk cache of an I/O Translation Unit (R374): its requester ID, stage and level, the address
bits it stands for, and the next table. -/
structure IoWalk where
  tag : Nat
  stage2 : Bool
  lvl : Nat
  prefix_ : Nat
  next : Nat
deriving DecidableEq, Repr

structure DmState where
  chans : Map Nat Chan
  tlb : Map Nat (List LeafEntry)
deriving DecidableEq, Repr

/-! ### Memory controllers -/

structure McState where
  trained : Bool
  /-- the data rate in MT/s (R348) -/
  rate : Nat
  dimms : List Dimm
  /-- usable memory of the channel in GiB (R361) -/
  usable : Nat
  patrol : Nat
  scrubWin : Bool
  refWin : Bool
  postponed : Nat
  temp0 : Nat
  temp1 : Nat
  /-- RTCNT at the start of the patrol pass under way (R355) -/
  passAt : DWord
  /-- RTCNT of the corrected errors of each row and rank in the last 24 h (R360, R361) -/
  rowErr : Map DramRow (List DWord)
  rankErr : Map Nat (List DWord)
  ppr : Option DramRow
  copying : Option Nat
  spared : Option Nat
  rebuild : Bool
  mirrorFailed : Option Bool
deriving DecidableEq, Repr

def McState.reset : McState :=
  { trained := false, rate := 0, dimms := [], usable := 0, patrol := 0, scrubWin := false, refWin := false, postponed := 0,
    temp0 := 0, temp1 := 0, passAt := 0, rowErr := [], rankErr := [], ppr := none, copying := none, spared := none,
    rebuild := false, mirrorFailed := none }

/-! ### Expansion ports -/

/-- State of a link (R368, R372): down, L0, L0p, L1, L1.1, L1.2. -/
inductive LinkState where
  | down | l0 | l0p | l1 | l11 | l12
deriving DecidableEq, Repr

structure RootPort where
  link : LinkState
  /-- generation of the rate at which the link trained, 1 for 2.5 to 6 for 64 GT/s, and its width in lanes; 0 before (R367) -/
  rate : Nat
  width : Nat
  /-- dwords of its Type 1 header that routing uses: bus numbers, memory and prefetchable base and limit (R367, R468) -/
  hdr : Map Nat Word
  /-- outstanding outbound non-posted requests -/
  open_ : List (Nat × Nat)
  /-- CXL.mem cut off by a clasp, until the next cold or power-on reset (R381) -/
  cut : Bool
deriving DecidableEq, Repr

/-- A non-posted request through the host aperture (R385): its transaction, the function that issues it, the host address it
goes to, and No Snoop. -/
structure HostOut where
  key : Nat × Nat
  func : Nat
  addr : Nat
  ns : Bool
deriving DecidableEq, Repr

/-- Endpoint function state of a port (R382-R390). -/
structure EpState where
  link : LinkState
  /-- requests through the host aperture that await their completion (R385) -/
  out : List HostOut
  bme : BitVec 32
  resetting : BitVec 32
  winOpen : Bool
  /-- MSI-X messages sent; vectors the host has masked, and those pending behind a mask: function and vector (R383) -/
  msixSent : List (Nat × Nat)
  msixMask : List (Nat × Nat)
  msixPend : List (Nat × Nat)
deriving DecidableEq, Repr

structure IoState where
  rps : Map Nat RootPort
  iotlb : List LeafEntry
  iowalk : List IoWalk
  /-- head command started: an ATS invalidation waits for its completion (R376) -/
  ats : Option Nat
  ep : EpState
deriving DecidableEq, Repr

def RootPort.reset : RootPort := { link := .down, rate := 0, width := 0, hdr := [], open_ := [], cut := false }

def IoState.reset : IoState :=
  { rps := [], iotlb := [], iowalk := [], ats := none,
    ep := { link := .down, out := [], bme := 0, resetting := 0, winOpen := false, msixSent := [], msixMask := [], msixPend := [] } }

/-! ### Power, rack time, monitors -/

/-- The state a core saved on its way to OFF (R407, R408): its block in memory as the save left it, and whether every line of
it could be written. -/
structure Saved where
  core : Core
  cells : List Host.Cell
  ok : Bool
deriving DecidableEq, Repr

structure PowerState where
  /-- entry under way: target and step of R401 -/
  entry : Map Nat (Nat × Nat)
  /-- domains whose entry a wake request has found in its commit window (R403) -/
  window : List Nat
  /-- domains whose arrays have lost their contents since they were last ON (R401, R405) -/
  unpowered : List Nat
  /-- domains whose hysteresis has been served since the last hold (R394) -/
  hystDone : List Nat
  /-- wake requests not yet served, and wakes under way (R403-R405) -/
  wakeReq : List Nat
  waking : List Nat
  legacy : Option (Nat × Nat)
  saved : Map Nat Saved
deriving DecidableEq, Repr

structure RtuState where
  cnt : DWord
  frac : BitVec 16
  /-- fraction captured by the last read of RTU.CNT (R410) -/
  fracHeld : BitVec 16
  /-- the learned rate correction of R414, a free value -/
  learned : DWord
  /-- what is left of the last measured offset, in 2^-16 ns, RTCNT ahead where it is positive (R414) -/
  left : Int
  /-- an accepted RTU.LOAD that waits for the next PPS edge (R413) -/
  load : Option DWord
  /-- RTCNT at the last accepted edge of RT_PPS_IN (R492) -/
  pps : Option DWord
  /-- RTCNT at the last accepted PTP Sync (R414) -/
  sync : Option DWord
  /-- consecutive updates with an offset of at most 100 ns (R414) -/
  close : Nat
  /-- entries armed or retimed late that have not fired yet (R421) -/
  late : List Nat
  /-- clusters whose supply is being changed ahead of a FREQ action: the frequency it serves, and the step of the change that
  has been reached (R409, R419) -/
  ahead : Map Nat (Nat × Nat)
  /-- scheduled ceiling per cluster (R418), MHz -/
  freq : Map Nat Nat
  /-- POWER firings whose WIDTH has not ended, by domain (R418) -/
  widths : List Nat
  snap : Map (Nat × Nat) DWord
  /-- Steady Draw in units of 10^-7 W (R425): G, F, held part of F, DEBT, filler, ballast -/
  g : Nat
  f : Nat
  h : Nat
  debt : Nat
  filler : Nat
  ballast : Nat
  power : Nat
  demand : Nat
  /-- slot period, phase and width in force (R424) -/
  slot : Nat × Nat × Nat
deriving DecidableEq, Repr

structure RasState where
  /-- readings by class and index (R444) -/
  read : Map (Nat × Nat) DWord
  thermCeil : Map Nat Nat
  droopCeil : Map Nat Nat
  droopCnt : Map Nat Nat
  drooping : List Nat
  throttled : List Nat
  alert : Bool
  /-- limits in W; none while they do not bind (R441, R442) -/
  tlim : Option Nat
  dlim : Option Nat
  pkg : Nat
  slow : List Nat
  /-- in-field test under way: tile and part (R445) -/
  ift : Option (Nat × Nat)
  /-- the hash indices to give back when an uncore test ends -/
  iftIdx : List Nat
  /-- where the rotation stands, and the tiles R443 places first -/
  iftNext : Nat
  first : List Nat
  /-- corrected events per bank and class (R449) -/
  classCnt : Map (Nat × Nat) Nat
  /-- corrected counts already summarised, per bank (R449) -/
  summed : Map Nat Nat
  /-- notices still owed (log entry 12): 2 corrected, 3 uncorrected -/
  owed : List Nat
deriving DecidableEq, Repr

/-! ### The whole block -/

/-- The state of the block. `pending` is the queue of waiting commands, first in, first out; `free` is the model's own
counter, to which the free values of Config are applied. -/
structure State where
  pending : List Instr
  free : Nat
  cores : Map Nat Core
  ucores : Map Nat UCore
  csr : Map Reg DWord
  m : MemState
  coh : CohState
  mesh : MeshState
  boot : BootState
  log : LogState
  sec : SecState
  qs : QueueState
  dm : DmState
  mc : Map Nat McState
  io : Map Nat IoState
  pwr : PowerState
  rtu : RtuState
  ras : RasState
deriving DecidableEq, Repr

/-- The record defaults of R46: byte 2 of MEM.CONFIG is 0x02, IWAYS 4, thresholds 1,024 and 16 (R349); GPIO.SAFE all
high impedance; SD.PARAMS as R424's defaults. -/
def Cfg.default : Cfg :=
  { power := 520, iso := 0, twRestart := false, watchdog := 2000, twin := 0, disable := 0, bootCore := 0, split := 2,
    port := 0, memCfg := BitVec.ofNat 128 (4 * 2 ^ 8 + 2 * 2 ^ 16 + 1024 * 2 ^ 32 + 16 * 2 ^ 48), scrub := 24,
    trainFull := false, l3 := 2, rtSource := 1,
    sd := BitVec.ofNat 256 (200 * 2 ^ 16 + 100000 * 2 ^ 32 + 100000 * 2 ^ 96 + 10000 * 2 ^ 144),
    gpioSafe := BitVec.ofNat 192 0x020202020202020202020202020202020202020202020202, net := 0, nwReset := true }

/-- Fuses before any command: log entry 6. -/
def Fuses.initial : Fuses :=
  { engineering := false, vendorHash := 0, ownerHash := [], revoked := [], svnFuses := 0, serial := 0, vendorId := 0,
    ringZero := [] }

def Pins.reset : Pins :=
  { pwrok := false, warmRstL := true, gpio := 0, syncRise := none, thermTrip := false, thermAlert := false, i3cIbi := 0,
    perstHigh := [] }

def MemState.reset : MemState :=
  { mem := [], stale := [], lkey := [], keyGen := [], epoch := 0, poison := [], latent := [], dram := [], cxl := [], fr := none }

def CohState.reset : CohState :=
  { priv := [], dir := [], l3 := [], wbuf := [], plru := [], ru := [], shadow := [], wayErr := [], refused := [],
    wayBusy := [], accepts := [], retiring := none, stamp := 0 }

def MeshState.reset : MeshState :=
  { txns := [], gens := [], links := [], failed := [], retry := [], held := [], queue := [], wakeFail := [], errs := [], live := [] }

def BootState.reset : BootState :=
  { fuses := Fuses.initial, flash := [], octal := false, resetting := some .powerOn, draining := false,
    cfgFailed := (false, false), fwFailed := (false, false), cfg := Cfg.default, cfgSvn := 0, fwSvn := 0, cfgSlot := 0,
    fwSlot := 0, fwSel := false, cfgSel := false, measures := [], twEntry := 0, saveSet := false, cfgHash := 0, update := none,
    memMap := [], mbLast := 4, ibiEn := false, pins := Pins.reset, tap := .idcode, cells := (0, 0) }

def LogState.reset : LogState :=
  { entries := [], queue := [], lost := 0, bank := false, seq := 0, heads := (0, 0), count := 0, powerOns := 0, next := 0, fences := [],
    retired := [], unfence := [], pprPending := [] }

def SecState.reset : SecState :=
  { pages := [], lockets := [], reports := [], serial := 0, owns := [], kicked := 0, discard := false, discarded := 0,
    autoRestarts := 0, autoReload := false, keyBusy := none, keyTrusted := false, fatal := 0, fatalRec := [] }

def PowerState.reset : PowerState :=
  { entry := [], window := [], unpowered := [], hystDone := [], wakeReq := [], waking := [], legacy := none, saved := [] }

def RtuState.reset : RtuState :=
  { cnt := 0, frac := 0, fracHeld := 0, learned := 0, left := 0, load := none, pps := none, sync := none, close := 0, late := [], ahead := [], freq := [],
    widths := [], snap := [], g := 0, f := 0, h := 0, debt := 0, filler := 0, ballast := 0, power := 0, demand := 0,
    slot := (100000, 0, 100000) }

def RasState.reset : RasState :=
  { read := [], thermCeil := [], droopCeil := [], droopCnt := [], drooping := [], throttled := [], alert := false,
    tlim := none, dlim := none, pkg := 520, slow := [], ift := none, iftIdx := [], iftNext := 0, first := [],
    classCnt := [], summed := [], owed := [] }

/-- Domains that read ON before phase 4: RTU and STW (R393), every ready bit set. -/
def State.resetCsr : Map Reg DWord :=
  [(.dom 415, dw 0xF0C0F000), (.dom 416, dw 0xF0C0F000)]

/-- The machine in power-on reset, PWROK low (R30, R31, R393). -/
def State.reset : State :=
  { pending := [], free := 0, cores := [], ucores := [], csr := State.resetCsr, m := MemState.reset,
    coh := CohState.reset, mesh := MeshState.reset, boot := BootState.reset, log := LogState.reset,
    sec := SecState.reset, qs := { q := [], parts := [] }, dm := { chans := [], tlb := [] }, mc := [], io := [],
    pwr := PowerState.reset, rtu := RtuState.reset, ras := RasState.reset }

end Sys2Proof.Machine
end

