-- ==== Sys2Proof/Machine/Bytes.lean ====
section
/-! DEFINITION. Bytes, byte order (R10), the canonical byte memory, lines, and CRC-32C. -/

namespace Sys2Proof.Machine

/-- The byte at an address; an unlisted address reads `d`. -/
def cellGet (d : Byte) : List Host.Cell → Nat → Byte
  | [], _ => d
  | (j, b) :: m, a => if j = a then b else cellGet d m a

/-- The cells with one byte written, kept rising and without an entry equal to `d`. -/
def cellSet (d : Byte) : List Host.Cell → Nat → Byte → List Host.Cell
  | [], a, b => if b = d then [] else [(a, b)]
  | (j, c) :: m, a, b =>
    if a < j then (if b = d then (j, c) :: m else (a, b) :: (j, c) :: m)
    else if j = a then (if b = d then m else (a, b) :: m)
    else (j, c) :: cellSet d m a b

/-- Consecutive bytes written from an address. -/
def cellSetAll (d : Byte) (m : List Host.Cell) (a : Nat) : List Byte → List Host.Cell
  | [] => m
  | b :: bs => cellSetAll d (cellSet d m a b) (a + 1) bs

/-- The canonical form: addresses strictly rising, no entry equal to what an unlisted address reads as. -/
def cellsOk (d : Byte) : List Host.Cell → Bool
  | [] => true
  | [(_, b)] => b != d
  | (a, b) :: (a', b') :: m => decide (a < a') && b != d && cellsOk d ((a', b') :: m)

/-- Memory: an unlisted byte reads 0 (log entry 5). -/
abbrev memGet (m : List Host.Cell) (a : Nat) : Byte := cellGet 0 m a
abbrev memSet (m : List Host.Cell) (a : Nat) (b : Byte) : List Host.Cell := cellSet 0 m a b
abbrev Memory.wf (m : List Host.Cell) : Bool := cellsOk 0 m

/-- Little-endian bytes of a number (R10). -/
def leBytes : Nat → Nat → List Byte
  | 0, _ => []
  | n + 1, v => BitVec.ofNat 8 v :: leBytes n (v / 256)

/-- The number that little-endian bytes give. -/
def leNat : List Byte → Nat
  | [] => 0
  | b :: bs => b.toNat + 256 * leNat bs

/-- The number that big-endian bytes give. -/
def beNat (bs : List Byte) : Nat := bs.foldl (fun n b => 256 * n + b.toNat) 0

def beBytes (n v : Nat) : List Byte := (leBytes n v).reverse

/-- `n` bytes of memory from an address. -/
def cellRead (d : Byte) (m : List Host.Cell) (a : Nat) : Nat → List Byte
  | 0 => []
  | n + 1 => cellGet d m a :: cellRead d m (a + 1) n

/-- One step of CRC-32C (Castagnoli polynomial 0x1EDC_6F41, reflected). -/
def crcBit (c : BitVec 32) : BitVec 32 := if c.getLsbD 0 then (c >>> 1) ^^^ 0x82F63B78 else c >>> 1

def crcByte (c : BitVec 32) (b : Byte) : BitVec 32 :=
  crcBit (crcBit (crcBit (crcBit (crcBit (crcBit (crcBit (crcBit (c ^^^ b.zeroExtend 32))))))))

/-- CRC-32C from a seed, without a final inversion (R342). -/
def crc32cFrom (seed : BitVec 32) (bs : List Byte) : BitVec 32 := bs.foldl crcByte seed

/-- CRC-32C of RFC 3720. -/
def crc32c (bs : List Byte) : BitVec 32 := ~~~ crc32cFrom 0xFFFFFFFF bs

/-- The line as a word: byte 0 lowest. -/
def lineOf (bs : List Byte) : Line := BitVec.ofNat 512 (leNat bs)

def lineBytes (l : Line) : List Byte := leBytes 64 l.toNat

/-- Byte i of a line. -/
def lineByte (l : Line) (i : Nat) : Byte := (l >>> (8 * i)).truncate 8

/-- Bytes of a line that a mask names, taken from the new data; the others from the old. -/
def mergeBytes : Nat → Nat → Nat → Nat → List Byte
  | 0, _, _, _ => []
  | n + 1, mask, old, new =>
    (BitVec.ofNat 8 (if mask % 2 = 1 then new else old)) :: mergeBytes n (mask / 2) (old / 256) (new / 256)

def mergeLine (mask : BitVec 64) (old new : Line) : Line :=
  BitVec.ofNat 512 (leNat (mergeBytes 64 mask.toNat old.toNat new.toNat))

/-- The mask of `n` bytes from byte `i` of a line. -/
def byteMask (i n : Nat) : BitVec 64 := BitVec.ofNat 64 ((2 ^ n - 1) * 2 ^ i)

def fullMask : BitVec 64 := BitVec.allOnes 64

/-- The runs of bytes that a mask names: the first byte of each, and its length. -/
def maskRuns (m : BitVec 64) : List (Nat × Nat) :=
  (List.range 64).foldr (fun i l =>
    if m.getLsbD i then
      match l with
      | (o, n) :: t => if o = i + 1 then (i, n + 1) :: t else (i, 1) :: l
      | [] => [(i, 1)]
    else l) []

/-- Cells with the bytes of a line that a mask names written. -/
def cellSetMask (m : List Host.Cell) (a : Nat) : Nat → Nat → Nat → List Host.Cell
  | 0, _, _ => m
  | n + 1, mask, data =>
    cellSetMask (if mask % 2 = 1 then memSet m a (BitVec.ofNat 8 data) else m) (a + 1) n (mask / 2) (data / 256)

/-- Two's complement of a negative status in a 64-bit register. -/
def neg (n : Nat) : DWord := 0 - dw n

end Sys2Proof.Machine
end

