-- ==== Sys2Proof/Machine/Csr.lean ====
section
/-! DEFINITION. Named access to the parts of the state: registers outside the cores, cores, system registers; the
configuration; where things stand on the mesh; which cores, tiles and domains exist. -/

namespace Sys2Proof.Machine

/-! ### Registers outside the cores -/

/-- The stored value of a register. -/
def State.reg (s : State) (r : Reg) : DWord := s.csr.getD r r.reset

def State.setReg (s : State) (r : Reg) (w : DWord) : State := { s with csr := s.csr.set r w }

/-- A field of a register. -/
def State.fld (s : State) (r : Reg) (p : Place) : Nat := getF (s.reg r) p

def State.flag (s : State) (r : Reg) (p : Place) : Bool := s.fld r p == 1

def State.setFld (s : State) (r : Reg) (p : Place) (v : Nat) : State := s.setReg r (setF (s.reg r) p v)

/-- A field counted up, saturating (or, for `none`, wrapping) at its width. -/
def State.count (s : State) (r : Reg) (p : Place) : State :=
  let m := 2 ^ (p.1 - p.2 + 1) - 1
  let v := s.fld r p
  if v < m then s.setFld r p (v + 1) else s

def State.countWrap (s : State) (r : Reg) (p : Place) : State :=
  s.setFld r p ((s.fld r p + 1) % 2 ^ (p.1 - p.2 + 1))

/-! ### Numbered registers: a number in range as an index -/

/-- A natural number as an index below a bound that is not zero; the callers keep it in range. -/
def ix (n : Nat) [NeZero n] (i : Nat) : Fin n := Fin.ofNat n i

abbrev rDom (n : Nat) : Reg := .dom (ix 417 n)
abbrev rLtol (n : Nat) : Reg := .ltol (ix 417 n)

/-! ### Cores -/

def State.core (s : State) (c : Nat) : Core := s.cores.getD c Core.reset
def State.setCore (s : State) (c : Nat) (k : Core) : State := { s with cores := s.cores.set c k }
def State.onCore (s : State) (c : Nat) (f : Core → Core) : State := s.setCore c (f (s.core c))
def State.ucore (s : State) (c : Nat) : UCore := s.ucores.getD c UCore.reset
def State.setUcore (s : State) (c : Nat) (u : UCore) : State := { s with ucores := s.ucores.set c u }
def State.onUcore (s : State) (c : Nat) (f : UCore → UCore) : State := s.setUcore c (f (s.ucore c))

/-- g0 reads zero (R67). -/
def Core.rg (k : Core) (r : BitVec 5) : DWord := if r = 0 then 0 else k.g.getD r 0
/-- Writes to g0 are discarded (R67). -/
def Core.wg (k : Core) (r : BitVec 5) (w : DWord) : Core := if r = 0 then k else { k with g := k.g.set r w }
def Core.rv (k : Core) (r : BitVec 5) : VWord := k.v.getD r 0
def Core.wv (k : Core) (r : BitVec 5) (w : VWord) : Core := { k with v := k.v.set r w }

/-- The reset value of a system register. -/
def Sys.reset (num : Nat) : DWord := resetOf ((Sys.fields num).getD [])

/-- A system register: by number and, where it is banked per world (R119), world. -/
def Core.rs (k : Core) (num : Nat) (w : Bool := false) : DWord := k.sys.getD (num, w) (Sys.reset num)
def Core.ws (k : Core) (num : Nat) (w : Bool) (v : DWord) : Core := { k with sys := k.sys.set (num, w) v }
def Core.sf (k : Core) (num : Nat) (w : Bool) (p : Place) : Nat := getF (k.rs num w) p
def Core.sflag (k : Core) (num : Nat) (w : Bool) (p : Place) : Bool := k.sf num w p == 1
def Core.wsf (k : Core) (num : Nat) (w : Bool) (p : Place) (v : Nat) : Core := k.ws num w (setF (k.rs num w) p v)

/-- Whether a per-level register of a level is banked by world: only the L1 copies are (R119, R272). -/
def bankOf (lvl : Nat) (world : Bool) : Bool := lvl ≤ 1 && world

/-! ### Free values -/

/-- A fresh free value (log entry 2), and the state with the counter advanced. -/
def State.fresh (s : State) : DWord × State := (Config.freeValue s.free, { s with free := s.free + 1 })

/-! ### Configuration -/

inductive IsoMode where
  | hv | lk | hvlk
deriving DecidableEq, Repr

/-- ISO.MODE (R46, R277). -/
def State.iso (s : State) : IsoMode := if s.boot.cfg.iso = 1 then .lk else if s.boot.cfg.iso = 2 then .hvlk else .hv

/-- Byte p of PORT.MODE (R366). -/
def State.portByte (s : State) (p : Nat) : Nat := (s.boot.cfg.port.toNat >>> (8 * p)) % 256
inductive Role where
  | root | endpoint | disabled
deriving DecidableEq, Repr
def State.role (s : State) (p : Nat) : Role :=
  match s.portByte p % 4 with | 0 => .root | 1 => .endpoint | _ => .disabled
/-- How many root ports BIFUR creates (R366, R367). -/
def State.rootPorts (s : State) (p : Nat) : Nat :=
  match (s.portByte p >>> 2) % 4 with | 0 => 1 | 1 => 2 | _ => 4

/-- The highest rate within RATE_CAP, as a generation, and whether the root links train as PCIe only (R366). -/
def State.rateCap (s : State) (p : Nat) : Nat := if s.portByte p / 32 = 0 then 6 else s.portByte p / 32
def State.noCxl (s : State) (p : Nat) : Bool := (s.portByte p).testBit 4

/-- The Steward's network interface (R47): PHY address, VLAN of its frames (0 untagged), MAC address, PTP transport and
domain. -/
structure NetIf where
  phy : Nat
  vlan : Nat
  mac : List Byte
  udp : Bool
  domain : Nat
deriving DecidableEq, Repr

/-- What an STW.NET record configures: nothing with EN = 0. -/
def netIf (v : BitVec 192) : Option NetIf :=
  let byte := fun i => v.toNat / 2 ^ (8 * i) % 256
  if v.getLsbD 0 then
    some { phy := byte 2, vlan := byte 10 + 256 * byte 11, mac := (List.range 6).map fun i => BitVec.ofNat 8 (byte (4 + i)),
           udp := v.getLsbD 1, domain := byte 1 }
  else none

/-- The interface of recovery without a valid Configuration Image bank: 0x02 and the low 40 bits of the serial number. -/
def recoveryIf (serial : BitVec 64) : NetIf :=
  { phy := 0, vlan := 0, mac := 2 :: (List.range 5).map (fun i => BitVec.ofNat 8 (serial.toNat / 2 ^ (8 * (4 - i)))),
    udp := false, domain := 0 }

/-- The IPv6 link-local address of a MAC address by the modified EUI-64 method: the universal bit inverted, 0xFFFE put in. -/
def NetIf.linkLocal (n : NetIf) : BitVec 128 :=
  let m := fun i => (n.mac.getD i 0).toNat
  let eui := [(m 0) ^^^ 2, m 1, m 2, 0xFF, 0xFE, m 3, m 4, m 5]
  BitVec.ofNat 128 (0xFE80 * 2 ^ 112 + eui.foldl (fun a b => 256 * a + b) 0)

def State.byteOfMemCfg (s : State) (i : Nat) : Nat := (s.boot.cfg.memCfg.toNat >>> (8 * i)) % 256

/-! ### Cores, tiles, twins, fences -/

/-- A tile configured as a twin tile whose cores are both unfenced (R438, R439). -/
def State.fencedCore (s : State) (c : Nat) : Bool := (s.reg (.fenceCore (ix 8 (c / 32)))).getLsbD (c % 32)
def State.fencedTile (s : State) (t : Nat) : Bool := (s.reg (.fenceTile (ix 4 (t / 32)))).getLsbD (t % 32)
def State.twinCfg (s : State) (t : Nat) : Bool := s.boot.cfg.twin.getLsbD t
/-- A tile that runs as a twin: configured so and with no core fenced (R438, R439). -/
def State.twin (s : State) (t : Nat) : Bool :=
  s.twinCfg t && !s.fencedCore (2 * t) && !s.fencedCore (2 * t + 1)
/-- A twin tile one of whose cores survives a handover: it is the logical core 2t (R439). -/
def State.survivor (s : State) (t : Nat) : Bool :=
  s.twinCfg t && (s.fencedCore (2 * t) != s.fencedCore (2 * t + 1))

/-- A core kept off by CORE.DISABLE; a bit of either core disables a twin tile (R46). -/
def State.disabled (s : State) (c : Nat) : Bool :=
  s.boot.cfg.disable.getLsbD c ||
    (s.twinCfg (c / 2) && (s.boot.cfg.disable.getLsbD (2 * (c / 2)) || s.boot.cfg.disable.getLsbD (2 * (c / 2) + 1)))

/-- Core 2t+1 of a tile configured as a twin (R63, R303, R318, R439). -/
def State.shadow (s : State) (c : Nat) : Bool := s.twinCfg (c / 2) && c % 2 == 1

/-- A core whose tile's cores are under in-field test is handled as fenced (R445). -/
def State.underTest (s : State) (c : Nat) : Bool :=
  match s.ras.ift with
  | some (t, part) => t == c / 2 && part.testBit 0
  | none => false

/-- A core that never runs: disabled, fenced (but the logical core of a surviving twin), in a fenced tile, shadow, or
under test. -/
def State.noCore (s : State) (c : Nat) : Bool :=
  s.disabled c || s.fencedTile (c / 2) || s.shadow c || (s.fencedCore c && !s.survivor (c / 2)) || s.underTest c

/-! ### Places on the mesh (R17, R19, R20, R23) -/

def tileStop (t : Nat) : Stop := ⟨BitVec.ofNat 4 (t % 16), Fin.ofNat 10 (t / 16 + 1)⟩
def edgeStop (x y : Nat) : Stop := ⟨BitVec.ofNat 4 x, Fin.ofNat 10 y⟩
def mcStop (n : Nat) : Stop := edgeStop (2 * (n % 8)) (if n < 8 then 0 else 9)
def ioStop (p : Nat) : Stop := edgeStop (4 * (p % 4) + 1) (if p < 4 then 0 else 9)
def dmStop (d : Nat) : Stop := edgeStop 3 (if d = 0 then 0 else 9)
def stwStop : Stop := edgeStop 7 0
def rtuStop : Stop := edgeStop 7 9
def secStop : Stop := edgeStop 11 0
/-- The stop of an initiator in the numbering of R268. -/
def initStop (i : Nat) : Stop :=
  if i < 256 then tileStop (i / 2) else if i < 260 then dmStop 0 else if i < 264 then dmStop 1 else ioStop (i - 264)
/-- The cluster of a tile (R19). -/
def clusterOf (t : Nat) : Nat := 4 * ((t % 16) / 4) + (t / 16) / 2
/-- The compute die of a tile, or none for a stop of the I/O die (R19). -/
def dieOf (t : Nat) : Nat := (t % 16) / 4
/-- The mesh error bank of a stop (R21, R430). -/
def meshBank (p : Stop) : Nat := if p.y.val = 0 ∨ p.y.val = 9 then 156 else 152 + p.x.toNat / 4

/-- The links a packet uses, by receiving router, X first, then Y (R253). -/
def routeX (src dst : Stop) (rsp : Bool) : List LinkId :=
  let a := src.x.toNat; let b := dst.x.toNat
  if a < b then (List.range (b - a)).map fun i => ⟨⟨BitVec.ofNat 4 (a + i + 1), src.y⟩, 0, rsp⟩
  else (List.range (a - b)).map fun i => ⟨⟨BitVec.ofNat 4 (a - i - 1), src.y⟩, 1, rsp⟩
def routeY (src dst : Stop) (rsp : Bool) : List LinkId :=
  let a := src.y.val; let b := dst.y.val
  if a < b then (List.range (b - a)).map fun i => ⟨⟨dst.x, Fin.ofNat 10 (a + i + 1)⟩, 2, rsp⟩
  else (List.range (a - b)).map fun i => ⟨⟨dst.x, Fin.ofNat 10 (a - i - 1)⟩, 3, rsp⟩
def route (src dst : Stop) (rsp : Bool) : List LinkId := routeX src dst rsp ++ routeY src dst rsp

/-- A packet from `src` to `dst` on the REQ mesh, or the RSP mesh, would cross a failed link (R247, R253). -/
def State.reqDown (s : State) (src dst : Stop) : Bool := (route src dst false).any fun l => s.mesh.failed.contains l
def State.rspDown (s : State) (src dst : Stop) : Bool := (route src dst true).any fun l => s.mesh.failed.contains l

/-! ### Power domains (R391, R392) -/

def domCore (c : Nat) : Nat := c
def domTile (t : Nat) : Nat := 256 + t
def domMc (n : Nat) : Nat := 384 + n
def domIo (p : Nat) : Nat := 400 + p
def domDm (d : Nat) : Nat := 408 + d
def domMesh (d : Nat) : Nat := 410 + d
def domSec : Nat := 414

/-- PWR.DOMn.STATE: 0 OFF, 1 RET, 3 ON. -/
def State.dstate (s : State) (n : Nat) : Nat := s.fld (rDom n) F.dom.STATE
def State.isOn (s : State) (n : Nat) : Bool := s.dstate n == 3
/-- A domain that is ON, neither on its way to a deeper state nor on its way back from there (R265, R403). -/
def State.awake (s : State) (n : Nat) : Bool := s.isOn n && (s.pwr.entry.find n).isNone && !s.pwr.waking.contains n

/-- A wake request for a domain (R404); a domain that is awake needs none. Whether one finds an entry in its commit window is
free (log entry 106). -/
def State.request (s : State) (n : Nat) : State :=
  if s.awake n || s.pwr.wakeReq.contains n then s
  else
    let s := if (s.pwr.entry.find n).isSome ∧ !s.pwr.window.contains n then
        let (w, s) := s.fresh
        if w.getLsbD 0 then { s with pwr.window := s.pwr.window ++ [n] } else s
      else s
    { s with pwr.wakeReq := s.pwr.wakeReq ++ [n] }

/-- The hysteresis of a domain starts again when the hold that begins now has ended (R394). -/
def State.restartHyst (s : State) (n : Nat) : State :=
  { s with pwr.hystDone := s.pwr.hystDone.filter (· != n) }

/-- Something comes for a domain: it holds it ON for a time (R394), and wakes it where it is not awake. -/
def State.wake (s : State) (n : Nat) : State := (s.request n).restartHyst n

/-- RTCNT in whole nanoseconds (R410). -/
def State.now (s : State) : DWord := s.rtu.cnt

end Sys2Proof.Machine
end

