-- ==== Sys2Proof/Machine/Net.lean ====
section
/-! DEFINITION. The mesh below its commands: packet headers and flits (R245, R248), replay buffers (R246), the input
buffers in which packets wait and the credits that let them go on (R243, R254, R257, R265, R266), and the statistics of an
initiator (R268). -/

namespace Sys2Proof.Machine

/-! ### Virtual channels (R243) -/

def vcReq : BitVec 2 := 0
def vcSnp : BitVec 2 := 1
def vcEsc : BitVec 2 := 2
/-- The one channel of the RSP mesh; its VC code in a flit is 0. -/
def vcRsp : BitVec 2 := 3

/-! ### Packets (R248) -/

/-- The payload of the header flit. -/
def Packet.header (p : Packet) : BitVec 256 :=
  BitVec.ofNat 256 (p.dst.x.toNat + p.dst.y.val * 2 ^ 4 + p.dport.toNat * 2 ^ 8 + p.src.x.toNat * 2 ^ 10 +
    p.src.y.val * 2 ^ 14 + p.sport.toNat * 2 ^ 18 + p.cmd.toNat * 2 ^ 20 + p.tag.toNat * 2 ^ 28 + p.gen.toNat * 2 ^ 40 +
    p.data.length * 2 ^ 44 + b2n p.world * 2 ^ 48 + p.vmid.toNat * 2 ^ 49 + p.locket.toNat * 2 ^ 65 + p.key.toNat * 2 ^ 77 +
    p.mtype.toNat * 2 ^ 89 + b2n (p.dpoison != 0) * 2 ^ 91 + p.age.toNat * 2 ^ 92 + p.addr.toNat * 2 ^ 96 +
    p.aux.toNat * 2 ^ 148 + p.bmask.toNat * 2 ^ 180 + p.dpoison.toNat * 2 ^ 244)

/-- The response to a packet (R249): it copies TAG, GEN, ADDR, WORLD, VMID, LOCKET and KEYID and goes to the source. -/
def Packet.response (p : Packet) (cmd : BitVec 8) (aux : BitVec 32) (data : List (BitVec 256)) (dpoison : BitVec 8) : Packet :=
  { p with dst := p.src, dport := p.sport, src := p.dst, sport := p.dport, cmd := cmd, age := 0, aux := aux, bmask := 0,
           data := data, dpoison := dpoison }

/-! ### Flits (R245) -/

/-- One bit into the CRC-16 of polynomial 0x1021, most significant bit first. -/
def crc16Bit (c : BitVec 16) (b : Bool) : BitVec 16 := if c.msb != b then (c <<< 1) ^^^ 0x1021 else c <<< 1

/-- `n` bits of a flit, from bit `hi` downwards. -/
def crc16Bits (f : BitVec 288) : Nat → Nat → BitVec 16 → BitVec 16
  | 0, _, c => c
  | n + 1, hi, c => crc16Bits f n (hi - 1) (crc16Bit c (f.getLsbD hi))

/-- The CRC of a flit, over its bits [287:272] and then [255:0]. -/
def flitCrc (f : BitVec 288) : BitVec 16 := crc16Bits f 256 255 (crc16Bits f 16 287 0xFFFF)

/-- A flit with its side bits: FTYPE, VC, LSEQ, CRET, CRC. -/
def flit (ftype vc : BitVec 2) (lseq : BitVec 8) (cret : BitVec 4) (payload : BitVec 256) : BitVec 288 :=
  let f := BitVec.ofNat 288 (payload.toNat + cret.toNat * 2 ^ 272 + lseq.toNat * 2 ^ 276 + vc.toNat * 2 ^ 284 + ftype.toNat * 2 ^ 286)
  f ||| BitVec.ofNat 288 ((flitCrc f).toNat * 2 ^ 256)

/-- An idle flit with a link acknowledgement: the LSEQ acknowledged, and whether it is a negative one. -/
def idleFlit (next lseq : BitVec 8) (nak : Bool) : BitVec 288 :=
  flit 0 0 next 0 (BitVec.ofNat 256 (lseq.toNat + b2n nak * 2 ^ 8))

/-- A packet as FTYPE and payload of its flits. -/
def Packet.flits (p : Packet) : List (BitVec 2 × BitVec 256) :=
  (1, p.header) :: (p.data.zipIdx.map fun q => (if q.2 + 1 = p.data.length then 3 else 2, q.1))

/-- An idle flit with a positive link acknowledgement that returns one credit of a channel; the RSP mesh's is that of VC
code 0. -/
def ackFlit (next lseq : BitVec 8) (vc : BitVec 2) : BitVec 288 :=
  flit 0 0 next (1 <<< (if vc = vcRsp then 0 else vc).toNat) (BitVec.ofNat 256 lseq.toNat)

def Link.fresh : Link := { next := 0, sent := [], idle := none }

/-- Whether a receiver of the link may expect a flit of this number next: one the sender keeps, or the next it sends. -/
def Link.expects (l : Link) (lseq : BitVec 8) : Bool :=
  l.next == lseq || l.sent.any fun f => f.extractLsb' 276 8 == lseq

/-- One non-idle flit sent: the replay buffer keeps the last 32 (R246). -/
def Link.send (vc : BitVec 2) (l : Link) (f : BitVec 2 × BitVec 256) : Link :=
  let sent := l.sent ++ [flit f.1 (if vc = vcRsp then 0 else vc) l.next 0 f.2]
  { l with next := l.next + 1, sent := sent.drop (sent.length - 32) }

/-- The flits a sender resends from a given LSEQ onward, in the original order (R246). -/
def Link.resend (l : Link) (lseq : BitVec 8) : List (BitVec 288) := l.sent.dropWhile fun f => f.extractLsb' 276 8 != lseq

/-- The other direction of a link: its receiver is the router before this one's. -/
def linkBack (l : LinkId) : LinkId :=
  match l.side with
  | 0 => { l with stop := ⟨l.stop.x - 1, l.stop.y⟩, side := 1 }
  | 1 => { l with stop := ⟨l.stop.x + 1, l.stop.y⟩, side := 0 }
  | 2 => { l with stop := ⟨l.stop.x, Fin.ofNat 10 (l.stop.y.val - 1)⟩, side := 3 }
  | _ => { l with stop := ⟨l.stop.x, Fin.ofNat 10 (l.stop.y.val + 1)⟩, side := 2 }

def State.onMesh (s : State) (f : MeshState → MeshState) : State := { s with mesh := f s.mesh }

/-- The tag of a request packet: its initiator and number. -/
def HeldPacket.key (p : HeldPacket) : Nat × Nat := (p.init, p.pkt.tag.toNat)

/-- A packet that carries a request, or whose request has not been given yet. -/
def HeldPacket.isReq (p : HeldPacket) : Bool := p.int.isNone && p.rsp.isNone && p.snoop.isNone && !p.note

/-- A transaction changed, where one has that tag. -/
def State.onTxn (s : State) (k : Nat × Nat) (f : Txn → Txn) : State :=
  match s.mesh.txns.find k with
  | some t => s.onMesh fun m => { m with txns := m.txns.set k (f t) }
  | none => s

/-- The response given to a request becomes another: it has reached the initiator, or is on its way. -/
def State.reanswer (s : State) (k : Nat × Nat) (f : Answer → Answer) : State :=
  (s.onTxn k fun t => { t with answer := t.answer.map f }).onMesh fun m => { m with
    held := m.held.map fun p => if p.key == k && p.rsp.isSome then { p with rsp := p.rsp.map f } else p }

/-! ### Input buffers and credits (R254) -/

/-- Flits that an input buffer holds. -/
def bufSize (b : BufId) : Nat := if b.vc = vcRsp then 12 else 9

/-- Length of a packet in flits. -/
def Packet.length (p : Packet) : Nat := 1 + p.data.length

/-- Flits that wait in an input buffer. -/
def bufUsed (held : List HeldPacket) (b : BufId) : Nat :=
  ((held.filter fun p => p.at_ == some b).map fun p => p.pkt.length).foldl (· + ·) 0

/-- The inputs that a packet passes: the local one of its source router, and one for each link of its route. -/
def inputs (p : HeldPacket) : List (Option LinkId × BufId) :=
  (none, ⟨p.pkt.src, BitVec.ofNat 3 (4 + p.pkt.sport.toNat), p.vc⟩) ::
    (route p.pkt.src p.pkt.dst (p.vc == vcRsp)).map fun l => (some l, ⟨l.stop, l.side.zeroExtend 3, p.vc⟩)

/-- The inputs still ahead of a packet. -/
def HeldPacket.legs (p : HeldPacket) : List (Option LinkId × BufId) :=
  match p.at_ with
  | none => inputs p
  | some b => ((inputs p).dropWhile fun q => q.2 != b).drop 1

/-- The mesh domain of a router; those of rows 0 and 9 have none (R392). -/
def routerDom (st : Stop) : Option Nat := if st.y.val = 0 ∨ st.y.val = 9 then none else some (domMesh (st.x.toNat / 4))

/-- How far a packet gets: to its destination port; it waits, perhaps for the wake of a domain; or a router answers it with
an error. -/
inductive Way where
  | arrives
  | waits (dom : Option Nat)
  | fails (status : Nat)
deriving DecidableEq, Repr

/-- What lies before a power domain: an answer WAKE_FAIL once its wake limit has passed, or a wait (R265, R266). -/
def State.asleep (s : State) (dom : Nat) : Option Way :=
  if s.mesh.wakeFail.contains dom then some (.fails 0x03) else if s.awake dom then none else some (.waits (some dom))

/-- The way of a packet over the inputs ahead of it, and where it comes to rest. A router starts it on an output only when
the link is neither failed nor in a retry, the next router is awake, and its input has credits for all the packet's flits;
behind another packet in a buffer it waits for that one (R246, R247, R254, R257, R265). `full`: the target takes no packet
now (R221). -/
def State.walk (s : State) (full : Bool) (others : List HeldPacket) (p : HeldPacket) :
    List (Option LinkId × BufId) → Option BufId → Option BufId × Way
  | [], at_ => (at_, (s.asleep p.dom).getD (if full then .waits none else .arrives))
  | (l, b) :: rest, at_ =>
    let down := match l with | some l => s.mesh.failed.contains l | none => false
    let retrying := match l with | some l => (s.mesh.retry.find l).isSome | none => false
    let dom := (routerDom b.stop).bind s.asleep
    if down then (at_, .fails 0x06)
    else if retrying then (at_, .waits none)
    else match dom with
      | some w => (at_, w)
      | none =>
        if bufSize b < bufUsed others b + p.pkt.length then (at_, .waits none)
        else if 0 < bufUsed others b then (some b, .waits none)
        else State.walk s full others p rest (some b)

/-- Whether a packet stands before another where that one is now. -/
def HeldPacket.before (q p : HeldPacket) : Bool :=
  q.at_ == p.at_ && (p.at_.isSome || (q.pkt.src == p.pkt.src && q.pkt.sport == p.pkt.sport && q.vc == p.vc))

/-- A request for a slice whose retirement is under way waits at its initiator until every copy of the remap table holds
the new entries (R225, R447). -/
def State.remapHeld (s : State) (p : HeldPacket) : Bool :=
  p.isReq && p.at_.isNone && decide (p.pkt.dport = 2) && (s.coh.retiring.map tileStop) == some p.pkt.dst

/-- How far a packet gets from where it stands, with the packets before it in the order of the buffers, and all others. -/
def State.way (s : State) (full : Bool) (front others : List HeldPacket) (p : HeldPacket) : Option BufId × Way :=
  if s.remapHeld p ∨ front.any (fun q => q.before p) then (p.at_, .waits none) else s.walk full others p p.legs p.at_

/-- The links a packet crosses on its way to a buffer, or to its destination port. -/
def HeldPacket.crossed (p : HeldPacket) (b : Option BufId) : List LinkId :=
  let n := match b with
    | none => 0
    | some b => if p.at_ = some b then 0 else (p.legs.takeWhile fun q => q.2 != b).length + 1
  (p.legs.take n).filterMap (·.1)

/-- The flits of a packet cross a link; the receiver acknowledges the last of them and returns its credits in idle flits of
the other direction, of which the last one stays (R245). -/
def sendOver (p : Packet) (vc : BitVec 2) (t : Map LinkId Link) (l : LinkId) : Map LinkId Link :=
  let a := p.flits.foldl (Link.send vc) (t.getD l Link.fresh)
  let b := t.getD (linkBack l) Link.fresh
  (t.set l a).set (linkBack l) { b with idle := some (ackFlit b.next (a.next - 1) vc) }

/-- The flits of a packet cross links. -/
def State.cross (s : State) (p : Packet) (vc : BitVec 2) (ls : List LinkId) : State :=
  s.onMesh fun m => { m with links := ls.foldl (sendOver p vc) m.links }

/-- The router at which a packet stands; its sender's before it has left that. -/
def HeldPacket.stop (p : HeldPacket) : Stop := match p.at_ with | some b => b.stop | none => p.pkt.src

/-- WAKE_PAUSE or WAKE_RESUME from the router at which a packet stands to its initiator (R250, R266). -/
def State.pauseSent (s : State) (p : HeldPacket) (on : Bool) : State :=
  let r := { p.pkt.response (if on then 0x43 else 0x44) 0 [] 0 with src := p.stop }
  s.cross r vcRsp (route r.src r.dst true)

/-- The timer of a request or of a snoop stops or runs again as its packet enters or leaves a buffer in which some packet
waits for a wake, where WAKE_PAUSE or WAKE_RESUME arrives; an INT and a response have none (R266, R267). -/
def State.setPaused (s : State) (p : HeldPacket) (on : Bool) : State :=
  if p.int.isSome ∨ p.note ∨ p.rsp.isSome ∨ s.rspDown p.stop p.pkt.src then s
  else match p.snoop with
    | some m =>
      let k := (m.core, m.line)
      match s.mesh.snoops.find k with
      | some x => if x.paused = on then s
                  else (s.pauseSent p on).onMesh fun m => { m with snoops := m.snoops.set k { x with paused := on } }
      | none => s
    | none =>
      match s.mesh.txns.find p.key with
      | some t => if t.pkt.gen ≠ p.pkt.gen ∨ t.paused = on then s
                  else (s.pauseSent p on).onTxn p.key fun t => { t with paused := on }
      | none => s

/-- A packet comes to rest in a buffer, behind those that stand there; a domain it waits for is asked to wake, and every
packet of a buffer in which one waits for a wake is paused. -/
def State.come (s : State) (p : HeldPacket) (b : Option BufId) (dom : Option Nat) : State :=
  let s := s.cross p.pkt p.vc (p.crossed b)
  let q : HeldPacket := { p with at_ := b, wake := dom.isSome }
  let s := s.onMesh fun m => { m with held := m.held ++ [q] }
  let s := match dom with | some d => s.wake d | none => s
  let all := if b.isNone then [q] else s.mesh.held.filter fun r => r.at_ == b
  if b.isSome ∧ all.any (·.wake) ∨ b.isNone ∧ s.remapHeld q then all.foldl (fun s r => s.setPaused r true) s else s

/-! ### The choice of an output (R255) -/

/-- The output that a packet is routed to where it stands: a router and one of its outputs, and whether rule 1 applies. -/
def HeldPacket.output (p : HeldPacket) : Stop × Nat × Bool :=
  let r := if p.vc = vcRsp then 8 else 0
  match p.legs.head? with
  | some (some l, _) => (l.stop, l.side.toNat + r, p.pkt.age == 15)
  | _ => (p.pkt.dst, 4 + p.pkt.dport.toNat + r, p.pkt.age == 15)

/-- The input at which a packet stands, the local ports counted as inputs. -/
def HeldPacket.input (p : HeldPacket) : Nat := match p.at_ with | some b => b.side.toNat | none => 4 + p.pkt.sport.toNat

/-- Rank of a packet at the head of its buffer: AGE 15, then ESC, then the highest AGE, then the input that comes first after
the one that won last at its output. -/
def State.rank (s : State) (p : HeldPacket) : Nat :=
  let turn := (8 + s.mesh.turn.getD p.output 7 - p.input) % 8
  if p.pkt.age = 15 then 256 + turn else (if p.vc = vcEsc then 128 else 0) + 8 * p.pkt.age.toNat + turn

/-- Numbers by falling rank, those of one rank in their order. -/
def byRank : List (Nat × Nat) → List (Nat × Nat)
  | [] => []
  | a :: l =>
    let r := byRank l
    r.takeWhile (fun b => decide (a.1 < b.1)) ++ a :: r.dropWhile fun b => decide (a.1 < b.1)

/-- The places of the waiting packets in the order in which the routers choose them. -/
def State.choice (s : State) : List Nat :=
  (byRank (s.mesh.held.zipIdx.map fun q => (s.rank q.1, q.2))).map Prod.snd

/-- An output's pointer moves past the input that wins it. -/
def State.wins (s : State) (p : HeldPacket) : State :=
  s.onMesh fun m => { m with turn := m.turn.set p.output p.input }

/-! ### Statistics (R268) -/

/-- A live count: 0 REQ, 1 BYTES, 2-9 HIST, 10 MAX, 11 TMO. -/
def State.liveCt (s : State) (i k : Nat) : Nat := s.mesh.live.getD (i, k) 0
def State.setLive (s : State) (i k v : Nat) : State :=
  { s with mesh := { s.mesh with live := s.mesh.live.set (i, k) v } }

def sat32 (n : Nat) : Nat := min n (2 ^ 32 - 1)

/-- Whether a transaction with an identity is counted. -/
def State.counted (s : State) (world : Bool) (locket : Nat) : Bool :=
  s.flag .statCtl F.statCtl.EN && locket == 0 && (!world || s.flag .statCtl F.statCtl.TW_COUNT)

/-- The histogram bin of a latency. -/
def State.latBin (s : State) (b : Nat) : Nat :=
  (firstOf (fun k => decide (b < s.fld (.histEdge (ix 7 k)) F.histEdge.EDGE)) (List.range 7)).getD 7

/-- A completed transaction, with its data flits and latency. -/
def State.statDone (s : State) (i flits lat : Nat) : State :=
  let k := 2 + s.latBin lat
  (((s.setLive i 0 ((s.liveCt i 0 + 1) % 2 ^ 64)).setLive i 1 ((s.liveCt i 1 + 32 * flits) % 2 ^ 64)).setLive i k
    (sat32 (s.liveCt i k + 1))).setLive i 10 (sat32 (max (s.liveCt i 10) lat))

/-- An INT counts in REQ and BYTES only; it has no data flit. -/
def State.statInt (s : State) (i : Nat) : State := s.setLive i 0 ((s.liveCt i 0 + 1) % 2 ^ 64)

/-- The initiator number of an I/O stop. -/
def ioInit (src : Stop) : Option Nat := ((List.range 8).find? fun p => ioStop p == src).map (264 + ·)

/-- An INT that an I/O stop sends. -/
def State.statSent (s : State) (src : Stop) (world : Bool) : State :=
  match ioInit src with
  | some i => if s.counted world 0 then s.statInt i else s
  | none => s

/-- A transaction of an initiator's own access, with its data flits; its latency is a free value (log entry 78). -/
def State.statOf (s : State) (i : Nat) (id : Ident) (flits : Nat) : State :=
  if s.counted id.world id.locket then
    let (w, s1) := s.fresh
    s1.statDone i flits (w.toNat % 2 ^ 32)
  else s

/-- A transaction of a line that an agent made; an I/O stop is an initiator of its own. -/
def State.statAgent (s : State) (src : Stop) (id : Ident) : State :=
  match ioInit src with
  | some i => s.statOf i id 2
  | none => s

/-- One transaction for each line of a range of bytes. -/
def State.statLines (s : State) (i : Nat) (id : Ident) (pa n : Nat) : State :=
  (List.range ((pa + n - 1) / 64 - pa / 64 + 1)).foldl (fun s _ => s.statOf i id 2) s

/-- A transaction that ended with a synthesised TIMEOUT counts in TMO only. -/
def State.statTimeout (s : State) (i : Nat) : State := s.setLive i 11 (sat32 (s.liveCt i 11 + 1))

/-- An initiator's own access that ended in an RSP_ERR, with the data flits of the request. -/
def State.statErr (s : State) (i : Nat) (id : Ident) (flits e : Nat) : State :=
  if e = 1 then (if s.counted id.world id.locket then s.statTimeout i else s) else s.statOf i id flits

def Core.statId (k : Core) : Ident := ⟨k.world, 0, match k.lk with | some l => l.id | none => 0⟩

/-- A transaction of a core's own access. -/
def State.statCore (s : State) (c flits : Nat) : State := s.statOf c (s.core c).statId flits

end Sys2Proof.Machine
end

