-- ==== Sys2Proof/Machine/Memory.lean ====
section
/-! DEFINITION. Physical memory: the address map (R463-R465), what a line reads as under a key (R216, R364), writes
(R354, R498), poison (R435), and the errors a request meets on its way (R247, R252, R266). -/

namespace Sys2Proof.Machine

/-! ### The address map -/

/-- The regions of R463. -/
inductive Region where
  | none_
  | ccs
  | mmio (p : Nat)
  | dram
  | cfg (p : Nat)
  | host (p : Nat)
  | cxl
deriving DecidableEq, Repr

def region (pa : Nat) : Region :=
  if pa < 0x10000000 then .none_
  else if pa < 0x20000000 then .ccs
  else if pa < 0x80000000 then .none_
  else if pa < 0x100000000 then .mmio ((pa - 0x80000000) / 0x10000000)
  else if pa < 0x100000000000 then .dram
  else if pa < 0x120000000000 then .none_
  else if pa < 0x120080000000 then .cfg ((pa - 0x120000000000) / 0x10000000)
  else if pa < 0x140000000000 then .none_
  else if pa < 0x150000000000 then .host 0
  else if pa < 0x160000000000 then .host 4
  else if pa < 0x200000000000 then .none_
  else if pa < 0x400000000000 then .mmio ((pa - 0x200000000000) / 2 ^ 42)
  else .cxl

def setHas (pa : Nat) (m : MemSet) : Bool := decide (m.base ≤ pa) && decide (pa < m.base + m.size)

/-- An address that an interleave set covers (R465). -/
def State.covered (s : State) (pa : Nat) : Bool := (s.m.dram ++ s.m.cxl).any (setHas pa)

/-- The fixed physical attribute map: Device, or Normal where a set covers the address (R154, R463, R465). -/
def State.physDevice (s : State) (pa : Nat) : Bool :=
  match region pa with
  | .dram | .cxl => !s.covered pa
  | _ => true

/-- XOR of the ten 4-bit fields of PA[51:12] (R350). -/
def xor4 (pa : Nat) : Nat :=
  (List.range 10).foldl (fun x i => x ^^^ ((pa >>> (12 + 4 * i)) % 16)) 0

/-- The channel-local address of an address in a set (R350). -/
def MemSet.localAddr (m : MemSet) (pa : Nat) : Nat := (pa - m.base) / (4096 * m.members.length) * 4096 + pa % 4096

/-- The member of a set that holds a line: a channel, or 16 + 4p + r for a CXL root port (R350, R365). -/
def State.member (s : State) (pa : Nat) : Option Nat :=
  match (s.m.dram ++ s.m.cxl).find? (setHas pa) with
  | none => none
  | some m => m.members[xor4 pa % m.members.length]?

/-- The address that lies at a channel-local address of the i-th member of a set: of the W pages of a group, each lies on
another member (R350). -/
def MemSet.addrOf (m : MemSet) (i loc : Nat) : Option Nat :=
  let w := m.members.length
  let g := m.base + loc / 4096 * (4096 * w)
  (firstOf (fun j => xor4 (g + 4096 * j) % w == i && setHas (g + 4096 * j) m) (List.range w)).map fun j => g + 4096 * j + loc % 4096

/-! ### Mirrored pairs (R362) -/

def State.mcAt (s : State) (n : Nat) : McState := s.mc.getD n McState.reset
/-- Whether a channel belongs to a mirrored pair. -/
def State.inPair (s : State) (n : Nat) : Bool := (s.byteOfMemCfg 3).testBit (n / 2)
/-- The controller that keeps the state of a pair. -/
def pairOf (n : Nat) : Nat := 2 * (n / 2)
def partnerOf (n : Nat) : Nat := if n % 2 = 0 then n + 1 else n - 1

/-- The channel that reads of a pair use: MC(2k), or the survivor once that has failed. -/
def State.readsFrom (s : State) (n : Nat) : Nat :=
  if s.inPair n && (s.mcAt (pairOf n)).mirrorFailed == some false then pairOf n + 1 else n

/-- The other channel of a pair, where both work or one is being rebuilt: writes go to it too. -/
def State.writesAlso (s : State) (n : Nat) : Option Nat :=
  let m := s.mcAt (pairOf n)
  if s.inPair n && (m.mirrorFailed.isNone || m.rebuild) then some (partnerOf (s.readsFrom n)) else none

/-! ### Keys -/

/-- The generation of a key ID: it changes whenever its key is generated again or cleared; key ID 0 has none
(R31, R282, R284). -/
def MemState.gen (m : MemState) (key : Nat) : Nat :=
  if key = 0 then 0 else m.epoch * 2 ^ 32 + m.keyGen.getD key 0

/-- The stored line. -/
def MemState.raw (m : MemState) (line : Nat) : Line := lineOf (cellRead 0 m.mem (64 * line) 64)

/-- Whether the stored line reads as written under a key: its last write was under the same key and generation. -/
def MemState.keyOk (m : MemState) (line key : Nat) : Bool :=
  match m.lkey.find line with
  | none => true
  | some p => p == (key, m.gen key)

/-- A line as a read under a key returns it (R216, R364). -/
def MemState.under (m : MemState) (line key : Nat) : Line :=
  match m.lkey.find line with
  | none => m.raw line
  | some p => if p == (key, m.gen key) then m.raw line
              else Config.xtsMismatch (m.raw line) p.1 p.2 key (m.gen key) line

/-- The bytes of an access within one line, as a number. -/
def MemState.readIn (m : MemState) (pa n key : Nat) : Nat :=
  if m.keyOk (pa / 64) key then leNat (cellRead 0 m.mem pa n)
  else ((m.under (pa / 64) key).toNat >>> (8 * (pa % 64))) % 2 ^ (8 * n)

/-- Bytes of a line written under a key; unwritten bytes keep what the line reads as under that key (R498). -/
def MemState.write (m : MemState) (line key : Nat) (mask : BitVec 64) (data : Line) : MemState :=
  { m with
    mem := if m.keyOk line key then cellSetMask m.mem (64 * line) 64 mask.toNat data.toNat
           else cellSetMask m.mem (64 * line) 64 fullMask.toNat (mergeLine mask (m.under line key) data).toNat
    lkey := m.lkey.set line (key, m.gen key) }

/-! ### Poison -/

/-- Whether a 32-byte half is poisoned. -/
def MemState.poisoned (m : MemState) (half : Nat) : Bool := (m.poison.find half).isSome

/-- Whether an access touches a poisoned half. -/
def MemState.poisonedIn (m : MemState) (pa n : Nat) : Bool :=
  m.poisoned (pa / 32) || m.poisoned ((pa + n - 1) / 32)

/-- A half poisoned. -/
def MemState.poisonHalf (m : MemState) (half : Nat) : MemState := { m with poison := m.poison.set half 0 }
def MemState.poisonLine (m : MemState) (line : Nat) : MemState := (m.poisonHalf (2 * line)).poisonHalf (2 * line + 1)

/-- A half after a write of some of its bytes with good or poisoned data: only a WR_LINE (`whole`) clears a pattern. -/
def MemState.markHalf (m : MemState) (half : Nat) (bytes : BitVec 32) (bad whole : Bool) : MemState :=
  if bad && bytes != 0 then m.poisonHalf half
  else if whole then { m with poison := m.poison.erase half }
  else m
/-- A line after a write, with DPOISON of its data flits (R249, R354). -/
def MemState.markLine (m : MemState) (line : Nat) (mask : BitVec 64) (dp : BitVec 2) (whole : Bool) : MemState :=
  (m.markHalf (2 * line) (mask.truncate 32) (dp.getLsbD 0) whole).markHalf (2 * line + 1) ((mask >>> 32).truncate 32)
    (dp.getLsbD 1) whole

/-- A core store into a poisoned half: the half is clean once all its 32 bytes have been written (R435). -/
def MemState.cover (m : MemState) (half : Nat) (bytes : BitVec 32) : MemState :=
  match m.poison.find half with
  | none => m
  | some w => if (w ||| bytes) = BitVec.allOnes 32 then { m with poison := m.poison.erase half }
              else { m with poison := m.poison.set half (w ||| bytes) }
def MemState.coverLine (m : MemState) (line : Nat) (mask : BitVec 64) : MemState :=
  (m.cover (2 * line) (mask.truncate 32)).cover (2 * line + 1) ((mask >>> 32).truncate 32)

/-! ### Paths -/

/-- The error a request from one stop meets on the way to an agent in a power domain: link failed, or the domain's wake
limit has passed (R247, R266); and TIMEOUT where its response cannot come back, of R261's two outcomes then the one in
which it is not performed (log entry 88). -/
def State.pathErr (s : State) (src dst : Stop) (dom : Nat) : Option Nat :=
  if s.reqDown src dst then some 0x06 else if s.mesh.wakeFail.contains dom then some 0x03
  else if s.rspDown dst src then some 0x01 else none

/-- A CXL root port under clasp, or clasped since its CXL.mem was set up (R380, R381). -/
def State.cxlClasped (s : State) (pa : Nat) : Bool :=
  match s.member pa with
  | some k => decide (16 ≤ k) && (s.flag (.clasp (ix 8 ((k - 16) / 4)) (ix 4 (k % 4))) F.clasp.CLASPED ||
      (((s.io.getD ((k - 16) / 4) IoState.reset).rps.getD (k % 4) RootPort.reset).cut))
  | none => false

/-- The stop and power domain of the controller or port that a line is read from. -/
def State.memStop (s : State) (pa : Nat) : Stop × Nat :=
  match s.member pa with
  | some k => if k < 16 then (mcStop (s.readsFrom k), domMc (s.readsFrom k)) else (ioStop ((k - 16) / 4), domIo ((k - 16) / 4))
  | none => (stwStop, 416)

end Sys2Proof.Machine
end

