-- ==== Sys2Proof/Machine/Coherence.lean ====
section
/-! DEFINITION. Private hierarchies, directory and L3 slices (R213-R242). What a read returns does not depend on which
cache holds the line (R162, R218), so these functions change only who holds what: `Cs` is the caches with the older
contents that memory holds below a dirty line. Values change where data is stored or discarded (`Store` below). -/

namespace Sys2Proof.Machine

abbrev Stale := Map Nat Below

/-- The caches, and what memory holds below dirty lines. -/
structure Cs where
  coh : CohState
  stale : Stale

def State.cs (s : State) : Cs := ⟨s.coh, s.m.stale⟩
/-- The errors still unmet in DRAM when memory has taken dirty lines: such a line has been written whole (R498). -/
def MemState.unmet (m : MemState) (stale : Stale) : Map (Nat × Nat) DramErr :=
  m.latent.keep fun k _ => (m.stale.find k.2).isNone || stale.find k.2 == m.stale.find k.2
def State.withCs (s : State) (x : Cs) : State :=
  { s with coh := x.coh, m := { s.m with stale := x.stale, latent := s.m.unmet x.stale } }

/-! ### Homes (R224, R225) -/

def hashIdx (pa : Nat) : Nat :=
  (((((((pa >>> 6) ^^^ (pa >>> 13)) ^^^ (pa >>> 20)) ^^^ (pa >>> 27)) ^^^ (pa >>> 34)) ^^^ (pa >>> 41)) % 128) ^^^
    ((pa >>> 48) % 16)

/-- The home tile of a line. -/
def State.home (s : State) (line : Nat) : Nat := s.fld (.l3Remap (ix 128 (hashIdx (64 * line)))) F.l3Remap.SLICE

/-- Set index of the L2, L3 and directory: PA[16:6]. -/
def setOf (line : Nat) : Nat := line % 2048
/-- Set index of the L1D: PA[12:6]; of the L1I: PA[13:6]. -/
def setD (line : Nat) : Nat := line % 128
def setI (line : Nat) : Nat := line % 256

/-! ### Holders -/

/-- The cores a directory entry names: owner and sharers, or every core of a marked group (R219). -/
def DirEntry.holders (d : DirEntry) : List Nat :=
  let sh := match d.coarse with
    | none => d.sharers
    | some v => (List.range 256).filter fun c => v.getLsbD (c / 8)
  match d.owner with
  | none => sh
  | some o => if sh.contains o then sh else o :: sh

/-- A sharer recorded: a fifth one turns the list into a coarse vector (R219). -/
def DirEntry.addSharer (d : DirEntry) (c : Nat) : DirEntry :=
  match d.coarse with
  | some v => { d with coarse := some (v ||| (1 <<< (c / 8))) }
  | none =>
    if d.sharers.contains c then d
    else if d.sharers.length < 4 then { d with sharers := d.sharers ++ [c] }
    else { d with sharers := [], coarse := some ((c :: d.sharers).foldl (fun v k => v ||| (1 <<< (k / 8))) 0) }

/-- A holder removed. A coarse vector loses no bit, because the group's other cores may hold the line. -/
def DirEntry.drop (d : DirEntry) (c : Nat) : DirEntry :=
  { d with owner := if d.owner = some c then none else d.owner, sharers := d.sharers.filter (· != c) }

/-- The core that holds a line in M or O. -/
def Cs.dirtyOwner (x : Cs) (line : Nat) : Option Nat :=
  match x.coh.dir.find line with
  | none => none
  | some d => match d.owner with
    | none => none
    | some o => match x.coh.priv.find (o, line) with
      | some p => if p.st = .m ∨ p.st = .o then some o else none
      | none => if ((x.coh.wbuf.find (o, line)).map Prod.fst) = some true then some o else none

/-- A line kept in no private hierarchy any more: its directory entry goes when no core holds it. -/
def Cs.dirSet (x : Cs) (line : Nat) (d : DirEntry) : Cs :=
  let none_ := d.owner.isNone && d.sharers.isEmpty &&
    (match d.coarse with
     | none => true
     | some _ => !(x.coh.priv.any fun p => p.1.2 == line))
  { x with coh := { x.coh with dir := if none_ then x.coh.dir.erase line else x.coh.dir.set line d } }

/-- The slot lent for a line becomes empty where the line is in no private hierarchy any more (R236). -/
def Cs.unlend (x : Cs) (line : Nat) : Cs :=
  match x.coh.l3.find line with
  | some l => if l.lent && (x.coh.dir.find line).isNone then { x with coh := { x.coh with l3 := x.coh.l3.erase line } } else x
  | none => x

def Cs.dirErase (x : Cs) (line : Nat) : Cs := { x with coh := { x.coh with dir := x.coh.dir.erase line } }
def Cs.privErase (x : Cs) (c line : Nat) : Cs := { x with coh := { x.coh with priv := x.coh.priv.erase (c, line) } }
def Cs.privSet (x : Cs) (c line : Nat) (p : PrivLine) : Cs :=
  { x with coh := { x.coh with priv := x.coh.priv.set (c, line) p } }
def Cs.l3Erase (x : Cs) (line : Nat) : Cs := { x with coh := { x.coh with l3 := x.coh.l3.erase line } }
def Cs.l3Set (x : Cs) (line : Nat) (l : L3Line) : Cs := { x with coh := { x.coh with l3 := x.coh.l3.set line l } }
/-- Memory holds the line as every reader sees it. -/
def Cs.toMem (x : Cs) (line : Nat) : Cs := { x with stale := x.stale.erase line }
def Cs.tick (x : Cs) : Cs := { x with coh := { x.coh with stamp := x.coh.stamp + 1 } }

/-- A copy that has been cleaned: M becomes E, O becomes S (R220, R231). -/
def PrivLine.cleaned (p : PrivLine) : PrivLine :=
  { p with st := (match p.st with | .m => .e | .o => .s | t => t), l2old := none,
           l1d := p.l1d.map fun (q : Nat × Bool) => (q.1, false) }

/-- SNP_INV at one core: the copy goes; a victim in the write-back buffer stays there and is dropped later (R222). -/
def Cs.snoopInv (x : Cs) (c line : Nat) : Cs := x.privErase c line

/-- SNP_SHARED at one core: M becomes O, E becomes S (R220). -/
def Cs.snoopShared (x : Cs) (c line : Nat) : Cs :=
  match x.coh.priv.find (c, line) with
  | none => x
  | some p => match p.st with
    | .m => x.privSet c line { p with st := .o }
    | .e => x.privSet c line { p with st := .s }
    | _ => x

/-- SNP_INV to every holder but one. -/
def Cs.invOthers (x : Cs) (line : Nat) (keep : Option Nat) : Cs :=
  match x.coh.dir.find line with
  | none => x
  | some d => (d.holders.filter fun c => some c != keep).foldl (fun x c => x.snoopInv c line) x

/-! ### L3 ways (R230, R234, R237, R242) -/

def State.l3Locked (s : State) (n w : Nat) : Bool :=
  decide (w < 12) && (s.reg (.l3Lock (ix 128 n))).getLsbD w
def State.l3Off (s : State) (n w : Nat) : Bool :=
  decide (8 ≤ w) && (s.fld (.l3Waypwr (ix 128 n)) F.l3Waypwr.OFF).testBit (w - 8)
def State.l3Dis (s : State) (n w : Nat) : Bool := (s.fld (.l3Stat (ix 128 n)) F.l3Stat.WAY_DIS).testBit w
def State.l3Admissible (s : State) (n w : Nat) : Bool :=
  !s.l3Off n w && !s.l3Dis n w && !s.l3Locked n w && (s.coh.wayBusy.find n != some w)

/-- The lines of a set of a slice, by way. -/
def State.l3InSet (s : State) (x : Cs) (n st_ : Nat) : List (Nat × L3Line) :=
  x.coh.l3.filter fun p => setOf p.1 == st_ && s.home p.1 == n

/-- The way a 15-bit tree points to among the admissible ones: node `i` covers `n` ways from `base`. -/
def plruPick (bits : BitVec 16) (ok : Nat → Bool) : Nat → Nat → Nat → Nat → Nat
  | 0, _, base, _ => base
  | f + 1, node, base, n =>
    if n ≤ 1 then base
    else
      let h := n / 2
      let lo := anyBelow h fun i => ok (base + i)
      let hi := anyBelow h fun i => ok (base + h + i)
      if (bits.getLsbD node && hi) || !lo then plruPick bits ok f (2 * node + 1) (base + h) h
      else plruPick bits ok f (2 * node) base h

/-- The tree after a use of a way: every node on its path points away from it. -/
def plruTouch (bits : BitVec 16) (way : Nat) : BitVec 16 :=
  let f := fun (b : BitVec 16) (node : Nat) (right : Bool) =>
    if right then b &&& ~~~(1#16 <<< node) else b ||| (1#16 <<< node)
  let r3 := way.testBit 3; let r2 := way.testBit 2; let r1 := way.testBit 1; let r0 := way.testBit 0
  let n1 := 1; let n2 := 2 * n1 + b2n r3; let n3 := 2 * n2 + b2n r2; let n4 := 2 * n3 + b2n r1
  f (f (f (f bits n1 r3) n2 r2) n3 r1) n4 r0

def Cs.l3Touch (x : Cs) (n st_ way : Nat) : Cs :=
  { x with coh := { x.coh with plru := x.coh.plru.set (n, st_) (plruTouch (x.coh.plru.getD (n, st_) 0) way) } }

/-- A line leaves an L3 way for memory: memory takes that copy's data (R230). -/
def Cs.l3WriteBack (x : Cs) (line : Nat) (l : L3Line) : Cs :=
  if l.dirty then
    match l.old with
    | none => x.toMem line
    | some b => { x with stale := x.stale.set line b }
  else x

/-- A victim placed into an admissible way of its set: an invalid one first, otherwise the pseudo-LRU one, whose line
is written to memory when dirty. With no admissible way a dirty victim goes to memory (R230). -/
def State.l3Place (s : State) (x : Cs) (n line : Nat) (dirty : Bool) (key : Nat) : Cs :=
  let st_ := setOf line
  let held := s.l3InSet x n st_
  let free := firstOf (fun w => s.l3Admissible n w && !(held.any fun p => p.2.way == w)) (List.range 16)
  match free with
  | some w => (x.l3Set line ⟨w, dirty, false, key, none⟩).l3Touch n st_ w
  | none =>
    if anyBelow 16 (s.l3Admissible n) then
      let w := plruPick (x.coh.plru.getD (n, st_) 0) (s.l3Admissible n) 5 1 0 16
      let x := match held.find? fun p => p.2.way == w with
        | some (vl, l) => (x.l3WriteBack vl l).l3Erase vl
        | none => x
      (x.l3Set line ⟨w, dirty, false, key, none⟩).l3Touch n st_ w
    else if dirty then x.toMem line else x

/-! ### Adaptive admission (R228) -/

def regionOf (line : Nat) : Nat := (64 * line) >>> 12 % 32
def partialTag (line : Nat) : Nat := (64 * line) >>> 17 % 65536
def Cs.ruOf (x : Cs) (n r : Nat) : Nat := x.coh.ru.getD (n, r) 32

/-- A clean victim recorded in its region's shadow; a displaced entry lowers the counter. -/
def Cs.shadowInsert (x : Cs) (n line : Nat) : Cs :=
  if setOf line % 64 ≠ 0 then x
  else
    let r := setOf line / 64
    let q := x.coh.shadow.getD (n, r) [] ++ [partialTag line]
    if q.length ≤ 16 then { x with coh := { x.coh with shadow := x.coh.shadow.set (n, r) q } }
    else { x with coh := { x.coh with shadow := x.coh.shadow.set (n, r) (q.drop 1),
                                      ru := x.coh.ru.set (n, r) (x.ruOf n r - 1) } }

/-- A read of a sampled set, hit or miss. -/
def Cs.shadowRead (x : Cs) (n line : Nat) : Cs :=
  if setOf line % 64 ≠ 0 then x
  else
    let r := setOf line / 64
    let q := x.coh.shadow.getD (n, r) []
    if q.contains (partialTag line) then
      { x with coh := { x.coh with
          shadow := x.coh.shadow.set (n, r) (q.erase (partialTag line)),
          ru := x.coh.ru.set (n, r) (min (x.ruOf n r + 2) 63) } }
    else x

def Cs.acceptCount (x : Cs) (n : Nat) (acc : Bool) : Cs :=
  let p := x.coh.accepts.getD n (0, 0)
  let q := if acc then ((p.1 + 1) % 2 ^ 32, p.2) else (p.1, (p.2 + 1) % 2 ^ 32)
  { x with coh := { x.coh with accepts := x.coh.accepts.set n q } }

/-- Whether the slice accepts a clean victim (R227, R228). -/
def State.takesClean (s : State) (x : Cs) (n line : Nat) : Bool :=
  let r := Reg.l3Policy (ix 128 n)
  let mode := s.fld r F.l3Policy.MODE
  if mode = 0 then true
  else if mode = 1 then false
  else
    let held := s.l3InSet x n (setOf line)
    (s.flag r F.l3Policy.FREE_ACCEPT &&
        anyBelow 16 (fun w => s.l3Admissible n w && !(held.any fun p => p.2.way == w))) ||
      decide (s.fld r F.l3Policy.THRESH ≤ x.ruOf n (setOf line / 64))

/-- A victim of a private hierarchy reaches its home slice (R226, R227, R230, R236). -/
def State.l3Victim (s : State) (x : Cs) (line : Nat) (dirty : Bool) (key : Nat) : Cs :=
  let n := s.home line
  let x := if dirty then x else x.shadowInsert n line
  match x.coh.l3.find line with
  | some l =>
    if l.lent then
      let x := x.l3Set line { l with lent := false, dirty := dirty, key := key, old := none }
      if dirty then x else x.acceptCount n true
    else x.l3Set line { l with dirty := l.dirty || dirty, old := none }
  | none =>
    if dirty then s.l3Place x n line true key
    else if s.takesClean x n line && anyBelow 16 (s.l3Admissible n) then
      (s.l3Place x n line false key).acceptCount n true
    else x.acceptCount n false

/-- The victim of a core: dropped when the directory no longer lists the core (R222), else reported (R226). -/
def State.victim (s : State) (x : Cs) (c line : Nat) (dirty : Bool) (key : Nat) : Cs :=
  let x := { x with coh := { x.coh with wbuf := x.coh.wbuf.erase (c, line) } }
  match x.coh.dir.find line with
  | none => x
  | some d =>
    if d.holders.contains c then s.l3Victim (x.dirSet line (d.drop c)) line dirty key else x

/-! ### Directory allocation (R223) -/

/-- A set of the directory with no free entry gives up the entry with fewest holders, then the least recently used;
dirty data goes into the slice as a dirty victim. -/
def State.dirRoom (s : State) (x : Cs) (line : Nat) : Cs :=
  if (x.coh.dir.find line).isSome then x
  else
    let n := s.home line
    let inSet := x.coh.dir.filter fun p => setOf p.1 == setOf line && s.home p.1 == n
    if inSet.length < 20 then x
    else
      let better := fun (a b : Nat × DirEntry) =>
        decide (a.2.holders.length < b.2.holders.length) ||
          (a.2.holders.length == b.2.holders.length && decide (a.2.used < b.2.used))
      match inSet.foldl (fun (m : Option (Nat × DirEntry)) p =>
          match m with | none => some p | some q => if better p q then some p else some q) none with
      | none => x
      | some (vl, d) =>
        let dirty := (x.dirtyOwner vl).isSome
        let x := (x.invOthers vl none).dirErase vl
        if dirty then s.l3Victim x vl true d.key else x.unlend vl

/-! ### Private arrays: allocation and eviction -/

def State.l2Dis (s : State) (c w : Nat) : Bool := (s.fld (.l2Stat (ix 256 c)) F.l2Stat.WAY_DIS).testBit w

/-- A line leaves a private hierarchy for the write-back buffer (R214, R222, R226). -/
def Cs.evict (x : Cs) (c line : Nat) (p : PrivLine) : Cs :=
  let dirty := p.st = .m ∨ p.st = .o
  let x := x.privErase c line
  { x with coh := { x.coh with wbuf := x.coh.wbuf.set (c, line) (decide dirty, p.key) } }

/-- The L2 way for a new line: a free one, otherwise one the array chooses, whose line is evicted. -/
def State.l2Way (s : State) (x : Cs) (c line : Nat) : Nat × Cs :=
  let held := x.coh.priv.filter fun p => p.1.1 == c && setOf p.1.2 == setOf line && p.1.2 != line
  match firstOf (fun w => !s.l2Dis c w && !(held.any fun p => p.2.way == w)) (List.range 8) with
  | some w => (w, x)
  | none =>
    let usable := (List.range 8).filter fun w => !s.l2Dis c w
    let w := usable.getD (Config.victimWay 2 c (setOf line) x.coh.stamp % usable.length) 0
    match held.find? fun p => p.2.way == w with
    | some ((_, vl), p) => (w, x.evict c vl p)
    | none => (w, x)

/-- The L1D or L1I way for a line of the private hierarchy: a free one, otherwise one the array chooses. A dirty L1D
line that is replaced leaves its data in the L2 (R214). -/
def State.l1Fill (s : State) (x : Cs) (c line : Nat) (instr : Bool) : Cs :=
  match x.coh.priv.find (c, line) with
  | none => x
  | some p =>
    if instr then
      if p.l1i.isSome then x
      else
        let held := x.coh.priv.filter fun q => q.1.1 == c && setI q.1.2 == setI line && q.2.l1i.isSome
        let w := (firstOf (fun w => !(held.any fun q => q.2.l1i == some w)) (List.range 4)).getD
          (Config.victimWay 0 c (setI line) x.coh.stamp % 4)
        let x := match held.find? fun q => q.2.l1i == some w with
          | some (k, q) => x.privSet k.1 k.2 { q with l1i := none }
          | none => x
        x.privSet c line { p with l1i := some w }
    else
      if p.l1d.isSome then x
      else
        let held := x.coh.priv.filter fun q => q.1.1 == c && setD q.1.2 == setD line && q.2.l1d.isSome
        let w := (firstOf (fun w => !(held.any fun q => (q.2.l1d.map Prod.fst) == some w)) (List.range 8)).getD
          (Config.victimWay 1 c (setD line) x.coh.stamp % 8)
        let x := match held.find? fun q => (q.2.l1d.map Prod.fst) == some w with
          | some (k, q) => x.privSet k.1 k.2 { q with l1d := none, l2old := none }
          | none => x
        x.privSet c line { p with l1d := some (w, false) }

/-! ### Requests at the home (R220, R229) -/

/-- A request under another key than the cached copies': every copy goes, dirty data to memory (R216). -/
def State.keyConflict (s : State) (x : Cs) (line key : Nat) : Cs :=
  let other := match x.coh.dir.find line with
    | some d => d.key != key
    | none => false
  let l3Other := match x.coh.l3.find line with
    | some l => !l.lent && l.key != key
    | none => false
  if other || l3Other then (((x.invOthers line none).dirErase line).l3Erase line).toMem line else x

/-- A line that some cache holds dirty. -/
def Cs.dirty (x : Cs) (line : Nat) : Bool := (x.stale.find line).isSome

/-- A victim of the same core still in its write-back buffer reaches the home before the core's next request for the line
(R222, R257). -/
def State.ownVictim (s : State) (x : Cs) (c line : Nat) : Cs :=
  match x.coh.wbuf.find (c, line) with
  | some v => s.victim x c line v.1 v.2
  | none => x

/-- A line that leaves a private hierarchy, reported to its home (R226). -/
def State.leave (s : State) (x : Cs) (c line : Nat) (p : PrivLine) : Cs :=
  s.victim (x.privErase c line) c line (p.st == .m || p.st == .o) p.key

/-- The directory entry of a line whose owner holds it in S: the owner is a sharer (R219). -/
def Cs.settle (x : Cs) (line : Nat) : Cs :=
  match x.coh.dir.find line with
  | none => x
  | some d => match d.owner with
    | none => x
    | some o =>
      if ((x.coh.priv.find (o, line)).map (·.st)) = some .s then x.dirSet line ({ d with owner := none }.addSharer o) else x

/-- RD_SHARED: the line for a core in E or S; a fetch or a walk read receives S (R220). -/
def State.rdShared (s : State) (x : Cs) (c line key : Nat) (instr : Bool) : Cs :=
  let x := (s.keyConflict (s.ownVictim x c line) line key).tick
  let n := s.home line
  let x := x.shadowRead n line
  let x := s.dirRoom x line
  let x := match x.coh.l3.find line with
    | some l => if l.lent then x else x.l3Touch n (setOf line) l.way
    | none => x
  let d := x.coh.dir.getD line ⟨key, none, [], none, 0⟩
  let x := match d.owner with
    | some o => if o = c then x else x.snoopShared o line
    | none => x
  let ownerDirty := (x.dirtyOwner line).isSome
  let others := (d.holders.filter (· != c))
  let had := x.coh.priv.find (c, line)
  match had with
  | some _ => x
  | none =>
    let st : Moesi := if instr ∨ others ≠ [] then .s else .e
    let d := match d.owner with
      | some o => if ownerDirty then d.addSharer c
                  else ({ d with owner := none }.addSharer o).addSharer c
      | none => if st = Moesi.e then { d with owner := some c } else d.addSharer c
    let (w, x) := s.l2Way x c line
    (x.dirSet line { d with used := x.coh.stamp }).privSet c line ⟨st, key, w, none, none, none⟩

/-- RD_UNIQUE: every other copy goes; the core holds the line in M when it is dirty, else E; an unlocked L3 copy is
removed and a locked one is lent (R220, R229, R236). -/
def State.rdUnique (s : State) (x : Cs) (c line key : Nat) : Cs :=
  let x := (s.keyConflict (s.ownVictim x c line) line key).tick
  let n := s.home line
  let x := x.shadowRead n line
  let x := s.dirRoom x line
  let kept := (x.coh.priv.find (c, line)).isSome
  let coarse := (x.coh.dir.find line).bind (·.coarse)
  let x := x.invOthers line (some c)
  let x := match x.coh.l3.find line with
    | some l => if l.lent then x
                else if s.l3Locked n l.way then x.l3Set line { l with lent := true, dirty := false, old := none }
                else x.l3Erase line
    | none => x
  let st : Moesi := if x.dirty line then .m else .e
  -- the list stays coarse while the line has not left every private hierarchy (R219)
  let d : DirEntry := ⟨key, some c, [], if kept then coarse.map fun _ => 0 else none, x.coh.stamp⟩
  match x.coh.priv.find (c, line) with
  | some p => (x.dirSet line d).privSet c line { p with st := st }
  | none =>
    let (w, x) := s.l2Way x c line
    (x.dirSet line d).privSet c line ⟨st, key, w, none, none, none⟩

/-- RD_NC: a dirty owner is cleaned to memory and keeps its copy (R220). -/
def State.rdNc (s : State) (x : Cs) (line key : Nat) : Cs :=
  let x := (s.keyConflict x line key).shadowRead (s.home line) line
  match x.dirtyOwner line with
  | none => x
  | some o =>
    let x := match x.coh.priv.find (o, line) with
      | some p => x.privSet o line p.cleaned
      | none => x
    let x := match x.coh.l3.find line with
      | some l => if l.lent then x else x.l3Set line { l with dirty := false, old := none }
      | none => x
    (x.toMem line).settle line

/-- Every copy of a line goes, the L3 copy too; dirty data reaches memory (R220 writes and atomics, CMO.CLINV.VA). A
locked slot becomes empty: nothing is kept of the line there. -/
def Cs.purge (x : Cs) (line : Nat) : Cs := (((x.invOthers line none).dirErase line).l3Erase line).toMem line

/-- CMO.CLEAN.VA: dirty data reaches memory, copies are kept clean (R231). -/
def Cs.cleanVa (x : Cs) (line : Nat) : Cs :=
  let x := match x.dirtyOwner line with
    | none => x
    | some o => match x.coh.priv.find (o, line) with
      | some p => x.privSet o line p.cleaned
      | none => x
  let x := match x.coh.l3.find line with
    | some l => if l.lent then x else x.l3Set line { l with dirty := false, old := none }
    | none => x
  (x.toMem line).settle line

/-! ### Values: stores into a private hierarchy, and discards -/

/-- The poison marks of a line's halves. -/
def MemState.marks (m : MemState) (line : Nat) : Option (BitVec 32) × Option (BitVec 32) :=
  (m.poison.find (2 * line), m.poison.find (2 * line + 1))

/-- A line as an older copy has it: data, key and poison marks. -/
def MemState.back (m : MemState) (line : Nat) (b : Below) : MemState :=
  { m with
    mem := cellSetMask m.mem (64 * line) 64 fullMask.toNat b.val.toNat
    lkey := match b.key with | some p => m.lkey.set line p | none => m.lkey.erase line
    poison := (m.poison.put (2 * line) b.poison.1).put (2 * line + 1) b.poison.2 }

/-- What memory holds below a line from now on, when a cache is about to hold newer data. -/
def State.markStale (s : State) (line : Nat) : Stale :=
  if (s.m.stale.find line).isSome then s.m.stale
  else s.m.stale.set line ⟨s.m.raw line, s.m.lkey.find line, s.m.marks line⟩

/-- The key of a core's access to a line: a lookup matches on the physical address alone, so a copy that its private
hierarchy holds is used under the key the copy carries (R216). -/
def State.keyAt (s : State) (c line key : Nat) : Nat := ((s.coh.priv.find (c, line)).map (·.key)).getD key

/-- A line held unique by a core (R155, R220). -/
def State.getUnique (s : State) (c line key : Nat) : State :=
  let hold : Bool := match s.coh.priv.find (c, line) with
    | some p => p.st == .m || p.st == .e
    | none => false
  if hold then s else (s.withCs (s.rdUnique s.cs c line key)).statCore c 2

/-- Bytes stored by a core into a line it holds in M or E: it becomes M, the L1D copy newer than the L2's, an L3 copy
older (R218). -/
def State.storeLine (s : State) (c line key : Nat) (mask : BitVec 64) (data : Line) : State :=
  let old : Below := ⟨s.m.under line key, some (key, s.m.gen key), s.m.marks line⟩
  let coh := match s.coh.priv.find (c, line) with
    | some p =>
      let q := match p.l1d with
        | some (w, d) => { p with st := .m, l1d := some (w, true), l2old := if d then p.l2old else some old }
        | none => { p with st := .m }
      { s.coh with priv := s.coh.priv.set (c, line) q }
    | none => s.coh
  let coh := match coh.l3.find line with
    | some l => if l.lent then coh
                else { coh with l3 := coh.l3.set line { l with old := some (l.old.getD old) } }
    | none => coh
  let m := ({ s.m with stale := s.markStale line }.write line key mask data).coverLine line mask
  { s with coh := coh, m := m }

/-- The dirty data of a line is discarded: every reader sees what lies below it again (R231, R284). -/
def State.discard (s : State) (line : Nat) : State :=
  match s.m.stale.find line with
  | none => s
  | some b => { s with m := { s.m.back line b with stale := s.m.stale.erase line } }

/-- The line becomes an older copy again, which is dirty where memory differs from it. -/
def State.revert (s : State) (line : Nat) (b : Below) : State := { s with m := s.m.back line b }

/-- Every copy of a line goes and dirty data is discarded (CMO.INV.VA, R231; GENERATE, R284). -/
def State.invLine (s : State) (line : Nat) : State :=
  let x := s.cs
  let y := ((x.invOthers line none).dirErase line).l3Erase line
  (s.withCs { y with stale := x.stale }).discard line

end Sys2Proof.Machine
end

