-- ==== Sys2Proof/Machine/Banks.lean ====
section
/-! DEFINITION. Error banks: events and records (R429, R430). -/

namespace Sys2Proof.Machine

/-- An event for an error bank (R430): bank, class, severity, source, address with its key where one is known. -/
structure Event where
  bank : Nat
  cls : Nat
  sev : Nat
  src : Nat := 0
  addr : Option (Nat × Nat) := none
  info : Nat := 0
  hidden : Bool := false
deriving DecidableEq, Repr

def Event.addrWord (e : Event) : DWord :=
  match e.addr with | none => 0 | some (key, pa) => dw (key * 2 ^ 52 + pa % 2 ^ 52)

abbrev rStat (b i : Nat) : Reg := .ebStat (ix 161 b) (ix 8 i)

def Event.statWord (e : Event) (ovf : Bool) : DWord :=
  dw (2 ^ 63 + b2n ovf * 2 ^ 62 + e.sev * 2 ^ 60 + b2n e.hidden * 2 ^ 59 + b2n e.addr.isSome * 2 ^ 58 +
    e.cls * 2 ^ 40 + e.src % 65536)

def State.slotValid (s : State) (b i : Nat) : Bool := s.flag (rStat b i) F.ebStat.V

/-- Slot i holds a record of the same class, source and address. -/
def State.slotSame (s : State) (e : Event) (i : Nat) : Bool :=
  s.slotValid e.bank i && s.fld (rStat e.bank i) F.ebStat.CLASS == e.cls &&
    s.fld (rStat e.bank i) F.ebStat.SRCID == e.src % 65536 &&
    s.reg (.ebAddr (ix 161 e.bank) (ix 8 i)) == e.addrWord

def State.writeSlot (s : State) (e : Event) (i : Nat) (ovf : Bool) : State :=
  (((s.setReg (rStat e.bank i) (e.statWord ovf)).setReg (.ebAddr (ix 161 e.bank) (ix 8 i)) e.addrWord).setReg
    (.ebInfo (ix 161 e.bank) (ix 8 i)) (dw e.info)).setReg (.ebTime (ix 161 e.bank) (ix 8 i)) s.now

/-- The oldest record of lower severity than an event's. -/
def State.oldestLower (s : State) (e : Event) : Option Nat :=
  ((List.range 8).filter fun i => decide (s.fld (rStat e.bank i) F.ebStat.SEV < e.sev)).foldl
    (fun m i => match m with
      | none => some i
      | some j => if s.reg (.ebTime (ix 161 e.bank) (ix 8 i)) < s.reg (.ebTime (ix 161 e.bank) (ix 8 j))
                  then some i else some j) none

/-- An entry queued for the log; a full queue counts it as lost. -/
def State.toLog (s : State) (typ sev : Nat) (trusted : Bool) (payload : List DWord) : State :=
  if s.log.queue.length < 4096 then
    { s with log := { s.log with queue := s.log.queue ++ [⟨0, typ, sev, trusted, s.now, payload⟩] } }
  else { s with log := { s.log with lost := s.log.lost + 1 } }

/-- An event recorded in its bank, without any notice: the slot that holds it, if one does (R430). A fatal one starts the
fatal sequence, or is logged where one has already started (R434). -/
def State.record (s : State) (e : Event) : Option Nat × State :=
  let cnt := Reg.ebCnt (ix 161 e.bank)
  let s := match e.sev with
    | 0 =>
      let s := s.count cnt F.ebCnt.CORR
      { s with ras := { s.ras with classCnt := s.ras.classCnt.upd (e.bank, e.cls) 0 (· + 1) } }
    | 1 => s.count cnt F.ebCnt.DEFER
    | 2 => s.count cnt F.ebCnt.UC
    | _ =>
      let w := [dw e.bank, e.statWord false, e.addrWord, dw e.info]
      if s.sec.fatal = 0 then { s with sec := { s.sec with fatal := 1, fatalRec := w } } else s.toLog 0x0001 3 e.hidden w
  match firstOf (s.slotSame e) (List.range 8) with
  | some i => (some i, s.count (rStat e.bank i) F.ebStat.REPEAT)
  | none =>
    match firstOf (fun i => !s.slotValid e.bank i) (List.range 8) with
    | some i => (some i, s.writeSlot e i false)
    | none =>
      match s.oldestLower e with
      | some i => (some i, s.writeSlot e i true)
      | none => (none, (List.range 8).foldl (fun s i => s.setFld (rStat e.bank i) F.ebStat.OVF 1) s)

/-- The notice that an event's record asks for: 3 an uncorrected one, 2 a corrected one that its bank's threshold reaches
(R431). -/
def State.noticeOf (s : State) (e : Event) : Option Nat :=
  let ctl := Reg.ebCtl (ix 161 e.bank)
  if e.sev = 1 ∨ e.sev = 2 then (if s.flag ctl F.ebCtl.UC_IE then some 3 else none)
  else if e.sev = 0 then
    let t := s.fld ctl F.ebCtl.CE_THRESH
    if t ≠ 0 ∧ s.fld (.ebCnt (ix 161 e.bank)) F.ebCnt.CORR % t = 0 ∧ s.flag ctl F.ebCtl.CE_IE then some 2 else none
  else none

/-- An event recorded by a unit below the interrupt units: its notice is owed and sent by an idle step (log entry 12). -/
def State.recordOwed (s : State) (e : Event) : State :=
  let s := (s.record e).2
  match s.noticeOf e with
  | none => s
  | some k => { s with ras := { s.ras with owed := if s.ras.owed.contains k then s.ras.owed else s.ras.owed ++ [k] } }

end Sys2Proof.Machine
end

