-- ==== Sys2Proof/Machine/Owner.lean ====
section
/-! DEFINITION. Ownership of physical pages (R278-R280), key rules (R283), and the caches of ownership checks (R281). -/

namespace Sys2Proof.Machine

/-- The owner classes of R278. -/
inductive Owner where
  | unowned
  | trusted
  | sec
  | locket (l : Nat)
deriving DecidableEq, Repr

def LkRange.has (r : LkRange) (page : Nat) : Bool :=
  decide (r.pbase / 4096 ≤ page) && decide (page < r.pbase / 4096 + r.pages)

/-- A valid trusted range that holds a page (R278, R474). -/
def State.twHas (s : State) (page k : Nat) : Bool :=
  let lo := s.reg (.twrangeLo (ix 16 k)); let hi := s.reg (.twrangeHi (ix 16 k))
  getF lo F.twrangeLo.V == 1 && decide (getF lo F.twrangeLo.BASE ≤ page) && decide (page ≤ getF hi F.twrangeHi.LAST)

/-- The locket that holds a page, with the range. -/
def State.locketOf (s : State) (page : Nat) : Option (Nat × Locket × LkRange) :=
  s.sec.lockets.findSome? fun p => (p.2.ranges.find? (·.has page)).map fun r => (p.1, p.2, r)

/-- The owner of a page. -/
def State.owner (s : State) (page : Nat) : Owner :=
  if s.sec.pages.any fun p => decide (p.1 ≤ page) && decide (page ≤ p.2) then .sec
  else match s.locketOf page with
    | some (l, _) => .locket l
    | none => if anyBelow 16 (s.twHas page) then .trusted else .unowned

/-- The identity rule of R278, the locket binding of R279 apart. -/
def State.mayReach (s : State) (id : Ident) (page : Nat) : Bool :=
  match s.owner page with
  | .unowned => true
  | .trusted => id.world
  | .sec => false
  | .locket l => id.locket == l

/-- The key an access settles to, or none where the key rule refuses it (R283). -/
def State.settleKey (s : State) (world : Bool) (page key : Nat) : Option Nat :=
  match s.locketOf page with
  | some (_, l, _) => some l.key
  | none =>
    let nw := s.fld .keypart F.keypart.NWMAX
    let tw := s.fld .keypart F.keypart.TWBASE
    if world then (if nw < key ∧ key < tw then none else some key)
    else if key ≤ nw then some key else none

/-! ### Ownership check caches (R280, R281) -/

/-- Page numbers at which the owner can change. -/
def State.bounds (s : State) : List Nat :=
  s.sec.pages.flatMap (fun p => [p.1, p.2 + 1]) ++
    (s.sec.lockets.flatMap fun p => p.2.ranges.flatMap fun r => [r.pbase / 4096, r.pbase / 4096 + r.pages]) ++
    ((List.range 16).flatMap fun k =>
      [s.fld (.twrangeLo (ix 16 k)) F.twrangeLo.BASE, s.fld (.twrangeHi (ix 16 k)) F.twrangeHi.LAST + 1])

/-- The largest extent of one owner that contains a page: first and last page. -/
def State.extent (s : State) (page : Nat) : Nat × Nat :=
  let o := s.owner page
  let bs := s.bounds
  (((bs.filter fun b => decide (0 < b) && decide (b ≤ page) && s.owner (b - 1) != o).foldl max 0),
   ((bs.filter fun b => decide (page < b) && s.owner b != o).foldl min (2 ^ 40)) - 1)

/-- A cache of ownership extents after a check of a page: the SEC's answer fills it on a miss. -/
def fillOwn (cap stamp : Nat) (l : List (Nat × Nat)) (page : Nat) (e : Nat × Nat) : List (Nat × Nat) :=
  if l.any fun p => decide (p.1 ≤ page) && decide (page ≤ p.2) then l
  else if l.length < cap then l ++ [e]
  else l.set (Config.victimEntry stamp cap % cap) e

/-- The entries that do not overlap an extent. -/
def dropOverlap (a b : Nat) (l : List (Nat × Nat)) : List (Nat × Nat) :=
  l.filter fun p => decide (p.2 < a) || decide (b < p.1)

/-- Whether a cache of ownership extents answers for a page. -/
def ownHit (l : List (Nat × Nat)) (page : Nat) : Bool := l.any fun p => decide (p.1 ≤ page) && decide (page ≤ p.2)

/-- The error of the query that a miss sends to the SEC (R26, R280). -/
def State.ownErr (s : State) (src : Stop) (l : List (Nat × Nat)) (page : Nat) : Option Nat :=
  if ownHit l page then none else s.pathErr src secStop domSec

/-- The query of an agent other than a core, and of a core. -/
def State.ownPath (s : State) (src : Stop) (page : Nat) : Option Nat := s.ownErr src (s.sec.owns.getD src []) page
def State.ownCorePath (s : State) (c page : Nat) : Option Nat := s.ownErr (tileStop (c / 2)) (s.ucore c).own page

/-- A query wakes the SEC (R265). -/
def State.ownAsk (s : State) (l : List (Nat × Nat)) (page : Nat) : State := if ownHit l page then s else s.wake domSec

/-- A check by an agent other than a core fills that agent's cache; queue stations have 16 entries. -/
def State.ownSeen (s : State) (src : Stop) (page : Nat) : State :=
  let l := s.sec.owns.getD src []
  let cap := if src.y.val = 0 ∨ src.y.val = 9 then 256 else 16
  let s := s.ownAsk l page
  { s with sec := { s.sec with owns := s.sec.owns.set src (fillOwn cap s.coh.stamp l page (s.extent page)) } }

/-- A core's check. -/
def State.ownCore (s : State) (c page : Nat) : State :=
  (s.ownAsk (s.ucore c).own page).onUcore c fun u => { u with own := fillOwn 256 u.stamp u.own page (s.extent page) }

/-- Whether an address or identity makes a record hidden from the normal world (R431). -/
def State.hiddenAt (s : State) (world : Bool) (pa : Nat) : Bool := world || s.owner (pa / 4096) != .unowned

end Sys2Proof.Machine
end

