-- ==== Sys2Proof/Machine/Dram.lean ====
section
/-! DEFINITION. What reads of DRAM find (R352, R353, R362, R498): the code word, corrected and uncorrectable errors, the
partner of a mirrored pair, and the errors that stand in DRAM until a read meets them. -/

namespace Sys2Proof.Machine

def State.onMc (s : State) (n : Nat) (f : McState → McState) : State := { s with mc := s.mc.set n (f (s.mcAt n)) }
abbrev rMcRas (n : Nat) : Reg := .mcRas (ix 16 n)

/-- An event in a channel's error bank, whose notice is owed (log entry 12). -/
def State.dramEvent (s : State) (n cls sev src info pa : Nat) : State :=
  s.recordOwed { bank := 128 + n, cls := cls, sev := sev, src := src, info := info, addr := some (0, pa),
                 hidden := s.hiddenAt false pa }

/-- Rank, device, bank and row of a DRAM row, for INFO and the log (R430). -/
def rowWord (r : DramRow) : Nat :=
  b2n r.slot + r.rank.toNat * 2 + r.dev.toNat * 2 ^ 4 + r.bank.toNat * 2 ^ 9 + r.row.toNat * 2 ^ 14

/-- A rank of a channel: those of the second DIMM slot follow the first's four. -/
def rowRank (r : DramRow) : Nat := 4 * b2n r.slot + r.rank.toNat

/-- Whether a line lies on a channel, as a member of its set or as the partner of one. -/
def State.onChannel (s : State) (n pa : Nat) : Bool :=
  match s.member pa with
  | some m => m == n || (s.inPair n && m == pairOf n)
  | none => false

/-! ### The code word (R352) -/

/-- What the code makes of an error. -/
inductive Burst where
  /-- no bit in error -/
  | clean
  | corrected
  | detected
  /-- outside what R352 promises -/
  | beyond
deriving DecidableEq, Repr

/-- The bits of an error outside group g of four DQ lines: an x4 device, or one half of an x8 device. -/
def outside (f : BitVec 640) (g : Nat) : BitVec 640 :=
  f &&& ~~~(BitVec.ofNat 640 (2 ^ 64 - 1) <<< (64 * g))

/-- At most one bit. -/
def oneBit (f : BitVec 640) : Bool := f &&& (f - 1) == 0

/-- One group and one further bit are corrected; two x4 devices, or one x8 device, are detected. -/
def burstResult (x8 : Bool) (f : BitVec 640) : Burst :=
  if f = 0 then .clean
  else if (List.range 10).any fun g => oneBit (outside f g) then .corrected
  else if (List.range 10).any fun g => (List.range 10).any fun h =>
      (!x8 || g / 2 == h / 2) && outside (outside f g) h == 0 then .detected
  else .beyond

/-! ### Reads (R353) -/

def dayNs : Nat := 86400000000000

/-- The times of a list that lie within the last 24 h, with one more. -/
def lastDay (now : DWord) (l : List DWord) : List DWord := (l.filter fun t => decide (now.toNat ≤ t.toNat + dayNs)) ++ [now]

/-- A corrected error counts for its row and its rank. -/
def State.dramCorrected (s : State) (n pa : Nat) (r : DramRow) : State :=
  let t := s.now
  (s.onMc n fun m => { m with
    rowErr := m.rowErr.set r (lastDay t (m.rowErr.getD r [])),
    rankErr := m.rankErr.set (rowRank r) (lastDay t (m.rankErr.getD (rowRank r) [])) }).dramEvent n 0x20 0 (rowRank r) (rowWord r) pa

/-- Whether a cache or write-back buffer holds a line, so that its copy in memory is not what its readers see. -/
def State.cached (s : State) (line : Nat) : Bool :=
  (s.coh.dir.find line).isSome || (s.coh.l3.find line).isSome || s.coh.wbuf.any fun p => p.1.2 == line

/-- The poison pattern written to memory: it is read once no cache gives the line any more. -/
def State.poisonMem (s : State) (n line : Nat) : State :=
  if s.cached line then { s with m := { s.m with latent := s.m.latent.set (n, line) (.stored (BitVec.ofNat 52 (64 * line))) } }
  else { s with m := s.m.poisonLine line }

/-- An uncorrectable error: the partner's data where a working pair has it, else the line is poisoned. -/
def State.dramUncorrectable (s : State) (n pa : Nat) (good : Bool) : State :=
  if good then s.dramEvent n 0x21 0 n 0 pa else (s.poisonMem n (pa / 64)).dramEvent n 0x21 1 n 0 pa

/-- Eight free dwords. -/
def State.freeLine (s : State) : Line × State :=
  (List.range 8).foldl (fun a i => let (v, s) := a.2.fresh; (a.1 ||| (v.zeroExtend 512 <<< (64 * i)), s)) (0, s)

/-- An error that the code need not see (log entry 100): free whether it is detected; where it is not, the line reads as a
free value from then on, taken for a corrected one. -/
def State.dramBeyond (s : State) (n pa : Nat) (r : DramRow) (good : Bool) : State :=
  let (v, s) := s.fresh
  if v.getLsbD 0 then s.dramUncorrectable n pa good
  else if s.cached (pa / 64) then s.dramCorrected n pa r
  else
    let (l, s) := s.freeLine
    ({ s with m := { s.m with mem := cellSetAll 0 s.m.mem pa (lineBytes l) } }).dramCorrected n pa r

def State.x8 (s : State) (n : Nat) : Bool := (s.mcAt n).dimms.any fun d => d.x8

/-- Whether the code corrects what stands in a line of a channel. -/
def State.readsGood (s : State) (n line : Nat) : Bool :=
  match s.m.latent.find (n, line) with
  | some (.burst _ f _ _) => burstResult (s.x8 n) f == .clean || burstResult (s.x8 n) f == .corrected
  | some (.stored _) => false
  | _ => true

/-- Whether the partner of a channel has a line's data: both work, and the partner reads good. -/
def State.partnerGood (s : State) (n line : Nat) : Bool :=
  s.inPair n && (s.mcAt (pairOf n)).mirrorFailed.isNone && s.readsGood (partnerOf n) line

/-- A read of a line on a channel: the error that stands there is met, and is there no more. -/
def State.dramRead (s : State) (n line : Nat) : State :=
  let gone : State := { s with m := { s.m with latent := s.m.latent.erase (n, line) } }
  match s.m.latent.find (n, line) with
  | none | some .none => s
  | some (.stored _) => if s.cached line then s else { gone with m := gone.m.poisonLine line }
  | some (.burst _ f r good) =>
    let good := good && s.partnerGood n line
    match burstResult (s.x8 n) f with
    | .clean => gone
    | .corrected => gone.dramCorrected n (64 * line) r
    | .detected => gone.dramUncorrectable n (64 * line) good
    | .beyond => gone.dramBeyond n (64 * line) r good

/-- What an operand says stands on a channel, which the next read of its line meets (log entry 125). -/
def State.dramHas (s : State) (n : Nat) : DramErr → State
  | .burst pa f r good =>
    if s.onChannel n pa.toNat then
      { s with m := { s.m with latent := s.m.latent.set (n, pa.toNat / 64) (.burst pa f r good) } }
    else s
  | _ => s

/-- Whether the data of a line comes from memory: neither an owner nor the L3 slice gives it (R220). -/
def State.uncached (s : State) (line : Nat) : Bool :=
  (match s.coh.l3.find line with | some l => l.lent | none => true) && ((s.coh.dir.find line).bind (·.owner)).isNone

/-- A read of a line behind a CXL port: whether its device reports poison is free, for no row says so (R365, log entry 136). -/
def State.cxlRead (s : State) (line : Nat) : State :=
  let (w, s) := s.fresh
  if w.getLsbD 0 then { s with m := s.m.poisonLine line } else s

/-- A read of memory for a request, and for the merge of a WR_PARTIAL (R353, R365, R498). -/
def State.memRead (s : State) (line : Nat) : State :=
  match s.member (64 * line) with
  | some k => if k < 16 then s.dramRead (s.readsFrom k) line else s.cxlRead line
  | none => s

/-- A read of a line for its data. -/
def State.memIn (s : State) (line : Nat) : State := if s.uncached line then s.memRead line else s

/-- A line written whole: no error stands there any more. -/
def State.dramWritten (s : State) (line : Nat) : State :=
  { s with m := { s.m with latent := s.m.latent.keep fun k _ => k.2 != line } }

end Sys2Proof.Machine
end

