-- ==== Sys2Proof/Machine/Agent.lean ====
section
/-! DEFINITION. The reads and writes that agents make of memory: what a request meets on its way, what its home does
(R220, R380), and the accesses of agents other than cores: Data Movers, I/O stops, the Steward, the SEC, queue stations. -/

namespace Sys2Proof.Machine

/-- How an agent's access fails: refused by the ownership check or key rule (R280), or ended by RSP_ERR (R252). -/
inductive Fail where
  | denied
  | err (status : Nat)
deriving DecidableEq, Repr

/-- Whether a tile's L3 slice and directory slice are initialised (R240). -/
def State.sliceReady (s : State) (n : Nat) : Bool :=
  s.flag (.l3Stat (ix 128 n)) F.l3Stat.INIT_DONE && s.flag (.l3Stat (ix 128 n)) F.l3Stat.DIR_INIT_DONE

/-- A request at a slice whose arrays are not initialised is held until they are (R240, log entry 91). -/
def State.awaitSlice (s : State) (n : Nat) : State :=
  if s.sliceReady n || !s.isOn (domTile n) then s
  else (s.setFld (.l3Stat (ix 128 n)) F.l3Stat.INIT_DONE 1).setFld (.l3Stat (ix 128 n)) F.l3Stat.DIR_INIT_DONE 1

/-- What a request for a line waits for on its way: its home slice's domain (R265) and arrays (R240), and the domain of
the controller or port. -/
def State.wakePath (s : State) (line : Nat) : State :=
  ((s.wake (domTile (s.home line))).awaitSlice (s.home line)).wake (s.memStop (64 * line)).2

/-- The error of the request that a home sends to memory, passed on as the whole request's (R259). `asks`: whether it sends
one. -/
def State.memErr (s : State) (line : Nat) (asks : Bool) : Option Nat :=
  if asks then (let d := s.memStop (64 * line); s.pathErr (tileStop (s.home line)) d.1 d.2) else none

/-- The error of a request for a line of Normal memory from a stop (R247, R252, R259, R266); a write goes on to memory
whatever the caches hold. -/
def State.lineErr (s : State) (src : Stop) (line : Nat) (wr : Bool := false) : Option Nat :=
  if !s.covered (64 * line) then some 0x02
  else
    let h := s.home line
    match s.pathErr src (tileStop h) (domTile h) with
    | some e => some e
    | none => s.memErr line (wr || s.uncached line)

/-- The commands whose RSP_ERR a core's next access to the line acts on (R262): of the writes, those of Device-S stores, which
wait for the answer. -/
def lineCmd (cmd : Nat) : Bool := [0x01, 0x02, 0x03, 0x05, 0x07, 0x13].contains cmd

/-- An RSP_ERR that a core received for a line and has not acted on. -/
def errHere (c line : Nat) (e : Nat × Nat × Nat × Nat) : Bool := e.1 == c && lineCmd e.2.1 && e.2.2.1 == line

/-- The error that a core's request for a line ends in: an RSP_ERR it has received (R262), or one it meets now. A line
that its private hierarchy holds (`hit`) needs no request. -/
def State.coreErr (s : State) (c line : Nat) (hit : Bool) (wr : Bool := false) : Option Nat :=
  if hit then none
  else match s.mesh.errs.find? (errHere c line) with
    | some e => some e.2.2.2
    | none => s.lineErr (tileStop (c / 2)) line wr
/-- The error acted on: one that had come is forgotten, one met now is a transaction that ended (R268). -/
def State.clearErr (s : State) (c line st : Nat) (flits : Nat := 0) : State :=
  if s.mesh.errs.any (errHere c line) then s.onMesh fun m => { m with errs := m.errs.filter fun e => !errHere c line e }
  else s.statErr c (s.core c).statId flits st

/-- An RSP_ERR that a core has received for an access outside Normal memory and not acted on (R262). -/
def State.rspErr (s : State) (c line : Nat) : Option Nat := (s.mesh.errs.find? (errHere c line)).map (·.2.2.2)

/-- An RSP_ERR received for a MSG, QREAD or DOORBELL, which the initiator's next one acts on (R262). -/
def unitErrIs (c cmd : Nat) (e : Nat × Nat × Nat × Nat) : Bool := e.1 == c && e.2.1 == cmd
def State.unitErr (s : State) (c cmd : Nat) : Option Nat := (s.mesh.errs.find? (unitErrIs c cmd)).map (·.2.2.2)
def State.clearUnit (s : State) (c cmd : Nat) : State :=
  s.onMesh fun m => { m with errs := m.errs.filter fun e => !unitErrIs c cmd e }

/-- RSP_ERRs that a Data Mover channel group or an I/O stop has received for lines of a range, which its next access there
acts on (R262). -/
def errIn (i pa n : Nat) (e : Nat × Nat × Nat × Nat) : Bool :=
  e.1 == i && decide (e.2.1 < 0x08) && decide (pa / 64 ≤ e.2.2.1) && decide (e.2.2.1 ≤ (pa + n - 1) / 64)
def State.initErr (s : State) (i pa n : Nat) : Option Nat := (s.mesh.errs.find? (errIn i pa n)).map (·.2.2.2)
def State.clearInit (s : State) (i pa n : Nat) : State :=
  s.onMesh fun m => { m with errs := m.errs.filter fun e => !errIn i pa n e }

/-- Whether a private hierarchy holds a line, and whether it holds it unique. -/
def State.hasLine (s : State) (c line : Nat) : Bool := (s.coh.priv.find (c, line)).isSome
def State.hasUnique (s : State) (c line : Nat) : Bool :=
  match s.coh.priv.find (c, line) with
  | some p => p.st == .m || p.st == .e
  | none => false

/-- An agent's ownership check and key rule for a line; the SEC's own accesses pass. -/
def State.agentKey (s : State) (sec : Bool) (id : Ident) (line key : Nat) : Option Nat :=
  if sec then some key
  else if s.mayReach id (line / 64) then s.settleKey id.world (line / 64) key else none

/-! ### Performance events (R148-R150) -/

/-- Whether a core that runs with this state counts (R148). -/
def Core.counts (k : Core) : Bool :=
  k.sflag Sys.pmctl false G.pmctl.EN && k.lk.isNone && (!k.world || k.sflag Sys.pmctl false G.pmctl.TW_COUNT)

/-- An event that a core meets now. -/
def Core.met (k : Core) (ev : Nat) (past : Bool) : Met := { ev := ev, lvl := k.lvl, counts := k.counts, past := past }

/-- A performance event of the attempt under way (R149). -/
def State.saw (s : State) (c ev : Nat) : State := s.onUcore c fun u => { u with seen := u.seen ++ [(s.core c).met ev false] }

/-- A performance event of a store that has committed. -/
def State.sawPast (s : State) (c ev : Nat) : State := s.onUcore c fun u => { u with seen := u.seen ++ [(s.core c).met ev true] }

/-! ### The L2 request port (R129-R131) -/

/-- A grant to the instruction class ends its wait; one made ahead of data has been counted. -/
def State.grantInstr (s : State) (c : Nat) : State :=
  let s := if (s.ucore c).port.ahead then s else s.saw c 0x41
  s.onUcore c fun u => { u with port := { u.port with instr := 0, ahead := false } }

/-- A grant to the data class; an instruction-class request that has waited 32 cycles goes first (R131). -/
def State.grantData (s : State) (c : Nat) : State :=
  let s := if (s.ucore c).port.instr = 32 then
      (s.saw c 0x41).onUcore c fun u => { u with port := { u.port with instr := 0, ahead := true } }
    else s
  s.saw c 0x40

/-- A grant of the L2's request port to a demand access of a core. -/
def State.grant (s : State) (c : Nat) (instr : Bool) : State := if instr then s.grantInstr c else s.grantData c

/-- A line that must come from memory behind a root port whose CXL.mem is cut off reads poisoned (R380). -/
def State.cutOff (s : State) (line : Nat) : Bool :=
  s.cxlClasped (64 * line) && s.uncached line

/-- The clasp register of the root port that holds a line. -/
def State.claspOf (s : State) (pa : Nat) : Reg :=
  match s.member pa with
  | some k => .clasp (ix 8 ((k - 16) / 4)) (ix 4 (k % 4))
  | none => .clasp 0 0

/-- A read answered, or a write dropped, under clasp counts in DROPPED; a write is recorded (R380). -/
def State.underClasp (s : State) (line : Nat) (write : Bool) : State :=
  let s := s.count (s.claspOf (64 * line)) F.clasp.DROPPED
  match s.member (64 * line) with
  | some k => if write then s.recordOwed { bank := 144 + (k - 16) / 4, cls := 0x31, sev := 2, src := k % 4 } else s
  | none => s

/-- A line taken into a cache: what a read of memory for it finds (R353); one from behind a clasped port is poisoned
(R380). -/
def State.cutIn (s : State) (line : Nat) : State :=
  if s.cutOff line then
    let t := s.underClasp line false
    { t with m := t.m.poisonLine line }
  else s.memIn line

/-- DPOISON of the two data flits of a line. -/
def State.linePoison (s : State) (line : Nat) : BitVec 2 :=
  (if s.m.poisoned (2 * line) then 1 else 0) ||| (if s.m.poisoned (2 * line + 1) then 2 else 0)

/-- An uncached read at the home: the data, DPOISON of its flits, and the state (R220, R249, R380). -/
def State.readHome (s : State) (line key : Nat) : Line × BitVec 2 × State :=
  let cut := s.cutOff line
  let s := s.memIn line
  let dp := if cut then 3 else s.linePoison line
  let s := if cut then s.underClasp line false else s
  (s.m.under line key, dp, s.withCs (s.rdNc s.cs line key))

/-- The domain of a mirrored pair's other channel, which takes the write too (R362). -/
def State.wakePartner (s : State) (line : Nat) : State :=
  match (s.member (64 * line)).bind fun k => if k < 16 then s.writesAlso k else none with
  | some k => s.wake (domMc k)
  | none => s

/-- A line written to memory by a request that no cache takes: every copy goes first (R220). All but a WR_LINE (`whole`) and
a write merged into dirty data read the line first (R498). -/
def State.writeNc (s : State) (line key : Nat) (mask : BitVec 64) (data : Line) (dp : BitVec 2) (whole : Bool) : State :=
  let s := (s.withCs (s.keyConflict s.cs line key)).wakePartner line
  let s := if whole || s.cs.dirty line then s.dramWritten line else s.memRead line
  let s := s.withCs (s.cs.purge line)
  { s with m := (s.m.write line key mask data).markLine line mask dp whole }

/-- An uncached write at the home: every copy of the line goes (R220). One to memory behind a clasped port is dropped, with
the dirty data that it is merged into (R380). A write of every byte is a WR_LINE unless its sender says otherwise. -/
def State.writeHome (s : State) (line key : Nat) (mask : BitVec 64) (data : Line) (dp : BitVec 2)
    (whole : Bool := mask == fullMask) : State :=
  if s.cxlClasped (64 * line) then (s.invLine line).underClasp line true else s.writeNc line key mask data dp whole

/-- An atomic at the home on an aligned word: the old value, its DPOISON, and the state; every copy goes, and nothing is
written where the word is poisoned (R220, R435). -/
def State.atomicHome (s : State) (key pa n : Nat) (f : Nat → Nat) : Nat × BitVec 2 × State :=
  let line := pa / 64
  let (l, dp, s1) := s.readHome line key
  let old := (l.toNat >>> (8 * (pa % 64))) % 256 ^ n
  if dp.getLsbD (pa % 64 / 32) then (old, dp, s1.withCs (s1.cs.purge line))
  else (old, dp, s1.writeHome line key (byteMask (pa % 64) n) (BitVec.ofNat 512 (f old % 256 ^ n * 2 ^ (8 * (pa % 64)))) 0)

/-- A coherent uncached read of a line by an agent: the data, whether it is poisoned, and the state (R220, R249). -/
def State.agentLine (s : State) (sec : Bool) (src : Stop) (id : Ident) (line key : Nat) :
    Except Fail (Line × Bool × State) :=
  match s.agentKey sec id line key with
  | none => .error .denied
  | some k =>
    match (if sec then none else s.ownPath src (line / 64)).orElse fun _ => s.lineErr src line with
    | some e => .error (.err e)
    | none =>
      let (l, dp, s) := ((if sec then s else s.ownSeen src (line / 64)).wakePath line).readHome line k
      .ok (l, dp != 0, s.statAgent src id)

/-- Bytes read by an agent: at most 64 a line, over `f` lines. -/
def State.agentRead (s : State) (sec : Bool) (src : Stop) (id : Ident) (key : Nat) :
    Nat → Nat → Nat → Except Fail (List Byte × Bool × State)
  | 0, _, _ => .ok ([], false, s)
  | f + 1, pa, n =>
    if n = 0 then .ok ([], false, s)
    else
      let k := min n (64 - pa % 64)
      match s.agentLine sec src id (pa / 64) key with
      | .error e => .error e
      | .ok (l, p, s1) =>
        let bs := ((lineBytes l).drop (pa % 64)).take k
        match State.agentRead s1 sec src id key f (pa + k) (n - k) with
        | .error e => .error e
        | .ok (r, q, s2) => .ok (bs ++ r, p || q, s2)

/-- A number read by an agent, little-endian. -/
def State.agentNat (s : State) (sec : Bool) (src : Stop) (id : Ident) (key pa n : Nat) :
    Except Fail (Nat × Bool × State) :=
  match s.agentRead sec src id key 3 pa n with
  | .error e => .error e
  | .ok (bs, p, s') => .ok (leNat bs, p, s')

/-- A coherent uncached write of bytes of a line by an agent (R220). A write to memory behind a clasped root port is
dropped (R380). -/
def State.agentWriteLine (s : State) (sec : Bool) (src : Stop) (id : Ident) (line key : Nat) (mask : BitVec 64)
    (data : Line) (poison : Bool) : Except Fail State :=
  match s.agentKey sec id line key with
  | none => .error .denied
  | some k =>
    match (if sec then none else s.ownPath src (line / 64)).orElse fun _ => s.lineErr src line true with
    | some e => .error (.err e)
    | none =>
      let s := (if sec then s else s.ownSeen src (line / 64)).wakePath line
      .ok ((s.writeHome line k mask data (if poison then 3 else 0)).statAgent src id)

/-- Bytes written by an agent, over `f` lines. -/
def State.agentWrite (s : State) (sec : Bool) (src : Stop) (id : Ident) (key : Nat) (poison : Bool) :
    Nat → Nat → List Byte → Except Fail State
  | 0, _, _ => .ok s
  | f + 1, pa, bs =>
    if bs.isEmpty then .ok s
    else
      let k := min bs.length (64 - pa % 64)
      let data : Line := BitVec.ofNat 512 (leNat (bs.take k) * 2 ^ (8 * (pa % 64)))
      match s.agentWriteLine sec src id (pa / 64) key (byteMask (pa % 64) k) data poison with
      | .error e => .error e
      | .ok s1 => State.agentWrite s1 sec src id key poison f (pa + k) (bs.drop k)

/-- How many lines a range of bytes touches, at most. -/
def linesOf (n : Nat) : Nat := n / 64 + 2

/-- An atomic by an agent on an aligned word: the old value (R220 ATOMIC). -/
def State.agentAtomic (s : State) (sec : Bool) (src : Stop) (id : Ident) (key pa n : Nat) (f : Nat → Nat) :
    Except Fail (Nat × Bool × State) :=
  match s.agentNat sec src id key pa n with
  | .error e => .error e
  | .ok (old, p, s1) =>
    if p then .ok (old, true, s1)
    else match s1.agentWrite sec src id key false 2 pa (leBytes n (f old)) with
      | .error e => .error e
      | .ok s2 => .ok (old, false, s2)

/-! ### A core's accesses that no instruction translates (R314, R316) -/

/-- A core's own check and key rule for an access, through its ownership check cache, then the access under the key it
settles to. -/
def State.coreAsk {α : Type} (s : State) (c : Nat) (id : Ident) (key pa : Nat) (f : State → Nat → Except Fail α) : Except Fail α :=
  match s.agentKey false id (pa / 64) key with
  | none => .error .denied
  | some k => match s.ownCorePath c (pa / 4096) with
    | some e => .error (.err e)
    | none => f (s.ownCore c (pa / 4096)) k

def State.coreNat (s : State) (c : Nat) (id : Ident) (key pa n : Nat) : Except Fail (Nat × Bool × State) :=
  s.coreAsk c id key pa fun s k => (s.agentNat true (tileStop (c / 2)) id k pa n).map fun r => (r.1, r.2.1, r.2.2.statCore c 2)
def State.coreAtomic (s : State) (c : Nat) (id : Ident) (key pa n : Nat) (f : Nat → Nat) : Except Fail (Nat × Bool × State) :=
  s.coreAsk c id key pa fun s k => (s.agentAtomic true (tileStop (c / 2)) id k pa n f).map fun r => (r.1, r.2.1, r.2.2.statCore c 2)
def State.coreWrite (s : State) (c : Nat) (id : Ident) (key pa : Nat) (bs : List Byte) : Except Fail State :=
  s.coreAsk c id key pa fun s k => (s.agentWrite true (tileStop (c / 2)) id k false 2 pa bs).map fun t => t.statCore c 2

end Sys2Proof.Machine
end

