-- ==== Sys2Proof/Machine/Liu.lean ====
section
/-! DEFINITION. Interrupt arrival and selection (R303-R306, R310-R312), virtual interrupt
records (R313-R316), routing entries (R307, R308), notices of error records (R431). A notice raised by an error record is itself an interrupt whose own
failure is recorded without a further notice in the same step (log entry 12). -/

namespace Sys2Proof.Machine

/-! ### Levels and masks -/

/-- A level that can be the target of an interrupt in a world (R310). -/
def State.levelOk (s : State) (world : Bool) (lvl : Nat) : Bool :=
  if world then lvl == 1 || lvl == 3 else lvl == 1 || (lvl == 2 && s.iso != .lk)

/-- The running priority of a level and world (R304). -/
def Core.running (k : Core) (lvl : Nat) (w : Bool) : Nat :=
  (k.serv.filter fun b => b.lvl == lvl && b.world == w).foldl (fun m b => max m b.prio) 0

def Core.ipmr (k : Core) (lvl : Nat) (w : Bool) : Nat := k.sf (Sys.ipmrAt lvl) (bankOf lvl w) G.ipmr.PMASK

/-- The condition of R304 on where the core runs; `ie = false` ignores IE (R306). -/
def Core.mayTake (k : Core) (lvl : Nat) (w : Bool) (useIe : Bool) : Bool :=
  if k.world == w then
    if k.lvl = lvl then k.ie || !useIe else decide (k.lvl < lvl)
  else w

def Core.deliverable (k : Core) (b : IntBit) (useIe : Bool) : Bool :=
  decide (k.running b.lvl b.world < b.prio) && decide (k.ipmr b.lvl b.world < b.prio) &&
    k.mayTake b.lvl b.world useIe

/-! ### Timers (R311, R312) -/

/-- The four timers: level and world. -/
def timers : List (Nat × Bool) := [(1, false), (1, true), (2, false), (3, true)]

def Core.fired (k : Core) (now : DWord) (t : Nat × Bool) : Bool :=
  decide (k.rs (Sys.tmrcmpAt t.1) (bankOf t.1 t.2) ≤ now)
def Core.timerReq (k : Core) (now : DWord) (t : Nat × Bool) : Bool :=
  k.sflag (Sys.tmrctlAt t.1) (bankOf t.1 t.2) G.tmrctl.EN && k.fired now t
def Core.timerBit (k : Core) (t : Nat × Bool) : IntBit :=
  ⟨t.2, 1, t.1, k.sf (Sys.tmrctlAt t.1) (bankOf t.1 t.2) G.tmrctl.PRIO, t.1⟩

/-- Every request an interrupt unit holds: the pending bits and the timers whose condition holds. While trusted
interrupts are discarded, the timers of the trusted world are held and not offered (R297). -/
def State.requests (s : State) (c : Nat) : List IntBit :=
  let k := s.core c
  k.pend ++ ((timers.filter fun t => k.timerReq s.now t && !(t.2 && s.sec.discard)).map k.timerBit)

/-- A timer in service is not offered again until its service ends: its running priority masks it (R304). -/
def IntBit.better (a b : IntBit) : Bool :=
  decide (b.prio < a.prio) || (a.prio == b.prio && (decide (b.lvl < a.lvl) ||
    (a.lvl == b.lvl && decide (a.vec < b.vec))))

/-- The level at which an interrupt is taken: L3 for a trusted one that arrives while the core runs in the normal world
(R294, R304). -/
def Core.takenAt (k : Core) (b : IntBit) : Nat := if b.world && !k.world then 3 else b.lvl

/-- A core that runs its virtual CPU (R314). -/
def Core.vcpuOn (k : Core) : Bool := k.sflag Sys.vcpu false G.vcpu.EN

/-- The INT of vector NVEC aimed at L2 while the virtual CPU runs at L0 or L1: it is not delivered, and the core harvests its
record instead (R314). -/
def Core.noticed (k : Core) (world : Bool) (vec lvl : Nat) : Bool :=
  k.vcpuOn && !world && lvl == 2 && vec == k.vcpu.nvec && !k.world && decide (k.lvl ≤ 1)

/-- The interrupt offered at a commit boundary: highest priority, then higher level, then lower vector (R305). -/
def State.offered (s : State) (c : Nat) : Option IntBit :=
  let k := s.core c
  ((s.requests c).filter fun b => k.deliverable b true && !(b.tmr == 0 && k.noticed b.world b.vec b.lvl)).foldl
    (fun m b => match m with | none => some b | some a => if b.better a then some b else some a) none

/-- Some interrupt is deliverable, IE ignored (R306). -/
def State.anyDeliverable (s : State) (c : Nat) : Bool :=
  (s.requests c).any fun b => (s.core c).deliverable b false && !(b.tmr == 0 && (s.core c).noticed b.world b.vec b.lvl)

/-! ### Virtual interrupts (R313-R316) -/

def highestClass (v : BitVec 512) : Nat :=
  (List.range 16).foldl (fun m k => if ((v >>> (32 * k)).truncate 32 : BitVec 32) = 0 then m else k) 0
def servClass (v : BitVec 16) : Nat := (List.range 16).foldl (fun m k => if v.getLsbD k then k else m) 0

/-- The virtual vector deliverable to guest L1, if any: highest class, then lowest vector (R315); `useIe = false` ignores IE
(R306). -/
def Core.virtOffered (k : Core) (useIe : Bool := true) : Option Nat :=
  if !k.vcpuOn then none
  else
    let c := highestClass k.vcpu.pend
    if servClass k.vcpu.serv < c ∧ k.ipmr 1 false < c ∧ !k.world ∧ (k.lvl = 0 ∨ (k.lvl = 1 ∧ (k.ie ∨ !useIe))) then
      firstOf (fun v => k.vcpu.pend.getLsbD v && v / 32 == c) (List.range 512)
    else none

/-- What is being entered: a physical interrupt, or a virtual vector (R315). -/
inductive Entering where
  | phys (b : IntBit)
  | virt (v : Nat)
deriving DecidableEq, Repr

/-- Priority; a virtual vector's class stands for it (R315). -/
def Entering.prio : Entering → Nat
  | .phys b => b.prio
  | .virt v => v / 32

/-- Whether a virtual vector, aimed at L1, comes before a physical interrupt: by priority, then target level, then vector
(R305, R315). -/
def IntBit.yields (b : IntBit) (v : Nat) : Bool :=
  decide (b.prio < v / 32) || (b.prio == v / 32 && (decide (b.lvl < 1) || (b.lvl == 1 && decide (v < b.vec))))

/-- What a core takes at a commit boundary (R305, R315). -/
def State.taking (s : State) (c : Nat) : Option Entering :=
  match s.offered c, (s.core c).virtOffered with
  | some b, some v => some (if b.yields v then .virt v else .phys b)
  | some b, none => some (.phys b)
  | none, v => v.map .virt

def recordPa (k : Core) : Nat := k.sf Sys.vcpu false G.vcpu.ADDR * 128
def recordKey (k : Core) : Nat := k.sf Sys.vcpu false G.vcpu.KEYID

/-- The identity with which a core at L2 of the normal world reaches the record (R271, R314). -/
def hypId : Ident := ⟨false, 0xFFFF, 0⟩

/-- The packet of a memory access for an address that no agent serves (R21, R252, R464). -/
def noAgentEvent (dst : Stop) (port cmd : Nat) (addr : Option (Nat × Nat)) : Event :=
  { bank := meshBank dst, cls := 0x12, sev := 2, src := port, addr := addr,
    info := cmd + (dst.x.toNat + 16 * dst.y.val + 256 * port) * 2 ^ 8 + 2 * 2 ^ 24 }

/-- An access of an agent that was answered NO_AGENT is recorded by the router; its notice is owed (log entry 12). -/
def State.agentGone (s : State) (e : Fail) (cmd key pa : Nat) : State :=
  if e = .err 0x02 then s.recordOwed (noAgentEvent stwStop 3 cmd (some (key, pa))) else s

/-- A word of a record read, and swapped with zero where it is not zero; a refused or failed access collects nothing (log
entry 122). -/
def State.swapWord (s : State) (c off n : Nat) : Option Nat × State :=
  let co := s.core c
  let key := recordKey co
  let pa := recordPa co + off
  match s.coreNat c hypId key pa n with
  | .error e => (none, s.agentGone e 0x03 key pa)
  | .ok (0, _, s1) => (some 0, s1)
  | .ok (_, _, s1) => match s1.coreAtomic c hypId key pa n (fun _ => 0) with
    | .error e => (none, s1.agentGone e 0x07 key pa)
    | .ok (old, p, s2) => (if p then none else some old, s2)

/-- Word CLASS[k] of a record collected. -/
def State.harvestClass (s : State) (c : Nat) (k : Nat) : State :=
  match s.swapWord c (4 * k) 4 with
  | (none, s1) => s1
  | (some old, s1) => s1.onCore c fun co => { co with vcpu.pend := co.vcpu.pend ||| (BitVec.ofNat 512 old <<< (32 * k)) }

/-- The harvest of a record (R314): RAISED swapped with zero, then the class words from 15 down to 1. -/
def State.harvest (s : State) (c : Nat) : State :=
  ((List.range 15).map (15 - ·)).foldl (fun s k => s.harvestClass c k) (s.swapWord c 0x40 8).2

/-- A pending notice that the core, now at L0 or L1 of its virtual CPU, does not take: it harvests the record (R314). -/
def State.collect (s : State) (c : Nat) : State :=
  let k := s.core c
  let mine := fun (b : IntBit) => b.tmr == 0 && k.noticed b.world b.vec b.lvl
  if k.pend.any mine then (s.setCore c { k with pend := k.pend.filter fun b => !mine b }).harvest c else s

/-- A core comes to L0 or L1 of its virtual CPU: from L2 it harvests the record whatever is pending (R314). -/
def State.resumed (s : State) (c : Nat) (fromL2 : Bool) : State :=
  let k := s.core c
  if fromL2 && k.vcpuOn && decide (k.lvl ≤ 1) then
    (s.setCore c { k with pend := k.pend.filter fun b => !(b.tmr == 0 && k.noticed b.world b.vec b.lvl) }).harvest c
  else s.collect c

/-! ### Arrival -/

/-- A wait that an event ends (R306, R335). -/
def State.endWait (s : State) (c : Nat) : State :=
  let k := s.core c
  let virt := (k.virtOffered false).isSome
  match k.run with
  | .wfi => if s.anyDeliverable c || virt then s.setCore c { k with run := .running } else s
  | .wfq =>
    let latch := if k.world then k.latchT else k.latchN
    if latch then
      s.setCore c (if k.world then { k with run := .running, latchT := false }
                   else { k with run := .running, latchN := false })
    else if s.anyDeliverable c || virt then s.setCore c { k with run := .running } else s
  | _ => s

/-- An INT at its core's interrupt unit (R303, R310, R314, R334): the state, and an event to record. A discarded INT sets
no queue latch. -/
def State.intArrive (s : State) (c : Nat) (world : Bool) (vec prio lvl : Nat) : State × Option Event :=
  if !s.levelOk world lvl then
    (s, some { bank := c / 2, cls := 0x13, sev := 2, src := c })
  else if world && s.sec.discard then
    ({ s with sec := { s.sec with discarded := s.sec.discarded + 1 } }, none)
  else
    let s := if vec = 2 then
        s.onCore c fun k => if world then { k with latchT := true } else { k with latchN := true }
      else s
    let k := s.core c
    if prio = 0 then (s.endWait c, none)
    else if k.noticed world vec lvl then
      ((s.harvest c).endWait c, none)
    else if k.pend.any fun b => b.world == world && b.vec == vec then
      ((s.count (.liuMerged (ix 256 c)) F.liuMerged.COUNT).endWait c, none)
    else
      ((s.setCore c { k with pend := k.pend ++ [⟨world, vec, lvl, prio, 0⟩] }).endWait c, none)

/-- The packet of an INT (R310): a queue station sends on port 3 of its tile, every other sender on port 0 (R23). -/
def intPacket (src : Stop) (c : Nat) (world : Bool) (vec prio lvl : Nat) : HeldPacket :=
  { pkt := { dst := tileStop (c / 2), dport := BitVec.ofNat 2 (c % 2), src := src,
             sport := if src.y.val = 0 ∨ src.y.val = 9 then 0 else 3, cmd := 0x0A, tag := 0, gen := 0, world := world,
             vmid := 0, locket := 0, key := 0, mtype := 0, addr := 0,
             aux := BitVec.ofNat 32 (vec + prio * 2 ^ 9 + lvl * 2 ^ 13) }
    vc := vcReq, dom := domCore c, init := 0
    int := some ⟨BitVec.ofNat 8 c, world, BitVec.ofNat 9 vec, BitVec.ofNat 4 prio, BitVec.ofNat 2 lvl⟩ }

/-- A router discards an INT for a port without a core (R21, R303), or for a domain whose wake limit has passed (R266). -/
def intNoAgent (c : Nat) : Event :=
  { bank := meshBank (tileStop (c / 2)), cls := 0x12, sev := 2, src := c, info := 0x0A + c * 2 ^ 8 + 2 * 2 ^ 16 }
def intWakeFail (c : Nat) : Event := { bank := meshBank (tileStop (c / 2)), cls := 0x16, sev := 2, src := c }

/-- An INT sent from a stop to a core: discarded and recorded where there is no core (R21, R303) or its domain's wake
limit has passed (R266); held, with a wake, while the domain is not ON (R265). -/
def State.intRaw (s : State) (src : Stop) (c : Nat) (world : Bool) (vec prio lvl : Nat) : State × Option Event :=
  let s := s.statSent src world
  let p := intPacket src c world vec prio lvl
  if s.noCore c then (s, some (intNoAgent c))
  else match s.way false s.mesh.held s.mesh.held p with
    | (b, .arrives) => (s.cross p.pkt p.vc (p.crossed b)).intArrive c world vec prio lvl
    | (b, .waits dom) => (s.come p b dom, none)
    | (_, .fails e) => (s, if e = 0x03 then some (intWakeFail c) else none)

/-- The registers of a routing entry. -/
def srcRegs : IntSrc → Reg × Reg
  | .io p k => (.ioIntLo (ix 8 p.toNat) (ix 2048 k.toNat), .ioIntHi (ix 8 p.toNat) (ix 2048 k.toNat))
  | .stw k => (.stwIntLo (ix 256 k.toNat), .stwIntHi (ix 256 k.toNat))

def srcStop : IntSrc → Stop
  | .io p _ => ioStop p.toNat
  | .stw _ => stwStop

def srcBank : IntSrc → Nat
  | .io p _ => 144 + p.toNat
  | .stw _ => 160

/-- A source stop's own identity for record accesses (log entry 14). -/
def stopId : Ident := ⟨false, 0, 0⟩

/-- Delivery through a virtual interrupt record (R313): mark, RAISED, and a notice when the class is new. -/
def State.virtDeliver (s : State) (src : IntSrc) (v : Nat) : State × Option Event :=
  let hi := s.reg (srcRegs src).2
  let key := getF hi F.ioIntHi.KEYID
  let pa := getF hi F.ioIntHi.RECORD * 128
  let st := srcStop src
  let bad : Option Event := some { bank := srcBank src, cls := 0x40, sev := 2, src := v, addr := some (key, pa) }
  match s.agentAtomic false st stopId key (pa + 4 * (v / 32)) 4 (fun o => o ||| 2 ^ (v % 32)) with
  | .error e => (s.agentGone e 0x07 key (pa + 4 * (v / 32)), bad)
  | .ok (_, true, s1) => (s1, bad)
  | .ok (_, false, s1) =>
    match s1.agentAtomic false st stopId key (pa + 0x40) 8 (fun o => max o (v / 32)) with
    | .error e => (s1.agentGone e 0x07 key (pa + 0x40), bad)
    | .ok (_, true, s2) => (s2, bad)
    | .ok (old, false, s2) =>
      if v / 32 ≤ old then (s2, none)
      else match s2.agentNat false st stopId key (pa + 0x48) 8 with
        | .error e => (s2.agentGone e 0x03 key (pa + 0x48), bad)
        | .ok (_, true, s3) => (s3, bad)
        | .ok (n, false, s3) =>
          s3.intRaw st ((n >>> 9) % 256) false (n % 512) ((n >>> 19) % 16) ((n >>> 17) % 4)

/-- One event of a routing entry's source (R307, R308, R310, R313). -/
def State.routeRaw (s : State) (src : IntSrc) : State × Option Event :=
  let lo := s.reg (srcRegs src).1
  if getF lo F.stwIntLo.V = 0 then (s, none)
  else
    let w := getF lo F.stwIntLo.WORLD == 1
    let vec := getF lo F.stwIntLo.VECTOR
    if getF lo F.stwIntLo.VIRT = 1 then s.virtDeliver src vec
    else s.intRaw (srcStop src) (getF lo F.stwIntLo.TARGET) w vec (getF lo F.stwIntLo.PRIO) (getF lo F.stwIntLo.LEVEL)

/-- A notice raised by an error record; a failure of its own INT is recorded, and its notice is owed (log entry 12). -/
def State.notice (s : State) (k : Nat) : State :=
  match s.routeRaw (.stw (BitVec.ofNat 8 k)) with
  | (s1, none) => s1
  | (s1, some e) => s1.recordOwed e

/-- An error event: recorded, with the notices of R431; the slot that holds it. -/
def State.logErrSlot (s : State) (e : Event) : Option Nat × State :=
  let (slot, s1) := s.record e
  (slot, match s1.noticeOf e with
    | none => s1
    | some k => s1.notice k)

def State.logErr (s : State) (e : Event) : State := (s.logErrSlot e).2

/-- The follow-up of an operation that may have produced an event. -/
def logged (r : State × Option Event) : State :=
  match r.2 with
  | none => r.1
  | some e => r.1.logErr e

/-- An INT to a core. -/
def State.sendInt (s : State) (src : Stop) (c : Nat) (world : Bool) (vec prio lvl : Nat) : State :=
  logged (s.intRaw src c world vec prio lvl)

/-- One event of a routing entry's source. -/
def State.raiseSrc (s : State) (src : IntSrc) : State := logged (s.routeRaw src)
def State.raiseStw (s : State) (k : Nat) : State := s.raiseSrc (.stw (BitVec.ofNat 8 k))

/-- An answer NO_AGENT recorded by a router (R21): command, destination and status in INFO. -/
def State.noAgent (s : State) (dst : Stop) (port cmd : Nat) (addr : Option (Nat × Nat)) : State :=
  s.logErr (noAgentEvent dst port cmd addr)

/-- An access of an agent that was answered NO_AGENT is recorded by the router (R21). -/
def State.noAgentIf (s : State) (e : Fail) (cmd key pa : Nat) : State :=
  if e = .err 0x02 then s.noAgent stwStop 3 cmd (some (key, pa)) else s

end Sys2Proof.Machine
end

