-- ==== Sys2Proof/Machine/Access.lean ====
section
/-! DEFINITION. Writing registers by the access codes of R11 and R13, who counts as manager (R325), which claimant drives
a GPIO pin (R452), and fencing a core (R446). -/

namespace Sys2Proof.Machine

/-- The lanes of a 4- or 8-byte access to a slot (R469). -/
def lanes (eight hi : Bool) : DWord :=
  if eight then BitVec.allOnes 64 else if hi then 0xFFFFFFFF00000000#64 else 0xFFFFFFFF#64

/-- One field of a write: R11 by access code, a reserved value keeps the field (R13). -/
def writeField (trusted : Bool) (mask new : DWord) (old : DWord) (f : Field) : DWord :=
  let m := maskF f.at_ &&& mask
  let v := (old &&& ~~~m) ||| (new &&& m)
  let upd := if f.legal.ok (getF v f.at_) then v else old
  match f.acc with
  | .rw => upd
  | .rwt => if trusted then upd else old
  | .w1c => old &&& ~~~(new &&& m)
  | .w1s => old ||| (new &&& m)
  -- the one RWO field has a write of its own, `State.saveBaseSet`
  | .ro | .wo | .rwo => old

/-- A whole register write over its fields. -/
def writeFields (fs : List Field) (trusted : Bool) (mask old new : DWord) : DWord :=
  fs.foldl (writeField trusted mask new) old

/-- A register written by its field table. -/
def State.writeReg (s : State) (r : Reg) (trusted : Bool) (mask new : DWord) : State :=
  s.setReg r (writeFields r.fields trusted mask (s.reg r) new)

/-- A write of PWR.SAVEBASE, the Steward's too: the first one since the reset is taken (R11, R406). -/
def State.saveBaseSet (s : State) (mask v : DWord) : State :=
  let m := mask &&& maskF F.savebase.ADDR
  if s.boot.saveSet ∨ m = 0 then s
  else { s.setReg .savebase ((s.reg .savebase &&& ~~~m) ||| (v &&& m)) with boot := { s.boot with saveSet := true } }

/-- The power domain that serves a register (R470, R472). -/
def regDom : Reg → Nat
  | .l2Stat c | .liuMerged c | .liuVstat c _ => domCore c.val
  | .l3Policy n | .l3Admit n | .l3Lock n | .l3Waypwr n | .l3Stat n => domTile n.val
  | .qcfg t _ | .qown t _ | .qnaddr t _ | .qstat t _ => domTile t.val
  | .mcRas n => domMc n.val
  | .ctxbase p | .faultq p | .faultcnt p | .icqBase p | .icqTail p | .icqHead p | .icqStat p | .epCfg p | .epMsix p
  | .epWinsync p | .epRombase p | .epEvq p | .epStat p | .rpCtl p _ | .clasp p _ | .ioIntLo p _ | .ioIntHi p _
  | .epWinA p _ | .epWinB p _ | .epWinC p _ | .epOut p _ | .epCfgm p _ _ => domIo p.val
  | .dmTinv d | .dmAttr d _ | .dmCtl d _ | .dmXlat d _ => domDm d.val
  | .keypart | .keycmd | .twdog | .twstate | .twrangeLo _ | .twrangeHi _ => domSec
  | .rtuCtl | .rtuStatus | .rtuLoad | .rtuSyncout | .rtuCnt | .rtuFrac | .rtuSnaptime | .rtuSnapseq | .rtuSdStat
  | .rtuSdParam _ | .llDue _ | .llCtl _ | .llArg _ | .llStat _ => 415
  | _ => 416

/-- An instance of a disabled core, a disabled port or a fenced tile answers NO_AGENT (R470). -/
def State.agentless (s : State) (r : Reg) : Bool :=
  let n := regDom r
  if n < 256 then s.noCore n else if n < 384 then s.fencedTile (n - 256)
  else decide (400 ≤ n) && decide (n < 408) && s.role (n - 400) == .disabled

/-- The stop of an agent that sends register accesses. -/
def agentStop : Agent → Stop
  | .core c => tileStop (c.toNat / 2)
  | .dm d => dmStop d.val
  | .io p => ioStop p.toNat
  | .station t => tileStop t.toNat
  | .stw | .debug => stwStop
  | .sec => secStop

/-- The stop and port of the agent that serves a register: the stop of its domain's agent, else the Steward (R23, R470). -/
def regStop (r : Reg) : Stop :=
  let n := regDom r
  if n < 256 then tileStop (n / 2) else if n < 384 then tileStop (n - 256) else if n < 400 then mcStop (n - 384)
  else if n < 408 then ioStop (n - 400) else if n < 410 then dmStop (n - 408)
  else if n = 414 then secStop else if n = 415 then rtuStop else stwStop
def regPort (r : Reg) : Nat :=
  match r with
  | .qcfg _ _ | .qown _ _ | .qnaddr _ _ | .qstat _ _ => 3
  | _ => let n := regDom r; if n < 256 then n % 2 else if n < 384 then 2 else 0

/-- How a register access ends before it reaches its serving agent: the identity rule of R469, an agent that exists
(R470), the path over the mesh and the domain's wake limit (R247, R266). -/
def State.regErr (s : State) (q : Req) (r : Reg) : Option Nat :=
  let dm := match q.agent with | .dm _ => true | _ => false
  if dm || q.locket != 0 then some 0x05
  else if s.agentless r then some 0x02
  else s.pathErr (agentStop q.agent) (regStop r) (regDom r)

/-- A register access that ends in an error: an answer NO_AGENT is recorded (R21). -/
def State.regRefused (s : State) (r : Reg) (e cmd : Nat) : State :=
  if e = 0x02 then s.noAgent (regStop r) (regPort r) cmd none else s

/-- A register write reaches its serving agent, or ends in an error; a sleeping domain is woken and the access performed
(R265). -/
def State.access (s : State) (q : Req) (r : Reg) (f : State → State) : State :=
  match s.regErr q r with
  | some e => s.regRefused r e 0x05
  | none => f (s.wake (regDom r))

/-- The manager of a normal-world resource (R325). -/
def State.manager (s : State) (q : Req) : Bool :=
  !q.world && (if s.iso = .lk then q.vmid == 0 && q.locket == 0 else q.vmid == 0xFFFF)

/-- The manager or the trusted world. -/
def State.mayManage (s : State) (q : Req) : Bool := q.world || s.manager q

/-- The rank of the claimant that drives a GPIO pin (R452). -/
def State.gpioRank (s : State) (p : Nat) : Nat :=
  if (s.reg .gpioWorld).getLsbD p then 1
  else if p = 20 ∧ s.flag .rtuSyncout F.rtuSyncout.EN then 2
  else if p = 21 ∧ s.flag .gpioAltfn F.gpioAltfn.TALERT_EN then 3
  else 4

/-- The level of RT_SYNC_OUT: high for WIDTH µs from its rise (R416). -/
def State.syncOut (s : State) : Bool :=
  match s.boot.pins.syncRise with
  | none => false
  | some t => s.flag .rtuSyncout F.rtuSyncout.EN &&
      decide (s.now.toNat < t.toNat + 1000 * s.fld .rtuSyncout F.rtuSyncout.WIDTH)

/-- The cores are held in reset: start-up before phase 9, or recovery. -/
def State.coresHeld (s : State) : Bool :=
  s.boot.pins.pwrok && (decide (s.fld .stwBootstat F.stwBootstat.PHASE < 9) || s.flag .stwBootstat F.stwBootstat.RCVR)

/-- What an instruction of the test port that drives pins makes of one, while it takes effect (R300): EXTEST and CLAMP drive
the boundary cells, HIGHZ drives nothing. -/
def State.tapPin (s : State) (p : Nat) : Option (Option Bool) :=
  let cell := if s.boot.cells.1.getLsbD p then some (s.boot.cells.2.getLsbD p) else none
  if !s.coresHeld then none
  else match s.boot.tap with
    | .extest | .clamp => some cell
    | .highz => some none
    | _ => none

/-- The level the chip drives on a pin, if it drives it: after phase 4 (R488), by its highest claimant (R452, R453), unless
the test port has the pins. -/
def State.pinDriven (s : State) (p : Nat) : Option Bool :=
  if let some v := s.tapPin p then v
  else if s.fld .stwBootstat F.stwBootstat.PHASE < 4 then none
  else match s.gpioRank p with
    | 2 => some s.syncOut
    | 3 => some (!s.boot.pins.thermAlert)
    | _ => if (s.reg .gpioDir).getLsbD p then some ((s.reg .gpioOut).getLsbD p) else none

/-- The level of a pin as it is sampled: what the chip drives, else what the board does. -/
def State.pinLevel (s : State) (p : Nat) : Bool := (s.pinDriven p).getD (s.boot.pins.gpio.getLsbD p)

/-! ### Fencing (R446) -/

/-- A core of a tile marked fenced: it never runs and its domain is OFF; recorded and logged. `free` is the index whose
domain goes OFF: after a handover the survivor answers to domain 2t (R439). -/
def State.fence (s : State) (c sev : Nat) : State :=
  let r := Reg.fenceCore (ix 8 (c / 32))
  let s := s.setReg r (s.reg r ||| (1#64 <<< (c % 32)))
  let s := { s with log := { s.log with fences := s.log.fences ++ [(false, c)] } }
  (s.logErr { bank := c / 2, cls := 0x62, sev := sev, src := c }).toLog 0x0006 sev false [dw c, 0]

/-- A fenced core stops and its domain goes OFF without a state save. -/
def State.powerOffCore (s : State) (c : Nat) : State :=
  let s := s.onCore c fun k => { k with run := .held }
  let s := ((s.setFld (rDom c) F.dom.STATE 0).setFld (rDom c) F.dom.TARGET 0)
  let s := s.setReg (rDom c) (s.reg (rDom c) &&& ~~~(0xF000#64))
  { s with pwr := { s.pwr with entry := s.pwr.entry.erase c, waking := s.pwr.waking.filter (· != c), wakeReq := s.pwr.wakeReq.filter (· != c) } }

/-- A core fenced and taken OFF. -/
def State.fenceOff (s : State) (c sev : Nat) : State := (s.fence c sev).powerOffCore c

end Sys2Proof.Machine
end

