-- ==== Sys2Proof/Machine/Window.lean ====
section
/-! DEFINITION. Accesses through the windows of expansion ports (R464, R468): root ports (R371, R380) and the host apertures
of endpoint ports (R385). -/

namespace Sys2Proof.Machine

/-! ### Ports -/

def State.port (s : State) (p : Nat) : IoState := s.io.getD p IoState.reset
def State.onPort (s : State) (p : Nat) (f : IoState → IoState) : State := { s with io := s.io.set p (f (s.port p)) }
def State.rp (s : State) (p r : Nat) : RootPort := (s.port p).rps.getD r RootPort.reset
def State.onRp (s : State) (p r : Nat) (f : RootPort → RootPort) : State :=
  s.onPort p fun i => { i with rps := i.rps.set r (f (s.rp p r)) }

abbrev rClasp (p r : Nat) : Reg := .clasp (ix 8 p) (ix 4 r)

/-- A root port that BIFUR creates (R366, R367). -/
def State.isRp (s : State) (p r : Nat) : Bool := s.role p == .root && decide (r < s.rootPorts p)

def State.clasped (s : State) (p r : Nat) : Bool := s.flag (rClasp p r) F.clasp.CLASPED

/-- Traffic restores full width, or takes the link out of L1 (R372). -/
def State.rpActive (s : State) (p r : Nat) : State :=
  match (s.rp p r).link with
  | .l0p | .l1 | .l11 | .l12 => s.onRp p r fun k => { k with link := .l0 }
  | _ => s

/-- The same on an endpoint port's link. -/
def State.epTraffic (s : State) (p : Nat) : State :=
  match (s.port p).ep.link with
  | .l0p | .l1 | .l11 | .l12 => s.onPort p fun i => { i with ep := { i.ep with link := .l0 } }
  | _ => s

/-- A function of an endpoint port: the PF, or a VF that the host has enabled (R382). -/
def State.epFunc (s : State) (p f : Nat) : Bool :=
  s.role p == .endpoint && decide (f ≤ s.fld (.epStat (ix 8 p)) F.epStat.NUMVF)

/-- A function whose Bus Master Enable is set and that is not being reset (R383, R389). -/
def State.epActive (s : State) (p f : Nat) : Bool :=
  s.epFunc p f && (s.port p).ep.bme.getLsbD f && !(s.port p).ep.resetting.getLsbD f

/-- Whether host configuration requests to a function are answered: the link is up, the function is not being reset, and
start-up has reached phase 9; a warm reset leaves the host side as it is (R31, R389, R390). -/
def State.configurable (s : State) (p f : Nat) : Bool :=
  s.epFunc p f && s.flag (.epStat (ix 8 p)) F.epStat.LINKUP && !(s.port p).ep.resetting.getLsbD f &&
    (decide (9 ≤ s.fld .stwBootstat F.stwBootstat.PHASE) || s.boot.resetting == some .warm)

/-- Bus Master Enable of a function that the host may have set meanwhile: a free value, for the table has no row in which the
host sets it (log entry 21). -/
def State.hostBme (s : State) (p f : Nat) : State :=
  if s.configurable p f && !(s.port p).ep.bme.getLsbD f then
    let (w, s) := s.fresh
    let s := s.onPort p fun i => { i with ep := { i.ep with bme := i.ep.bme ||| (if w.getLsbD 0 then 1#32 <<< f else 0) } }
    s.setFld (.epStat (ix 8 p)) F.epStat.BME_PF (b2n ((s.port p).ep.bme.getLsbD 0))
  else s

/-- The host's mask of a vector by now: a free value, for no row reads or writes an MSI-X table (log entry 21). A message that
waited for the vector's unmasking is sent. -/
def State.hostMask (s : State) (p f v : Nat) : State :=
  let (w, s) := s.fresh
  let e := (s.port p).ep
  let rest := e.msixMask.filter (· != (f, v))
  let e := if w.getLsbD 0 then { e with msixMask := rest ++ [(f, v)] }
    else if e.msixPend.contains (f, v) then
      { e with msixMask := rest, msixPend := e.msixPend.filter (· != (f, v)), msixSent := e.msixSent ++ [(f, v)] }
    else { e with msixMask := rest }
  s.onPort p fun i => { i with ep := e }

/-- An MSI-X message of a function (R383, R458): sent, or pending where its vector is masked; dropped while the function is
reset, while bus mastering is disabled, and after a fatal error. -/
def State.msixSend (s : State) (p f v : Nat) : State :=
  let s := s.hostBme p f
  if s.epActive p f ∧ s.sec.fatal = 0 then
    let s := (s.hostMask p f v).epTraffic p
    let ep := (s.port p).ep
    let pend := if ep.msixPend.contains (f, v) then ep.msixPend else ep.msixPend ++ [(f, v)]
    let ep := if ep.msixMask.contains (f, v) then { ep with msixPend := pend } else { ep with msixSent := ep.msixSent ++ [(f, v)] }
    s.onPort p fun i => { i with ep }
  else s

/-! ### Windows -/

/-- A free value of `n` bytes. -/
def State.freshBytes (s : State) : Nat → Nat × State
  | 0 => (0, s)
  | n + 1 =>
    let (w, s1) := s.fresh
    let (v, s2) := State.freshBytes s1 n
    (w.toNat % 256 + 256 * v, s2)

/-- Dword i of a root port's Type 1 header: the ones that routing uses are held, the others are PCIe's. -/
def State.hdrDword (s : State) (p r i : Nat) : Nat :=
  if i = 6 ∨ (8 ≤ i ∧ i ≤ 11) then ((s.rp p r).hdr.getD i 0).toNat else (Config.pcieDword p r i).toNat

/-- A range given by a base and limit register pair of 1 MiB units, with upper halves. -/
def inWindow (lo up_b up_l pa : Nat) : Bool :=
  decide (up_b * 2 ^ 32 + (lo % 65536) / 16 * 2 ^ 20 ≤ pa) &&
    decide (pa < up_l * 2 ^ 32 + (lo / 65536) / 16 * 2 ^ 20 + 2 ^ 20)

/-- The root port whose Memory or Prefetchable Memory base and limit contain an address (R468). -/
def State.claimer (s : State) (p pa : Nat) : Option Nat :=
  firstOf (fun r =>
    let d := fun i => s.hdrDword p r i
    inWindow (d 8) 0 0 pa || inWindow (d 9) (d 10) (d 11) pa) (List.range (s.rootPorts p))

/-- The root port whose bus range holds a bus. -/
def State.busPort (s : State) (p bus : Nat) : Option Nat :=
  firstOf (fun r => let d := s.hdrDword p r 6
                    decide (d / 256 % 256 ≤ bus) && decide (bus ≤ d / 65536 % 256)) (List.range (s.rootPorts p))

/-- How a request outside memory ends: data with a poison mark, or a status of R252. -/
abbrev DevEnd := Except Nat (Nat × Bool)

/-- A memory request that no root port claims, or that its device refuses: TARGET_ERR with AER logged (R371). -/
def State.aerErr (s : State) (p r : Nat) : DevEnd × State :=
  (.error 0x04, s.logErr { bank := 144 + p, cls := 0x30, sev := 0, src := r })

/-- What the device of a read answers (R371), a free choice: data, poisoned data, or for w mod 4 = 3 a refusal, which is all
ones for a configuration read and TARGET_ERR with AER logged for a memory read. -/
def State.deviceRead (s : State) (p r n : Nat) (cfg : Bool) : DevEnd × State :=
  let (w, s) := s.fresh
  if w.toNat % 4 = 3 then if cfg then (.ok (2 ^ (8 * n) - 1, false), s) else s.aerErr p r
  else let (v, s) := s.freshBytes n; (.ok (v, w.toNat % 4 == 2), s)

/-- A request that goes out on a root port's link: under clasp a read returns all ones and a write is dropped (R380);
otherwise a write is acknowledged, a refused configuration write too, and a device answers a read (R371). -/
def State.outbound (s : State) (p r n : Nat) (cfg : Bool) (wr : Option Nat) : DevEnd × State :=
  if s.clasped p r then
    (.ok (if wr.isSome then 0 else 2 ^ (8 * n) - 1, false), s.count (rClasp p r) F.clasp.DROPPED)
  else
    let s := s.rpActive p r
    match wr with
    | some _ => (.ok (0, false), s)
    | none => s.deviceRead p r n cfg

/-- A byte of a root port's own header, and one written. -/
def State.hdrByte (s : State) (p r a : Nat) : Nat := s.hdrDword p r (a / 4) / 256 ^ (a % 4) % 256
def State.setHdrByte (s : State) (p r a b : Nat) : State :=
  let w := s.hdrDword p r (a / 4)
  s.onRp p r fun k => { k with hdr := k.hdr.set (a / 4) (BitVec.ofNat 32 (w - s.hdrByte p r a * 256 ^ (a % 4) + b * 256 ^ (a % 4))) }

/-- An access to the configuration window of a segment (R468): a root port's own header is on bus 0. -/
def State.cfgAccess (s : State) (p off n : Nat) (wr : Option Nat) : DevEnd × State :=
  let bus := off / 2 ^ 20
  let dev := off / 2 ^ 15 % 32
  let fn := off / 2 ^ 12 % 8
  let reg := off % 4096
  if bus = 0 then
    if dev < s.rootPorts p ∧ fn = 0 then
      match wr with
      | some v => (.ok (0, false), (List.range n).foldl (fun s i => s.setHdrByte p dev (reg + i) (v / 256 ^ i % 256)) s)
      | none => (.ok ((List.range n).foldl (fun v i => v + s.hdrByte p dev (reg + i) * 256 ^ i) 0, false), s)
    else (.ok (if wr.isSome then 0 else 2 ^ (8 * n) - 1, false), s)
  else match s.busPort p bus with
    | some r => s.outbound p r n true wr
    | none => (.ok (if wr.isSome then 0 else 2 ^ (8 * n) - 1, false), s)

/-- A chip request to the host aperture (R385, R458): slice valid, Bus Master Enable of its function set, no fatal error; the
host answers a read as a device does (R371). -/
def State.hostAccess (s : State) (p off n : Nat) (wr : Option Nat) : DevEnd × State :=
  let w := s.reg (.epOut (ix 8 p) (ix 64 (off / 2 ^ 34)))
  let s := if getF w F.epOut.V = 1 then s.hostBme p (getF w F.epOut.FUNC) else s
  if getF w F.epOut.V = 1 ∧ s.epActive p (getF w F.epOut.FUNC) ∧ s.sec.fatal = 0 then
    let s := s.epTraffic p
    match wr with
    | some _ => (.ok (0, false), s)
    | none => s.deviceRead p 0 n false
  else (.error 0x04, s)

/-- An access of `n` bytes from a stop to the windows of expansion ports and to addresses without an agent; `cmd` is the
mesh command that carries it. -/
def State.windowAccess (s : State) (src : Stop) (cmd pa n : Nat) (wr : Option Nat) : DevEnd × State :=
  let none_ := (Except.error 0x02, s.noAgent stwStop 3 cmd (some (0, pa)))
  let port := fun (p : Nat) (role : Role) (f : State → DevEnd × State) =>
    if s.role p ≠ role then none_
    else match s.pathErr src (ioStop p) (domIo p) with
      | some e => (.error e, s)
      | none => f (s.wake (domIo p))
  match region pa with
  | .none_ | .dram | .cxl | .ccs => none_
  | .mmio p => port p .root fun s =>
      match s.claimer p pa with
      | some r => s.outbound p r n false wr
      | none => s.aerErr p 0
  | .cfg p => port p .root fun s => s.cfgAccess p (pa % 2 ^ 28) n wr
  | .host p => port p .endpoint fun s => s.hostAccess p (pa % 2 ^ 40) n wr

/-- A write of the bytes that a mask names in a block of 64 bytes: a root port's own header takes it run by run, anything
else as one write. -/
def State.windowMask (s : State) (src : Stop) (cmd block : Nat) (mask : BitVec 64) (data : Line) : DevEnd × State :=
  let own := match region block with | .cfg _ => decide (block % 2 ^ 28 < 2 ^ 20) | _ => false
  let runs := maskRuns mask
  ((if own then runs else runs.take 1).foldl (fun (r : DevEnd × State) q =>
    match r.1 with
    | .error _ => r
    | .ok _ => r.2.windowAccess src cmd (block + q.1) q.2 (some (data.toNat >>> (8 * q.1) % 256 ^ q.2))) (.ok (0, false), s))

end Sys2Proof.Machine
end

