-- ==== Sys2Proof/Machine/Power.lean ====
section
/-! DEFINITION. Power domains: holds, limits, candles and the choice of state (R391-R400), entry, wake and bring-up
(R401-R405), core state save and restore (R406-R408), GPIO wakes (R404, R454). -/

namespace Sys2Proof.Machine

/-! ### Holds (R394) -/

/-- Some open transaction of an initiator (R264). -/
def State.openTxn (s : State) (i : Nat) : Bool := s.mesh.txns.any fun p => p.1.1 == i && !p.2.quarantined

/-- Some open transaction of the channel groups of a Data Mover. -/
def State.openDm (s : State) (d : Nat) : Bool := anyBelow 4 fun g => s.openTxn (256 + 4 * d + g)

def Core.busy (k : Core) : Bool :=
  match k.run with | .running | .stopped | .halted => true | _ => false

def State.gpioHold (s : State) (n : Nat) : Bool :=
  anyBelow 24 fun p =>
    let w := s.reg (.gpwake (ix 24 p))
    getF w F.gpwake.EN == 1 && getF w F.gpwake.DOMAIN == n &&
      ((getF w F.gpwake.MODE == 2 && s.pinLevel p) || (getF w F.gpwake.MODE == 3 && !s.pinLevel p)) &&
      (s.gpioRank p == 1 || s.gpioRank p == 4)

def IoState.busy (i : IoState) : Bool :=
  i.rps.any fun p => p.2.link == .l0 || p.2.link == .l0p || !p.2.open_.isEmpty

/-- The queue a channel's SQ names when it is a valid submission queue bound to the channel (R339). -/
def State.sqOf (s : State) (ch : Nat) : Option (Nat × Nat) :=
  let h := s.fld (.dmCtl (ix 2 (ch / 32)) (ix 32 ch)) F.dmCtl.SQ
  let st := h >>> 25; let k := (h >>> 16) % 512
  let w := s.reg (.qcfg (ix 128 st) (ix 512 k))
  if getF w F.qcfg.V = 1 ∧ getF w F.qcfg.KIND = 1 ∧ getF w F.qcfg.DMCH = ch ∧ getF w F.qcfg.KEY = h % 65536
  then some (st, k) else none

/-- A home slice's requests to memory and its snoops that have not ended (R259, R263, R264). -/
def State.openHome (s : State) (t : Nat) : Bool :=
  (s.mesh.txns.any fun p => p.2.inner.isSome && !p.2.quarantined && p.2.pkt.dst == tileStop t && p.2.pkt.dport == 2) ||
    s.mesh.snoops.any fun p => s.home p.1.2 == t

/-- A home's requests to a memory controller that have not ended. -/
def State.openMem (s : State) (k : Nat) : Bool :=
  s.mesh.txns.any fun p => p.2.inner.isSome && !p.2.quarantined && (s.memStop p.2.pkt.addr.toNat).2 == domMc k

/-- Some router of rows 1-8 holds a packet. -/
def State.meshHolds (s : State) : Bool := s.mesh.held.any fun p => ((p.at_.map (·.stop)).bind routerDom).isSome

def State.chan (s : State) (ch : Nat) : Chan := s.dm.chans.getD ch ⟨[], none⟩

/-- The hold of R394, GPIO level holds included (R404). -/
def State.hold (s : State) (n : Nat) : Bool :=
  s.gpioHold n ||
  if n < 256 then
    let k := s.core n
    (!s.noCore n && (k.busy || s.anyDeliverable n)) || s.openTxn n
  else if n < 384 then
    (anyBelow 4 fun b => (s.qs.parts.find (n - 256, b)).isSome) || !(s.mesh.queue.getD (n - 256) []).isEmpty || s.openHome (n - 256)
  else if n < 400 then
    (s.mcAt (n - 384)).copying.isSome || (s.inPair (n - 384) && (s.mcAt (pairOf (n - 384))).rebuild) ||
      s.openMem (n - 384) || s.mesh.held.any fun p => p.dom == n
  else if n < 408 then (s.io.getD (n - 400) IoState.reset).busy || s.openTxn (264 + (n - 400))
  else if n < 410 then
    s.openDm (n - 408) || anyBelow 32 fun c =>
      let ch := 32 * (n - 408) + c
      !(s.chan ch).descs.isEmpty || (s.chan ch).retry.isSome ||
        (match s.sqOf ch with
         | some q => !((s.qs.q.getD q ⟨[], none⟩).words.isEmpty)
         | none => false)
  else if n < 414 then (anyBelow 384 fun d => s.isOn d) || s.meshHolds
  else if n = 414 then s.sec.keyBusy.isSome || !s.sec.reports.isEmpty || (s.sec.lockets.any fun p => p.2.st == 3) ||
    s.mesh.txns.any fun p => p.2.pkt.dst == secStop && !p.2.quarantined
  else false

/-- Some transaction that a domain initiated is open (R264). -/
def State.initOpen (s : State) (n : Nat) : Bool :=
  if n < 256 then s.openTxn n else if n < 384 then s.openHome (n - 256) else if n < 400 then false
  else if n < 408 then s.openTxn (264 + (n - 400)) else if n < 410 then s.openDm (n - 408) else false

/-! ### Limits, states, budgets (R392) -/

/-- Whether a domain can be OFF at all. -/
def hasOff (n : Nat) : Bool := decide (n < 410)
def hasRet (n : Nat) : Bool := decide (n < 415)

/-- A core held in reset, or held as one is (R37, R297). -/
def State.stopped (s : State) (c : Nat) : Bool := (s.core c).run == .held || (s.core c).run == .evicted

/-- A domain that is OFF and never leaves it (R37, R393, R446). -/
def State.keptOff (s : State) (n : Nat) : Bool :=
  if n < 256 then
    (s.underTest n || s.disabled n || (s.fencedCore n && !s.survivor (n / 2)) || (s.survivor (n / 2) && n % 2 == 1) ||
      s.stopped n && !s.twin (n / 2)) || (s.stopped (2 * (n / 2)) && s.twin (n / 2))
  else decide (400 ≤ n) && decide (n < 408) && s.role (n - 400) == .disabled

/-- limit(n): the deepest state while the condition of R392 holds. -/
def State.limit (s : State) (n : Nat) : Nat :=
  if n < 256 then if (s.core n).lk.isSome then 1 else 0
  else if n < 384 then
    if anyBelow 512 fun k => s.flag (.qcfg (ix 128 (n - 256)) (ix 512 k)) F.qcfg.V then 1 else 0
  else if n < 400 then
    if s.m.dram.any fun m => m.members.contains (n - 384) || (s.inPair (n - 384) && m.members.contains (pairOf (n - 384))) then 1
    else 0
  else if n < 408 then
    match s.role (n - 400) with
    | .endpoint => if s.flag (.epStat (ix 8 (n - 400))) F.epStat.PERST then 0 else 3
    | .root => 1
    | .disabled => 0
  else if n < 410 then
    if anyBelow 32 fun c => s.flag (.dmCtl (ix 2 (n - 408)) (ix 32 c)) F.dmCtl.EN then 1 else 0
  else if n < 415 then 1 else 3

/-- Wake budget in ns of a state (R392). -/
def budget (n st : Nat) : Nat :=
  let p : Nat × Nat := if n < 256 then (1600, 30000) else if n < 384 then (2000, 35000)
    else if n < 400 then (4000, 100000) else if n < 408 then (6000, 60000) else if n < 410 then (1500, 15000)
    else if n < 414 then (500, 0) else (2500, 0)
  if st = 1 then p.1 else p.2

/-- Hysteresis in µs of a domain's class. -/
def State.hystOf (s : State) (n : Nat) : Nat :=
  s.fld .hyst (if n < 256 then F.hyst.CORE else if n < 384 then F.hyst.UNCORE else if n < 400 then F.hyst.MC
    else if n < 408 then F.hyst.IO else if n < 410 then F.hyst.DM else if n < 414 then F.hyst.MESH else F.hyst.SEC)

/-! ### The choice of state (R395, R399, R400) -/

/-- A candle that is lit for a domain: its MIN. -/
def litFor (n : Nat) (w : DWord) : Nat := if getF w F.candle.DOMAIN = n then getF w F.candle.MIN else 0

/-- The strongest lit candle of a domain, the legacy candle included: PWR.DOMn.FLOOR. -/
def State.candleFloor (s : State) (n : Nat) : Nat :=
  let c := s.csr.foldl (fun m p => match p.1 with | .candle _ => max m (litFor n p.2) | _ => m) 0
  match s.pwr.legacy with
  | some (d, mn) => if d = n then max c mn else c
  | none => c

/-- The members of a domain's group (R393). -/
def State.group (s : State) (n : Nat) : List Nat :=
  if 410 ≤ n ∧ n < 414 then [410, 411, 412, 413]
  else if n < 256 ∧ s.twin (n / 2) then [2 * (n / 2), 2 * (n / 2) + 1]
  else [n]

def State.ltolOf (s : State) (n : Nat) : Nat :=
  ((s.group n).map fun m => (s.reg (rLtol m)).toNat).foldl min (2 ^ 32)

/-- The target of one domain by R399, hysteresis apart. -/
def State.targetOne (s : State) (n : Nat) : Nat :=
  if s.keptOff n then 0
  else
    let sv := s.flag (rDom n) F.dom.SCHED_V
    let sc := s.fld (rDom n) F.dom.SCHED
    let floor := max (if s.hold n then 3 else 0) (max (s.candleFloor n) (if sv && sc == 3 then 3 else 0))
    let deep := if hasOff n then 0 else if hasRet n then 1 else 3
    let base := max floor (max (s.limit n) deep)
    if floor = 3 then 3
    else if sv && decide (sc < 3) then max base sc
    else
      let lt := s.ltolOf n
      let pick := fun (t st : Nat) =>
        if (st = 0 ∧ hasOff n ∨ st = 1 ∧ hasRet n) ∧ base ≤ st ∧ (budget n st ≤ lt ∨ lt = 2 ^ 32 - 1) then st else t
      pick (pick 3 1) 0

/-- The target of a domain: the shallowest of its group's (R393); a deeper one waits for the hysteresis (R394). -/
def State.target (s : State) (n : Nat) : Nat :=
  let t := ((s.group n).map s.targetOne).foldl max 0
  let st := s.dstate n
  if t < st ∧ !(s.hystOf n = 0 ∨ s.pwr.hystDone.contains n) ∧ !s.keptOff n then st else t

/-- A domain the trusted world marks as used (R299): 414 and 416 always. -/
def State.twused (s : State) (n : Nat) : Bool :=
  n == 414 || n == 416 || (s.reg (.twuse (ix 14 (n / 32)))).getLsbD (n % 32)

/-- What PWR.DOMn reads: stored STATE, SCHED, ready bits and ABORTS with the fields computed from the rest (R399). -/
def State.domView (s : State) (n : Nat) : DWord :=
  let w := s.reg (rDom n)
  let w := setF w F.dom.TARGET (s.target n)
  let w := setF w F.dom.FLOOR (s.candleFloor n)
  let w := setF w F.dom.HOLD (b2n (s.hold n))
  let deep := if hasOff n then 0 else if hasRet n then 1 else 3
  let w := setF w F.dom.LIMIT (max (s.limit n) deep)
  setF w F.dom.TWUSE (b2n (s.twused n))

/-- A clock domain so marked: CD0-CD2 always. -/
def State.cdTwused (s : State) (n : Nat) : Bool := decide (n ≤ 2) || (s.reg .clkTwuse).getLsbD n

/-- A candle, hold or schedule that wants a domain shallower than it is requests a wake (R397, R404). -/
def State.callUp (s : State) (n : Nat) : State :=
  if s.dstate n < s.target n ∨ ((s.pwr.entry.find n).isSome ∧ s.target n = 3) then s.request n else s

/-! ### Entry (R401, R403) -/

/-- The loop buffer left (R113): an exit where it was replaying. -/
def State.loopExit (s : State) (c : Nat) : State :=
  s.onUcore c fun u => { u with
    loop := LoopBuf.reset, seen := if u.loop.run.isSome then u.seen ++ [(s.core c).met 0x21 false] else u.seen }

/-- The core's own MC_NOTIFY, at the level that takes MACHINE_CHECK in that world (R180, R302). -/
def State.mcNotify (s : State) (c : Nat) (world : Bool) : State :=
  logged (s.intArrive c world 4 15 (if world then 3 else if s.iso = .lk then 1 else 2))

/-- The merge-buffer entries of a core performed: each written with its own identity (R164, R179). An entry that fails
is recorded and raises MC_NOTIFY (R180). -/
def State.storeFailed (s : State) (c : Nat) (e : MbEntry) (status : Nat) : State :=
  (s.logErr { bank := c / 2, cls := 0x17, sev := 2, src := c, addr := some (e.key, 64 * e.line), info := status,
              hidden := s.hiddenAt e.id.world (64 * e.line) }).mcNotify c e.id.world

/-- A line brought into an L1; a dirty L1D line that is replaced is written back through the request port (R129, R214). -/
def State.fillL1 (s : State) (c line : Nat) (instr : Bool) : State :=
  let x := s.l1Fill s.cs c line instr
  let wb := s.coh.priv.any fun q =>
    q.1.1 == c && (q.2.l1d.map Prod.snd) == some true && ((x.coh.priv.find q.1).bind (·.l1d)).isNone
  let s := s.withCs x
  if wb then s.grantData c else s

/-- Whether a core's L1D holds a line. -/
def State.inL1d (s : State) (c line : Nat) : Bool := ((s.coh.priv.find (c, line)).bind (·.l1d)).isSome

/-- A line held unique in the L1D of a core, for a store that has committed (`past`) or an atomic (R129, R150, R155, R220):
a miss in the L1D and the upgrade of a shared line ask the L2. -/
def State.ownLine (s : State) (c line key : Nat) (past : Bool) : State :=
  let note := fun (s : State) (ev : Nat) => if past then s.sawPast c ev else s.saw c ev
  let in1 := s.inL1d c line
  let s := if in1 then s else note s 0x33
  let s := if in1 && s.hasUnique c line then s else s.grantData c
  let s := if s.hasLine c line then s else note s 0x35
  (s.getUnique c line key).fillL1 c line false

/-- One merge-buffer entry performed. Normal-WB goes through the private hierarchy with the line held unique; Normal-NC
goes to the home (R155, R156). -/
def State.performStore (s : State) (c : Nat) (e : MbEntry) : State :=
  match s.coreErr c e.line (e.mtype == 3 && s.hasUnique c e.line) (e.mtype != 3) with
  | some st => (s.clearErr c e.line st 2).storeFailed c e st
  | none =>
    let s := s.wakePath e.line
    if e.mtype = 3 then
      let s := if s.hasLine c e.line then s else s.cutIn e.line
      let s := s.ownLine c e.line e.key true
      s.storeLine c e.line (s.keyAt c e.line e.key) e.mask e.data
    else (s.statCore c 2).writeHome e.line e.key e.mask e.data 0

/-! #### Gathered writes (R155, R171) -/

/-- A gathered write sent: to memory, or to its window. -/
def State.gathSend (s : State) (c : Nat) (g : Gathered) : DevEnd × State :=
  if !s.physDevice (64 * g.block) then
    match s.coreErr c g.block false true with
    | some st => (.error st, s.clearErr c g.block st 2)
    | none => (.ok (0, false), ((s.wakePath g.block).statCore c 2).writeHome g.block g.key g.mask g.data 0)
  else s.windowMask (tileStop (c / 2)) 0x05 (64 * g.block) g.mask g.data

/-- A Device-G store as the error bank and MC_NOTIFY see it (R180). -/
def Gathered.entry (g : Gathered) : MbEntry :=
  { line := g.block, id := g.id, key := g.key, mtype := 1, data := g.data, mask := g.mask, closed := true, lows := [], highs := [],
    age := g.age }

/-- The gathered write of a core sent; one that ends in an error is recorded (R180). -/
def State.flushGath (s : State) (c : Nat) : State :=
  match (s.ucore c).gath with
  | none => s
  | some g =>
    let s := s.onUcore c fun u => { u with gath := none }
    match s.gathSend c g with
    | (.ok _, s1) => s1
    | (.error st, s1) => s1.storeFailed c g.entry st

/-- The gathered write of a core performed where it lies in a line of memory that a younger access of the core touches: the
merge buffer and the gathered write never hold the same line (R159, R161). -/
def State.settleGath (s : State) (c line : Nat) : State :=
  match (s.ucore c).gath with
  | some g => if g.block = line then s.flushGath c else s
  | none => s

/-- The whole merge buffer of a core performed, oldest first. -/
def State.drainBuf (s : State) (c : Nat) : State :=
  let es := (s.ucore c).mbuf
  es.foldl (fun s e => s.performStore c e) (s.onUcore c fun u => { u with mbuf := [] })

/-- Every committed store of a core performed: its merge buffer, and the gathered write at the head of its store queue. -/
def State.drain (s : State) (c : Nat) : State := (s.drainBuf c).flushGath c

/-- Dirty lines of a core written to memory, at most `k`; they stay, clean (R181, R401, R403). -/
def State.cleanCore (s : State) (c k : Nat) : State :=
  let dirty := s.coh.priv.filter fun p => p.1.1 == c && (p.2.st == .m || p.2.st == .o)
  s.withCs ((dirty.take k).foldl (fun x p => x.cleanVa p.1.2) s.cs)

/-- Every line of a core leaves its private hierarchy: victims still in its write-back buffer reach their homes, its dirty
data is written to memory, and every line is reported (R181, R226, R401). -/
def State.flushCore (s : State) (c : Nat) : State :=
  let x := (s.coh.wbuf.filter fun p => p.1.1 == c).foldl (fun x p => s.victim x c p.1.2 p.2.1 p.2.2) s.cs
  s.withCs ((x.coh.priv.filter fun p => p.1.1 == c).foldl (fun x p =>
      let x := if p.2.st = .m ∨ p.2.st = .o then x.cleanVa p.1.2 else x
      s.leave x c p.1.2 p.2.cleaned) x)

/-- A tile uncore empties itself (R239): every recorded line invalidated, dirty L3 lines to memory, at most `k` of each. -/
def State.emptyTile (s : State) (t k : Nat) : State :=
  let x := s.cs
  let x := ((x.coh.dir.filter fun p => s.home p.1 == t).take k).foldl (fun x p =>
      let d := (x.dirtyOwner p.1).isSome
      let x := (x.invOthers p.1 none).dirErase p.1
      if d then (x.l3Erase p.1).toMem p.1 else x) x
  s.withCs (((x.coh.l3.filter fun p => s.home p.1 == t).take k).foldl (fun x p => (x.l3WriteBack p.1 p.2).l3Erase p.1) x)

/-! #### The state save (R406, R407) -/

/-- The block of a core in the save area: its address, its lines, and its bytes in memory. -/
def State.saveBlock (s : State) (c : Nat) : Nat := s.fld .savebase F.savebase.ADDR * 2 ^ 22 + 16384 * c
def State.saveLines (s : State) (c : Nat) : List Nat := (List.range 256).map (s.saveBlock c / 64 + ·)
def State.saveCells (s : State) (c : Nat) : List Host.Cell :=
  s.m.mem.filter fun p => decide (s.saveBlock c ≤ p.1) && decide (p.1 < s.saveBlock c + 16384)

/-- One line of the block written by the core's save engine, under key ID 0 with the SEC's identity; the second of the pair
tells whether every line so far could be written. -/
def saveLine (c : Nat) (w : DWord) (a : Bool × State) (line : Nat) : Bool × State :=
  match a.2.lineErr (tileStop (c / 2)) line true with
  | some _ => (false, a.2)
  | none => (a.1, (a.2.wakePath line).writeHome line 0 fullMask (Config.saveLine w (line % 256)) 0)

/-- A core's state saved; in a twin tile it is saved once, from core 2t. -/
def State.save (s : State) (c : Nat) : State :=
  if s.twin (c / 2) ∧ c % 2 = 1 then s
  else
    let (w, s) := s.fresh
    let (ok, s) := (s.saveLines c).foldl (saveLine c w) (true, s)
    { s with pwr := { s.pwr with saved := s.pwr.saved.set c ⟨s.core c, s.saveCells c, ok⟩ } }

/-- The block of a core read back: whether it is what the save wrote, each line of it readable and not poisoned (R408). -/
def State.blockRead (s : State) (c : Nat) (v : Saved) : Bool × State :=
  let ls := s.saveLines c
  if ls.any fun l => (s.lineErr (tileStop (c / 2)) l).isSome then (false, s)
  else
    let s := (s.m.latent.filter fun p => ls.contains p.1.2).foldl (fun s p => s.memIn p.1.2) s
    (v.ok && decide (s.saveCells c = v.cells) && (ls.all fun l => s.m.keyOk l 0 && !s.cutOff l) &&
      !(s.m.poison.any fun p => ls.contains (p.1 / 2)), ls.foldl (fun s l => s.wakePath l) s)

/-! #### The steps of an entry (R401) -/

/-- What the first step of an entry does at once: a core's buffers drain, DIMMs go into self-refresh. -/
def State.quiesce (s : State) (n : Nat) : State :=
  if n < 256 then s.drain n
  else if 384 ≤ n ∧ n < 400 then s.setFld (.mcRas (ix 16 (n - 384))) F.mcRas.SELFREF 1
  else s

/-- What the first step of an entry toward OFF does with lines, one by one: at most `k` of them. -/
def State.writeBack (s : State) (n k : Nat) : State :=
  if n < 256 then s.cleanCore n k else if n < 384 then s.emptyTile (n - 256) k else s

/-- All lines there can be. -/
def State.allLines (s : State) : Nat := s.coh.priv.length + s.coh.dir.length + s.coh.l3.length

/-- A claim breaks when its holder's domain leaves ON (R332). -/
def State.breakClaims (s : State) (holder : Nat → Bool) : State :=
  s.qs.q.foldl (fun s p =>
    match p.2.claim with
    | some h =>
      if holder h then
        let rest := (p.2.words.dropWhile fun (w : DWord) => w.toNat >>> 56 == 1).drop 1
        let s := { s with qs := { s.qs with q := s.qs.q.set p.1 { p.2 with words := rest, claim := none } } }
        s.count (.qstat (ix 128 p.1.1) (ix 512 p.1.2)) F.qstat.BROKEN
      else s
    | none => s) s

def claimDom (h : Nat) : Nat := if h < 256 then h else if h < 320 then 408 + (h - 256) / 32 else 400 + (h - 320)

/-- The arrays of a domain lose their contents, but for what R407 and R239 save. -/
def State.lose (s : State) (n : Nat) : State :=
  let s := { s with pwr := { s.pwr with unpowered := s.pwr.unpowered.filter (· != n) ++ [n] } }
  if n < 256 then
    let s := s.flushCore n
    let s := { s with coh := { s.coh with wayErr := s.coh.wayErr.keep fun k _ => k.1 || k.2.1 != n } }
    let s := s.setUcore n { UCore.reset with seen := (s.ucore n).seen }
    let r := Reg.l2Stat (ix 256 n)
    ((s.setFld r F.l2Stat.L2_INIT_DONE 0).setFld r F.l2Stat.L1D_INIT_DONE 0).setFld r F.l2Stat.L1I_INIT_DONE 0
  else if n < 384 then
    let t := n - 256
    let s := { s with coh := { s.coh with
      ru := s.coh.ru.keep fun k _ => k.1 != t, shadow := s.coh.shadow.keep fun k _ => k.1 != t
      plru := s.coh.plru.keep fun k _ => k.1 != t, wayErr := s.coh.wayErr.keep fun k _ => !k.1 || k.2.1 != t } }
    let r := Reg.l3Stat (ix 128 t)
    (s.setFld r F.l3Stat.DIR_INIT_DONE 0).setFld r F.l3Stat.INIT_DONE 0
  else if n < 400 then
    s.onMc (n - 384) fun m => { m with
      patrol := 0, passAt := s.now, rowErr := [], rankErr := [], scrubWin := false, refWin := false, postponed := 0 }
  else if 400 ≤ n ∧ n < 408 then
    { s with io := s.io.upd (n - 400) IoState.reset fun i => { i with iotlb := [], iowalk := [] } }
  else if n = 408 ∨ n = 409 then
    { s with dm := { s.dm with tlb := s.dm.tlb.erase (n - 408), chans := s.dm.chans.keep fun k _ => k / 32 != n - 408 } }
  else s

/-- One step of an entry completed: toward OFF, the first ends with the lines written back and a core's state saved, and the
third takes the arrays' supply. -/
def State.passed (s : State) (n tgt step : Nat) : State :=
  let r := rDom n
  match step with
  | 1 =>
    let s := if tgt = 0 then s.writeBack n s.allLines else s
    if tgt = 0 ∧ n < 256 then s.save n else s
  | 2 => s.setFld r F.dom.LOGIC_REL 0
  | 3 => if tgt = 0 then (s.setFld r F.dom.SRAM_RDY 0).lose n else s.setFld r F.dom.SRAM_RDY 0
  | 4 => s.setFld r F.dom.CLK_RDY 0
  | _ => s

/-- The entry of a domain taken on to a step. -/
def State.entryTo (s : State) (n k : Nat) : State :=
  match s.pwr.entry.find n with
  | none => s
  | some (t, st) =>
    if k ≤ st then s
    else
      let s := (List.range (k - st)).foldl (fun s i => s.passed n t (st + i)) s
      { s with pwr := { s.pwr with entry := s.pwr.entry.set n (t, k) } }

/-- The step that the entry of a domain, and of its group, has reached by now: a free value, for no row reports a step; the
commit window only where nothing has asked for the domain (log entry 106). -/
def State.advance (s : State) (n : Nat) : State :=
  match s.pwr.entry.find n with
  | none => s
  | some (_, st) =>
    let last := if s.pwr.wakeReq.contains n then 4 else 5
    if last ≤ st then s
    else
      let (w, s) := s.fresh
      (s.group n).foldl (fun s m => s.entryTo m (max st (1 + w.toNat % last))) s

/-- An ownership check cache is emptied when its domain enters RET or OFF (R281). -/
def State.dropOwn (s : State) (n : Nat) : State :=
  let gone := fun (s : State) (st : Stop) => { s with sec := { s.sec with owns := s.sec.owns.erase st } }
  if n < 256 then s.onUcore n fun u => { u with own := [] }
  else if n < 384 then gone s (tileStop (n - 256))
  else if 400 ≤ n ∧ n < 408 then gone s (ioStop (n - 400))
  else if n = 408 ∨ n = 409 then gone s (dmStop (n - 408))
  else s

/-- The last step of an entry: the supply, and with it the last ready bit, is taken and STATE is the new state (R401). -/
def State.enter (s : State) (n tgt : Nat) : State :=
  let s := ((s.entryTo n 5).dropOwn n).breakClaims fun h => claimDom h == n
  let s := s.setReg (rDom n) (s.reg (rDom n) &&& ~~~(0xF000#64))
  let s := s.setFld (rDom n) F.dom.STATE tgt
  { s with pwr := { s.pwr with entry := s.pwr.entry.erase n, window := s.pwr.window.filter (· != n) } }


/-! ### Wake (R403-R405) -/

/-- A domain that is ON again answers no more WAKE_FAIL (R266). -/
def State.unfail (s : State) (n : Nat) : State := s.onMesh fun m => { m with wakeFail := m.wakeFail.filter (· != n) }

/-- Arrays initialised on the way from OFF (R240, R405). -/
def State.arraysBack (s : State) (n : Nat) : State :=
  if n < 256 then
    let r := Reg.l2Stat (ix 256 n)
    ((s.setFld r F.l2Stat.L2_INIT_DONE 1).setFld r F.l2Stat.L1D_INIT_DONE 1).setFld r F.l2Stat.L1I_INIT_DONE 1
  else if n < 384 then
    let r := Reg.l3Stat (ix 128 (n - 256))
    (s.setFld r F.l3Stat.DIR_INIT_DONE 1).setFld r F.l3Stat.INIT_DONE 1
  else s

/-- Whether a domain comes back without its contents: from OFF, or from an entry that had taken its arrays' supply. -/
def State.fromOff (s : State) (n : Nat) : Bool := s.dstate n == 0 || s.pwr.unpowered.contains n

/-- The first `k` steps of a bring-up, each with its ready bit, in the order of R405. -/
def State.rise (s : State) (n k : Nat) : State :=
  let r := rDom n
  let s := if 1 ≤ k then s.setFld r F.dom.REG_RDY 1 else s
  let s := if 2 ≤ k then s.setFld r F.dom.CLK_RDY 1 else s
  let s := if 3 ≤ k then
      let t := s.setFld r F.dom.SRAM_RDY 1
      if s.fromOff n then t.arraysBack n else t
    else s
  if 4 ≤ k then s.setFld r F.dom.LOGIC_REL 1 else s

/-- How far the entry or the bring-up of a domain has come when PWR.DOMn is read: free, as no row reports a step (log entry
106). -/
def State.observe (s : State) (n : Nat) : State :=
  if (s.pwr.entry.find n).isSome then s.advance n
  else if s.pwr.waking.contains n ∧ (384 ≤ n ∨ s.isOn 410) then
    let (w, s) := s.fresh
    (s.group n).foldl (fun s m => s.rise m (w.toNat % 5)) s
  else s

/-- STATE reads ON with every ready bit set (R405). -/
def State.setOn (s : State) (n : Nat) : State :=
  let s := (s.setReg (rDom n) (s.reg (rDom n) ||| 0xF000#64)).setFld (rDom n) F.dom.STATE 3
  { s with pwr := { s.pwr with
      entry := s.pwr.entry.erase n, waking := s.pwr.waking.filter (· != n)
      wakeReq := s.pwr.wakeReq.filter (· != n), unpowered := s.pwr.unpowered.filter (· != n) } }

/-- What a domain gets back on its way from OFF: arrays initialised, a core its saved state (R240, R405, R407). -/
def State.regain (s : State) (n : Nat) : State :=
  let s := s.arraysBack n
  if n < 256 then
    match s.pwr.saved.find n with
    | some v => { s.setCore n v.core with pwr := { s.pwr with saved := s.pwr.saved.erase n } }
    | none => s
  else s

/-- Self-refresh left by a memory controller. -/
def State.leaveSelfref (s : State) (n : Nat) : State :=
  if 384 ≤ n ∧ n < 400 then s.setFld (.mcRas (ix 16 (n - 384))) F.mcRas.SELFREF 0 else s

/-- A wake during an entry, before its commit: the entry reverses from the step it has reached (R403). In its first step it only
stops, with a free number of lines written back, and the domain is usable at once. Later, it comes back as a wake would;
what it has lost is what its third step took, and until then a state save is discarded. -/
def State.reverse (s : State) (n : Nat) : State :=
  match s.pwr.entry.find n with
  | none => s
  | some (t, st) =>
    let s := s.count (rDom n) F.dom.ABORTS
    let s := { s with pwr := { s.pwr with
      entry := s.pwr.entry.erase n, wakeReq := s.pwr.wakeReq.filter (· != n), window := s.pwr.window.filter (· != n) } }
    if st ≤ 1 then
      let (w, s) := s.fresh
      let s := (if t = 0 then s.writeBack n w.toNat else s).leaveSelfref n
      if n < 256 then s.endWait n else s
    else { s with pwr := { s.pwr with
      saved := if st ≤ 3 then s.pwr.saved.erase n else s.pwr.saved, waking := s.pwr.waking ++ [n] } }

/-- A core's restore: whether its saved block reads back, and the state after the reads; a domain without a save needs none. -/
def State.restored (s : State) (n : Nat) (restoreOk : Bool) : Bool × State :=
  match s.pwr.saved.find n with
  | some v => if n < 256 ∧ s.fromOff n then if restoreOk then s.blockRead n v else (false, s) else (true, s)
  | none => (true, s)

/-- A domain reaches ON (R405); a core whose restore fails does not start and is fenced (R408). -/
def State.wakeDone (s : State) (n : Nat) (restoreOk : Bool) : State :=
  let (ok, s) := s.restored n restoreOk
  if !ok then
    let s := s.logErr { bank := n / 2, cls := 0x61, sev := 2, src := n }
    s.fenceOff n 2
  else
    let off := s.fromOff n
    let s := s.rise n 4
    let s := (if off then s.regain n else s).leaveSelfref n
    let s := (s.setOn n).unfail n
    let s := if n < 384 then [410, 411, 412, 413].foldl (fun s d => s.restartHyst d) s else s
    let s := if n < 256 then s.endWait n else s
    match s.pwr.legacy with
    | some (d, mn) => if d = n ∧ mn ≤ 3 then s.setFld .legacyCmd F.legacyCmd.BUSY 0 else s
    | none => s

/-! ### The commands -/

/-- A candle write (R13, R395-R397): trusted candles take the trusted world's writes only. -/
def State.candleWrite (s : State) (q : Req) (k : Nat) (mask v : DWord) : State :=
  let r := Reg.candle (ix 4096 k)
  if 3840 ≤ k ∧ !q.world then s
  else
    let w := writeFields r.fields true mask (s.reg r) v
    let free := getF w F.candle.FREE == 1
    let w := setF w F.candle.FREE 0
    let w := if free then setF (setF w F.candle.ALLOC 0) F.candle.MIN 0 else w
    let s := s.setReg r w
    s.callUp (getF w F.candle.DOMAIN)

def execCandleWrite (r : Req) (k : BitVec 12) (value : BitVec 32) (s : State) : Host.Outcome State Fault Refusal :=
  .next (s.access r (.candle (ix 4096 k.toNat)) fun s => s.candleWrite r k.toNat 0xFFFFFFFF#64 (value.zeroExtend 64))

def execCandleFree (r : Req) (k : BitVec 12) (s : State) : Host.Outcome State Fault Refusal :=
  .next (s.access r (.candle (ix 4096 k.toNat)) fun s => s.candleWrite r k.toNat (maskF F.candle.FREE) (maskF F.candle.FREE))

/-- The candle a read of CALLOC allocates: the lowest free one of the reader's world's range (R396). -/
def State.callocPick (s : State) (world : Bool) : Option Nat :=
  firstOf (fun k => s.fld (.candle (ix 4096 k)) F.candle.ALLOC == 0)
    (if world then (List.range 256).map (3840 + ·) else List.range 3840)

/-- A read of PWR.CALLOC: what it returns, with the candle allocated. -/
def State.callocRead (s : State) (world : Bool) : DWord × State :=
  match s.callocPick world with
  | none => (0xFFFF, s.setReg .calloc 0xFFFF)
  | some k => (dw k, (s.setFld (.candle (ix 4096 k)) F.candle.ALLOC 1).setReg .calloc (dw k))

def execCallocRead (r : Req) (s : State) : Host.Outcome State Fault Refusal := .next (s.access r .calloc fun s => (s.callocRead r.world).2)

/-- The domain a legacy command aims at (R400). -/
def legacyTarget (cls idx : Nat) : Option Nat :=
  match cls with
  | 0 => if idx < 256 then some idx else none
  | 1 => if idx < 128 then some (256 + idx) else none
  | 2 => if idx < 16 then some (384 + idx) else none
  | 3 => if idx < 8 then some (400 + idx) else none
  | 4 => if idx < 2 then some (408 + idx) else none
  | _ => none

/-- A write of PWR.LEGACY_CMD (R5, R299, R400). -/
def State.legacyCmd (s : State) (q : Req) (cmd cls idx : Nat) : State :=
  let r := Reg.legacyCmd
  let st := fun (s : State) (v : Nat) => s.setFld r F.legacyCmd.STATUS v
  if s.flag r F.legacyCmd.BUSY then st s 4
  else
    let s := ((s.setFld r F.legacyCmd.CMD cmd).setFld r F.legacyCmd.CLASS cls).setFld r F.legacyCmd.INDEX idx
    if 4 ≤ cmd then st s 1
    else match legacyTarget cls idx with
      | none => st s 2
      | some n =>
        if !q.world && s.twused n then (st s 3).toLog 0x000A 0 false [dw n, dw cmd]
        else match cmd with
          | 0 => st s 0
          | 3 => st (if (s.pwr.legacy.map Prod.fst) = some n then { s with pwr := { s.pwr with legacy := none } } else s) 0
          | _ =>
            let mn := if cmd = 1 then 3 else 1
            let s := { s with pwr := { s.pwr with legacy := some (n, mn) } }
            let s := st s 0
            if mn ≤ s.dstate n then s.setFld r F.legacyCmd.BUSY 0
            else (s.setFld r F.legacyCmd.BUSY 1).callUp n

def execNop (r : Req) (cls : BitVec 4) (idx : BitVec 12) (s : State) : Host.Outcome State Fault Refusal :=
  .next (s.access r .legacyCmd fun s => s.legacyCmd r 0 cls.toNat idx.toNat)
def execUp (r : Req) (cls : BitVec 4) (idx : BitVec 12) (s : State) : Host.Outcome State Fault Refusal :=
  .next (s.access r .legacyCmd fun s => s.legacyCmd r 1 cls.toNat idx.toNat)
def execRetain (r : Req) (cls : BitVec 4) (idx : BitVec 12) (s : State) : Host.Outcome State Fault Refusal :=
  .next (s.access r .legacyCmd fun s => s.legacyCmd r 2 cls.toNat idx.toNat)
def execDown (r : Req) (cls : BitVec 4) (idx : BitVec 12) (s : State) : Host.Outcome State Fault Refusal :=
  .next (s.access r .legacyCmd fun s => s.legacyCmd r 3 cls.toNat idx.toNat)

def execLegacyBusyTimeout (s : State) : Host.Outcome State Fault Refusal :=
  .next (s.setFld .legacyCmd F.legacyCmd.BUSY 0)

/-- A domain has had no hold for its hysteresis time (R394). -/
def execHysteresisExpiry (dom : Fin 417) (s : State) : Host.Outcome State Fault Refusal :=
  .next (if s.hold dom.val ∨ s.pwr.hystDone.contains dom.val then s
         else { s with pwr := { s.pwr with hystDone := s.pwr.hystDone ++ [dom.val] } })

/-- The entry of a domain starts when its target is deeper than its state (R399, R401); a hold that applies again ends
the served hysteresis. A group moves together (R393). -/
def execPowerEntryStart (dom : Fin 417) (s : State) : Host.Outcome State Fault Refusal :=
  let n := dom.val
  .next (
    if s.hold n then { s with pwr := { s.pwr with hystDone := s.pwr.hystDone.filter (· != n) } }
    else if (s.pwr.entry.find n).isSome ∨ s.pwr.waking.contains n ∨ s.dstate n ≤ s.target n then s
    else
      let t := s.target n
      (s.group n).foldl (fun s m =>
        let s := s.quiesce m
        { s with pwr := { s.pwr with entry := s.pwr.entry.set m (t, 1) } }) s)

/-- Whether the entry of a domain's group is known to be in its commit window. -/
def State.inWindow (s : State) (n step : Nat) : Bool := step == 5 || (s.group n).any s.pwr.window.contains

/-- An entry reversed, with the entries of the domain's group. -/
def State.reverseAll (s : State) (n : Nat) : State := (s.group n).foldl (fun s m => s.reverse m) (s.advance n)

/-- The entry reaches its last step (R401). A target that became shallower before the commit point reverses it (R403); in the
commit window nothing does but a transaction that the domain has open (R264). -/
def State.entryEnd (s : State) (n : Nat) : State :=
  match s.pwr.entry.find n with
  | none => s
  | some (t, step) =>
    if (s.group n).any s.initOpen ∨ !s.inWindow n step ∧ (t < s.target n ∨ (s.group n).any s.pwr.wakeReq.contains)
    then s.reverseAll n
    else (s.group n).foldl (fun s m => s.enter m t) s

/-- A source of R404 that asks for a domain now. -/
def State.wakeSource (s : State) (n : Nat) : WakeSrc → Bool
  | .packet => s.pwr.wakeReq.contains n || s.mesh.held.any fun h => h.dom == n
  | .timer =>
    let k := match s.pwr.saved.find n with | some v => v.core | none => s.core n
    decide (n < 256) && timers.any fun t => k.timerReq s.now t
  | .candle => s.pwr.wakeReq.contains n || decide (s.dstate n < s.target n)
  | .link | .perst => s.pwr.wakeReq.contains n
  | .gpio p =>
    let w := s.reg (.gpwake p)
    getF w F.gpwake.EN == 1 && getF w F.gpwake.DOMAIN == n && (s.pwr.wakeReq.contains n || s.gpioHold n)

/-- Before phase 4 of a cold or power-on start-up no domain but the always-on ones leaves OFF (R393). -/
def State.unstarted (s : State) (n : Nat) : Bool :=
  decide (n < 415) && decide (s.fld .stwBootstat F.stwBootstat.PHASE < 4) && s.boot.resetting != some .warm

/-- A wake request starts the bring-up of a domain, its power estimate added to G and DEBT under Steady Draw (R426), or reverses
an entry under way, but not in the commit window, where it waits for the new state (R403-R405). A held core's domain
stays OFF until its release (R37); a domain behind sleeping mesh domains wakes them too (R393). -/
def State.wakeStart (s : State) (n : Nat) (src : WakeSrc) : State :=
  if s.keptOff n ∨ s.unstarted n ∨ !s.wakeSource n src then s
  else match s.pwr.entry.find n with
    | some (_, step) => if s.inWindow n step then s.request n else s.reverseAll n
    | none =>
      if s.isOn n ∨ s.pwr.waking.contains n then s
      else
        let s := if n < 384 ∧ !s.isOn 410 then [410, 411, 412, 413].foldl (fun s m => s.wake m) s else s
        let s := { s with pwr := { s.pwr with waking := s.pwr.waking ++ (s.group n).filter fun m => !s.pwr.waking.contains m } }
        if (s.reg (.rtuSdParam 0)).getLsbD 0 then
          let e := Config.wakePower n
          { s with rtu := { s.rtu with g := s.rtu.g + e, debt := s.rtu.debt + e } }
        else s

/-- A domain being brought up reaches ON; a core or tile waits for sleeping mesh domains (R393, R405). -/
def State.wakeComplete (s : State) (n : Nat) (restoreOk : Bool) : State :=
  if !s.pwr.waking.contains n ∨ (n < 384 ∧ !s.isOn 410) then s
  else (s.group n).foldl (fun s m => s.wakeDone m restoreOk) s

/-- The WIDTH of the newest POWER firing of a domain ends (R418). -/
def execPowerWidthEnd (dom : Fin 417) (s : State) : Host.Outcome State Fault Refusal :=
  let n := dom.val
  .next (
    if s.rtu.widths.contains n then
      ({ s with rtu := { s.rtu with widths := s.rtu.widths.filter (· != n) } }.setFld (rDom n) F.dom.SCHED_V 0).callUp n
    else s)

/-- The wakes of a pin whose sampled level changed from `was` (R403, R404, R454). An edge in the commit window of the
domain's entry is lost; a level event there is sampled once the new state is read. -/
def State.pinWake (s : State) (p : Nat) (was window : Bool) : State :=
  let level := s.pinLevel p
  let w := s.reg (.gpwake (ix 24 p))
  let n := getF w F.gpwake.DOMAIN
  let edge := (getF w F.gpwake.MODE == 0 && !was && level) || (getF w F.gpwake.MODE == 1 && was && !level)
  let lev := (getF w F.gpwake.MODE == 2 && level) || (getF w F.gpwake.MODE == 3 && !level)
  let inWin := window && (s.pwr.entry.find n).isSome
  let s := if inWin ∧ !s.pwr.window.contains n then { s with pwr := { s.pwr with window := s.pwr.window ++ [n] } } else s
  if getF w F.gpwake.EN = 1 ∧ (s.gpioRank p = 1 ∨ s.gpioRank p = 4) ∧ (edge && !inWin || lev) ∧ was ≠ level
  then s.wake n else s

/-- The wakes that follow from a write which changes what the chip drives. -/
def State.pinsFrom (s before : State) : State :=
  (List.range 24).foldl (fun s p => s.pinWake p (before.pinLevel p) false) s

/-- The board changes the level of a GPIO pin. -/
def execGpioInputChange (pin : Fin 24) (level window : Bool) (s : State) : Host.Outcome State Fault Refusal :=
  let p := pin.val
  let was := s.pinLevel p
  let bits := if level then s.boot.pins.gpio ||| (1#24 <<< p) else s.boot.pins.gpio &&& ~~~(1#24 <<< p)
  .next (({ s with boot := { s.boot with pins := { s.boot.pins with gpio := bits } } }).pinWake p was window)

/-! ### GPIO registers (R294, R452, R474) -/

/-- A normal-world write that would change the function of a pin which another claimant drives is flagged; the register
ignores it (R294, R452). -/
def State.fnDenied (s : State) (q : Req) (p : Nat) (r : Reg) (f : Place) (mask v : DWord) : State :=
  let w := (s.reg r &&& ~~~mask) ||| (v &&& mask)
  if !q.world ∧ s.gpioRank p ≠ 4 ∧ getF w f ≠ s.fld r f then
    s.setReg .gpioDenied (s.reg .gpioDenied ||| (1#64 <<< p))
  else s

/-- A write of GPIO.DIR or GPIO.OUT. A normal-world change of a pin that another claimant drives is ignored and
flagged. -/
def State.gpioSet (s : State) (q : Req) (r : Reg) (mask v : DWord) : State :=
  let old := s.reg r
  let w := writeFields r.fields q.world mask old v
  let lost : DWord := if q.world then 0 else
    dw ((List.range 24).foldl (fun n p => if s.gpioRank p = 4 then n else n + 2 ^ p) 0)
  let s1 := s.setReg r ((w &&& ~~~lost) ||| (old &&& lost))
  (s1.setReg .gpioDenied (s1.reg .gpioDenied ||| ((old ^^^ w) &&& lost))).pinsFrom s

end Sys2Proof.Machine
end

