-- ==== Sys2Proof/Machine/L3.lean ====
section
/-! DEFINITION. L3 slices as units: way power (R237, R238), locking (R234), disabled ways (R242), array initialisation
(R240), and slice retirement (R447). -/

namespace Sys2Proof.Machine

/-- The lines of a slice that lie in a way. -/
def State.l3InWay (s : State) (n w : Nat) : List (Nat × L3Line) :=
  s.coh.l3.filter fun p => p.2.way == w && s.home p.1 == n

/-- Every line of a way cleaned and invalidated. -/
def State.l3CleanWay (s : State) (n w : Nat) : State :=
  s.withCs ((s.l3InWay n w).foldl (fun x p => (x.l3WriteBack p.1 p.2).l3Erase p.1) s.cs)

/-- Ways of a slice that are powered and not disabled, with ways 8-15 powered as a mask of OFF says. -/
def State.l3Usable (s : State) (n off : Nat) : Nat :=
  ((List.range 16).filter fun w => !s.l3Dis n w && !(decide (8 ≤ w) && off.testBit (w - 8))).length

/-- The next way whose power differs from the request, lowest first (R237). -/
def nextWay (off req : Nat) : Option Nat :=
  (firstOf (fun k => off.testBit k != req.testBit k) (List.range 8)).map (8 + ·)

/-- The slice goes on with the next changed way, or is done. -/
def State.wayNext (s : State) (n : Nat) : State :=
  let r := Reg.l3Waypwr (ix 128 n)
  match nextWay (s.fld r F.l3Waypwr.OFF) (s.fld r F.l3Waypwr.REQ) with
  | some w => ({ s with coh := { s.coh with wayBusy := s.coh.wayBusy.set n w } }).setFld r F.l3Waypwr.STATUS 1
  | none =>
    let s := { s with coh := { s.coh with wayBusy := s.coh.wayBusy.erase n } }
    if s.fld r F.l3Waypwr.STATUS = 1 then s.setFld r F.l3Waypwr.STATUS 0 else s

/-- A write of L3.WAYPWR.REQ (R237, R238). A refused request changes nothing but STATUS (log entry 20). -/
def State.wayPower (s : State) (n req : Nat) : State :=
  let r := Reg.l3Waypwr (ix 128 n)
  let off := s.fld r F.l3Waypwr.OFF
  let locked := anyBelow 8 fun k => req.testBit k && !off.testBit k && s.l3Locked n (8 + k)
  if locked then s.setFld r F.l3Waypwr.STATUS 2
  else if s.l3Usable n req < 8 ∧ anyBelow 8 (fun k => req.testBit k && !off.testBit k) then
    s.setFld r F.l3Waypwr.STATUS 3
  else
    let s := (s.setFld r F.l3Waypwr.REQ req).setFld r F.l3Waypwr.STATUS 0
    match s.coh.wayBusy.find n with
    | some _ => s.setFld r F.l3Waypwr.STATUS 1
    | none => s.wayNext n

def execWayPowerRequest (r : Req) (n : BitVec 7) (ways : BitVec 8) (s : State) : Host.Outcome State Fault Refusal :=
  .next (s.access r (.l3Waypwr (ix 128 n.toNat)) fun s => s.wayPower n.toNat ways.toNat)

/-- One way finishes its power change: a way going down is empty and opens its switch, unless the request changed
meanwhile; a way coming up arrives empty (R237). -/
def execWayPowerChangeDone (n : BitVec 7) (s : State) : Host.Outcome State Fault Refusal :=
  let r := Reg.l3Waypwr (ix 128 n.toNat)
  .next (match s.coh.wayBusy.find n.toNat with
    | none => s
    | some w =>
      let off := s.fld r F.l3Waypwr.OFF
      let req := s.fld r F.l3Waypwr.REQ
      let s := if off.testBit (w - 8) then s else s.l3CleanWay n.toNat w
      let bit := 2 ^ (w - 8)
      let off' := if req.testBit (w - 8) then off ||| bit else off &&& (255 - bit)
      let s := { s with coh := { s.coh with wayBusy := s.coh.wayBusy.erase n.toNat } }
      (s.setFld r F.l3Waypwr.OFF off').wayNext n.toNat)

/-- A write of L3.LOCKn (R234): a lock for a way that is off, powering down, or asked to power down and waiting for its
turn stops the power-down and powers it on (R238). -/
def State.lockWrite (s : State) (n ways : Nat) : State :=
  let r := Reg.l3Waypwr (ix 128 n)
  let s := s.setReg (.l3Lock (ix 128 n)) (dw (ways % 4096))
  let hit := (List.range 4).filter fun k =>
    ways.testBit (8 + k) && (s.l3Off n (8 + k) || s.coh.wayBusy.find n == some (8 + k) || (s.fld r F.l3Waypwr.REQ).testBit k)
  if hit.isEmpty then s
  else
    let clr := fun (v : Nat) => hit.foldl (fun v k => v &&& (255 - 2 ^ k)) v
    let s := (s.setFld r F.l3Waypwr.OFF (clr (s.fld r F.l3Waypwr.OFF))).setFld r F.l3Waypwr.REQ
      (clr (s.fld r F.l3Waypwr.REQ))
    let busy := match s.coh.wayBusy.find n with | some w => hit.contains (w - 8) | none => false
    let s := if busy then { s with coh := { s.coh with wayBusy := s.coh.wayBusy.erase n } } else s
    (s.wayNext n).setFld r F.l3Waypwr.STATUS 2

def execL3LockWrite (r : Req) (n : BitVec 7) (ways : BitVec 12) (s : State) : Host.Outcome State Fault Refusal :=
  .next (s.access r (.l3Lock (ix 128 n.toNat)) fun s => s.lockWrite n.toNat ways.toNat)

/-! ### Failing ways (R242) -/

def State.wayErrs (s : State) (l3 : Bool) (i w : Nat) : Nat := s.coh.wayErr.getD (l3, i, w) 0
/-- A corrected error of a way counted. -/
def State.wayErrAdd (s : State) (l3 : Bool) (i w : Nat) : State :=
  { s with coh := { s.coh with wayErr := s.coh.wayErr.set (l3, i, w) (s.wayErrs l3 i w + 1) } }

/-! ### Slice retirement (R447) -/

def State.slice (s : State) (h : Nat) : Nat := s.fld (.l3Remap (ix 128 h)) F.l3Remap.SLICE
def State.named (s : State) (t : Nat) : Nat := ((List.range 128).filter fun h => s.slice h == t).length
/-- A live slice: one that serves some hash index and is not retired. -/
def State.live (s : State) (t : Nat) : Bool := !s.log.retired.contains t && decide (0 < s.named t)

/-- The live slice, other than the retiring one, that is named by the fewest entries; the lowest tile breaks a tie. -/
def State.retireTo (s : State) (t : Nat) : Option Nat :=
  ((List.range 128).filter fun u => u != t && s.live u).foldl
    (fun m u => match m with
      | none => some u
      | some v => if s.named u < s.named v then some u else some v) none

/-- One hash index moved off a slice: dirty lines to memory, every copy invalidated, the entry rewritten. -/
def State.moveIdx (s : State) (t h : Nat) : State :=
  match s.retireTo t with
  | none => s
  | some u =>
    let mine := fun (line : Nat) => hashIdx (64 * line) == h
    let x := s.cs
    let x := (x.coh.dir.filter fun p => mine p.1).foldl (fun x p =>
        let d := (x.dirtyOwner p.1).isSome
        let x := (x.invOthers p.1 none).dirErase p.1
        if d then (x.l3Erase p.1).toMem p.1 else x) x
    let x := (x.coh.l3.filter fun p => mine p.1).foldl (fun x p => (x.l3WriteBack p.1 p.2).l3Erase p.1) x
    let s := s.withCs x
    let r := Reg.l3Remap (ix 128 h)
    (s.setFld r F.l3Remap.MOVED 1).setFld r F.l3Remap.SLICE u

def State.idxOf (s : State) (t : Nat) : List Nat := (List.range 128).filter fun h => s.slice h == t

/-- Every hash index of a slice moved. -/
def State.moveAll (s : State) (t : Nat) : State := (s.idxOf t).foldl (fun s h => s.moveIdx t h) s

/-- A retirement that would leave a live slice with more than two entries, or none to take them, is refused. -/
def State.retireRefused (s : State) (t : Nat) : Bool :=
  let s' := (s.idxOf t).foldl (fun (s : State) h =>
    match s.retireTo t with
    | some u => s.setFld (.l3Remap (ix 128 h)) F.l3Remap.SLICE u
    | none => s) s
  anyBelow 128 (fun u => decide (2 < s'.named u)) || !(s'.idxOf t).isEmpty

/-- A retirement starts, or is refused; a slice already empty needs none. -/
def State.retireStart (s : State) (t : Nat) : State :=
  let r := Reg.retireReg
  if s.coh.retiring.isSome then s
  else if s.retireRefused t then s.setFld r F.retireReg.STATUS 2
  else ({ s with coh := { s.coh with retiring := some t } }).setFld r F.retireReg.STATUS 1

/-- The retirement of a slice done: entries moved, ways off, recorded and logged. -/
def State.retireDone (s : State) (t : Nat) : State :=
  let s := s.moveAll t
  let s := { s with coh := { s.coh with retiring := none } }
  let s := s.setFld (.l3Waypwr (ix 128 t)) F.l3Waypwr.OFF 255
  let s := { s with log := { s.log with retired := if s.log.retired.contains t then s.log.retired else s.log.retired ++ [t] } }
  (s.logErr { bank := t, cls := 0x63, sev := 0, src := t }).toLog 0x0007 0 false [dw t]

/-- A write of RAS.RETIRE.GO; GO is RWT (R447). -/
def execRetire (r : Req) (tile : BitVec 7) (s : State) : Host.Outcome State Fault Refusal :=
  .next (s.access r .retireReg fun s =>
    if r.world then (s.setFld .retireReg F.retireReg.TILE tile.toNat).retireStart tile.toNat else s)

/-! ### Disabling a way -/

/-- A private line of a disabled L2 way leaves for its home. -/
def State.l2CleanWay (s : State) (c w : Nat) : State :=
  s.withCs ((s.coh.priv.filter fun p => p.1.1 == c && p.2.way == w).foldl (fun x p =>
    s.victim (x.privErase c p.1.2) c p.1.2 (p.2.st == .m || p.2.st == .o) p.2.key) s.cs)

def State.l2Usable (s : State) (c : Nat) : Nat := ((List.range 8).filter fun w => !s.l2Dis c w).length

/-- Events of a slice within the last 24 hours. -/
def recent (now : DWord) (l : List DWord) : List DWord :=
  l.filter fun t => decide (now.toNat - t.toNat < 86400000000000)

/-- A way whose corrected errors have reached the threshold disables itself, or is refused at the floor (R242). -/
def execWayDisable (l3 : Bool) (idx : BitVec 8) (way : BitVec 4) (s : State) : Host.Outcome State Fault Refusal :=
  let i := idx.toNat
  let w := way.toNat
  .next (
    if l3 then
      let n := i % 128
      let th := s.fld .l3Thresh F.l3Thresh.COUNT
      if th = 0 ∨ s.wayErrs true n w < th ∨ s.l3Dis n w then s
      else
        let r := Reg.l3Stat (ix 128 n)
        let w3 := Reg.l3Waypwr (ix 128 n)
        let off := s.fld w3 F.l3Waypwr.OFF ||| s.fld w3 F.l3Waypwr.REQ
        if s.l3Usable n off ≤ 8 ∧ ¬ (8 ≤ w ∧ off.testBit (w - 8)) then
          let s := (s.setFld r F.l3Stat.DIS_REFUSED 1).logErr { bank := n, cls := 0x08, sev := 0, src := w }
          let l := recent s.now (s.coh.refused.getD n []) ++ [s.now]
          let s := { s with coh := { s.coh with refused := s.coh.refused.set n l } }
          if 3 ≤ l.length then s.retireStart n else s
        else
          let s := s.l3CleanWay n w
          let s := s.setFld r F.l3Stat.WAY_DIS (s.fld r F.l3Stat.WAY_DIS ||| 2 ^ w)
          let s := s.setReg (.l3Lock (ix 128 n)) (s.reg (.l3Lock (ix 128 n)) &&& ~~~(1#64 <<< w))
          s.logErr { bank := n, cls := 0x07, sev := 0, src := w }
    else
      let th := s.fld .l2Thresh F.l2Thresh.COUNT
      if 8 ≤ w ∨ th = 0 ∨ s.wayErrs false i w < th ∨ s.l2Dis i w then s
      else
        let r := Reg.l2Stat (ix 256 i)
        if s.l2Usable i ≤ 4 then
          (s.setFld r F.l2Stat.DIS_REFUSED 1).logErr { bank := i / 2, cls := 0x08, sev := 0, src := w }
        else
          let s := s.l2CleanWay i w
          let s := s.setFld r F.l2Stat.WAY_DIS (s.fld r F.l2Stat.WAY_DIS ||| 2 ^ w)
          s.logErr { bank := i / 2, cls := 0x07, sev := 0, src := w })

/-- A fixed window ends and the counts of its array are cleared (R242). -/
def execWayErrorWindowEnd (l3 : Bool) (idx : BitVec 8) (s : State) : Host.Outcome State Fault Refusal :=
  .next { s with coh := { s.coh with
    wayErr := s.coh.wayErr.keep fun k _ => !(k.1 == l3 && k.2.1 == (if l3 then idx.toNat % 128 else idx.toNat)) } }

/-- An array finishes its invalidation (R240). -/
def State.arrayReady (s : State) (a : ArrayId) : State :=
  match a with
  | .l1i c => s.setFld (.l2Stat (ix 256 c.toNat)) F.l2Stat.L1I_INIT_DONE 1
  | .l1d c => s.setFld (.l2Stat (ix 256 c.toNat)) F.l2Stat.L1D_INIT_DONE 1
  | .l2 c => s.setFld (.l2Stat (ix 256 c.toNat)) F.l2Stat.L2_INIT_DONE 1
  | .l3 n => s.setFld (.l3Stat (ix 128 n.toNat)) F.l3Stat.INIT_DONE 1
  | .dir n => s.setFld (.l3Stat (ix 128 n.toNat)) F.l3Stat.DIR_INIT_DONE 1

end Sys2Proof.Machine
end

