-- ==== Sys2Proof/Machine/Sec.lean ====
section
/-! DEFINITION. The security engine: ownership changes (R278, R281), key IDs (R282-R284), trusted ranges, the trusted
watchdog and what the loss of trusted services does (R295-R297), the test port and debug (R300, R301, R457). -/

namespace Sys2Proof.Machine

/-! ### Ownership (R281) -/

/-- Committed stores to an extent that a core still buffers are performed, in their order, with the gathered write where it
lies there. -/
def State.drainIn (s : State) (a b c : Nat) : State :=
  let es := (s.ucore c).mbuf
  let hit := fun (e : MbEntry) => decide (a ≤ e.line / 64) && decide (e.line / 64 ≤ b)
  let s := (es.filter hit).foldl (fun s e => s.performStore c e)
    (s.onUcore c fun u => { u with mbuf := u.mbuf.filter fun e => !hit e })
  if ((s.ucore c).gath.map fun g => hit g.entry) = some true then s.flushGath c else s

/-- The invalidation of an extent of pages at every checking agent whose domain is ON, every access checked before it
performed. -/
def State.ownInv (s : State) (a b : Nat) : State :=
  let s := { s with sec := { s.sec with owns := s.sec.owns.mapV fun _ l => dropOverlap a b l } }
  s.ucores.foldl (fun s p =>
    if s.isOn p.1 then (s.drainIn a b p.1).onUcore p.1 fun u => { u with own := dropOverlap a b u.own } else s) s

def execOwnershipInvalidation (first last : BitVec 40) (s : State) : Host.Outcome State Fault Refusal :=
  .next (s.ownInv first.toNat last.toNat)

/-! ### Key IDs (R282, R284) -/

/-- Lines that some cache holds under a key ID. -/
def State.linesUnder (s : State) (key : Nat) : List Nat :=
  ((s.coh.dir.filter fun p => p.2.key == key).map Prod.fst) ++
    ((s.coh.l3.filter fun p => !p.2.lent && p.2.key == key).map Prod.fst)

/-- Every cached line that carries a key ID is discarded without being written back. -/
def State.discardKey (s : State) (key : Nat) : State :=
  let s := (s.linesUnder key).foldl (fun s l => s.invLine l) s
  { s with coh := { s.coh with wbuf := s.coh.wbuf.keep fun _ v => v.2 != key } }

/-- A fresh key for a key ID: data written under the old one reads as unrelated. -/
def State.freshKey (s : State) (key : Nat) : State :=
  let s := s.discardKey key
  { s with m := { s.m with keyGen := s.m.keyGen.set key (s.m.keyGen.getD key 0 + 1) } }

/-- Every key cleared (R31, R301). -/
def State.clearKeys (s : State) : State := { s with m := { s.m with epoch := s.m.epoch + 1, keyGen := [] } }

def State.anyLocket (s : State) : Bool := s.sec.lockets.any fun p => p.2.st != 0

/-- A write of SEC.KEYPART; its fields are RWT. -/
def State.keypartWrite (s : State) (q : Req) (mask v : DWord) : State :=
  let w := writeFields Reg.keypart.fields q.world mask (s.reg .keypart) v
  if s.anyLocket ∨ getF w F.keypart.TWBASE ≤ getF w F.keypart.NWMAX + 1 then s else s.setReg .keypart w

def execKeypartWrite (r : Req) (value : BitVec 32) (s : State) : Host.Outcome State Fault Refusal :=
  .next (s.access r .keypart fun s => s.keypartWrite r 0xFFFFFFFF#64 (value.zeroExtend 64))

/-- Whether a world's write of SEC.KEYCMD for a key ID is accepted. -/
def State.keyAccepted (s : State) (q : Req) (key : Nat) : Bool :=
  if q.world then decide (s.fld .keypart F.keypart.TWBASE ≤ key)
  else s.manager q && decide (1 ≤ key) && decide (key ≤ s.fld .keypart F.keypart.NWMAX)

/-- A write of SEC.KEYCMD. Only OP GENERATE starts an operation. -/
def State.keycmdWrite (s : State) (q : Req) (mask v : DWord) : State :=
  let r := Reg.keycmd
  let w := writeFields r.fields q.world mask (s.reg r) v
  let key := getF w F.keycmd.KEYID
  if s.flag r F.keycmd.GO then s
  else if !s.keyAccepted q key then s.setFld r F.keycmd.STATUS 2
  else if getF w F.keycmd.GO = 1 ∧ getF w F.keycmd.OP = 1 then
    { s.setReg r (setF w F.keycmd.STATUS 1) with sec := { s.sec with keyBusy := some key, keyTrusted := q.world } }
  else s.setReg r (setF w F.keycmd.GO 0)

def execGenerate (r : Req) (keyid : BitVec 12) (s : State) : Host.Outcome State Fault Refusal :=
  .next (s.access r .keycmd fun s => s.keycmdWrite r 0xFFFFFFFF#64 (dw (2 ^ 31 + 2 ^ 24 + keyid.toNat)))

def execKeyGenerateComplete (s : State) : Host.Outcome State Fault Refusal :=
  .next (match s.sec.keyBusy with
    | none => s
    | some k =>
      let s := s.freshKey k
      let s := { s with sec := { s.sec with keyBusy := none } }
      (s.setFld .keycmd F.keycmd.STATUS 0).setFld .keycmd F.keycmd.GO 0)

/-! ### TRUSTED ranges (R278, R474) -/

/-- Whether pages from `a` to `b` include one that is SEC-owned or recorded for a locket. -/
def State.heldPages (s : State) (a b : Nat) : Bool :=
  (s.sec.pages.any fun p => decide (p.1 ≤ b) && decide (a ≤ p.2)) ||
    s.sec.lockets.any fun p => p.2.ranges.any fun r =>
      decide (r.pbase / 4096 ≤ b) && decide (a < r.pbase / 4096 + r.pages)

/-- A range given to the trusted world, or refused; the ownership change takes effect after its invalidation. -/
def State.twrangeSet (s : State) (k : Nat) (lo hi : DWord) : State :=
  let rl := Reg.twrangeLo (ix 16 k); let rh := Reg.twrangeHi (ix 16 k)
  let a := getF lo F.twrangeLo.BASE; let b := getF hi F.twrangeHi.LAST
  if getF lo F.twrangeLo.V = 1 ∧ s.heldPages a b then s.setFld rl F.twrangeLo.REFUSED 1
  else
    let s := if s.flag rl F.twrangeLo.V then s.ownInv (s.fld rl F.twrangeLo.BASE) (s.fld rh F.twrangeHi.LAST) else s
    let s := if getF lo F.twrangeLo.V = 1 then s.ownInv a b else s
    (s.setReg rl (setF lo F.twrangeLo.REFUSED 0)).setReg rh hi

/-- A write of one half of SEC.TWRANGEk; the register is RWT. -/
def State.twrangeWrite (s : State) (q : Req) (k : Nat) (hi : Bool) (mask v : DWord) : State :=
  let rl := Reg.twrangeLo (ix 16 k); let rh := Reg.twrangeHi (ix 16 k)
  if !q.world then s
  else if hi then s.twrangeSet k (s.reg rl) (writeFields rh.fields true mask (s.reg rh) v)
  else s.twrangeSet k (writeFields rl.fields true mask (s.reg rl) v) (s.reg rh)

def execTwrangeWrite (r : Req) (k : BitVec 4) (hi : Bool) (value : BitVec 64) (s : State) :
    Host.Outcome State Fault Refusal :=
  .next (s.access r (.twrangeLo (ix 16 k.toNat)) fun s => s.twrangeWrite r k.toNat hi (BitVec.allOnes 64) value)

/-! ### Trusted watchdog, AVAIL (R295) and the loss of trusted services (R297) -/

def State.avail (s : State) : Bool := s.flag .twstate F.twstate.AVAIL

def State.twdogKick (s : State) (q : Req) : State :=
  if q.world then { s with sec := { s.sec with kicked := s.now } } else s

def execTwdogKick (r : Req) (s : State) : Host.Outcome State Fault Refusal :=
  .next (s.access r .twdog fun s => s.twdogKick r)

/-- The normal-world state of a world return record put back (R296, R297). -/
def Core.back (k : Core) (w : WorldRet) (g : Map (BitVec 5) DWord) : Core :=
  { k.ws Sys.fcsr false w.fcsr with
    run := .running, pc := w.pc, lvl := w.lvl, world := false, ie := w.ie, g := g, v := w.v, wret := none,
    lk := none, barred := false }

/-- The negated value of UNAVAILABLE (R65, R297). -/
def unavailable : Nat := 16

/-- A core evicted from the trusted world: it resumes from its record, or is held without one. -/
def Core.evict (k : Core) : Core :=
  if !k.world then k
  else match k.wret with
    | some w => k.back w (if w.byCall then w.g.set 1 (neg unavailable) else w.g)
    | none => if k.run = .held then k else { k with run := .evicted }

/-- Trusted interrupts pending and in service go with the trusted world's state. -/
def Core.dropTrusted (k : Core) : Core :=
  { k with pend := k.pend.filter fun b => !b.world, serv := k.serv.filter fun b => !b.world }

/-- Cores that are in the trusted world through an interrupt, with its vector: the interrupt is discarded and logged. -/
def evicted (l : Map Nat Core) : List (Nat × Nat) :=
  l.filterMap fun p => match p.2.wret with
    | some w => if p.2.world && !w.byCall then some (p.1, w.vec) else none
    | none => none

/-- Pins of the trusted world driven to their GPIO.SAFE level (R46, R297). -/
def State.safePins (s : State) : State :=
  (List.range 24).foldl (fun s p =>
    if (s.reg .gpioWorld).getLsbD p then
      let b := (s.boot.cfg.gpioSafe.toNat >>> (8 * p)) % 256
      let bit := 1#64 <<< p
      let dir := if b < 2 then s.reg .gpioDir ||| bit else s.reg .gpioDir &&& ~~~bit
      let out := if b = 1 then s.reg .gpioOut ||| bit else s.reg .gpioOut &&& ~~~bit
      (s.setReg .gpioDir dir).setReg .gpioOut out
    else s) s

/-- Data Mover channels of the trusted world stopped, the descriptor in progress abandoned. -/
def State.stopTrustedChans (s : State) : State :=
  (List.range 64).foldl (fun s ch =>
    let d := ix 2 (ch / 32); let c := ix 32 ch
    if s.flag (.dmAttr d c) F.dmAttr.WORLD then
      let s := (s.setFld (.dmCtl d c) F.dmCtl.EN 0).setFld (.dmCtl d c) F.dmCtl.BUSY 0
      { s with dm := { s.dm with chans := s.dm.chans.erase ch } }
    else s) s

/-- Lamplighter entries 480-511 disabled. -/
def State.disableTrustedLl (s : State) : State :=
  (List.range 32).foldl (fun s i => s.setFld (.llCtl (ix 512 (480 + i))) F.llCtl.V 0) s

/-- A reload of the trusted world begins without a command. -/
def State.autoStart (s : State) : State :=
  { s with sec := { s.sec with autoReload := true } }.setFld .twstate F.twstate.RESTARTING 1

/-- The Steward makes automatic restarts until three have been made since the power-on reset (R298). -/
def State.autoAllowed (s : State) : Bool := decide (s.sec.autoRestarts < 3)

def State.autoRestart (s : State) : State := if s.boot.cfg.twRestart && s.autoAllowed then s.autoStart else s

/-- Trusted services go from available to unavailable. With TW.RESTART = 1 an automatic restart begins, unless three have been
made since the power-on reset (R298). -/
def State.servicesLost (s : State) : State :=
  let gone := evicted s.cores
  let n := s.cores.foldl (fun n p => n + (p.2.pend.filter fun b => b.world).length) 0
  -- an evicted core changes its world, which ends a replay (R113)
  let s := s.cores.foldl (fun s p => if p.2.world then s.loopExit p.1 else s) s
  let s := { s with
    cores := s.cores.mapV fun _ k => k.evict.dropTrusted
    pwr := { s.pwr with saved := s.pwr.saved.mapV fun _ v => { v with core := v.core.evict.dropTrusted } }
    sec := { s.sec with discard := true, discarded := s.sec.discarded + n } }
  let s := s.cores.foldl (fun s p => s.collect p.1) s
  let s := gone.foldl (fun s p => s.toLog 0x0009 0 true [dw p.1, dw p.2]) s
  let s := ((s.safePins.stopTrustedChans.disableTrustedLl).setFld .twstate F.twstate.AVAIL 0)
  (s.autoRestart.toLog 0x0009 0 true []).raiseStw 5

/-- A trusted-world write of AVAIL. -/
def State.availWrite (s : State) (q : Req) (v : Bool) : State :=
  if !q.world then s
  else if v then
    let s := if s.avail then s else { s with sec := { s.sec with kicked := s.now } }
    s.setFld .twstate F.twstate.AVAIL 1
  else if s.avail then s.servicesLost else s

def execAvailWrite (r : Req) (v : Bool) (s : State) : Host.Outcome State Fault Refusal :=
  .next (s.access r .twstate fun s => s.availWrite r v)

/-- The watchdog counts only while AVAIL = 1 (R295). -/
def execTrustedWatchdogExpiry (s : State) : Host.Outcome State Fault Refusal :=
  .next (if s.avail then s.servicesLost else s)

/-! ### The test port (R300, R301) and debug (R457) -/

/-- The codes of the instruction register (R300); internal scan has none that the spec gives. -/
def TapInstr.code : TapInstr → Option (BitVec 8)
  | .extest => some 0x00 | .idcode => some 0x01 | .sample => some 0x02 | .clamp => some 0x04 | .highz => some 0x05
  | .bypass => some 0xFF | .scan => none

/-- The instruction of a code: every other code acts as BYPASS. -/
def tapDecode (ir : BitVec 8) : TapInstr :=
  ([.extest, .idcode, .sample, .clamp, .highz].find? fun t => t.code == some ir).getD .bypass

/-- IDCODE of the part. -/
def tapIdcode : Word := 0x1925674B#32

/-- What the data register captures, first bit out lowest: the IDCODE, the levels of the GPIO pins, or one bit 0. -/
def State.tapCapture (s : State) : List Bool :=
  match s.boot.tap with
  | .idcode => (List.range 32).map fun i => tapIdcode.getLsbD i
  | .sample | .extest => (List.range 24).map s.pinLevel
  | _ => [false]

/-- An instruction takes effect, and the pins with it. -/
def State.tapTo (s : State) (t : TapInstr) : State := { s with boot := { s.boot with tap := t } }.pinsFrom s

/-- An instruction that drives pins acts as SAMPLE/PRELOAD, and is logged, unless the cores are held in reset. -/
def State.tapDrive (s : State) (t : TapInstr) : State :=
  if s.coresHeld then s.tapTo t else (s.tapTo .sample).toLog 0x0003 0 false []

def execExtest (s : State) : Host.Outcome State Fault Refusal := .next (s.tapDrive .extest)
def execClamp (s : State) : Host.Outcome State Fault Refusal := .next (s.tapDrive .clamp)
def execHighz (s : State) : Host.Outcome State Fault Refusal := .next (s.tapDrive .highz)
def execIdcode (s : State) : Host.Outcome State Fault Refusal := .next (s.tapTo .idcode)
/-- The boundary cells hold what the tester shifts in, which the command does not give: a free value (log entry 8). -/
def execSamplePreload (s : State) : Host.Outcome State Fault Refusal :=
  let r := s.fresh
  .next ({ r.2 with boot := { r.2.boot with cells := (r.1.truncate 24, (r.1 >>> 24).truncate 24) } }.tapTo .sample)
/-- BYPASS, and every instruction code that R300 does not list (`tapDecode`). -/
def execBypass (s : State) : Host.Outcome State Fault Refusal := .next (s.tapTo .bypass)

/-- Internal scan: on the engineering part every key is zeroed first; on the production part it acts as BYPASS. -/
def execInternalScanEntry (s : State) : Host.Outcome State Fault Refusal :=
  .next (if s.boot.fuses.engineering then
      (let s := s.clearKeys; { s with sec := { s.sec with zeroed := true } }).tapTo .scan
    else s.tapTo .bypass)

end Sys2Proof.Machine
end

