-- ==== Sys2Proof/Machine/Qcfg.lean ====
section
/-! DEFINITION. Who may write queues, channels and routing entries, and what those writes do (R309, R310, R319, R320,
R323-R325, R338, R339). -/

namespace Sys2Proof.Machine

/-- A field that keeps its old value when the value written is one that the moment does not allow (R13, R310). -/
def keepIf (ok : Nat → Bool) (p : Place) (old w : DWord) : DWord :=
  if ok (getF w p) then w else setF w p (getF old p)

/-! ### Owners (R325) -/

/-- The owner that governs queue k of station t: QOWN, or the bound channel's attributes for a submission queue. -/
def State.qOwner (s : State) (t k : Nat) : Ident :=
  let cfg := s.reg (.qcfg (ix 128 t) (ix 512 k))
  if getF cfg F.qcfg.KIND = 1 then
    let ch := getF cfg F.qcfg.DMCH
    let w := s.reg (.dmAttr (ix 2 (ch / 32)) (ix 32 ch))
    ⟨getF w F.dmAttr.WORLD == 1, getF w F.dmAttr.VMID, getF w F.dmAttr.LOCKET⟩
  else
    let w := s.reg (.qown (ix 128 t) (ix 512 k))
    ⟨getF w F.qown.WORLD == 1, getF w F.qown.VMID, getF w F.qown.LOCKET⟩

/-- Whether an identity may write the configuration of something with an owner. -/
def State.mayConfigure (s : State) (q : Req) (o : Ident) : Bool :=
  if o.world then q.world
  else s.mayManage q || (!q.world && q.vmid.toNat == o.vmid && q.locket == 0)

/-! ### QCFG, QOWN, QNADDR (R323-R325) -/

/-- The words of storage a queue's configuration claims. -/
def qSpan (w : DWord) : Nat × Nat := (getF w F.qcfg.BASE, getF w F.qcfg.BASE + 2 ^ getF w F.qcfg.CAP)

/-- A queue's words, claim and held parts discarded. -/
def State.qEmpty (s : State) (t k : Nat) : State :=
  { s with qs := {
      q := s.qs.q.erase (t, k)
      parts := s.qs.parts.keep fun b p => !(b.1 == t && (p.handle.toNat >>> 16) % 512 == k) } }

/-- The reason an enable is refused, the first that applies; 0 for none (R324). -/
def State.qRefused (s : State) (t k : Nat) (w : DWord) : Nat :=
  let sp := qSpan w
  let base := 512 * (16 - s.boot.cfg.split)
  let dm := getF w F.qcfg.KIND = 1
  let other := fun (f : Nat → Nat → DWord → Bool) => s.csr.any fun p => match p.1 with
    | .qcfg a b => !(a.val == t && b.val == k) && getF p.2 F.qcfg.V == 1 && f a.val b.val p.2
    | _ => false
  if other fun a _ v => a == t && decide ((qSpan v).1 < sp.2) && decide (sp.1 < (qSpan v).2) then 1
  else if dm ∧ (sp.1 < base ∨ 8192 < sp.2) ∨ ¬dm ∧ base < sp.2 then 2
  else if sp.1 % 2 ^ getF w F.qcfg.CAP ≠ 0 then 3
  else if dm ∧ other (fun _ _ v => getF v F.qcfg.KIND == 1 && getF v F.qcfg.DMCH == getF w F.qcfg.DMCH) then 4
  else if getF w F.qcfg.NMODE = 3 ∧ !s.physDevice (s.fld (.qnaddr (ix 128 t) (ix 512 k)) F.qnaddr.ADDR * 4) then 5
  else 0

/-- The fields of QCFG that a write changes while V = 1. -/
def qLive : List Place :=
  [F.qcfg.V, F.qcfg.KEY, F.qcfg.NMODE, F.qcfg.NCORE, F.qcfg.NLVL, F.qcfg.NPRIO]

/-- What a write makes of QCFG before its checks. A level that the queue's world lacks keeps the old one (R310); the world
is the one of the owner that KIND and DMCH give with this write, which leaves both as they are while V = 1 (R323, log
entry 105). -/
def State.qcfgWord (s : State) (q : Req) (t k : Nat) (mask v : DWord) : DWord :=
  let r := Reg.qcfg (ix 128 t) (ix 512 k)
  let old := s.reg r
  let w := writeFields r.fields q.world mask old v
  let o := (s.setReg r (if getF old F.qcfg.V = 1 then old else w)).qOwner t k
  keepIf (s.levelOk o.world) F.qcfg.NLVL old w

/-- A write of QSs.QCFGk. -/
def State.qcfgSet (s : State) (q : Req) (t k : Nat) (mask v : DWord) : State :=
  let r := Reg.qcfg (ix 128 t) (ix 512 k)
  let old := s.reg r
  if !s.mayConfigure q (s.qOwner t k) then s
  else
    let w := s.qcfgWord q t k mask v
    if getF old F.qcfg.V = 1 then
      let w := qLive.foldl (fun u p => setF u p (getF w p)) old
      if getF w F.qcfg.V = 0 then (s.qEmpty t k).setReg r w else s.setReg r w
    else if getF w F.qcfg.V = 1 then
      let e := s.qRefused t k w
      (s.setReg r (setF w F.qcfg.V (b2n (e == 0)))).setFld (.qstat (ix 128 t) (ix 512 k)) F.qstat.CFGERR e
    else (s.qEmpty t k).setReg r w

def execQcfgWrite (r : Req) (t : BitVec 7) (k : BitVec 9) (value : BitVec 64) (s : State) :
    Host.Outcome State Fault Refusal :=
  .next (s.access r (.qcfg (ix 128 t.toNat) (ix 512 k.toNat)) fun s =>
    s.qcfgSet r t.toNat k.toNat (BitVec.allOnes 64) value)

/-- A write of QOWN or QNADDR. -/
def State.qownSet (s : State) (q : Req) (t k : Nat) (r : Reg) (mask v : DWord) : State :=
  let o := s.qOwner t k
  let ok := if o.world then q.world
            else s.mayManage q && !s.flag (.qcfg (ix 128 t) (ix 512 k)) F.qcfg.V
  if ok then s.writeReg r q.world mask v else s

/-! ### Routing entries (R308-R310) -/

/-- The vectors an entry may hold (R302, R308). -/
def vecOk : IntSrc → Nat → Bool
  | .io _ _, v => decide (32 ≤ v)
  | .stw k, v => if k.toNat < 2 then v == 6 else decide (32 ≤ v)

/-- A write of one half of a routing entry. -/
def State.routeSet (s : State) (q : Req) (src : IntSrc) (hi : Bool) (mask v : DWord) : State :=
  let rl := (srcRegs src).1; let rh := (srcRegs src).2
  let old := s.reg rl
  let ok := if getF old F.stwIntLo.WORLD = 1 then q.world else s.mayManage q
  if !ok then s.setFld rh F.stwIntHi.DENIED 1
  else if hi then s.writeReg rh q.world mask v
  else
    let w := keepIf (vecOk src) F.stwIntLo.VECTOR old (writeFields rl.fields q.world mask old v)
    s.setReg rl (keepIf (s.levelOk (getF w F.stwIntLo.WORLD == 1)) F.stwIntLo.LEVEL old w)

def execRoutingEntryWrite (r : Req) (src : IntSrc) (hi : Bool) (value : BitVec 64) (s : State) :
    Host.Outcome State Fault Refusal :=
  .next (s.access r (srcRegs src).1 fun s => s.routeSet r src hi (BitVec.allOnes 64) value)

/-! ### Gather counters (R319, R320) -/

/-- A write of STW.GATHERk. -/
def State.gatherSet (s : State) (q : Req) (k : Nat) (mask v : DWord) : State :=
  let r := Reg.gather (ix 64 k)
  let old := s.reg r
  if getF old F.gather.WORLD = 1 ∧ !q.world then s
  else
    let w := writeFields r.fields q.world mask old v
    s.setReg r (keepIf (s.levelOk (getF w F.gather.WORLD == 1)) F.gather.NLVL old w)

/-- An acknowledgement: a store to STW.GACKk. -/
def State.gatherAck (s : State) (q : Req) (k : Nat) : State :=
  let r := Reg.gather (ix 64 k)
  let w := s.reg r
  let n := getF w F.gather.COUNT
  if getF w F.gather.WORLD = 1 ∧ !q.world ∨ n = 0 then s
  else
    let s := s.setFld r F.gather.COUNT (n - 1)
    if n = 1 ∧ getF w F.gather.ZIE = 1 then
      s.sendInt stwStop (getF w F.gather.NCORE) (getF w F.gather.WORLD == 1) 8 (getF w F.gather.NPRIO)
        (getF w F.gather.NLVL)
    else s

def execGatherAck (r : Req) (k : BitVec 6) (s : State) : Host.Outcome State Fault Refusal :=
  .next (s.access r (.gack (ix 64 k.toNat)) fun s => s.gatherAck r k.toNat)

/-! ### Data Mover channel registers (R338, R339, R344) -/

/-- The owner of a channel. -/
def State.chanOwner (s : State) (ch : Nat) : Ident :=
  let w := s.reg (.dmAttr (ix 2 (ch / 32)) (ix 32 ch))
  ⟨getF w F.dmAttr.WORLD == 1, getF w F.dmAttr.VMID, getF w F.dmAttr.LOCKET⟩

/-- A write of DMd.CHc_CTL: an enable with a queue that is not the channel's fails; a write of 1 to HALTED resumes. -/
def State.chanSet (s : State) (q : Req) (ch : Nat) (mask v : DWord) : State :=
  let r := Reg.dmCtl (ix 2 (ch / 32)) (ix 32 ch)
  let old := s.reg r
  if !s.mayConfigure q (s.chanOwner ch) then s
  else
    let w := writeFields r.fields q.world mask old v
    let s := s.setReg r w
    if getF w F.dmCtl.EN = 1 ∧ (getF old F.dmCtl.EN = 0 ∨ getF w F.dmCtl.SQ ≠ getF old F.dmCtl.SQ) ∧ (s.sqOf ch).isNone
    then (s.setFld r F.dmCtl.EN 0).setFld r F.dmCtl.ERR 1
    else s

def chanOf (d : Fin 2) (c : BitVec 5) : Nat := 32 * d.val + c.toNat

def execDmChannelEnable (r : Req) (d : Fin 2) (c : BitVec 5) (sq : BitVec 32) (s : State) :
    Host.Outcome State Fault Refusal :=
  .next (s.access r (.dmCtl d (ix 32 c.toNat)) fun s =>
    s.chanSet r (chanOf d c) (maskF F.dmCtl.SQ ||| maskF F.dmCtl.EN) (dw (sq.toNat * 2 ^ 32 + 1)))
def execDmChannelDisable (r : Req) (d : Fin 2) (c : BitVec 5) (s : State) : Host.Outcome State Fault Refusal :=
  .next (s.access r (.dmCtl d (ix 32 c.toNat)) fun s => s.chanSet r (chanOf d c) (maskF F.dmCtl.EN) 0)
def execDmChannelResume (r : Req) (d : Fin 2) (c : BitVec 5) (s : State) : Host.Outcome State Fault Refusal :=
  .next (s.access r (.dmCtl d (ix 32 c.toNat)) fun s =>
    s.chanSet r (chanOf d c) (maskF F.dmCtl.HALTED) (maskF F.dmCtl.HALTED))

/-- A write of DMd.CHc_XLAT: the manager and the trusted world, or the trusted world alone for its channels. -/
def State.xlatSet (s : State) (q : Req) (ch : Nat) (mask v : DWord) : State :=
  let ok := if (s.chanOwner ch).world then q.world else s.mayManage q
  if ok then s.writeReg (.dmXlat (ix 2 (ch / 32)) (ix 32 ch)) q.world mask v else s

/-- A write of DMd.TINV. Every access is performed in its own step, so a read of TINV returns 0. -/
def State.dmTinv (s : State) (d : Nat) : State := { s with dm := { s.dm with tlb := s.dm.tlb.erase d } }

def execDmTinv (r : Req) (d : Fin 2) (s : State) : Host.Outcome State Fault Refusal :=
  .next (s.access r (.dmTinv d) fun s => s.dmTinv d.val)

end Sys2Proof.Machine
end

