-- ==== Sys2Proof/Machine/Clasp.lean ====
section
/-! DEFINITION. Root ports: links (R367, R372, R490), clasp (R380, R381), and the writes of port registers that have
rules of their own (R371, R377, R381-R384, R388, R462). -/

namespace Sys2Proof.Machine

/-- REASON of a trigger. -/
def claspCode : ClaspReason → Nat
  | .surpriseDown => 2 | .uncorrectable => 3 | .errFatal => 4 | .atsTimeout => 5 | .software => 6

/-- The link goes down. -/
def State.rpDown (s : State) (p r : Nat) : State :=
  (s.onRp p r fun k => { k with link := .down }).setFld (rClasp p r) F.clasp.LINKUP 0

/-- The answer to a request that has gone out and was not completed: a read returns all ones (R380). -/
def Answer.ones : Answer → Answer
  | .data g _ fs => .data g 0 (fs.map fun _ => BitVec.allOnes 256)
  | a => a

/-- Clasp entry (R380): requests outstanding at the link are answered and counted, the entry is recorded; for an error
the device is reset and its link trains again. -/
def State.claspEnter (s : State) (p r : Nat) (why : ClaspReason) (down : Bool) : State :=
  if !s.isRp p r ∨ s.clasped p r then s
  else
    let c := rClasp p r
    let n := (s.rp p r).open_.length
    let s := (s.rp p r).open_.foldl (fun s k => s.reanswer k Answer.ones) s
    let s := s.onRp p r fun k => { k with open_ := [], cut := true }
    let s := (s.setFld c F.clasp.CLASPED 1).setFld c F.clasp.REASON (claspCode why)
    let s := s.setFld c F.clasp.DROPPED (min (s.fld c F.clasp.DROPPED + n) 65535)
    let s := if down ∨ why ≠ .software then s.rpDown p r else s
    s.logErr { bank := 144 + p, cls := 0x31, sev := 2, src := r }

def execSurpriseLinkDown (p : BitVec 3) (rp : BitVec 2) (s : State) : Host.Outcome State Fault Refusal :=
  .next (if s.isRp p.toNat rp.toNat ∧ (s.rp p.toNat rp.toNat).link ≠ .down then
      (s.claspEnter p.toNat rp.toNat .surpriseDown true).rpDown p.toNat rp.toNat
    else s)
def execRootPortUncorrectable (p : BitVec 3) (rp : BitVec 2) (s : State) : Host.Outcome State Fault Refusal :=
  .next (s.claspEnter p.toNat rp.toNat .uncorrectable false)
def execErrFatal (p : BitVec 3) (rp : BitVec 2) (s : State) : Host.Outcome State Fault Refusal :=
  .next (s.claspEnter p.toNat rp.toNat .errFatal false)
/-- A software Link Disable takes the link down (R380). -/
def execLinkDisable (p : BitVec 3) (rp : BitVec 2) (s : State) : Host.Outcome State Fault Refusal :=
  .next (if s.isRp p.toNat rp.toNat then (s.claspEnter p.toNat rp.toNat .software true).rpDown p.toNat rp.toNat else s)

/-- A write of IOp.CLASPr, with a trigger that falls in the same cycle (R381). -/
def State.claspSet (s : State) (p r : Nat) (force release : Bool) (trigger : Option ClaspReason) : State :=
  let c := rClasp p r
  if !s.isRp p r then s
  else
    let trigger := match trigger with
      | some t => some t
      | none => if force then some .software else none
    if !release then match trigger with
      | some t => s.claspEnter p r t false
      | none => s
    else match trigger with
      | some t =>
        -- in clasp already, the trigger takes the link down as an entry would
        let s := if s.clasped p r then
            let s := s.setFld c F.clasp.REASON (claspCode t)
            if t = .software then s else s.rpDown p r
          else s.claspEnter p r t false
        s.setFld c F.clasp.STATUS 2
      | none =>
        if s.flag c F.clasp.LINKUP then
          ((s.setFld c F.clasp.CLASPED 0).setFld c F.clasp.STATUS 0).setFld c F.clasp.DROPPED 0
        else s.setFld c F.clasp.STATUS 1

def execForce (r : Req) (p : BitVec 3) (rp : BitVec 2) (s : State) : Host.Outcome State Fault Refusal :=
  .next (s.access r (rClasp p.toNat rp.toNat) fun s => s.claspSet p.toNat rp.toNat true false none)
def execRelease (r : Req) (p : BitVec 3) (rp : BitVec 2) (trigger : Option ClaspReason) (s : State) :
    Host.Outcome State Fault Refusal :=
  .next (s.access r (rClasp p.toNat rp.toNat) fun s => s.claspSet p.toNat rp.toNat false true trigger)

/-! ### Links (R372, R404, R490) -/

/-- A link narrows after its idle time, where the register allows it; an endpoint port's link has no register of its own, and
its host decides. -/
def execL0pIdleExpiry (p : BitVec 3) (rp : BitVec 2) (s : State) : Host.Outcome State Fault Refusal :=
  let k := s.rp p.toNat rp.toNat
  .next (if s.isRp p.toNat rp.toNat then
      if k.link = .l0 ∧ k.open_ = [] ∧ s.flag (.rpCtl (ix 8 p.toNat) (ix 4 rp.toNat)) F.rpCtl.L0P_EN then
        s.onRp p.toNat rp.toNat fun k => { k with link := .l0p }
      else s
    else if s.role p.toNat = .endpoint ∧ (s.port p.toNat).ep.link = .l0 ∧ (s.port p.toNat).ep.out = [] then
      s.onPort p.toNat fun i => { i with ep := { i.ep with link := .l0p } }
    else s)

/-- The state a link enters after its L1 idle time: L1.2 where it is allowed and both ends support it, which is free, else L1
or its substate L1.1 (log entry 130). -/
def l1Kind (l12 : Bool) (w : DWord) : LinkState :=
  if l12 && w.getLsbD 0 then .l12 else if w.getLsbD 1 then .l11 else .l1

def execL1IdleExpiry (p : BitVec 3) (rp : BitVec 2) (s : State) : Host.Outcome State Fault Refusal :=
  let k := s.rp p.toNat rp.toNat
  let c := Reg.rpCtl (ix 8 p.toNat) (ix 4 rp.toNat)
  let e := (s.port p.toNat).ep
  .next (if s.isRp p.toNat rp.toNat then
      if (k.link = .l0 ∨ k.link = .l0p) ∧ k.open_ = [] ∧ s.flag c F.rpCtl.L1_EN then
        let (w, s) := s.fresh
        s.onRp p.toNat rp.toNat fun k => { k with link := l1Kind (s.flag c F.rpCtl.L12_EN) w }
      else s
    else if s.role p.toNat = .endpoint ∧ (e.link = .l0 ∨ e.link = .l0p) ∧ e.out = [] then
      let (w, s) := s.fresh
      s.onPort p.toNat fun i => { i with ep := { i.ep with link := l1Kind true w } }
    else s)

/-- Whether a link is in L1 or a substate. -/
def LinkState.sleeps : LinkState → Bool
  | .l1 | .l11 | .l12 => true
  | _ => false

/-- Link activity on a root port in L1 wakes the port's domain (R404). -/
def execLinkActivityWake (p : BitVec 3) (s : State) : Host.Outcome State Fault Refusal :=
  .next (if s.role p.toNat = .root ∧ (s.port p.toNat).rps.any (fun k => k.2.link.sleeps) then s.wake (domIo p.toNat)
         else s)

/-- IOp_PERST_L of a root port goes high once phase 4 has ended, or in a warm reset; its link then trains (R490). -/
def execRootPortPerstRelease (p : BitVec 3) (rp : BitVec 2) (s : State) : Host.Outcome State Fault Refusal :=
  let k := (p.toNat, rp.toNat)
  .next (if s.isRp p.toNat rp.toNat ∧ 4 < s.fld .stwBootstat F.stwBootstat.PHASE ∧ !s.flag .stwBootstat F.stwBootstat.RCVR ∧ !s.boot.pins.perstHigh.contains k
         then { s with boot := { s.boot with pins := { s.boot.pins with perstHigh := s.boot.pins.perstHigh ++ [k] } } }
         else s)

/-! ### Registers of an I/O stop (R377, R383, R384, R388, R462) -/

/-- A write by the manager or the trusted world. -/
def State.managedSet (s : State) (q : Req) (r : Reg) (mask v : DWord) : State :=
  if s.mayManage q then s.writeReg r q.world mask v else s

/-- ICQ_BASE keeps its value while the ring is not empty (R377). -/
def State.icqBaseSet (s : State) (q : Req) (p : Nat) (mask v : DWord) : State :=
  if s.fld (.icqHead (ix 8 p)) F.icqHead.INDEX = s.fld (.icqTail (ix 8 p)) F.icqTail.INDEX
  then s.managedSet q (.icqBase (ix 8 p)) mask v else s

/-- A write of 1 to BADOP skips the command at HEAD (R376, R377). -/
def State.icqStatSet (s : State) (q : Req) (p : Nat) (mask v : DWord) : State :=
  let r := Reg.icqStat (ix 8 p)
  if s.mayManage q ∧ s.flag r F.icqStat.BADOP ∧ getF (mask &&& v) F.icqStat.BADOP = 1 then
    let h := Reg.icqHead (ix 8 p)
    (s.setFld r F.icqStat.BADOP 0).setFld h F.icqHead.INDEX ((s.fld h F.icqHead.INDEX + 1) % 256)
  else s

def execIcqSkip (r : Req) (p : BitVec 3) (s : State) : Host.Outcome State Fault Refusal :=
  .next (s.access r (.icqStat (ix 8 p.toNat)) fun s =>
    s.icqStatSet r p.toNat (maskF F.icqStat.BADOP) (maskF F.icqStat.BADOP))

/-- Whether host accesses through BAR2 and the expansion ROM of a function are answered (R32, R384, R389, R458). -/
def State.hostOpen (s : State) (p f : Nat) : Bool :=
  s.epFunc p f && s.flag (.epStat (ix 8 p)) F.epStat.LINKUP && (s.port p).ep.winOpen && s.sec.fatal == 0 &&
    !(s.port p).ep.resetting.getLsbD f

/-- The identity of a window, from its word C (R384, R462). -/
def State.winIdent (s : State) (c : DWord) : Ident :=
  ⟨getF c F.epWinC.WORLD == 1, if s.iso = .lk then 0 else getF c F.epWinC.VMID, getF c F.epWinC.LOCKET⟩

/-- The MSI-X vectors of a function (R382). -/
def State.epVecs (s : State) (p f : Nat) : Nat :=
  if f = 0 then 32 else if f ≤ s.fld (.epStat (ix 8 p)) F.epStat.NUMVF then 4 else 0

/-- A chip-side write of IOp.EP_MSIX (R383, R458). -/
def State.epMsix (s : State) (q : Req) (p f v : Nat) : State :=
  if s.mayManage q ∧ v < s.epVecs p f then s.msixSend p f v else s

def execEpMsixSend (r : Req) (p : BitVec 3) (func vec : BitVec 5) (s : State) : Host.Outcome State Fault Refusal :=
  .next (s.access r (.epMsix (ix 8 p.toNat)) fun s => s.epMsix r p.toNat func.toNat vec.toNat)

/-- EP_CFG is writable only while the link is down (R388). -/
def State.epCfgSet (s : State) (q : Req) (p : Nat) (mask v : DWord) : State :=
  if s.flag (.epStat (ix 8 p)) F.epStat.LINKUP then s else s.managedSet q (.epCfg (ix 8 p)) mask v

/-- A write of a window word: a trusted window takes the trusted world's writes only; a non-zero LOCKET is accepted from
the trusted world only (R325, R388, R462). -/
def State.epWinSet (s : State) (q : Req) (p k : Nat) (r : Reg) (mask v : DWord) : State :=
  let c := Reg.epWinC (ix 8 p) (ix 1024 k)
  let ok := if s.flag c F.epWinC.WORLD then q.world else s.mayManage q
  if !ok then s
  else
    let old := s.reg r
    let w := writeFields r.fields q.world mask old v
    s.setReg r (if r = c then keepIf (fun l => q.world || l == 0) F.epWinC.LOCKET old w else w)

end Sys2Proof.Machine
end

