-- ==== Sys2Proof/Machine/Stats.lean ====
section
/-! DEFINITION. Mesh statistics (R268, R269). -/

namespace Sys2Proof.Machine

/-- The end of a window: live counts copied and cleared. -/
def State.statEnd (s : State) : State :=
  let s := (List.range 272).foldl (fun s i =>
    let f := fun (s : State) (b : Nat) => s.setReg (.statHist (ix 272 i) (ix 8 b)) (dw (s.liveCt i (2 + b)))
    ((List.range 8).foldl f ((((s.setReg (.statReq (ix 272 i)) (dw (s.liveCt i 0))).setReg (.statBytes (ix 272 i))
      (dw (s.liveCt i 1))).setReg (.statMax (ix 272 i)) (dw (s.liveCt i 10))).setReg (.statTmo (ix 272 i))
      (dw (s.liveCt i 11))))) s
  ({ s with mesh := { s.mesh with live := [] } }).countWrap .statSeq F.statSeq.SEQ

/-- WINDOW µs have passed; with WINDOW = 0 no window ends by time. -/
def execStatWindowEnd (s : State) : Host.Outcome State Fault Refusal :=
  .next (if s.fld .statCtl F.statCtl.WINDOW = 0 then s else s.statEnd)

def execStatSnap (r : Req) (s : State) : Host.Outcome State Fault Refusal :=
  .next (s.access r .statCtl fun s => s.statEnd)

end Sys2Proof.Machine
end

