-- ==== Sys2Proof/Machine/Rtu.lean ====
section
/-! DEFINITION. Rack time (R410-R416), the Lamplighter (R417-R423), Steady Draw (R424-R428), cluster frequency (R455)
and the telemetry readings (R444). A row that happens at an instant of rack time brings RTCNT to that instant (log
entry 16). -/

namespace Sys2Proof.Machine

/-- What is left of the measured offset after some ns of slewing: at most SLEW_MAX goes, and how much is free. Only ACQUIRE
and LOCKED slew (R414). -/
def State.slewed (s : State) (ns : Nat) : State :=
  let st := s.fld .rtuStatus F.rtuStatus.STATE
  if s.rtu.left = 0 ∨ (st ≠ 1 ∧ st ≠ 2) then s
  else
    let (w, s) := s.fresh
    let most := min s.rtu.left.natAbs (ns * s.fld .rtuCtl F.rtuCtl.SLEW_MAX * 65536 / 1000000)
    let d : Int := w.toNat % (most + 1)
    { s with rtu := { s.rtu with left := if 0 < s.rtu.left then s.rtu.left - d else s.rtu.left + d } }

/-- RTCNT brought forward to an instant; it never decreases (R410). -/
def State.reach (s : State) (t : DWord) : State :=
  if s.rtu.cnt < t then
    let s := s.slewed (t - s.rtu.cnt).toNat
    { s with rtu := { s.rtu with cnt := t, frac := 0 } }
  else s

/-! ### Limits and frequency (R425, R428, R442, R455) -/

/-- CAP in W: the lowest of the package power setting, TLIM and DLIM. -/
def State.cap (s : State) : Nat := min s.ras.pkg (min (s.ras.tlim.getD s.ras.pkg) (s.ras.dlim.getD s.ras.pkg))

def sdUnit : Nat := 10000000

def State.sdParams (s : State) : Nat :=
  (s.reg (.rtuSdParam 0)).toNat + (s.reg (.rtuSdParam 1)).toNat * 2 ^ 64 + (s.reg (.rtuSdParam 2)).toNat * 2 ^ 128 +
    (s.reg (.rtuSdParam 3)).toNat * 2 ^ 192
/-- Field of SD.PARAMS at a byte offset (R424). -/
def State.sdField (s : State) (off n : Nat) : Nat := (s.sdParams >>> (8 * off)) % 2 ^ (8 * n)
def State.sdFlag (s : State) (i : Nat) : Bool := (s.sdField 0 1).testBit i

/-- The granted budget G in units of 10^-7 W: CAP with EN = 0 (R425). -/
def State.sdGranted (s : State) : Nat := if s.sdFlag 0 then s.rtu.g else s.cap * sdUnit

/-- The frequency that the granted budget allows a cluster, in the range of R24: at least 2,500 MHz at the 520 W setting
while no thermal or droop action is in force and G equals CAP (R27). -/
def State.budgetFreq (s : State) (cl : Nat) : Nat :=
  let f := max 800 (min 3700 (Config.budgetMHz s.sdGranted cl))
  if s.ras.pkg = 520 ∧ s.ras.tlim = none ∧ s.ras.dlim = none ∧ s.sdGranted = s.cap * sdUnit then max 2500 f else f

/-- The clock of a cluster in MHz (R455), halved during a droop event (R442). -/
def State.freqOf (s : State) (cl : Nat) : Nat :=
  let g := s.budgetFreq cl
  let f := min (min 3700 (s.rtu.freq.getD cl 3700))
    (min (min (s.ras.thermCeil.getD cl 3700) (s.ras.droopCeil.getD cl 3700)) g)
  if s.ras.drooping.contains cl then f / 2 else f

/-- The supply that a cluster needs at a frequency, in mV, with 10 mV for each slow tile reported (R443). -/
def State.supplyAt (s : State) (cl mhz : Nat) : Nat :=
  Config.supply cl mhz + 10 * ((s.ras.slow.filter fun t => clusterOf t == cl).length)

/-- The steps of a supply change, as supply and the supply whose row gives the bias: first the bias of the lower one, then
the supply, then its own bias. A frequency increase follows the last (R409). -/
def supplySteps (old new : Nat) : List (Nat × Nat) := [(old, min old new), (new, min old new), (new, new)]

/-- A cluster's supply and the supply whose row of R409 gives the bias: those of its frequency, or a step of the change to
the higher supply that a FREQ action is about to need (R419). -/
def State.volts (s : State) (cl : Nat) : Nat × Nat :=
  let now := s.supplyAt cl (s.freqOf cl)
  match s.rtu.ahead.find cl with
  | none => (now, now)
  | some (mhz, step) =>
    let new := s.supplyAt cl (max (s.freqOf cl) mhz)
    (supplySteps now new).getD step (new, new)
def State.supplyOf (s : State) (cl : Nat) : Nat := (s.volts cl).1

/-! ### Body bias and array assists (R409) -/

/-- What the power controller applies to a domain: body bias in mV, forward positive; array supply in mV, none where it is
the logic supply; read and write assist. -/
structure Bias where
  body : Int
  sram : Option Nat
  readAssist : Bool
  writeAssist : Bool
deriving DecidableEq, Repr

/-- The row of a domain that is ON, by its cluster's supply in mV. -/
def Bias.on (mv : Nat) : Bias :=
  if 800 ≤ mv then ⟨0, none, false, false⟩ else if 700 ≤ mv then ⟨50, none, false, true⟩ else ⟨100, some 750, true, true⟩

def Bias.ret : Bias := ⟨-300, some 550, false, false⟩

/-- The settings of a domain: none when it is OFF, where the bias is not driven and the arrays are unpowered, and none for a
domain of the I/O die that is ON, to which the table gives no row. -/
def State.bias (s : State) (n : Nat) : Option Bias :=
  match s.dstate n with
  | 0 => none
  | 1 => some Bias.ret
  | _ => if n < 384 then some (Bias.on (s.volts (clusterOf (if n < 256 then n / 2 else n - 256))).2) else none

/-! ### Telemetry (R444) -/

def centiwatt (n : Nat) : DWord := dw (n / 100000)

/-- A reading; beyond a class's last index 0. -/
def State.telemetry (s : State) (cls i : Nat) : DWord :=
  let r := s.ras.read.getD (cls, i) 0
  match cls with
  | 0 => if i < 256 then r else 0
  | 1 => if i < 32 then r else 0
  | 2 => if i < 16 then r else 0
  | 3 => if i < 128 then dw (r.toNat % 2 ^ 32 * 2 ^ 32 + s.boot.fuses.ringZero.getD i 0 % 2 ^ 32) else 0
  | 4 => match i with
    | 0 => centiwatt s.rtu.power
    | 1 => centiwatt s.rtu.g
    | 2 => centiwatt s.rtu.f
    | 3 => dw (100 * s.cap)
    | 4 => match s.ras.tlim with | some w => dw (100 * w) | none => Config.unboundLimit 0
    | 5 => match s.ras.dlim with | some w => dw (100 * w) | none => Config.unboundLimit 1
    | 6 => dw (100 * s.ras.pkg)
    | _ => 0
  | 5 => if i < 16 then dw (s.freqOf i) else 0
  | 6 => if i < 16 then dw (s.supplyOf i) else 0
  | _ => 0

/-- Every reading, by class and index. -/
def telemetryKeys : List (Nat × Nat) :=
  [(0, 256), (1, 32), (2, 16), (3, 128), (4, 7), (5, 16), (6, 16)].flatMap fun p => (List.range p.2).map fun i => (p.1, i)

/-- SNAPSHOT with ARG[1] = 1 (R423). -/
def State.snapshot (s : State) : State :=
  let bank := telemetryKeys.map fun k => (k, s.telemetry k.1 k.2)
  (({ s with rtu := { s.rtu with snap := bank } }).setReg .rtuSnaptime s.now).setReg .rtuSnapseq
    (s.reg .rtuSnapseq + 1)

/-! ### The Lamplighter -/

abbrev rLl (k : Nat) : Reg := .llCtl (ix 512 k)
def State.llV (s : State) (k : Nat) : Bool := s.flag (rLl k) F.llCtl.V

/-- Lowers the state or clock of a block the trusted world marks (R299, R420). -/
def State.llLowers (s : State) (act tgt arg : Nat) : Bool :=
  match act with
  | 1 => decide (tgt < 417) && s.twused tgt && (arg % 4 == 0 || arg % 4 == 1)
  | 2 => decide (tgt < 16) && s.cdTwused (3 + tgt) && decide (arg % 4096 < s.rtu.freq.getD tgt 3700)
  | _ => false

/-- Whether a firing is skipped (R420). -/
def State.llSkips (s : State) (k act tgt : Nat) (arg : DWord) : Bool :=
  let normal := decide (k < 480)
  let a := arg.toNat
  (normal && s.llLowers act tgt a) ||
  match act with
  | 1 => decide (417 ≤ tgt) || a % 4 == 2
  | 2 => decide (16 ≤ tgt) || !(decide (800 ≤ a % 4096) && decide (a % 4096 ≤ 3700) && a % 4096 % 25 == 0)
  | 3 | 4 => decide (16 ≤ tgt)
  | 5 => false
  | 6 => decide (tgt < 16) || decide (256 ≤ tgt) || (normal && s.flag (.stwIntLo (ix 256 tgt)) F.stwIntLo.WORLD)
  | 7 => decide (256 ≤ tgt) || !s.levelOk (!normal) (a % 4)
  | 8 => normal || !(decide (380 ≤ a % 65536) && decide (a % 65536 ≤ 700))
  | _ => true

/-- The effect of an action at its instant (R418). -/
def State.llAct (s : State) (k act tgt : Nat) (arg : DWord) : State :=
  let a := arg.toNat
  let width := a >>> 32
  match act with
  | 1 =>
    let r := rDom tgt
    let w := s.rtu.widths.filter (· != tgt)
    let release := a.testBit 2
    let s := { s with rtu := { s.rtu with widths := if width = 0 ∨ release then w else w ++ [tgt] } }
    let s := (s.setFld r F.dom.SCHED (a % 4)).setFld r F.dom.SCHED_V (if release then 0 else 1)
    s.callUp tgt
  | 2 => { s with rtu := { s.rtu with freq := s.rtu.freq.set tgt (a % 4096), ahead := s.rtu.ahead.erase tgt } }
  | 3 => { s with mc := s.mc.upd tgt McState.reset fun m => { m with refWin := decide (0 < width) } }
  | 4 => { s with mc := s.mc.upd tgt McState.reset fun m => { m with scrubWin := decide (0 < width) } }
  | 5 =>
    let s := if a.testBit 1 then s.snapshot else s
    if a.testBit 0 then s.statEnd else s
  | 6 => s.raiseStw tgt
  | 7 => s.sendInt rtuStop tgt (decide (480 ≤ k)) 3 ((a >>> 2) % 16) (a % 4)
  | 8 => { s with ras := { s.ras with pkg := a % 65536 } }
  | _ => s

/-- A saturating count. -/
def State.countBy (s : State) (r : Reg) (p : Place) (n : Nat) : State :=
  s.setFld r p (min (s.fld r p + n) (2 ^ (p.1 - p.2 + 1) - 1))

/-- The entry after a firing, performed, skipped or late (R419, R421). -/
def State.llRearm (s : State) (k : Nat) (late : Bool) : State :=
  let d := Reg.llDue (ix 512 k)
  let per := 1000 * s.fld (rLl k) F.llCtl.PERIOD
  let s := { s with rtu := { s.rtu with late := s.rtu.late.filter (· != k) } }
  if per = 0 then s.setFld (rLl k) F.llCtl.V 0
  else
    let due := (s.reg d).toNat + per
    if late ∧ due ≤ s.now.toNat then
      let n := (s.now.toNat - due) / per + 1
      (s.setReg d (dw (due + n * per))).countBy (.llStat (ix 512 k)) F.llStat.SKIPPED n
    else s.setReg d (dw due)

/-- An armed entry fires. -/
def State.llFire (s : State) (k : Nat) (late : Bool) : State :=
  let c := s.reg (rLl k)
  let st := Reg.llStat (ix 512 k)
  let act := getF c F.llCtl.ACTION; let tgt := getF c F.llCtl.TARGET; let arg := s.reg (.llArg (ix 512 k))
  let s := if s.llSkips k act tgt arg then
      let s := s.count st F.llStat.SKIPPED
      if k < 480 ∧ s.llLowers act tgt arg.toNat then s.toLog 0x000A 0 false [dw k] else s
    else (s.llAct k act tgt arg).countWrap st F.llStat.FIRED
  s.llRearm k late

/-- Two entries of one action act on the same object (R418, R422). -/
def sameObject (act a b : Nat) : Bool := act == 5 || act == 8 || a == b

/-- An entry is the lowest armed one due at its instant on its object: such entries apply in ascending number (R422). -/
def State.llFirst (s : State) (k act : Nat) : Bool :=
  (List.range k).all fun j =>
    !(s.llV j && s.fld (rLl j) F.llCtl.ACTION == act && s.reg (.llDue (ix 512 j)) == s.reg (.llDue (ix 512 k)) &&
      sameObject act (s.fld (rLl j) F.llCtl.TARGET) (s.fld (rLl k) F.llCtl.TARGET) && !s.rtu.late.contains j)

/-- The firing of an armed entry with the action of a row: it was armed late, or its DUE is reached, when it comes after
the lower-numbered ones due with it. -/
def State.llDueRow (s : State) (k act : Nat) : State :=
  if s.llV k ∧ s.fld (rLl k) F.llCtl.ACTION = act then
    if s.rtu.late.contains k then s.llFire k true
    else if !s.llFirst k act then s
    else (s.reach (s.reg (.llDue (ix 512 k)))).llFire k false
  else s

def execPower (k : BitVec 9) (s : State) : Host.Outcome State Fault Refusal := .next (s.llDueRow k.toNat 1)
def execFreq (k : BitVec 9) (s : State) : Host.Outcome State Fault Refusal := .next (s.llDueRow k.toNat 2)
def execRefresh (k : BitVec 9) (s : State) : Host.Outcome State Fault Refusal := .next (s.llDueRow k.toNat 3)
def execScrub (k : BitVec 9) (s : State) : Host.Outcome State Fault Refusal := .next (s.llDueRow k.toNat 4)
def execSnapshot (k : BitVec 9) (s : State) : Host.Outcome State Fault Refusal := .next (s.llDueRow k.toNat 5)
def execRouteInt (k : BitVec 9) (s : State) : Host.Outcome State Fault Refusal := .next (s.llDueRow k.toNat 6)
def execCoreInt (k : BitVec 9) (s : State) : Host.Outcome State Fault Refusal := .next (s.llDueRow k.toNat 7)
def execPkgPower (k : BitVec 9) (s : State) : Host.Outcome State Fault Refusal := .next (s.llDueRow k.toNat 8)

/-- The supply and bias change ahead of a FREQ action that needs a higher supply starts (R409, R419); the step that it has
reached before the action ends it is free. -/
def execFreqSupplyChange (k : BitVec 9) (s : State) : Host.Outcome State Fault Refusal :=
  let c := s.reg (rLl k.toNat)
  let cl := getF c F.llCtl.TARGET
  let mhz := (s.reg (.llArg (ix 512 k.toNat))).toNat % 4096
  .next (if s.llV k.toNat ∧ getF c F.llCtl.ACTION = 2 ∧ !s.llSkips k.toNat 2 cl (s.reg (.llArg (ix 512 k.toNat))) ∧
        s.rtu.freq.getD cl 3700 < mhz then
      let (w, s) := s.fresh
      { s with rtu := { s.rtu with ahead := s.rtu.ahead.set cl (mhz, w.toNat % 3) } }
    else s)

/-- Armed entries that a test picks, in ascending order. -/
def State.llArmed (s : State) (f : Nat → Bool) : List Nat := (List.range 512).filter fun k => s.llV k && f k

/-- Entries that were never given an action are skipped when they fall due (R420); no row names them. -/
def State.llNoAction (s : State) : State :=
  (s.llArmed fun k => s.fld (rLl k) F.llCtl.ACTION == 0 && decide (s.reg (.llDue (ix 512 k)) ≤ s.now)).foldl
    (fun s k => s.llFire k (s.rtu.late.contains k)) s

/-- A write of a Lamplighter register (R417, R421): the late check when V becomes 1 or DUE is written while V = 1. -/
def State.llSet (s : State) (q : Req) (k : Nat) (r : Reg) (mask v : DWord) : State :=
  let ok := if 480 ≤ k then q.world else s.mayManage q
  if !ok then s
  else
    let was := s.llV k
    let s1 := s.setReg r (writeFields r.fields q.world mask (s.reg r) v)
    let arm := (r == rLl k && !was && s1.llV k) || (r == .llDue (ix 512 k) && was)
    if arm then
      let soon := decide ((s1.reg (.llDue (ix 512 k))).toNat ≤ s.now.toNat + 2000)
      let l := s.rtu.late.filter (· != k)
      let s2 := { s1 with rtu := { s1.rtu with late := if soon then l ++ [k] else l } }
      -- one late firing counts once
      if soon ∧ !s.rtu.late.contains k then s2.count (.llStat (ix 512 k)) F.llStat.LATE else s2
    else if !s1.llV k then { s1 with rtu := { s1.rtu with late := s1.rtu.late.filter (· != k) } }
    else s1

/-! ### Discipline (R413, R414) -/

abbrev rSt : Reg := .rtuStatus
def State.anchored (s : State) : Bool := s.flag rSt F.rtuStatus.ANCHORED
def State.rtSource (s : State) : Nat := s.fld .rtuCtl F.rtuCtl.SOURCE

/-- The anchoring jump: entries the new count has passed fire at once and count as late (R413). -/
def State.anchor (s : State) (t : DWord) : State :=
  let up := s.rtu.cnt ≤ t
  let moved := fun (at_ : Option DWord) => at_.map fun p => p + (t - s.rtu.cnt)
  let s := { s with
    rtu := { s.rtu with
      cnt := t, frac := 0, load := none, close := 0, left := 0, pps := moved s.rtu.pps, sync := moved s.rtu.sync }
    boot := { s.boot with pins := { s.boot.pins with syncRise := moved s.boot.pins.syncRise } } }
  let s := (s.setFld rSt F.rtuStatus.ANCHORED 1).setFld rSt F.rtuStatus.STATE (if s.rtSource = 0 then 2 else 1)
  if up then
    (s.llArmed fun k => decide (s.reg (.llDue (ix 512 k)) ≤ t)).foldl (fun s k =>
      if s.llV k then (if s.rtu.late.contains k then s else s.count (.llStat (ix 512 k)) F.llStat.LATE).llFire k true else s) s
  else s

/-- A measured offset after anchoring, signed ns: the states of R414. The learned correction is a free value. -/
def State.discipline (s : State) (off : Int) : State :=
  let sat := max (-(2 ^ 31 - 1)) (min (2 ^ 31 - 1) off)
  let s := s.setFld rSt F.rtuStatus.OFFSET ((sat % 2 ^ 32).toNat)
  let near := decide (off.natAbs ≤ 100)
  let n := if near then s.rtu.close + 1 else 0
  let st := s.fld rSt F.rtuStatus.STATE
  let st' := if 4 ≤ n then 2 else if st = 2 ∧ near then 2 else 1
  let (v, s) := s.fresh
  ({ s with rtu := { s.rtu with close := n, learned := v, left := off * 65536 } }).setFld rSt F.rtuStatus.STATE st'

/-- A write of RTU.LOAD (R413). -/
def State.loadRtu (s : State) (q : Req) (mask v : DWord) : State :=
  if !q.world ∨ s.anchored then s
  else
    let w := (s.reg .rtuLoad &&& ~~~mask) ||| (v &&& mask)
    match s.rtSource with
    | 0 => (s.setReg .rtuLoad w).anchor w
    | 1 => if w.toNat % 1000000000 = 0 then { s.setReg .rtuLoad w with rtu := { s.rtu with load := some w } } else s
    | _ => s

def execRtuLoad (r : Req) (value : BitVec 64) (s : State) : Host.Outcome State Fault Refusal :=
  .next (s.access r .rtuLoad fun s => s.loadRtu r (BitVec.allOnes 64) value)

/-- The next instant at which RTCNT is `frac` ns into a second. -/
def nextIn (now per frac : Nat) : Nat :=
  let base := now / per * per + frac
  if now ≤ base then base else base + per

/-- When the next edge of RT_PPS_IN comes, `f` ns into a second; two edges never come at one instant. -/
def State.ppsAt (s : State) (f : Nat) : Nat :=
  nextIn (if s.rtu.pps = some s.now then s.now.toNat + 1 else s.now.toNat) 1000000000 f

/-- An edge at an instant comes less than 0.5 s after the last accepted one, and is ignored (R492). -/
def State.ppsEarly (s : State) (t : Nat) : Bool :=
  match s.rtu.pps with
  | some p => decide (t < p.toNat + 500000000)
  | none => false

/-- An accepted edge. -/
def State.ppsSeen (s : State) (t : Nat) : State :=
  let s := s.reach (dw t)
  ({ s with rtu := { s.rtu with pps := some (dw t) } }).setFld rSt F.rtuStatus.PPS_OK 1

/-- A rising edge of RT_PPS_IN, `frac` ns into a second of RTCNT (R413, R414, R492). -/
def execRtPpsEdge (frac : BitVec 30) (s : State) : Host.Outcome State Fault Refusal :=
  let f := frac.toNat % 1000000000
  let t := s.ppsAt f
  .next (if s.ppsEarly t then s.reach (dw t) else
    let s := s.ppsSeen t
    if s.rtSource ≠ 1 then s
    else match s.anchored, s.rtu.load with
      | true, _ =>
        (s.setFld rSt F.rtuStatus.REF_OK 1).discipline (if f ≤ 500000000 then (f : Int) else (f : Int) - 1000000000)
      | false, some t => s.anchor t
      | false, none => s)

/-- The Steward accepts a Sync: its Ethernet is up, and transport, domain and VLAN are those of STW.NET (R47, R415). -/
def State.syncOk (s : State) (udp : Bool) (domain vlan : Nat) : Bool :=
  match netIf s.boot.cfg.net with
  | some n => n.udp == udp && n.domain == domain && n.vlan == vlan
  | none => false

/-- A PTP Sync that the Steward accepts (R413-R415). -/
def execPtpSync (sync : PtpMsg) (s : State) : Host.Outcome State Fault Refusal :=
  .next (if s.rtSource ≠ 2 ∨ !s.syncOk sync.udp sync.domain.toNat sync.vlan.toNat then s
    else
      let s := { s.setFld rSt F.rtuStatus.PTP_OK 1 with rtu := { s.rtu with sync := some s.now } }
      if s.anchored then s.discipline ((s.now.toNat : Int) - (sync.time.toNat : Int)) else s.anchor sync.time)

/-- The source of discipline is missing past its limit (R414): RT_REF or the PPS edges, or the Syncs. -/
def execHoldoverEntry (s : State) : Host.Outcome State Fault Refusal :=
  .next (match s.rtSource with
    | 1 =>
      if s.anchored then ({ s with rtu := { s.rtu with close := 0 } }).setFld rSt F.rtuStatus.STATE 3 else s
    | 2 =>
      let s := s.setFld rSt F.rtuStatus.PTP_OK 0
      if s.anchored then ({ s with rtu := { s.rtu with close := 0 } }).setFld rSt F.rtuStatus.STATE 3 else s
    | _ => s)

/-- Whether something came within a time of now. -/
def State.within (s : State) (at_ : Option DWord) (ns : Nat) : Bool :=
  match at_ with
  | some p => decide (s.now.toNat ≤ p.toNat + ns)
  | none => false

/-- What RTU.STATUS reads (R414): PPS_OK falls 1.5 s after the last edge, PTP_OK 3 s after the last Sync, and it reads 0 unless
SOURCE = 2; with SOURCE = 0 no offset is measured. -/
def State.rtStatus (s : State) : DWord :=
  let w := s.reg rSt
  let w := if s.within s.rtu.pps 1500000000 then w else setF w F.rtuStatus.PPS_OK 0
  let w := if s.rtSource = 2 ∧ s.within s.rtu.sync 3000000000 then w else setF w F.rtuStatus.PTP_OK 0
  if s.rtSource = 0 then setF (setF w F.rtuStatus.STATE (if s.anchored then 2 else 0)) F.rtuStatus.OFFSET 0 else w

/-- REF_OK as RT_REF stands: good while it disciplines RTCNT, else a free value, as no row reports the input (log entry
133). -/
def State.refSeen (s : State) : State :=
  let st := s.fld rSt F.rtuStatus.STATE
  if s.rtSource = 1 ∧ s.anchored ∧ (st = 1 ∨ st = 2) then s.setFld rSt F.rtuStatus.REF_OK 1
  else
    let (w, s) := s.fresh
    s.setFld rSt F.rtuStatus.REF_OK (w.toNat % 2)

/-- RT_SYNC_OUT rises at a whole second of RTCNT (R416). -/
def execSyncOutPulse (s : State) : Host.Outcome State Fault Refusal :=
  .next (if s.flag .rtuSyncout F.rtuSyncout.EN then
      let t := nextIn s.now.toNat 1000000000 0
      let s := s.reach (dw t)
      { s with boot := { s.boot with pins := { s.boot.pins with syncRise := some (dw t) } } }
    else s)

/-- One CD1 cycle: RTCNT advances by 1 ns, 2^-16 ns more or less on cycles the discipline selects, and by what slewing adds
or withholds (R410, R414). -/
def State.rtTick (s : State) : State :=
  let (v, s) := s.fresh
  let was := s.rtu.left
  let s := s.slewed 1
  let n := ((s.rtu.cnt.toNat * 65536 + s.rtu.frac.toNat + 65535 + v.toNat % 3 : Int) - (was - s.rtu.left)).toNat
  { s with rtu := { s.rtu with cnt := dw (n / 65536), frac := BitVec.ofNat 16 n } }

/-! ### Steady Draw (R425-R428) -/

/-- Cores that can give filler: ON and waiting; a twin pair gives twice, a fenced twin once (R427, R460). -/
def State.fillerCores (s : State) : Nat :=
  (List.range 256).foldl (fun n c =>
    let k := s.core c
    if s.isOn c ∧ !s.noCore c ∧ (k.run = .wfi ∨ k.run = .wfq) then n + (if s.twin (c / 2) then 2 else 1) else n) 0

/-- Power rounded up to 0.25 W. -/
def quarterUp (n : Nat) : Nat := (n + 2499999) / 2500000 * 2500000

/-- One update, at an instant where RTCNT mod 100 = 0, with the draw the workload would take and the measured power, in
0.01 W. -/
def State.sdUpdate (s : State) (demand power : Nat) : State :=
  let t := (s.now.toNat / 100 + 1) * 100
  let s := s.reach (dw t)
  let d := demand * 100000
  let p := power * 100000
  let s := { s with rtu := { s.rtu with demand := d, power := p } }
  let cap := s.cap * sdUnit
  if !s.sdFlag 0 then { s with rtu := { s.rtu with g := cap, f := 0, filler := 0, ballast := 0 } }
  else
    let pos := fun (sl : Nat × Nat × Nat) => (t + sl.1 - sl.2.1 % sl.1) % sl.1
    let fresh := (s.sdField 4 4, s.sdField 8 4, s.sdField 0xC 4)
    let slot := if s.rtu.slot.1 = 0 ∨ pos s.rtu.slot < 100 then fresh else s.rtu.slot
    let inslot := decide (pos slot < slot.2.2)
    let r := s.rtu
    let up := min (s.sdField 2 2 * 10000) (d - r.g)
    let rep := min up r.debt
    let g := if r.g < d then (if inslot then r.g + (up - rep) else r.g) else d
    let debt := if r.g < d ∧ inslot then r.debt - rep else r.debt
    let g := min g cap
    let n := p - r.filler - r.ballast
    let h := max n (r.h - s.sdField 0x12 2)
    let f := if s.sdFlag 1 then min cap (max (s.sdField 0x10 2 * sdUnit) h) else 0
    let need := f - n
    let fill := if s.sdFlag 3 then min need (min (s.sdField 0x15 1 * sdUnit) (s.fillerCores * 9000000)) else 0
    let rest := need - fill
    let bmax := s.sdField 0x14 1 * sdUnit
    let ball := if s.sdFlag 2 then
        (if n + fill + quarterUp rest ≤ cap then min (quarterUp rest) bmax else min (rest / 2500000 * 2500000) bmax)
      else 0
    let s := { s with rtu := { r with
      g := g, f := f, h := h, debt := debt, filler := fill, ballast := ball, slot := slot } }
    if fill + ball < need then (s.setFld .rtuSdStat F.rtuSdStat.SHORTFALL 1).raiseStw 6 else s

def execSdUpdate (demand power : BitVec 32) (s : State) : Host.Outcome State Fault Refusal :=
  .next (s.sdUpdate demand.toNat power.toNat)

/-- What RTU.SD_STAT reads (R428). -/
def State.sdStat (s : State) : DWord :=
  let r := s.rtu
  let w := setF (s.reg .rtuSdStat) F.rtuSdStat.G (r.g / sdUnit)
  let w := setF w F.rtuSdStat.F (r.f / sdUnit)
  let w := setF w F.rtuSdStat.BALLAST (r.ballast / sdUnit)
  let w := setF w F.rtuSdStat.FILLER (r.filler / sdUnit)
  setF w F.rtuSdStat.DEBT (min (r.debt / sdUnit) 255)

end Sys2Proof.Machine
end

