-- ==== Sys2Proof/Machine/Ras.lean ====
section
/-! DEFINITION. Twin tiles (R438, R439), fences (R446), monitors (R441-R443), in-field test (R445, R459), corrected
summaries (R449). -/

namespace Sys2Proof.Machine

/-! ### Twin tiles and fences -/

/-- A core taken OFF without a state save: its stores are performed and its caches written back first (R181, R446). -/
def State.takeOff (s : State) (n : Nat) : State :=
  let s := ((((s.drain n).flushCore n).dropOwn n).breakClaims fun h => claimDom h == n).lose n
  ({ s with pwr := { s.pwr with saved := s.pwr.saved.erase n } }).powerOffCore n

/-- A core fenced with its domain OFF. In a tile whose other core goes on alone, domain 2t is the survivor's (R439). -/
def State.fenceAny (s : State) (c sev : Nat) : State :=
  let s := s.fence c sev
  s.takeOff (if s.survivor (c / 2) then 2 * (c / 2) + 1 else c)

/-- A handover: the failing core is fenced, the survivor goes on as core 2t with its stores drained (R439). -/
def State.handover (s : State) (c : Nat) : State :=
  let t := c / 2
  let s := (s.fenceAny c 0).drain (2 * t)
  s.logErr { bank := t, cls := 0x04, sev := 0, src := c }

/-- A core of a twin tile fails its ready bits or stops responding (R438). -/
def execTwinCoreStopsResponding (core : BitVec 8) (s : State) : Host.Outcome State Fault Refusal :=
  .next (if s.twin (core.toNat / 2) then s.handover core.toNat else s)

/-- The slice of a tile retired for good: entries moved, ways off, recorded and logged (R447). -/
def State.retireNow (s : State) (t : Nat) : State := s.retireDone t

/-- A tile fenced: both cores, the slice, the queue station (R446). -/
def State.fenceTile (s : State) (t sev : Nat) : State :=
  let s := [2 * t, 2 * t + 1].foldl (fun s c => if s.fencedCore c then s else s.fenceAny c sev) s
  let s := (s.takeOff (2 * t)).takeOff (2 * t + 1)
  let s := s.retireNow t
  let r := Reg.fenceTile (ix 4 (t / 32))
  let s := s.setReg r (s.reg r ||| (1#64 <<< (t % 32)))
  let s := { s with log := { s.log with fences := s.log.fences ++ [(true, t)] } }
  s.toLog 0x0006 sev false [dw t, 1]

/-- A core that is OFF or held in reset. -/
def State.coreOff (s : State) (c : Nat) : Bool := s.dstate c == 0 || (s.core c).run == .held

/-- Cores that are neither disabled nor fenced. -/
def State.unfenced (s : State) : List Nat :=
  (List.range 256).filter fun c => !s.disabled c && !s.fencedCore c && !s.fencedTile (c / 2)

/-- A write of RAS.FENCE_REQ.GO (R446). -/
def State.fenceReq (s : State) (tileKind unfence : Bool) (i : Nat) : State :=
  let r := Reg.fenceReq
  let st := fun (s : State) (v : Nat) => s.setFld r F.fenceReq.STATUS v
  let s := ((s.setFld r F.fenceReq.KIND (b2n tileKind)).setFld r F.fenceReq.UNFENCE (b2n unfence)).setFld r
    F.fenceReq.INDEX i
  if tileKind ∧ 128 ≤ i then st s 3
  else if unfence then
    st ({ s with log := { s.log with unfence := s.log.unfence ++ [(tileKind, i)] } }.toLog 0x0006 0 false
      [dw i, dw (2 + b2n tileKind)]) 0
  else
    let cs := if tileKind then [2 * i, 2 * i + 1] else [i]
    if !(cs.all s.coreOff) ∨ (tileKind ∧ s.retireRefused i) then st s 1
    else if (s.unfenced.filter fun c => !cs.contains c).isEmpty then st s 2
    else st (if tileKind then s.fenceTile i 0 else if s.fencedCore i then s else s.fenceAny i 0) 0

def execFenceRequest (r : Req) (tileKind unfence : Bool) (index : BitVec 8) (s : State) :
    Host.Outcome State Fault Refusal :=
  .next (s.access r .fenceReq fun s => if r.world then s.fenceReq tileKind unfence index.toNat else s)

/-! ### Thermal monitors (R441) -/

def State.centi (s : State) (k : Nat × Nat) : Int := (s.ras.read.getD k 0).toInt

/-- The sensors of a cluster, as telemetry keys. -/
def clusterSensors (cl : Nat) : List (Nat × Nat) :=
  ((List.range 256).filter fun i => clusterOf (i / 2) == cl).map fun i => (0, i)
def allSensors : List (Nat × Nat) :=
  ((List.range 256).map fun i => (0, i)) ++ ((List.range 32).map fun i => (1, i))

/-- Every sensor of a list reads below a limit in 0.01 °C. -/
def State.allBelow (s : State) (l : List (Nat × Nat)) (lim : Int) : Bool := l.all fun k => decide (s.centi k < lim)

/-- The thermal trip: recorded as fatal, so that R434 logs it; every domain switch but 416 opens, and the chip stops until
PWROK is cycled. -/
def State.thermTrip (s : State) : State :=
  let s := (s.record { bank := 160, cls := 0x50, sev := 3 }).2
  let s := (List.range 416).foldl (fun s n => s.setReg (rDom n) (rDom n).reset) s
  let s := { s with
    cores := s.cores.mapV fun _ k => { k with run := .held }
    pwr := { s.pwr with entry := [], waking := [], wakeReq := [] } }
  { s with boot := { s.boot with pins := { s.boot.pins with thermTrip := true } } }

/-- A reading of a tile sensor or an edge stop's sensor, signed 0.01 °C. -/
def State.thermalSample (s : State) (edge : Bool) (i : Nat) (c : Int) : State :=
  let s := { s with ras := { s.ras with
    read := s.ras.read.set (if edge then (1, i % 32) else (0, i)) (BitVec.ofInt 64 c) } }
  let th := 100 * (s.fld .therm F.therm.THROTTLE : Int)
  let al := 100 * (s.fld .therm F.therm.ALERT : Int)
  let hy := 100 * (s.fld .therm F.therm.HYST : Int)
  if 12000 ≤ c then s.thermTrip
  else
    let cl := clusterOf (i / 2)
    let s := if edge then s
      else if th ≤ c ∧ !s.ras.throttled.contains cl then
        { s with ras := { s.ras with throttled := s.ras.throttled ++ [cl] } }.logErr
          { bank := 160, cls := 0x50, sev := 0, src := i }
      else if s.allBelow (clusterSensors cl) (th - hy) then
        { s with ras := { s.ras with throttled := s.ras.throttled.filter (· != cl) } }
      else s
    if al ≤ c ∧ !s.ras.alert then
      let p := s.rtu.power / sdUnit
      let s := { s with ras := { s.ras with alert := true, tlim := some (min (s.ras.tlim.getD p) p) } }
      let s := { s with boot := { s.boot with pins := { s.boot.pins with thermAlert := true } } }
      (s.logErr { bank := 160, cls := 0x50, sev := 0, src := i }).raiseStw 4
    else if s.ras.alert ∧ s.allBelow allSensors (al - hy) then
      { s with ras := { s.ras with alert := false },
               boot := { s.boot with pins := { s.boot.pins with thermAlert := false } } }
    else s

def execThermalSample (edge : Bool) (idx : BitVec 8) (centi : BitVec 16) (s : State) :
    Host.Outcome State Fault Refusal :=
  .next (s.thermalSample edge idx.toNat centi.toInt)

/-- A ceiling one step lower or higher, in MHz. -/
def stepDown (c : Nat) : Nat := max 800 (c - 100)
def stepUp (c : Nat) : Nat := min 3700 (c + 100)
/-- A limit one step higher, until it no longer binds. -/
def limUp (pkg : Nat) (l : Option Nat) : Option Nat :=
  match l with
  | none => none
  | some w => if pkg ≤ w + 10 then none else some (w + 10)

/-- Each ms: thermal ceilings and TLIM (R441). -/
def execThermalStep (s : State) : Host.Outcome State Fault Refusal :=
  let r := s.ras
  .next { s with ras := { r with
    thermCeil := (List.range 16).map fun cl =>
      (cl, (if r.throttled.contains cl then stepDown else stepUp) (r.thermCeil.getD cl 3700))
    tlim := if r.alert then r.tlim.map fun w => w - 10 else limUp r.pkg r.tlim } }

/-! ### Droop and ring oscillators (R442, R443) -/

/-- A supply droop: the cluster's clocks run at half frequency; the event is counted and recorded. -/
def execDroopEvent (cl : BitVec 4) (s : State) : Host.Outcome State Fault Refusal :=
  let c := cl.toNat
  .next ({ s with ras := { s.ras with
    droopCnt := s.ras.droopCnt.upd c 0 (· + 1)
    drooping := if s.ras.drooping.contains c then s.ras.drooping else s.ras.drooping ++ [c] } }.logErr
      { bank := 160, cls := 0x51, sev := 0, src := c })

def execDroopRecovery (cl : BitVec 4) (s : State) : Host.Outcome State Fault Refusal :=
  .next { s with ras := { s.ras with drooping := s.ras.drooping.filter (· != cl.toNat) } }

/-- Each ms: droop ceilings and DLIM; the counts become the readings of class 2 (R442, R444). -/
def execDroopWindowEnd (s : State) : Host.Outcome State Fault Refusal :=
  let r := s.ras
  let lim := s.fld .droop F.droop.COUNT
  let n := fun cl => r.droopCnt.getD cl 0
  let ceil := fun cl => r.droopCeil.getD cl 3700
  let past := fun cl => decide (lim < n cl)
  let stuck := anyBelow 16 fun cl => past cl && ceil cl == 800
  .next { s with ras := { r with
    droopCeil := (List.range 16).map fun cl => (cl, (if past cl then stepDown else stepUp) (ceil cl))
    droopCnt := []
    read := (List.range 16).foldl (fun m cl => Map.set m (2, cl) (dw (n cl))) r.read
    dlim := if stuck then some (r.dlim.getD r.pkg - 10)
            else if anyBelow 16 past then r.dlim else limUp r.pkg r.dlim } }

def execRingOscillatorCount (tile : BitVec 7) (count : BitVec 32) (s : State) : Host.Outcome State Fault Refusal :=
  .next { s with ras := { s.ras with read := s.ras.read.set (3, tile.toNat) (count.zeroExtend 64) } }

/-! ### In-field test (R445, R459) -/

def State.candleNames (s : State) (n : Nat) : Bool := s.candleFloor n != 0

/-- Whether a test of a part of a tile is eligible. -/
def State.iftEligible (s : State) (t part : Nat) : Bool :=
  let cs := [2 * t, 2 * t + 1]
  (!part.testBit 0 || (cs.all fun c => (s.coreOff c || (s.twin t && c % 2 == 1)) && !s.candleNames c)) &&
    (!part.testBit 1 || (!(anyBelow 512 fun k => s.flag (.qcfg (ix 128 t) (ix 512 k)) F.qcfg.V) && !s.retireRefused t))

def State.iftStart (s : State) (t part : Nat) : State :=
  let r := Reg.iftCtl
  if s.ras.ift.isSome then s
  else if s.fencedTile t then s.setFld r F.iftCtl.STATUS 4
  else if !s.iftEligible t part then s.setFld r F.iftCtl.STATUS 2
  else
    let idx := if part.testBit 1 then s.idxOf t else []
    let s := if part.testBit 1 then s.moveAll t else s
    { s.setFld r F.iftCtl.STATUS 3 with ras := { s.ras with ift := some (t, part), iftIdx := idx } }

/-- A write of RAS.IFT_CTL.GO; PART 0b00 is reserved (R13). -/
def execIftGo (r : Req) (tile : BitVec 7) (part : BitVec 2) (s : State) : Host.Outcome State Fault Refusal :=
  .next (s.access r .iftCtl fun s =>
    if r.world then
      let s := if part = 0 then s else s.setFld .iftCtl F.iftCtl.PART part.toNat
      let s := s.setFld .iftCtl F.iftCtl.TILE tile.toNat
      s.iftStart tile.toNat (s.fld .iftCtl F.iftCtl.PART)
    else s)

/-- The next tile of the rotation: those R443 places first, then in ascending order from where it stands. Twin tiles
take no part. -/
def State.iftPick (s : State) : Option Nat :=
  let ok := fun t => !s.twin t && !s.fencedTile t && s.iftEligible t 1
  match firstOf ok s.ras.first with
  | some t => some t
  | none => firstOf ok ((List.range 128).map fun i => (s.ras.iftNext + i) % 128)

def execIftAutoTest (s : State) : Host.Outcome State Fault Refusal :=
  .next (if s.flag .iftCtl F.iftCtl.AUTO ∧ s.ras.ift.isNone then
      match s.iftPick with
      | none => s
      | some t =>
        let fst := s.ras.first.contains t
        let s := { s with ras := { s.ras with
          first := s.ras.first.filter (· != t), iftNext := if fst then s.ras.iftNext else (t + 1) % 128 } }
        s.iftStart t 1
    else s)

/-- A test ends (R445): a failing core is fenced, a failing uncore fences the tile and its retirement stands; otherwise
the tile returns to its previous state, its remap entries keeping MOVED = 1. -/
def State.iftDone (s : State) (t part : Nat) (fail0 fail1 failU : Bool) : State :=
  let f0 := fail0 && part.testBit 0; let f1 := fail1 && part.testBit 0; let fu := failU && part.testBit 1
  let idx := s.ras.iftIdx
  let s := { s with ras := { s.ras with ift := none, iftIdx := [] } }
  let s := if fu then s else idx.foldl (fun s h => s.setFld (.l3Remap (ix 128 h)) F.l3Remap.SLICE t) s
  let s := if f0 ∨ f1 ∨ fu then s.logErr { bank := t, cls := 0x60, sev := 2, src := t } else s
  let s := if f0 then s.fenceAny (2 * t) 2 else s
  let s := if f1 then s.fenceAny (2 * t + 1) 2 else s
  let s := if fu then s.fenceTile t 2 else s
  s.setFld .iftCtl F.iftCtl.STATUS (b2n (f0 || f1 || fu))

def execIftComplete (fail0 fail1 failUncore : Bool) (s : State) : Host.Outcome State Fault Refusal :=
  .next (match s.ras.ift with
    | none => s
    | some (t, part) => s.iftDone t part fail0 fail1 failUncore)

/-! ### Corrected summaries (R449) -/

/-- The counts of a bank per class, one word each: class above the count. -/
def State.classWords (s : State) (b : Nat) : List DWord :=
  (s.ras.classCnt.filter fun p => p.1.1 == b).map fun p => dw (p.1.2 * 2 ^ 56 + p.2 % 2 ^ 56)

/-- Entries of one bank word and up to four counts. -/
def State.summarise (s : State) (b : Nat) : Nat → List DWord → State
  | 0, _ => s
  | n + 1, l => if l.isEmpty then s else State.summarise (s.toLog 0x0002 0 false (dw b :: l.take 4)) b n (l.drop 4)

/-- Hourly, for a bank whose counts changed. -/
def execCorrectedSummary (b : Fin 161) (s : State) : Host.Outcome State Fault Refusal :=
  let n := s.fld (.ebCnt b) F.ebCnt.CORR
  .next (if s.ras.summed.getD b.val 0 = n then s
    else
      let s := s.summarise b.val 256 (s.classWords b.val)
      { s with ras := { s.ras with summed := s.ras.summed.set b.val n } })

end Sys2Proof.Machine
end

