-- ==== Sys2Proof/Machine/Image.lean ====
section
/-! DEFINITION. The flash, the image frame of Configuration Images, firmware images and training caches, their checks
(R40-R47, R54, R55, R349, R366, R424, R495, R496) and the choice between two banks (R48). -/

namespace Sys2Proof.Machine

/-! ### The persistent error log (R448, R449) -/

/-- The 64 bytes of an entry (R449). -/
def LogEntry.words (e : LogEntry) : List DWord :=
  let w0 := dw (e.num.toNat + e.typ * 2 ^ 32 + e.sev * 2 ^ 48 + b2n e.trusted * 2 ^ 56)
  let pay := (e.payload ++ List.replicate 5 0).take 5
  let body := (w0 :: e.time :: pay).flatMap (fun w => leBytes 8 w.toNat) ++ leBytes 4 0
  w0 :: e.time :: pay ++ [dw ((crc32c body).toNat * 2 ^ 32)]

/-- Entry slots of a bank before the one that the seal takes (R448). -/
def logSlots : Nat := 65534

def logBase : Nat := 0x3200000
def logSize : Nat := 0x400000
def logEnd : Nat := logBase + 2 * logSize

/-- The header of a bank (R448). -/
def logHeader (seq : BitVec 32) (powerOns : Nat) : List Byte :=
  let h := leBytes 4 0x474F4C51 ++ leBytes 2 1 ++ [0, 0] ++ leBytes 4 seq.toNat ++ leBytes 4 powerOns ++ List.replicate 44 0
  h ++ leBytes 4 (crc32c h).toNat

/-- A bank: its header and entries; then free slots, or in a full bank the seal in the last slot. -/
def logBank (sealed : Bool) (seq : BitVec 32) (powerOns : Nat) (es : List LogEntry) : List Byte :=
  let b := logHeader seq powerOns ++ es.flatMap fun e => e.words.flatMap fun w => leBytes 8 w.toNat
  if sealed then b ++ beBytes 48 (Config.hmac384 b).toNat else b

/-- What the error log's region of the flash holds: the active bank, and the bank sealed before it, if there is one. -/
def LogState.bytes (l : LogState) (a n : Nat) : List Byte :=
  let old := l.entries.length - l.count
  let b := decide (logSize ≤ a - logBase)
  let head := if b then l.heads.2 else l.heads.1
  let bs := if b = l.bank then logBank false l.seq head (l.entries.drop old)
            else if l.seq = 0 then [] else logBank true (l.seq - 1) head (l.entries.take old)
  (((bs.drop ((a - logBase) % logSize)).take n) ++ List.replicate n 0xFF).take n

/-! ### Flash (R40) -/

/-- An erased byte reads 0xFF (log entry 7). -/
def State.flash (s : State) (a n : Nat) : List Byte :=
  if logBase ≤ a ∧ a < logEnd then s.log.bytes a n else cellRead 0xFF s.boot.flash a n
def State.flashNat (s : State) (a n : Nat) : Nat := leNat (s.flash a n)
def State.program (s : State) (a : Nat) (bs : List Byte) : State :=
  { s with boot := { s.boot with flash := cellSetAll 0xFF s.boot.flash a bs } }
/-- A range of flash erased. -/
def State.eraseFlash (s : State) (a n : Nat) : State :=
  let out := fun (c : Host.Cell) => decide (c.1 < a) || decide (a + n ≤ c.1)
  { s with boot := { s.boot with flash := s.boot.flash.filter out } }

/-- The kinds of image. -/
inductive Img where
  | cfg | fw | tc
deriving DecidableEq, Repr

def Img.size : Img → Nat | .fw => 0x1000000 | _ => 0x100000
def Img.base : Img → Bool → Nat
  | .cfg, b => if b then 0x200000 else 0x100000
  | .fw, b => if b then 0x2000000 else 0x1000000
  | .tc, b => if b then 0x3100000 else 0x3000000
def Img.magic : Img → Nat | .cfg => 0x47464351 | .fw => 0x57465451 | .tc => 0x4E525451
/-- Bytes of the check block (R43). -/
def Img.check : Img → Nat | .tc => 48 | _ => 256

/-! ### Records (R42) -/

/-- `n` records that fill a list of bytes exactly: type and value. The padding bytes are not tested (log entry 96). -/
def parseRecs : Nat → List Byte → Option (List (Nat × List Byte))
  | 0, bs => if bs.isEmpty then some [] else none
  | n + 1, bs =>
    let t := leNat (bs.take 2)
    let len := leNat ((bs.drop 2).take 2)
    let rest := bs.drop 4
    let pad := (len + 3) / 4 * 4
    if bs.length < 4 ∨ rest.length < pad then none
    else (parseRecs n (rest.drop pad)).map fun l => (t, rest.take len) :: l

def noRepeat : List Nat → Bool
  | [] => true
  | a :: l => !l.contains a && noRepeat l

def inRange (a b n : Nat) : Bool := decide (a ≤ n) && decide (n ≤ b)

/-- A field of a value: little-endian bytes from an offset. -/
def sub (v : List Byte) (off n : Nat) : Nat := leNat ((v.drop off).take n)

/-- Byte p of PORT.MODE in range (R366). -/
def portOk (p b : Nat) : Bool :=
  let role := b % 4; let bf := b / 4 % 4; let rate := b / 32
  decide (rate < 6) && bf != 3 && role != 3 && (role != 1 || ((p == 0 || p == 4) && bf == 0))

/-- SD.PARAMS in range (R424). -/
def sdOk (v : List Byte) : Bool :=
  let per := sub v 4 4
  decide (sub v 0 1 < 16) && sub v 1 1 == 0 && decide (1 ≤ sub v 2 2) && inRange 1000 1000000000 per &&
    decide (sub v 8 4 < per) && inRange 100 per (sub v 12 4) && decide (sub v 16 2 ≤ 700) && decide (1 ≤ sub v 18 2) &&
    decide (sub v 20 1 ≤ 60) && sub v 22 10 == 0

/-- STW.NET in range (R47). -/
def netOk (v : List Byte) : Bool :=
  decide (sub v 0 1 < 4) && decide (sub v 1 1 ≤ 127) && decide (sub v 2 1 ≤ 31) && sub v 3 1 == 0 &&
    sub v 4 1 % 2 == 0 && decide (sub v 10 2 ≤ 4094) && sub v 12 12 == 0

/-- A record of the Configuration Image: its length and the test of its value, for the known types (R46). -/
def cfgRec (t : Nat) (v : List Byte) : Option Bool :=
  let n := leNat v
  let is := fun (len : Nat) (ok : Bool) => some (v.length == len && ok)
  match t with
  | 0x8001 => is 2 (inRange 380 700 n)
  | 0x8002 => is 1 (decide (n ≤ 2))
  | 0x0003 => is 1 (decide (n ≤ 1))
  | 0x0004 => is 4 (inRange 100 60000 n)
  | 0x8005 => is 16 true
  | 0x8006 => is 32 true
  | 0x0007 => is 2 (decide (n ≤ 255))
  | 0x8008 => is 1 (decide (n ≤ 8))
  | 0x8009 => is 8 ((List.range 8).all fun p => portOk p (sub v p 1))
  | 0x800A => is 16 (decide (sub v 0 1 ≤ 6) && decide (sub v 1 1 ≤ 4) && decide (sub v 2 1 < 4) &&
      decide (1 ≤ sub v 4 2) && decide (1 ≤ sub v 6 2) && sub v 8 8 == 0)
  | 0x000B => is 2 (inRange 6 168 n)
  | 0x000C => is 1 (decide (n ≤ 1))
  | 0x000D => is 1 (decide (n ≤ 2))
  | 0x000E => is 1 (decide (n ≤ 2))
  | 0x000F => is 32 (sdOk v)
  | 0x0010 => is 24 (v.all fun b => decide (b.toNat ≤ 2))
  | 0x0011 => is 24 (netOk v)
  | 0x0012 => is 1 (decide (n ≤ 1))
  | _ => none

/-- The area of a firmware component in the reserve: offset and size (R466); the Steward runtime's is its SRAM. -/
def fwArea : Nat → Nat × Nat
  | 0x8102 => (0xC000000, 0x3C00000)
  | 0x8103 => (0x4000000, 0x8000000)
  | 0x8104 => (0, 0x4000000)
  | _ => (0, 0x300000)

/-- A component record in range (R495). -/
def fwRec (check len t : Nat) (v : List Byte) : Option Bool :=
  if 0x8101 ≤ t ∧ t ≤ 0x8104 then
    let dest := sub v 0 8; let size := sub v 8 4; let entry := sub v 12 4; let off := sub v 16 4
    let a := fwArea t
    some (v.length == 72 && decide (1 ≤ size) && decide (entry < size) && entry % 4 == 0 && sub v 20 4 == 0 &&
      decide (check ≤ off) && decide (off + size ≤ len) &&
      (if t = 0x8101 then dest == 0 && decide (size ≤ 0x300000)
       else decide (a.1 ≤ dest) && decide (dest + size ≤ a.1 + a.2)))
  else none

/-- A training cache record (R496). -/
def tcRec (t : Nat) (v : List Byte) : Option Bool :=
  match t with
  | 0x8201 => some (v.length == 4)
  | 0x8202 => some (v.length == 16)
  | 0x8203 => some (v.length == 256 && (List.range 32).all fun i =>
      let e := (v.drop (8 * i)).take 8
      e.getD 7 0 == 0 && (e.getD 6 0 == 1 || e.all (· == 0)))
  | _ => if 0x8210 ≤ t ∧ t ≤ 0x821F then some true else none

def Img.known (k : Img) (check len t : Nat) (v : List Byte) : Option Bool :=
  match k with | .cfg => cfgRec t v | .fw => fwRec check len t v | .tc => tcRec t v

/-! ### Validity (R44) -/

/-- The records of the image that starts at a flash address, parsed. -/
def State.recsAt (s : State) (a : Nat) : Option (List (Nat × List Byte)) :=
  parseRecs (s.flashNat (a + 0x10) 2) (s.flash (a + 0x40) (s.flashNat (a + 0x1C) 4))

/-- The minimum security version: the count of blown bits of the thermometer code (R45). -/
def Fuses.minSvn (f : Fuses) : Nat := (List.range 64).countP fun i => f.svnFuses.getLsbD i

/-- Signature and key slot, or HMAC. Bytes 193-255 of a signed check block are not tested (log entry 96). -/
def State.signOk (s : State) (k : Img) (a e : Nat) : Bool :=
  let slot := s.flashNat (a + 6) 1
  let span := s.flash a e
  match k with
  | .tc => slot == 0xFF && beNat (s.flash (a + e) 48) == (Config.hmac384 span).toNat
  | _ =>
    let pub := s.flash (a + e) 97
    let fused := if slot = 0 then some s.boot.fuses.vendorHash else s.boot.fuses.ownerHash.find slot
    decide (slot ≤ 4) && fused == some (Config.sha384 pub) && !s.boot.fuses.revoked.contains slot &&
      Config.ecdsaOk pub (Config.sha384 span) (s.flash (a + e + 97) 96) &&
      decide (s.boot.fuses.minSvn ≤ s.flashNat (a + 0x12) 2)

/-- A bank is valid (R44). An SVN above 64 and header bytes 0x20-0x3F that are not zero do not make it invalid (log entry
96). -/
def State.valid (s : State) (k : Img) (bank : Bool) : Bool :=
  let a := k.base bank
  let len := s.flashNat (a + 8) 4
  let rl := s.flashNat (a + 0x1C) 4
  let e := 0x40 + rl
  s.flashNat a 4 == k.magic && s.flashNat (a + 4) 2 == 1 && s.flashNat (a + 7) 1 == 0 &&
    s.flashNat (a + 0x18) 4 == 0x40 && rl % 4 == 0 && decide (len ≤ k.size) &&
    (if k = .fw then decide (e + k.check ≤ len) else e + k.check == len) &&
    (s.flashNat (a + 0x14) 4 == (crc32c (s.flash a 0x14 ++ [0, 0, 0, 0] ++ s.flash (a + 0x18) (e - 0x18))).toNat) &&
    (match s.recsAt a with
     | none => false
     | some l =>
       noRepeat (l.map Prod.fst) &&
         (l.all fun r => match k.known (e + k.check) len r.1 r.2 with | some ok => ok | none => r.1 < 0x8000 && k != .fw) &&
         (match k with
          | .fw => l.length == 4
          | .tc => [0x8201, 0x8202, 0x8203].all fun t => (l.map Prod.fst).contains t
          | .cfg => true) &&
         s.signOk k a e)

def State.seqOf (s : State) (k : Img) (bank : Bool) : Nat := s.flashNat (k.base bank + 0xC) 4

/-- Serial-number comparison (R48). -/
def newer (a b : Nat) : Bool := a != b && decide ((a + 2 ^ 32 - b) % 2 ^ 32 < 2 ^ 31)

/-- The bank selected: false is A; `ok` says which banks count as valid (R48). -/
def State.pickBank (s : State) (k : Img) (ok : Bool → Bool) : Option Bool :=
  match ok false, ok true with
  | false, false => none
  | true, false => some false
  | false, true => some true
  | true, true => some (newer (s.seqOf k true) (s.seqOf k false))

/-- Banks marked failed take no part (R36, R49). -/
def State.bankOk (s : State) (k : Img) (bank : Bool) : Bool :=
  let f := match k with
    | .cfg => s.boot.cfgFailed
    | .fw => s.boot.fwFailed
    | .tc => (false, false)
  s.valid k bank && !(if bank then f.2 else f.1)

/-! ### What the images say -/

def ofRec (n : Nat) (v : List Byte) : BitVec n := BitVec.ofNat n (leNat v)

/-- One record applied. -/
def Cfg.apply (c : Cfg) (r : Nat × List Byte) : Cfg :=
  let v := r.2
  let n := leNat v
  match r.1 with
  | 0x8001 => { c with power := n }
  | 0x8002 => { c with iso := n }
  | 0x0003 => { c with twRestart := n == 1 }
  | 0x0004 => { c with watchdog := n }
  | 0x8005 => { c with twin := ofRec 128 v }
  | 0x8006 => { c with disable := ofRec 256 v }
  | 0x0007 => { c with bootCore := n }
  | 0x8008 => { c with split := n }
  | 0x8009 => { c with port := ofRec 64 v }
  | 0x800A => { c with memCfg := ofRec 128 v }
  | 0x000B => { c with scrub := n }
  | 0x000C => { c with trainFull := n == 1 }
  | 0x000D => { c with l3 := n }
  | 0x000E => { c with rtSource := n }
  | 0x000F => { c with sd := ofRec 256 v }
  | 0x0010 => { c with gpioSafe := ofRec 192 v }
  | 0x0011 => { c with net := ofRec 192 v }
  | 0x0012 => { c with nwReset := n == 1 }
  | _ => c

/-- The configuration of a bank. -/
def State.cfgOf (s : State) (bank : Bool) : Cfg :=
  ((s.recsAt (Img.cfg.base bank)).getD []).foldl Cfg.apply Cfg.default

/-- Types of unknown non-critical records of a bank (R44). -/
def State.unknownRecs (s : State) (bank : Bool) : List Nat :=
  (((s.recsAt (Img.cfg.base bank)).getD []).filter fun r => (cfgRec r.1 r.2).isNone).map Prod.fst

/-- The record of a component of a firmware bank. -/
def State.component (s : State) (bank : Bool) (t : Nat) : List Byte :=
  Map.getD ((s.recsAt (Img.fw.base bank)).getD []) t []

/-- The data of a component, in flash. -/
def State.componentData (s : State) (bank : Bool) (t : Nat) : List Byte :=
  let v := s.component bank t
  s.flash (Img.fw.base bank + sub v 16 4) (sub v 8 4)

/-- Whether a component copied from flash has the hash of its signed record (R36). -/
def State.componentOk (s : State) (bank : Bool) (t : Nat) : Bool :=
  (Config.sha384 (s.componentData bank t)).toNat == beNat ((s.component bank t).drop 24)

/-! ### Writing an image (R41-R43) -/

/-- One record as bytes. -/
def recBytes (r : Nat × List Byte) : List Byte :=
  leBytes 2 r.1 ++ leBytes 2 r.2.length ++ r.2 ++ List.replicate ((4 - r.2.length % 4) % 4) 0

/-- A training cache bank: header, records, HMAC. -/
def tcImage (seq : Nat) (rs : List (Nat × List Byte)) : List Byte :=
  let body := rs.flatMap recBytes
  let h1 := leBytes 4 Img.tc.magic ++ leBytes 2 1 ++ [0xFF, 0] ++ leBytes 4 (0x40 + body.length + 48) ++
    leBytes 4 seq ++ leBytes 2 rs.length ++ leBytes 2 0
  let h2 := leBytes 4 0x40 ++ leBytes 4 body.length ++ List.replicate 32 0
  let crc := (crc32c (h1 ++ [0, 0, 0, 0] ++ h2 ++ body)).toNat
  let span := h1 ++ leBytes 4 crc ++ h2 ++ body
  span ++ beBytes 48 (Config.hmac384 span).toNat

/-- An update cut short leaves its bank invalid (R53): erased. -/
def State.dropUpdate (s : State) : State :=
  match s.boot.update with
  | none => s
  | some u =>
    let k := if u.region = 0 then Img.cfg else Img.fw
    let s := s.eraseFlash (k.base u.bank) k.size
    { s with boot := { s.boot with update := none } }

end Sys2Proof.Machine
end

