-- ==== Sys2Proof/Machine/Reset.lean ====
section
/-! DEFINITION. The persistent error log (R448-R450), what each reset does to the state (R30-R33, R182, R411, R497), and
the fatal sequence (R434). -/

namespace Sys2Proof.Machine

/-! ### The persistent error log -/

/-- One entry put into the active bank, numbered. -/
def LogState.put (l : LogState) (e : LogEntry) : LogState :=
  { l with entries := l.entries ++ [{ e with num := l.next }], next := l.next + 1, count := l.count + 1 }

/-- A full bank is sealed: the other one is erased and opened with the next SEQ, and the current fence and retirement
lists are copied into it (R448). -/
def LogState.seal (l : LogState) (now : DWord) : LogState :=
  if l.count < logSlots then l
  else
    let l := { l with entries := l.entries.drop (l.entries.length - l.count), bank := !l.bank, seq := l.seq + 1,
                       count := 0, heads := if l.bank then (l.powerOns, l.heads.2) else (l.heads.1, l.powerOns) }
    let l := l.fences.foldl (fun l f => l.put ⟨0, 0x0006, 0, false, now, [dw f.2, dw (b2n f.1)]⟩) l
    l.retired.foldl (fun l t => l.put ⟨0, 0x0007, 0, false, now, [dw t]⟩) l

/-- The oldest queued entry written; entries lost meanwhile are reported by one entry (R450). -/
def State.logWrite (s : State) : State :=
  let l := s.log
  match l.queue with
  | [] => if l.lost = 0 then s
          else { s with log := ({ l with lost := 0 }.put ⟨0, 0x000B, 0, false, s.now, [dw l.lost]⟩).seal s.now }
  | e :: q => { s with log := ({ l with queue := q }.put e).seal s.now }

def execLogEntryWrite (s : State) : Host.Outcome State Fault Refusal := .next s.logWrite

/-- Every queued entry written. -/
def State.logFlush (s : State) : State :=
  (List.range (s.log.queue.length + 1)).foldl (fun s _ => s.logWrite) s

/-! ### Registers (R497) -/

/-- The fields of a register that a reset keeps; the others take their reset values. -/
def keptFields (t : ResetType) : Reg → List Place
  | .stwDevid => if t = .powerOn then [] else [(63, 0)]
  | .stwBootstat | .fenceCore _ | .fenceTile _ => if t = .powerOn then [] else [(63, 0)]
  | .ebCnt _ | .ebStat _ _ | .ebAddr _ _ | .ebInfo _ _ | .ebTime _ _ => if t = .warm then [(63, 0)] else []
  | .gpioDir | .gpioOut | .gpioWorld | .gpioDenied | .gpioAltfn => if t = .warm then [(63, 0)] else []
  | .rtuCtl | .rtuLoad | .rtuSyncout | .rtuSdParam _ | .rtuStatus | .rtuSnaptime | .rtuSnapseq | .rtuSdStat =>
    if t = .powerOn then [] else [(63, 0)]
  | .twstate => if t = .powerOn then [] else [F.twstate.RESTARTS]
  | .mcRas _ => if t = .powerOn then [] else
      -- a cold reset trains the channel again: it has no spare in use and copies nothing
      (if t = .warm then [F.mcRas.SPARED, F.mcRas.COPYING] else []) ++
        [F.mcRas.MIRR_DEGR, F.mcRas.SHORTFALL, F.mcRas.THROTTLE, F.mcRas.HOTREF, F.mcRas.SELFREF]
  | .epCfg _ | .epMsix _ | .epWinsync _ | .epRombase _ | .epEvq _ | .epStat _ | .epWinA _ _ | .epWinB _ _ | .epWinC _ _
  | .epOut _ _ | .epCfgm _ _ _ => if t = .warm then [(63, 0)] else []
  | .l2Stat _ => if t = .powerOn then [] else [F.l2Stat.WAY_DIS]
  | .l3Stat _ => if t = .powerOn then [] else [F.l3Stat.WAY_DIS]
  | .l3Remap _ => if t = .powerOn then [] else [(63, 0)]
  | .dom _ => []
  | _ => []

/-- A register after a reset. -/
def keptReg (t : ResetType) (r : Reg) (w : DWord) : Option (Reg × DWord) :=
  match keptFields t r with
  | [] => none
  | l => some (r, l.foldl (fun v p => setF v p (getF w p)) r.reset)

/-! ### Domains at a reset (R37, R393) -/

/-- Every domain but the cores' and those kept OFF reads ON (R393). -/
def State.domainsOn (s : State) : State :=
  (List.range 417).foldl (fun s n => if n < 256 ∨ s.keptOff n then s else s.setReg (rDom n) 0xC0C0F000#64) s

/-! ### The parts of a reset (R31) -/

/-- Is this byte address DRAM. -/
def isDram (a : Nat) : Bool := decide (a < 0x100000000000)

/-- Memory after a power-on or cold reset: DRAM is not preserved and no set is placed; dirty cached lines are lost. -/
def State.memCold (s : State) : State :=
  let s := s.m.stale.foldl (fun s p => s.discard p.1) s
  let cx := fun (line : Nat) => !isDram (64 * line)
  { s with m := { s.m with
      mem := s.m.mem.filter fun c => !isDram c.1
      lkey := s.m.lkey.keep fun l _ => cx l
      poison := s.m.poison.keep fun h _ => cx (h / 2)
      stale := [], latent := [], dram := [], cxl := [], fr := none } }

/-- An expansion port after a warm reset: an endpoint keeps its link and configuration space, with its windows closed
(R31, R32); CXL.mem that a clasp has cut off stays so (R381). -/
def State.ioWarm (s : State) : Map Nat IoState :=
  s.io.mapV fun p i => if s.role p = .endpoint then
      { IoState.reset with ep := { i.ep with winOpen := false } }
    else { IoState.reset with rps := (i.rps.keep fun _ k => k.cut).mapV fun _ k => { RootPort.reset with cut := k.cut } }

/-- A controller after a reset: the training is kept at a warm one, redone otherwise. -/
def McState.at (t : ResetType) (m : McState) : McState :=
  match t with
  | .warm => { m with scrubWin := false, refWin := false }
  | .cold => { McState.reset with mirrorFailed := m.mirrorFailed, temp0 := m.temp0, temp1 := m.temp1 }
  | .powerOn => McState.reset

/-- What a reset of a type does to the state, but for the registers that `resetAll` sets after it. -/
def State.resetBase (s : State) (t : ResetType) : State :=
  let s := s.dropUpdate
  let io := if t = ResetType.warm then s.ioWarm else []
  let s := if t = ResetType.warm then { s with m := { s.m with stale := [], latent := s.m.unmet [] } } else s.memCold
  let s := s.clearKeys
  let csr := s.csr.filterMap fun p => keptReg t p.1 p.2
  let rtu := if t = ResetType.powerOn then RtuState.reset
             else { s.rtu with freq := if t = ResetType.warm then s.rtu.freq else [], widths := [], late := [], ahead := [] }
  let ras := if t = ResetType.powerOn then RasState.reset
    else { s.ras with
      ift := none, iftIdx := [], owed := []
      classCnt := if t = ResetType.warm then s.ras.classCnt else []
      summed := if t = ResetType.warm then s.ras.summed else [] }
  { s with
    cores := [], ucores := [], csr := csr, io := io, rtu := rtu, ras := ras
    coh := { CohState.reset with refused := if t = ResetType.powerOn then [] else s.coh.refused }
    mesh := { MeshState.reset with failed := if t = ResetType.warm then s.mesh.failed else [] }
    sec := { SecState.reset with autoRestarts := if t = ResetType.powerOn then 0 else s.sec.autoRestarts }
    qs := { q := [], parts := [] }, dm := { chans := [], tlb := [] }, pwr := PowerState.reset
    mc := s.mc.mapV fun _ m => m.at t
    boot := { s.boot with
      resetting := some t, draining := false, update := none, saveSet := false
      pins := { s.boot.pins with perstHigh := [], thermAlert := s.ras.alert && t != ResetType.powerOn } } }

/-- Everything a reset of a type does at once, log and phases apart. -/
def State.resetAll (s : State) (t : ResetType) : State :=
  let s := s.resetBase t
  match t with
  | .powerOn => { s with csr := State.resetCsr ++ s.csr }
  | .cold =>
    let s := s.setReg (rDom 415) 0xC0C0F000#64
    s.setReg (rDom 416) 0xC0C0F000#64
  | .warm =>
    let s := s.domainsOn
    -- the DIMMs stay in self-refresh across a warm reset (R359)
    (List.range 16).foldl (fun s n =>
      if (s.mc.getD n McState.reset).trained then s.setFld (.mcRas (ix 16 n)) F.mcRas.SELFREF 1 else s) s

/-! ### Power-on, cold and warm reset -/

def State.phase (s : State) : Nat := s.fld .stwBootstat F.stwBootstat.PHASE
def State.setPhase (s : State) (n : Nat) : State := s.setFld .stwBootstat F.stwBootstat.PHASE n
def State.inPhase (s : State) (n : Nat) : Bool :=
  s.boot.pins.pwrok && s.phase == n && !s.flag .stwBootstat F.stwBootstat.RCVR &&
    !s.flag .stwBootstat F.stwBootstat.FAIL && s.boot.resetting.isSome && !s.boot.draining && !s.boot.pins.thermTrip

/-- STW.DEVID as the fuses give it (R4). -/
def BootState.devid (b : BootState) : DWord := dw (0x92561000 + (if b.fuses.engineering then 0x21 else 0x10))

/-- A power-on reset, which lasts until PWROK rises (R30): queued log entries are lost (R450). -/
def State.powerOnReset (s : State) : State :=
  let s := s.resetAll .powerOn
  let b := { BootState.reset with fuses := s.boot.fuses, flash := s.boot.flash, pins := { Pins.reset with
    gpio := s.boot.pins.gpio, warmRstL := s.boot.pins.warmRstL } }
  { s with boot := b, log := { s.log with queue := [], lost := 0 } }.setReg .stwDevid b.devid

/-- A copy of every valid record of severity deferred or above (R431). -/
def State.copyRecords (s : State) : State :=
  s.csr.foldl (fun s p => match p.1 with
    | .ebStat b i =>
      if getF p.2 F.ebStat.V = 1 ∧ 1 ≤ getF p.2 F.ebStat.SEV then
        s.toLog 0x0001 (getF p.2 F.ebStat.SEV) (getF p.2 F.ebStat.HIDDEN == 1)
          [dw b.val, p.2, s.reg (.ebAddr b i), s.reg (.ebInfo b i)]
      else s
    | _ => s) s

/-- A cold reset: the log is written before image selection begins; start-up runs from phase 3 (R35, R39, R450). -/
def State.coldReset (s : State) (cause : Nat) : State :=
  let s := ((s.toLog 0x0003 0 false [1, dw cause]).copyRecords).logFlush
  let s := s.resetAll .cold
  let keep := [F.stwBootstat.STRAP_TEST, F.stwBootstat.STRAP_RCVR]
  let w := keep.foldl (fun v p => setF v p (s.fld .stwBootstat p)) 0
  (s.setReg .stwBootstat w).setPhase 3

/-- Some split store has exactly one part among the entries (R182). -/
def torn (es : List MbEntry) : Bool :=
  let lows := es.flatMap (·.lows)
  let highs := es.flatMap (·.highs)
  (lows.any fun i => !highs.contains i) || highs.any fun i => !lows.contains i

/-- The committed stores of a core that wait, the oldest first. -/
def UCore.waiting (u : UCore) : List MbEntry :=
  match u.gath with
  | some g => (u.mbuf.takeWhile fun e => decide (e.age < g.age)) ++ g.entry :: u.mbuf.dropWhile fun e => decide (e.age < g.age)
  | none => u.mbuf

/-- The drain of a warm reset has ended: what is left in a merge buffer or of gathered writes is discarded and logged
(R182). -/
def State.drainLoss (s : State) : State :=
  s.ucores.foldl (fun s p =>
    let es := p.2.waiting
    match es with
    | [] => s
    | e :: _ => s.toLog 0x0004 0 false [dw p.1, dw es.length, dw (64 * e.line), dw (b2n (torn es))]) s

/-- Endpoint ports complete every BAR2 and ROM request with Unsupported Request from the start of a warm reset until phase
9 (R32). -/
def State.closeWindows (s : State) : State :=
  { s with io := s.io.mapV fun _ i => { i with ep := { i.ep with winOpen := false } } }

/-- The warm reset proper: phases 6, 8 and 9 follow (R35). -/
def State.warmReset (s : State) : State := (s.drainLoss.resetAll .warm).setPhase 6

/-- Every core's committed stores are performed. -/
def State.drained (s : State) : Bool := s.ucores.all fun p => p.2.mbuf.isEmpty && p.2.gath.isNone

/-- Start-up has stopped: in recovery (R50), or with no channel trained (R38). No reset is under way then. -/
def State.stoppedBoot (s : State) : Bool := s.flag .stwBootstat F.stwBootstat.RCVR || s.flag .stwBootstat F.stwBootstat.FAIL

/-- A reset requested: the broadest pending one is performed, a narrower or equal one during a reset is discarded and
recorded (R33). A warm reset first drains (R182); where start-up has stopped there is no firmware bank and no reserve to
use again (R35), and a cold reset is performed in its place (log entry 22). -/
def State.requestReset (s : State) (t : ResetType) (cause : Nat) : State :=
  if !s.boot.pins.pwrok ∨ s.boot.pins.thermTrip then s
  else
    let t := if t = .warm ∧ s.stoppedBoot then .cold else t
    let start := fun (s : State) => match t with
      | .powerOn => s.powerOnReset
      | .cold => s.coldReset cause
      | .warm =>
        let s := (s.toLog 0x0003 0 false [0, dw cause]).closeWindows
        if s.drained then s.warmReset else { s with boot := { s.boot with resetting := some .warm, draining := true } }
    match (if s.stoppedBoot then none else s.boot.resetting) with
    | none => start s
    | some r =>
      if t = .cold ∧ r = .warm then start s
      else s.toLog 0x0003 0 false [dw (if t = .warm then 0 else 1), dw (256 + cause)]

/-- PWROK rises: the straps are sampled and phase 1 begins (R30, R39). -/
def execPwrokRise (rcvrLow testHigh : Bool) (s : State) : Host.Outcome State Fault Refusal :=
  .next (if s.boot.pins.pwrok then s
    else
      let s := { s with boot := { s.boot with pins := { s.boot.pins with pwrok := true }, resetting := some .powerOn } }
      let s := { s with log := { s.log with powerOns := s.log.powerOns + 1 } }
      let w := setF (setF 0 F.stwBootstat.STRAP_TEST (b2n testHigh)) F.stwBootstat.STRAP_RCVR (b2n (!rcvrLow))
      (s.setReg .stwBootstat w).setPhase 1)

/-- PWROK falls: a power-on reset, whatever was going on (R30). -/
def execPwrokFall (s : State) : Host.Outcome State Fault Refusal := .next s.powerOnReset

/-- A monitored rail below its range for 2 µs acts as a fall of PWROK (R483). -/
def execSupplyOutOfRange (_rail : Rail) (s : State) : Host.Outcome State Fault Refusal := .next s.powerOnReset

/-- WARM_RST_L low for 1 µs (R30). -/
def execWarmRstLRequest (s : State) : Host.Outcome State Fault Refusal := .next (s.requestReset .warm 0)

/-- The CD0 timer of the drain expires (R182). -/
def execWarmResetDrainDeadline (s : State) : Host.Outcome State Fault Refusal :=
  .next (if s.boot.draining then s.warmReset else s)

/-! ### Fatal errors (R434) -/

/-- Every Data Mover channel stopped. -/
def State.stopChans (s : State) : State :=
  (List.range 64).foldl (fun s ch =>
    let r := Reg.dmCtl (ix 2 (ch / 32)) (ix 32 ch)
    if s.flag r F.dmCtl.EN then (s.setFld r F.dmCtl.EN 0).setFld r F.dmCtl.BUSY 0 else s)
    { s with dm := { s.dm with chans := [] } }

def State.stopCores (s : State) : State :=
  { s with cores := s.cores.mapV fun _ k => match k.run with
      | .held => k
      | _ => { k with run := .stopped } }

def State.claspAll (s : State) : State :=
  (List.range 32).foldl (fun s i => s.claspEnter (i / 4) (i % 4) .uncorrectable false) s

/-- The fatal sequence: cores stopped, root ports clasped, channels stopped, the record logged, ACT performed. -/
def execFatalSequence (s : State) : Host.Outcome State Fault Refusal :=
  .next (if s.sec.fatal ≠ 1 then s
    else
      let s := (s.stopCores.claspAll).stopChans
      let s := (s.toLog 0x0001 3 false s.sec.fatalRec).logFlush
      if s.fld .fatalctl F.fatalctl.ACT = 1 then { s with sec := { s.sec with fatal := 2 } }
      else ({ s with sec := { s.sec with fatal := 0 } }).requestReset .cold 2)

end Sys2Proof.Machine
end

