-- ==== Sys2Proof/Machine/Boot.lean ====
section
/-! DEFINITION. Start-up phases 1 to 9 (R34-R38, R406, R443, R446, R447, R466), memory training and the address map
(R347-R350, R361, R362, R370, R465, R496), recovery (R50) and updates cut short (R53). -/

namespace Sys2Proof.Machine

def State.onBoot (s : State) (f : BootState → BootState) : State := { s with boot := f s.boot }
def State.bstat (s : State) (p : Place) (v : Nat) : State := s.setFld .stwBootstat p v

/-- Every expansion port down: no link is up (R50). -/
def State.portsDown (s : State) : State :=
  let s := (List.range 32).foldl (fun s i =>
    let r := rClasp (i / 4) (i % 4)
    if s.flag r F.clasp.LINKUP then (s.onRp (i / 4) (i % 4) fun k => { k with link := .down }).setFld r F.clasp.LINKUP 0
    else s) s
  let s := [0, 4].foldl (fun s p =>
    let r := Reg.epStat (ix 8 p)
    if s.flag r F.epStat.LINKUP then s.setFld r F.epStat.LINKUP 0 else s) s
  s.onBoot fun b => { b with pins := { b.pins with perstHigh := [] } }

/-- Recovery: the cores stay in reset and the ports stay down (R50). -/
def State.recover (s : State) (cause : Nat) : State :=
  (s.portsDown.bstat F.stwBootstat.RCVR 1).bstat F.stwBootstat.CAUSE cause

/-- Marks a bank failed for the current power-on reset, records it and starts a cold reset (R36, R49). -/
def State.bankFailed (s : State) (k : Img) (bank : Bool) : State :=
  let mark := fun (p : Bool × Bool) => if bank then (p.1, true) else (true, p.2)
  let s := s.onBoot fun b => match k with
    | .cfg => { b with cfgFailed := mark b.cfgFailed }
    | _ => { b with fwFailed := mark b.fwFailed }
  (s.toLog 0x0005 2 false [dw (if k = .cfg then 0 else 1), dw (b2n bank)]).coldReset 3

/-! ### Phases 1 to 3 -/

def State.devid (s : State) : DWord := s.boot.devid

/-- Phase 1: STW.DEVID from fuses (R4). -/
def execFuseLoad (s : State) : Host.Outcome State Fault Refusal :=
  .next (if s.inPhase 1 then (s.setReg .stwDevid s.devid).setPhase 2 else s)

/-- Phase 2: quad or octal mode. -/
def execFlashDiscovery (octal : Bool) (s : State) : Host.Outcome State Fault Refusal :=
  .next (if s.inPhase 2 then (s.onBoot fun b => { b with octal := octal }).setPhase 3 else s)

/-- Phase 3: recovery by a strap (R50, R480), or the choice of a Configuration Image bank. -/
def execImageSelection (s : State) : Host.Outcome State Fault Refusal :=
  .next (if !s.inPhase 3 then s
    else if s.boot.resetting = some .powerOn ∧ s.flag .stwBootstat F.stwBootstat.STRAP_TEST then s.recover 4
    else if s.boot.resetting = some .powerOn ∧ !s.flag .stwBootstat F.stwBootstat.STRAP_RCVR then s.recover 3
    else match s.pickBank .cfg (s.bankOk .cfg) with
      | none => s.recover 1
      | some b =>
        let u := s.unknownRecs b
        let s := ((s.bstat F.stwBootstat.CFG_BANK (b2n b)).bstat F.stwBootstat.UNK_TYPE (u.getLast?.getD 0)).bstat
          F.stwBootstat.UNK_COUNT (min u.length 255)
        (s.onBoot fun x => { x with cfgSel := b }).setPhase 4)

/-! ### Phase 4 -/

/-- Fences and their lifting, from the log (R446). -/
def State.applyFences (s : State) : State :=
  let l := s.log.fences.filter fun f => !s.log.unfence.contains f
  let s := { s with log := { s.log with fences := l, unfence := [] } }
  let s := (List.range 8).foldl (fun s k => s.setReg (.fenceCore (ix 8 k)) 0) s
  let s := (List.range 4).foldl (fun s k => s.setReg (.fenceTile (ix 4 k)) 0) s
  l.foldl (fun s f =>
    let r := if f.1 then Reg.fenceTile (ix 4 (f.2 / 32)) else .fenceCore (ix 8 (f.2 / 32))
    s.setReg r (s.reg r ||| (1#64 <<< (f.2 % 32)))) s

/-- The ring oscillators compared with their fused counts (R443). -/
def State.compareRings (s : State) : State :=
  (List.range 128).foldl (fun s t =>
    match s.ras.read.find (3, t) with
    | none => s
    | some c =>
      let z := s.boot.fuses.ringZero.getD t 0
      let s := if 100 * c.toNat ≤ 97 * z then
          { s with ras := { s.ras with slow := s.ras.slow ++ [t] } }.logErr { bank := 160, cls := 0x52, sev := 0, src := t }
        else s
      if 100 * c.toNat ≤ 94 * z then { s with ras := { s.ras with first := s.ras.first ++ [t] } } else s)
    { s with ras := { s.ras with slow := [], first := [] } }

/-- The Configuration Image applied. -/
def State.applyImage (s : State) : State :=
  let b := s.boot.cfgSel
  let a := Img.cfg.base b
  let c := s.cfgOf b
  let s := s.onBoot fun x => { x with
    cfg := c, cfgSvn := s.flashNat (a + 0x12) 2, cfgSlot := s.flashNat (a + 6) 1
    cfgHash := Config.sha384 (s.flash a (s.flashNat (a + 8) 4)) }
  let s := { s with ras := { s.ras with pkg := c.power } }
  let s := s.setFld .rtuCtl F.rtuCtl.SOURCE c.rtSource
  let s := (List.range 4).foldl (fun s k => s.setReg (.rtuSdParam (ix 4 k)) (dw (c.sd.toNat >>> (64 * k)))) s
  ((s.applyFences).domainsOn).compareRings

/-- Phase 4: an image that fails to apply marks its bank failed (R49). -/
def execImageApply (applied : Bool) (s : State) : Host.Outcome State Fault Refusal :=
  .next (if !s.inPhase 4 then s
    else if applied then s.applyImage.setPhase 5 else s.bankFailed .cfg s.boot.cfgSel)

/-! ### Phases 5 and 6 -/

/-- Phase 5: a firmware bank selected; the Steward runtime verified in Steward SRAM. -/
def execFirmwareSelection (s : State) : Host.Outcome State Fault Refusal :=
  .next (if !s.inPhase 5 then s
    else match s.pickBank .fw (s.bankOk .fw) with
      | none => s.recover 2
      | some b =>
        let a := Img.fw.base b
        let s := s.bstat F.stwBootstat.FW_BANK (b2n b)
        let s := s.onBoot fun x => { x with
          fwSel := b, fwSvn := s.flashNat (a + 0x12) 2, fwSlot := s.flashNat (a + 6) 1 }
        if s.componentOk b 0x8101 then s.setPhase 6 else s.bankFailed .fw b)

/-- Phase 6: keys regenerated (the reset has cleared them), the layers measured from the selected firmware (R292). -/
def execSecStart (s : State) : Host.Outcome State Fault Refusal :=
  .next (if !s.inPhase 6 then s
    else
      let h := fun t => BitVec.ofNat 384 (beNat ((s.component s.boot.fwSel t).drop 24))
      (s.onBoot fun b => { b with measures := [h 0x8101, h 0x8102, h 0x8103, h 0x8104] }).setPhase
        (if s.boot.resetting = some .warm then 8 else 7))

/-! ### Phase 7: training and the address map -/

def gib : Nat := 2 ^ 30

/-- A DIMM of a supported population (R347), with the number of DIMMs on its channel. -/
def dimmFits (d : Dimm) (n : Nat) : Bool :=
  let g := d.gib.toNat; let r := d.ranks.toNat
  if d.mrdimm then (n == 1 || !d.slot) && inRange 32 512 g && (r == 2 || r == 4)
  else inRange 16 256 g && (r == 1 || r == 2 || r == 4)

def slotIdx (d : Dimm) : Nat := 2 * d.mc.toNat + b2n d.slot

/-- The DIMMs the Steward trains: of the type and width of the lowest-numbered populated slot (R347). -/
def trainable (ds : List Dimm) : List Dimm :=
  match ds.foldl (fun (m : Option Dimm) d => match m with
      | none => some d
      | some e => if slotIdx d < slotIdx e then some d else some e) none with
  | none => []
  | some f => ds.filter fun d => d.mrdimm == f.mrdimm && d.x8 == f.x8 &&
      dimmFits d (ds.filter fun e => e.mc == d.mc).length

/-- DIMM entries of TC.DIMMS (R496). -/
def dimmTable (ds : List Dimm) : List Byte :=
  (List.range 32).flatMap fun i =>
    match ds.find? fun d => slotIdx d == i with
    | some d => leBytes 4 d.serial.toNat ++ leBytes 2 d.mfr.toNat ++ [1, 0]
    | none => leBytes 8 0

/-- The most a channel's record holds in a cache the Steward writes: sixteen of them, with the other records, the header and
the check block, fit in the 1 MiB of a bank (R40, log entry 97). -/
def channelData : Nat := 65504

/-- The training cache bank that applies, if one does (R54). -/
def State.cacheBank (s : State) (ds : List Dimm) : Option Bool :=
  if s.boot.cfg.trainFull then none
  else match s.pickBank .tc (s.bankOk .tc) with
    | none => none
    | some b =>
      let rs := (s.recsAt (Img.tc.base b)).getD []
      if leNat (Map.getD rs 0x8201 []) = (s.reg .stwDevid).toNat ∧ leNat (Map.getD rs 0x8202 []) = s.boot.cfg.memCfg.toNat ∧
          Map.getD rs 0x8203 [] = dimmTable ds then some b
      else none

/-- Usable GiB of a channel: its trained DIMMs, less the spare rank (R361). -/
def capOf (spare : Bool) (ds : List Dimm) (n : Nat) : Nat :=
  let mine := ds.filter fun d => d.mc.toNat == n
  let sum := mine.foldl (fun t d => t + d.gib.toNat) 0
  if spare then
    match mine.find? (fun d => d.slot), mine.head? with
    | some d, _ | none, some d => sum - d.gib.toNat / d.ranks.toNat
    | none, none => 0
  else sum

/-- Capacities with each mirrored pair counted as one channel on MC(2k), or on the survivor (R350, R362). -/
def mirrored (mask : Nat) (caps : Map Nat Nat) : Map Nat Nat :=
  (List.range 8).foldl (fun m k =>
    if mask.testBit k then
      match Map.find m (2 * k), Map.find m (2 * k + 1) with
      | some a, some b => Map.set (Map.erase m (2 * k + 1)) (2 * k) (min a b)
      | _, _ => m
    else m) caps

/-- Capacity beyond 8 TiB left out in descending channel order (R348): what stays, and the channels cut. -/
def cut8T (caps : Map Nat Nat) : Map Nat Nat × List Nat :=
  let total := caps.foldl (fun t p => t + p.2) 0
  let r := ((List.range 16).reverse).foldl (fun (a : Map Nat Nat × List Nat × Nat) n =>
    match Map.find a.1 n with
    | some c => if a.2.2 = 0 then a else (Map.set a.1 n (c - min c a.2.2), a.2.1 ++ [n], a.2.2 - min c a.2.2)
    | none => a) (caps, [], total - 8192)
  (r.1, r.2.1)

/-- A list cut into sets of `w`, then of the largest powers of two that fit (R350). -/
def cutSets (w : Nat) : Nat → List Nat → List (List Nat)
  | 0, _ => []
  | f + 1, l =>
    if l.isEmpty then []
    else
      let n := if w ≤ l.length then w else 2 ^ Nat.log2 l.length
      l.take n :: cutSets w f (l.drop n)

/-- Interleave sets of channels: capacity in GiB and members, in build order. -/
def buildSets (w : Nat) (caps : Map Nat Nat) : List (Nat × List Nat) :=
  let cs := ((List.range 32).filterMap fun n => Map.find caps n).foldl
    (fun l c => if c = 0 ∨ l.contains c then l else l ++ [c]) []
  cs.flatMap fun c =>
    (cutSets w 64 ((List.range 48).filter fun n => Map.find caps n == some c)).map fun m => (c, m)

/-- Sets placed one after the other from a base, each start rounded up to 1 GiB (R465). -/
def placeSets : Nat → List (Nat × List Nat) → List MemSet
  | _, [] => []
  | base, (c, m) :: l =>
    let size := c * gib * m.length
    ⟨base, size, m⟩ :: placeSets ((base + size + gib - 1) / gib * gib) l

/-- CXL devices on root ports, as member numbers with their capacity. -/
def State.cxlCaps (s : State) (ds : List CxlDev) : Map Nat Nat :=
  ((List.range 32).filterMap fun i =>
    (ds.find? fun d => d.port.toNat == i / 4 && d.rp.toNat == i % 4 && d.ready && s.isRp (i / 4) (i % 4) && !s.noCxl (i / 4)).map
      fun d => (16 + i, d.gib.toNat))

/-- Interleave sets of CXL root ports, of 8, 4, 2 or 1 (R370). -/
def buildCxl (caps : Map Nat Nat) : List (Nat × List Nat) :=
  let cs := (caps.map Prod.snd).foldl (fun l c => if c = 0 ∨ l.contains c then l else l ++ [c]) []
  cs.flatMap fun c =>
    (cutSets 8 64 ((caps.filter fun p => p.2 == c).map Prod.fst)).map fun m => (c, m)

/-- A pair after training: the partner that failed before is rebuilt by copy; a lone survivor is degraded; a pair that is not
mirrored any more is neither (R362, R497). -/
def State.mirrorTrain (s : State) (mask : Nat) (trained : Nat → Bool) : State :=
  (List.range 8).foldl (fun s k =>
    let both := fun (s : State) (p : Place) (v : Nat) => (s.setFld (.mcRas (ix 16 (2 * k))) p v).setFld (.mcRas (ix 16 (2 * k + 1))) p v
    let m := s.mcAt (2 * k)
    if !mask.testBit k then
      if m.mirrorFailed.isNone then s
      else both { s with mc := s.mc.upd (2 * k) McState.reset fun m => { m with mirrorFailed := none } } F.mcRas.MIRR_DEGR 0
    else if trained (2 * k) ∧ trained (2 * k + 1) then
      match m.mirrorFailed with
      | none => s
      | some _ => both (both { s with mc := s.mc.set (2 * k) { m with rebuild := true } } F.mcRas.COPYING 1) F.mcRas.MIRR_DEGR 1
    else if trained (2 * k) ∨ trained (2 * k + 1) then
      both { s with mc := s.mc.set (2 * k) { m with mirrorFailed := some (trained (2 * k)) } } F.mcRas.MIRR_DEGR 1
    else s) s

/-- The pending repairs at phase 7: each made permanent where the device has a spare row left, which is free, and logged as
made or not made (R360). -/
def State.hardPpr (s : State) : State :=
  let s := s.log.pprPending.foldl (fun s p =>
    let (v, s) := s.fresh
    s.toLog 0x0008 0 false [dw p.1, if v.getLsbD 0 then 1 else 2, dw (rowWord p.2)]) s
  { s with log := { s.log with pprPending := [] } }

/-- Phase 7. `cacheBad` are the channels whose read-write test after the cache fails, `untrained` those that cannot be
trained. -/
def State.trainMemory (s : State) (ds : List Dimm) (cacheBad untrained : BitVec 16) (cxl : List CxlDev) : State :=
  let ok := trainable ds
  let good := ok.filter fun d => !untrained.getLsbD d.mc.toNat
  let fail0 := (List.range 16).filter fun n =>
    ds.any fun d => d.mc.toNat == n && (untrained.getLsbD n || !ok.contains d)
  let bank := s.cacheBank ds
  let has := fun (n : Nat) => match bank with
    | some b => ((s.recsAt (Img.tc.base b)).getD []).any (fun r => r.1 == 0x8210 + n) && !cacheBad.getLsbD n
    | none => false
  let chans := (List.range 16).filter fun n => good.any fun d => d.mc.toNat == n
  let usedCache := chans.any has
  let spare := (s.byteOfMemCfg 2).testBit 0
  let mask := s.byteOfMemCfg 3
  let (caps, cutCh) := cut8T (mirrored mask (chans.map fun n => (n, capOf spare good n)))
  let fail := fail0 ++ cutCh.filter fun n => !fail0.contains n
  let s := fail.foldl (fun s n => s.toLog 0x0005 2 false [2, dw n]) s
  let s := s.bstat F.stwBootstat.CH_FAIL (fail.foldl (fun v n => v ||| 2 ^ n) 0)
  let s := (s.bstat F.stwBootstat.TC_USED (b2n usedCache)).bstat F.stwBootstat.TC_BANK
    (b2n (usedCache && bank == some true))
  -- a new cache after any full training (R54)
  let s := if chans.all has then s
    else
      let sel := s.pickBank .tc (s.bankOk .tc)
      let b := match sel with | some b => !b | none => false
      let seq := match sel with | some b => (s.seqOf .tc b + 1) % 2 ^ 32 | none => 1
      let img := tcImage seq ([(0x8201, leBytes 4 (s.reg .stwDevid).toNat), (0x8202, leBytes 16 s.boot.cfg.memCfg.toNat),
        (0x8203, dimmTable ds)] ++ chans.map fun n => (0x8210 + n, (Config.trainingData n).take channelData))
      (s.eraseFlash (Img.tc.base b) Img.tc.size).program (Img.tc.base b) img
  let top := if good.any fun d => d.mrdimm then 8800 else 6400
  let capv := match s.byteOfMemCfg 0 with | 1 => 4800 | 2 => 5600 | 3 => 6400 | 4 => 7200 | 5 => 8000 | _ => 8800
  let rate := good.foldl (fun n d => min n d.speed.toNat) (min top capv)
  if chans.isEmpty then (s.bstat F.stwBootstat.FAIL 1).bstat F.stwBootstat.CAUSE 5
  else
    let s := chans.foldl (fun s n =>
      let m := s.mc.getD n McState.reset
      { s with mc := s.mc.set n { m with
          trained := true, rate := rate, dimms := good.filter (fun d => d.mc.toNat == n), usable := capOf spare good n } }) s
    let s := s.mirrorTrain mask chans.contains
    let sets := placeSets 0x100000000 (buildSets (2 ^ s.byteOfMemCfg 1) caps)
    let cx := placeSets 0x400000000000 (buildCxl (s.cxlCaps cxl))
    let fr := match sets.getLast? with | some m => m.base + m.size - 0x10000000 | none => 0
    let s := (cxl.filter fun d => !d.ready).foldl (fun s d =>
      s.toLog 0x0005 2 false [3, dw d.port.toNat, dw d.rp.toNat]) s
    let s := s.hardPpr
    { s with m := { s.m with dram := sets, cxl := cx, fr := some fr } }.setPhase 8

def execMemoryTraining (dimms : List Dimm) (cacheBad untrained : BitVec 16) (cxl : List CxlDev) (s : State) :
    Host.Outcome State Fault Refusal :=
  .next (if s.inPhase 7 then s.trainMemory dimms cacheBad untrained cxl else s)

/-! ### Phase 8 -/

/-- A component copied to its destination in the reserve, under key ID 0. -/
def State.placeComponent (s : State) (fr t : Nat) : State :=
  let dest := fr + sub (s.component s.boot.fwSel t) 0 8
  let bs := s.componentData s.boot.fwSel t
  let lines := (List.range ((bs.length + 127) / 64)).map (dest / 64 + ·)
  { s with m := { s.m with
      mem := cellSetAll 0 s.m.mem dest bs
      lkey := lines.foldl (fun m l => Map.set m l (0, 0)) s.m.lkey
      poison := s.m.poison.keep fun h _ => !lines.contains (h / 2) } }

/-- Owners of the reserve's areas, and what the trusted world is told of them (R55, R278, R406, R466). -/
def State.reserveOwners (s : State) (fr : Nat) : State :=
  let page := fun o => (fr + o) / 4096
  let lo := setF (setF 0 F.twrangeLo.BASE (page 0x4000000)) F.twrangeLo.V 1
  let s := (s.setReg (.twrangeLo 0) lo).setReg (.twrangeHi 0) (setF 0 F.twrangeHi.LAST (page 0xC000000 - 1))
  let s := { s with sec := { s.sec with
    pages := [(page 0xC000000, page 0xFC00000 - 1), (page 0xFC00000, page 0x10000000 - 1)] } }
  let map := [⟨fr, 0x4000000, .unowned⟩, ⟨fr + 0x4000000, 0x8000000, .trusted⟩, ⟨fr + 0xC000000, 0x3C00000, .sec⟩,
    ⟨fr + 0xFC00000, 0x400000, .sec⟩]
  (s.onBoot fun b => { b with memMap := map }).saveBaseSet (BitVec.allOnes 64) (dw (fr + 0xFC00000))

/-- Arrays and stations initialised; slices retired again after a cold or power-on reset (R240, R447). -/
def State.initArrays (s : State) : State :=
  let s := (List.range 128).foldl (fun s t =>
    if s.fencedTile t then s
    else
      let r := Reg.l3Stat (ix 128 t)
      let s := (s.setFld r F.l3Stat.DIR_INIT_DONE 1).setFld r F.l3Stat.INIT_DONE 1
      s.setFld (.l3Policy (ix 128 t)) F.l3Policy.MODE s.boot.cfg.l3) s
  let s := if s.boot.resetting = some .warm then s
    else s.log.retired.foldl (fun s t => (s.moveAll t).setFld (.l3Waypwr (ix 128 t)) F.l3Waypwr.OFF 255) s
  (List.range 16).foldl (fun s n => s.setFld (.mcRas (ix 16 n)) F.mcRas.SELFREF 0) s

def execFirmwareReserveSetup (s : State) : Host.Outcome State Fault Refusal :=
  .next (if !s.inPhase 8 then s
    else match s.m.fr with
      | none => s
      | some fr =>
        let s := (s.initArrays).reserveOwners fr
        let ts := [0x8102, 0x8103, 0x8104]
        let s := ts.foldl (fun s t => s.placeComponent fr t) s
        if ts.all (s.componentOk s.boot.fwSel) then
          let v := s.component s.boot.fwSel 0x8103
          -- pc is a multiple of 4, whatever DEST is (R69, log entry 135)
          (s.onBoot fun b => { b with twEntry := (fr + sub v 0 8 + sub v 12 4) / 4 * 4 }).setPhase 9
        else s.bankFailed .fw s.boot.fwSel)

/-! ### Phase 9 -/

/-- The boot core: that of BOOT.CORE, or the lowest-numbered enabled one (R37). -/
def State.bootCore (s : State) : Option Nat :=
  if s.noCore s.boot.cfg.bootCore then firstOf (fun c => !s.noCore c) (List.range 256) else some s.boot.cfg.bootCore

/-- A core released at level L3 of the trusted world: its domain wakes, and the core starts once it reads ON (R37). -/
def State.release (s : State) (c : Nat) (entry : DWord) : State :=
  (s.setCore c { Core.reset with run := .running, pc := entry }).wake (domCore c)

/-- Root ports whose link has trained leave clasp (R380); endpoint windows open. -/
def State.openPorts (s : State) : State :=
  let s := (List.range 32).foldl (fun s i =>
    let r := rClasp (i / 4) (i % 4)
    if s.isRp (i / 4) (i % 4) ∧ s.flag r F.clasp.LINKUP then (s.setFld r F.clasp.CLASPED 0).setFld r F.clasp.DROPPED 0
    else s) s
  [0, 4].foldl (fun s p =>
    if s.role p = .endpoint then s.onPort p fun i => { i with ep := { i.ep with winOpen := true } }
    else s) s

def execBootCoreRelease (s : State) : Host.Outcome State Fault Refusal :=
  .next (if !s.inPhase 9 then s
    else
      let s := (s.openPorts.onBoot fun b => { b with resetting := none }).setPhase 10
      match s.bootCore with
      | some c => s.release c (dw s.boot.twEntry)
      | none => s)

/-! ### Recovery (R50) and updates cut short (R53) -/

/-- The Steward Ethernet in recovery (R47). -/
def State.recoveryNet (s : State) : Option NetIf :=
  match s.pickBank .cfg (s.valid .cfg) with
  | none => some (recoveryIf s.boot.fuses.serial)
  | some b => netIf (s.cfgOf b).net

/-- The Steward accepts a frame: of its VLAN, to its link-local address (R47, R50). -/
def State.recoveryFrame (s : State) (f : NetFrame) : Bool :=
  match s.recoveryNet with
  | some n => f.vlan.toNat == n.vlan && f.dest == n.linkLocal
  | none => false

/-- The bank a received image may go to, and whether it must be newer. -/
def State.recoveryBank (s : State) (k : Img) : Option (Bool × Bool) :=
  let a := s.bankOk k false; let b := s.bankOk k true
  let strap := decide (3 ≤ s.fld .stwBootstat F.stwBootstat.CAUSE)
  if !a && !b then some (false, false)
  else if !strap then none
  else if !a then some (false, false)
  else if !b then some (true, false)
  else (s.pickBank k (s.bankOk k)).map fun sel => (!sel, true)

def State.recoveryImage (s : State) (k : Img) (image : List Byte) : State :=
  match s.recoveryBank k with
  | none => s
  | some (b, mustNew) =>
    let s1 := (s.eraseFlash (k.base b) k.size).program (k.base b) (image.take k.size)
    if s1.valid k b ∧ image.length ≤ k.size ∧ (!mustNew ∨ newer (s1.seqOf k b) (s.seqOf k (!b))) then
      let clear := fun (p : Bool × Bool) => if b then (p.1, false) else (false, p.2)
      (s1.onBoot fun x => match k with
        | .cfg => { x with cfgFailed := clear x.cfgFailed }
        | _ => { x with fwFailed := clear x.fwFailed }).coldReset 4
    else s

def execRecoveryImageReceived (firmware : Bool) (tftp : Option NetFrame) (image : List Byte) (s : State) :
    Host.Outcome State Fault Refusal :=
  .next (if s.boot.pins.pwrok ∧ s.flag .stwBootstat F.stwBootstat.RCVR ∧ (tftp.map s.recoveryFrame).getD true = true then
      s.recoveryImage (if firmware then .fw else .cfg) image
    else s)

def execImageUpdateTimeout (s : State) : Host.Outcome State Fault Refusal := .next s.dropUpdate

end Sys2Proof.Machine
end

