-- ==== Sys2Proof/Machine/Mailbox.lean ====
section
/-! DEFINITION. The Steward's mailboxes (R56-R66) and their commands. -/

namespace Sys2Proof.Machine

abbrev rMb (m : Fin 5) : Reg := .mbCmd m
def State.mbArg (s : State) (m : Fin 5) (k : Nat) : Nat := (s.reg (.mbArg m (ix 8 k))).toNat

/-! ### Statuses (R65), as the 16-bit value of STS.STATUS -/

abbrev stOk : Nat := 0
abbrev stBadcmd : Nat := 0xFFFF
abbrev stBadarg : Nat := 0xFFFE
abbrev stDenied : Nat := 0xFFFD
abbrev stBusy : Nat := 0xFFFC
abbrev stBankActive : Nat := 0xFFFB
abbrev stVerify : Nat := 0xFFFA
abbrev stStale : Nat := 0xFFF9
abbrev stFlash : Nat := 0xFFF8
/-- No mailbox command answers with it: it is what a TCALL and a locket service return (R297). -/
abbrev stUnavailable : Nat := 65536 - unavailable

/-- The completion signalled to the mailbox's writer (R58). -/
def State.mbSignal (s : State) (m : Fin 5) : State :=
  match m.val with
  | 0 => s.raiseStw 0
  | 1 => s.raiseStw 1
  | 2 => s.msixSend 0 0 0
  | 3 => s.msixSend 4 0 0
  | _ => if s.boot.ibiEn then
      s.onBoot fun b => { b with pins := { b.pins with i3cIbi := b.pins.i3cIbi + 1 } }
    else s

/-- A command completes: results and STATUS, then GO cleared and DONE set, then the signal (R57-R59). -/
def State.mbDone (s : State) (m : Fin 5) (st : Nat) (res : List DWord) : State :=
  let s := (List.range 8).foldl (fun s k => s.setReg (.mbRes m (ix 8 k)) (res.getD k 0)) s
  let r := Reg.mbSts m
  let s := ((s.setFld r F.mbSts.STATUS st).setFld r F.mbSts.TAG (s.fld (rMb m) F.mbCmd.TAG)).setFld r F.mbSts.DONE 1
  let s := (s.setFld (rMb m) F.mbCmd.GO 0).onBoot fun b => { b with mbLast := m }
  if s.flag (rMb m) F.mbCmd.IRQ_EN then s.mbSignal m else s

/-- Mailboxes a command is listed for (R62); region 1 of the image commands and the entries of ERRLOG_READ for MB0 are
settled by the commands. -/
def mbListed (code : Nat) (m : Nat) (nwReset : Bool) : Bool :=
  match code with
  | 0x01 | 0x02 | 0x09 | 0x0B => true
  | 0x03 | 0x04 | 0x05 | 0x0A => m == 0 || m == 1 || m == 4
  | 0x06 => (m == 0 && nwReset) || m == 1 || m == 4
  | 0x07 | 0x0C | 0x0D => m == 1
  | 0x08 | 0x0F => m == 1 || m == 4
  | 0x0E => m == 4
  | _ => false

/-- Commands a halted Steward still serves (R434). -/
def mbHaltServes (code : Nat) : Bool := [0x01, 0x02, 0x06, 0x09, 0x0A].contains code

/-- A mailbox holds a command that the Steward serves: only the I3C mailbox's when start-up has stopped (R38), and only
some commands when halted. -/
def State.mbWaiting (s : State) (m : Fin 5) : Bool :=
  s.flag (rMb m) F.mbCmd.GO && (!s.flag .stwBootstat F.stwBootstat.FAIL || m.val == 4) &&
    (s.sec.fatal != 2 || mbHaltServes (s.fld (rMb m) F.mbCmd.CODE))

/-- The mailbox whose turn it is: the first ready one after that served last, in mailbox order (R60). -/
def State.mbTurn (s : State) : Option (Fin 5) :=
  let l := s.boot.mbLast
  [l + 1, l + 2, l + 3, l + 4, l].find? s.mbWaiting

/-- The Steward serves the command of a mailbox now: not while PWROK is low, and in its turn. -/
def State.mbServes (s : State) (m : Fin 5) (code : Nat) : Bool :=
  s.boot.pins.pwrok && !s.boot.pins.thermTrip && s.mbTurn == some m && s.fld (rMb m) F.mbCmd.CODE == code

/-- The Steward completes the waiting command of a mailbox with a meaning for its code. -/
def State.mbRun (s : State) (m : Fin 5) (code : Nat) (f : State → Nat × List DWord × State) : State :=
  if !s.mbServes m code then s
  else if !mbListed code m.val s.boot.cfg.nwReset then s.mbDone m stDenied []
  else
    let r := f s
    r.2.2.mbDone m r.1 r.2.1

/-! ### Submission (R57, R59) -/

/-- A write of CMD or an ARG register while GO = 1. -/
def execMboxCollide (mb : Fin 5) (s : State) : Host.Outcome State Fault Refusal :=
  .next (if s.flag (rMb mb) F.mbCmd.GO then s.setFld (.mbSts mb) F.mbSts.COLLIDE 1 else s)

/-- A write of a mailbox register by one of the mailbox's writers. -/
def State.mbWrite (s : State) (m : Fin 5) (r : Reg) (mask v : DWord) : State :=
  let held : Bool := match r with | .mbSts _ => false | _ => true
  if held ∧ s.flag (rMb m) F.mbCmd.GO then s.setFld (.mbSts m) F.mbSts.COLLIDE 1
  else s.writeReg r true mask v

def execMboxUnknownCode (mb : Fin 5) (s : State) : Host.Outcome State Fault Refusal :=
  let code := s.fld (rMb mb) F.mbCmd.CODE
  .next (if (code = 0 ∨ 0x0F < code) ∧ s.mbServes mb code then s.mbDone mb stBadcmd [] else s)

def execInBandInterruptEnable (en : Bool) (s : State) : Host.Outcome State Fault Refusal :=
  .next (s.onBoot fun b => { b with ibiEn := en })

/-! ### Information -/

/-- Installed memory counts the trained DIMMs (log entry 98). -/
def execGetInfo (mb : Fin 5) (s : State) : Host.Outcome State Fault Refusal :=
  .next (s.mbRun mb 0x01 fun s =>
    let mib := s.mc.foldl (fun n p => n + p.2.dimms.foldl (fun n d => n + 1024 * d.gib.toNat) 0) 0
    (stOk, [s.reg .stwDevid, Config.coreSummary ((List.range 256).filter fun c => !s.noCore c), dw mib], s))

def execGetBootstat (mb : Fin 5) (s : State) : Host.Outcome State Fault Refusal :=
  .next (s.mbRun mb 0x02 fun s =>
    let b := s.boot
    (stOk, [s.reg .stwBootstat, Config.bankSummary b.cfgSel b.fwSel (s.seqOf .cfg b.cfgSel) (s.seqOf .fw b.fwSel)], s))

def execTelemetryRead (mb : Fin 5) (s : State) : Host.Outcome State Fault Refusal :=
  .next (s.mbRun mb 0x09 fun s =>
    let cls := s.mbArg mb 0
    let i := s.mbArg mb 1
    let known := fun c => decide (c ≤ 6)
    if known cls then (stOk, (List.range 8).map fun k => s.telemetry cls (i + k), s)
    else if 0x80 ≤ cls ∧ known (cls - 0x80) then
      (stOk, (List.range 8).map fun k => s.rtu.snap.getD (cls - 0x80, i + k) 0, s)
    else (stBadarg, [], s))

/-- Index 0 is the newest entry; MB0 sees only those that hold no trusted, SEC or locket content (R449). -/
def execErrlogRead (mb : Fin 5) (s : State) : Host.Outcome State Fault Refusal :=
  .next (s.mbRun mb 0x0A fun s =>
    let l := (s.log.entries.filter fun e => mb.val != 0 || !e.trusted).reverse
    match l[s.mbArg mb 0]? with
    | some e => (stOk, e.words, s)
    | none => (stBadarg, [], s))

/-- A byte offset at or past the end of the certificate reads zeros (log entry 98). -/
def execGetSignet (mb : Fin 5) (s : State) : Host.Outcome State Fault Refusal :=
  .next (s.mbRun mb 0x0B fun s =>
    let c := s.mbArg mb 0
    let off := s.mbArg mb 1
    let b := s.boot
    let len := Config.certificateLen b.fuses.engineering b.measures c
    let byte := fun i => if i < len then Config.certificate b.fuses.engineering b.measures c i else 0
    if 3 ≤ c then (stBadarg, [], s)
    else (stOk, dw len :: (List.range 7).map fun w => dw (leNat ((List.range 8).map fun k => byte (off + 8 * w + k))), s))

/-! ### Image update (R51-R53, R64) -/

def imgOf (region : Nat) : Img := if region = 0 then .cfg else .fw

/-- The bank of a region that is selected (R48): the one start-up chose, from the phase that chooses it on; before that, and
in recovery, the one it would choose, not one that an open update is writing. -/
def State.selected (s : State) (k : Img) : Option Bool :=
  let chosen := !s.flag .stwBootstat F.stwBootstat.RCVR && decide ((if k = .cfg then 4 else 6) ≤ s.phase)
  if chosen then some (if k = .cfg then s.boot.cfgSel else s.boot.fwSel) else s.pickBank k fun b => s.bankOk k b &&
    match s.boot.update with
    | some u => !(imgOf u.region == k && u.bank == b)
    | none => true

/-- The bank an update writes: the one not selected, so that a BEGIN never meets BANK_ACTIVE; in recovery as R50 says, if it
lets one be written. -/
def State.updateBank (s : State) (k : Img) : Option Bool :=
  if s.flag .stwBootstat F.stwBootstat.RCVR then (s.recoveryBank k).map Prod.fst
  else match s.selected k with
    | none => some false
    | some b => some !b

/-- A BEGIN from the mailbox whose update is open starts it again (log entry 98). -/
def execImageBegin (mb : Fin 5) (flashOk : Bool) (s : State) : Host.Outcome State Fault Refusal :=
  .next (s.mbRun mb 0x03 fun s =>
    let region := s.mbArg mb 0
    let other := match s.boot.update with | some u => u.mb != mb.val | none => false
    if 2 ≤ region then (stBadarg, [], s)
    else if mb.val = 0 ∧ region = 1 then (stDenied, [], s)
    else if other then (stBusy, [], s)
    else
      let k := imgOf region
      let s1 := s.dropUpdate
      match s1.updateBank k with
      | none => (stDenied, [], s)
      | some b =>
        let s1 := s1.eraseFlash (k.base b) k.size
        if flashOk then (stOk, [dw (b2n b)], s1.onBoot fun x => { x with update := some ⟨mb.val, region, b⟩ })
        else (stFlash, [], s1))

/-- The bytes of a chunk, or the status that ends the command; a refusal by the ownership check is recorded (R280). Both
in-band mailboxes read under key ID 0 (log entry 110). -/
def State.chunk (s : State) (mb : Fin 5) : Except (Nat × State) (List Byte × State) :=
  if mb.val = 4 then
    let len := s.mbArg mb 1
    if 48 < len then .error (stBadarg, s)
    else .ok (((List.range 6).flatMap fun k => leBytes 8 (s.mbArg mb (2 + k))).take len, s)
  else
    let pa := s.mbArg mb 1
    let len := s.mbArg mb 2
    if 65536 < len then .error (stBadarg, s)
    else match s.agentRead false stwStop ⟨mb.val == 1, 0, 0⟩ 0 (linesOf len) pa len with
      | .error .denied =>
        .error (stDenied, s.logErr { bank := 160, cls := 0x33, sev := 2, src := mb.val, addr := some (0, pa),
                                     hidden := mb.val == 1 || s.hiddenAt (mb.val == 1) pa })
      | .error (.err _) => .error (stBadarg, s)
      | .ok (bs, bad, s1) => if bad then .error (stBadarg, s) else .ok (bs, s1)

def execImageChunk (mb : Fin 5) (flashOk : Bool) (s : State) : Host.Outcome State Fault Refusal :=
  .next (s.mbRun mb 0x04 fun s =>
    match s.boot.update with
    | none => (stBadarg, [], s)
    | some u =>
      if u.mb ≠ mb.val then (stBadarg, [], s)
      else
        let k := imgOf u.region
        let off := s.mbArg mb 0
        if s.selected k = some u.bank then (stBankActive, [], s)
        else match s.chunk mb with
        | .error e => (e.1, [], e.2)
        | .ok (bs, s1) =>
          if k.size < off + bs.length then (stBadarg, [], s)
          else if flashOk then (stOk, [], s1.program (k.base u.bank + off) bs)
          else (stFlash, [], s1.dropUpdate))

/-- What IMAGE_END does with the open update: its status, its results and the state. The mark of a failed bank goes with the
image that failed (log entry 98). -/
def State.imageEnd (s : State) (mb : Fin 5) (flashOk : Bool) : Nat × List DWord × State :=
  match s.boot.update with
  | none => (stBadarg, [], s)
  | some u =>
    if u.mb ≠ mb.val then (stBadarg, [], s)
    else
      let k := imgOf u.region
      let sel := s.pickBank k fun b => b != u.bank && s.bankOk k b
      if s.selected k = some u.bank ∧ !s.flag .stwBootstat F.stwBootstat.RCVR then (stBankActive, [], s)
      else if !flashOk then (stFlash, [], s.dropUpdate)
      else if !s.valid k u.bank then (stVerify, [], s.dropUpdate)
      else
        let q := s.seqOf k u.bank
        let stale := match sel with | some b => !newer q (s.seqOf k b) | none => false
        if stale then (stStale, [], s.dropUpdate)
        else
          let clear := fun (p : Bool × Bool) => if u.bank then (p.1, false) else (false, p.2)
          (stOk, [dw q], s.onBoot fun x => match k with
            | .cfg => { x with update := none, cfgFailed := clear x.cfgFailed }
            | _ => { x with update := none, fwFailed := clear x.fwFailed })

/-- In recovery a cold reset follows an image that is taken (R50). -/
def execImageEnd (mb : Fin 5) (flashOk : Bool) (s : State) : Host.Outcome State Fault Refusal :=
  let t := s.mbRun mb 0x05 fun s => s.imageEnd mb flashOk
  let taken := s.mbServes mb 0x05 && mbListed 0x05 mb.val s.boot.cfg.nwReset && (s.imageEnd mb flashOk).1 == stOk
  .next (if s.flag .stwBootstat F.stwBootstat.RCVR ∧ taken then t.coldReset 4 else t)

/-! ### Reset, cores, power -/

/-- RESET completes before the reset starts. -/
def execReset (mb : Fin 5) (s : State) : Host.Outcome State Fault Refusal :=
  let arg := s.mbArg mb 0
  let go := s.mbServes mb 0x06 && mbListed 0x06 mb.val s.boot.cfg.nwReset && decide (arg ≤ 1)
  let s := s.mbRun mb 0x06 fun s => (if arg ≤ 1 then stOk else stBadarg, [], s)
  .next (if go then s.requestReset (if arg = 1 then .cold else .warm) 1 else s)

/-- Cores are released once phase 6 has completed (R35), and never in recovery (R50) or where start-up has stopped (R38). -/
def State.mayRelease (s : State) : Bool := decide (6 < s.phase) && !s.stoppedBoot

/-- An entry address is a multiple of 4 (R69, log entry 98). -/
def execCoreRelease (mb : Fin 5) (s : State) : Host.Outcome State Fault Refusal :=
  .next (s.mbRun mb 0x07 fun s =>
    let c := s.mbArg mb 0
    if 256 ≤ c then (stBadarg, [], s)
    else if s.mbArg mb 1 % 4 ≠ 0 then (stBadarg, [], s)
    else if !s.mayRelease ∨ s.noCore c ∨ (s.core c).run ≠ .held then (stDenied, [], s)
    else (stOk, [], s.release c (dw (s.mbArg mb 1))))

def execSetPower (mb : Fin 5) (s : State) : Host.Outcome State Fault Refusal :=
  .next (s.mbRun mb 0x08 fun s =>
    let w := s.mbArg mb 0
    if inRange 380 700 w then (stOk, [], { s with ras := { s.ras with pkg := w } }) else (stBadarg, [], s))

/-! ### Fuses (R45, R63) -/

def execSvnCommit (mb : Fin 5) (s : State) : Host.Outcome State Fault Refusal :=
  .next (s.mbRun mb 0x0C fun s =>
    if s.boot.fwSvn < s.boot.cfgSvn then (stDenied, [], s)
    else (stOk, [], s.onBoot fun b => { b with fuses := { b.fuses with
      svnFuses := b.fuses.svnFuses ||| (1#64 <<< b.cfgSvn - 1#64) } }))

def execKeyRevoke (mb : Fin 5) (s : State) : Host.Outcome State Fault Refusal :=
  .next (s.mbRun mb 0x0D fun s =>
    let k := s.mbArg mb 0
    if k = 0 ∨ 4 < k then (stBadarg, [], s)
    else if k = s.boot.cfgSlot ∨ k = s.boot.fwSlot then (stDenied, [], s)
    else (stOk, [], s.onBoot fun b => { b with fuses := { b.fuses with
      revoked := if b.fuses.revoked.contains k then b.fuses.revoked else b.fuses.revoked ++ [k] } }))

/-- The hash in ARG1-ARG6, first byte in the lowest byte of ARG1. -/
def execKeyProgram (mb : Fin 5) (s : State) : Host.Outcome State Fault Refusal :=
  .next (s.mbRun mb 0x0E fun s =>
    let k := s.mbArg mb 0
    let h := beNat ((List.range 6).flatMap fun i => leBytes 8 (s.mbArg mb (1 + i)))
    if k = 0 ∨ 4 < k then (stBadarg, [], s)
    else if (s.boot.fuses.ownerHash.find k).isSome then (stDenied, [], s)
    else (stOk, [], s.onBoot fun b => { b with fuses := { b.fuses with
      ownerHash := b.fuses.ownerHash.set k (BitVec.ofNat 384 h) } }))

/-- TW_RESTART: trusted services, where they still stand, are lost as at a watchdog expiry, and a reload begins (R62,
R298); TRUSTED_RESTART ends it. -/
def execTwRestart (mb : Fin 5) (s : State) : Host.Outcome State Fault Refusal :=
  .next (s.mbRun mb 0x0F fun s =>
    let s := if s.avail then s.servicesLost else s
    (stOk, [], { s with sec := { s.sec with autoReload := false } }.setFld .twstate F.twstate.RESTARTING 1))

end Sys2Proof.Machine
end

