-- ==== Sys2Proof/Machine/Ccs.lean ====
section
/-! DEFINITION. The Chip Control Space (R469-R474): which register lies at an offset, what a read of it returns and
changes, and what a write of it does. -/

namespace Sys2Proof.Machine

/-! ### Offsets (R471, R472) -/

/-- An offset: outside every block range, inside one where no register lies, or at a register. -/
inductive Slot where
  | none_
  | empty
  | at_ (r : Reg)
  /-- a dword of the configuration space mirror (4-byte elements) -/
  | mirror (p : Fin 8) (i : Nat)
deriving DecidableEq, Repr

/-- Element of an array with a base, a stride, a length and a body. -/
def arr (off base stride len : Nat) (f : Nat → Nat → Slot) (other : Slot) : Slot :=
  if base ≤ off ∧ off < base + stride * len then f ((off - base) / stride) ((off - base) % stride / 8) else other

/-- A scalar of a list by slot. -/
def scal (off : Nat) (l : List Reg) (other : Slot) : Slot :=
  match l[off / 8]? with | some r => .at_ r | none => other

/-- The one register of an array element. -/
def one (r : Reg) (k : Nat) : Slot := if k = 0 then .at_ r else .empty

def stwAt (o : Nat) : Slot :=
  if o < 0x1000 then scal o [.stwDevid, .stwBootstat] .empty
  else arr o 0x1000 256 5 (fun m k =>
      if k = 0 then .at_ (.mbCmd (ix 5 m)) else if k = 1 then .at_ (.mbSts (ix 5 m))
      else if k < 10 then .at_ (.mbArg (ix 5 m) (ix 8 (k - 2)))
      else if k < 18 then .at_ (.mbRes (ix 5 m) (ix 8 (k - 10))) else .empty) <|
    arr o 0x2000 16 256 (fun e k => .at_ (if k = 0 then .stwIntLo (ix 256 e) else .stwIntHi (ix 256 e))) <|
    arr o 0x3000 8 64 (fun e _ => .at_ (.gather (ix 64 e))) <|
    arr o 0x4000 8 64 (fun e _ => .at_ (.gack (ix 64 e))) .empty

def pwrAt (o : Nat) : Slot :=
  if o < 0x1000 then scal o [.calloc, .legacyCmd, .hyst, .savebase] .empty
  else arr o 0x1000 8 4096 (fun e _ => .at_ (.candle (ix 4096 e))) <|
    arr o 0x9000 8 417 (fun e _ => .at_ (rDom e)) <|
    arr o 0xA000 8 417 (fun e _ => .at_ (rLtol e)) <|
    arr o 0xB000 8 24 (fun e _ => .at_ (.gpwake (ix 24 e))) <|
    arr o 0xC000 8 14 (fun e _ => .at_ (.twuse (ix 14 e))) .empty

def clkAt (o : Nat) : Slot :=
  if o < 0x1000 then scal o [.clkTwuse] .empty else arr o 0x1000 8 40 (fun e _ => .at_ (.cdCtl (ix 40 e))) .empty

def rasAt (o : Nat) : Slot :=
  if o < 0x1000 then scal o [.fatalctl, .therm, .droop, .iftCtl, .fenceReq, .retireReg] .empty
  else arr o 0x1000 8 8 (fun e _ => .at_ (.fenceCore (ix 8 e))) <|
    arr o 0x2000 8 4 (fun e _ => .at_ (.fenceTile (ix 4 e))) <|
    arr o 0x3000 8 161 (fun e _ => .at_ (.ebCtl (ix 161 e))) <|
    arr o 0x4000 8 161 (fun e _ => .at_ (.ebCnt (ix 161 e))) <|
    arr o 0x5000 32 1288 (fun e k =>
      let b := ix 161 (e / 8); let i := ix 8 e
      .at_ (match k with | 0 => .ebStat b i | 1 => .ebAddr b i | 2 => .ebInfo b i | _ => .ebTime b i)) .empty

def rtuAt (o : Nat) : Slot :=
  if o < 0x1000 then
    scal o [.rtuCtl, .rtuStatus, .rtuLoad, .rtuSyncout, .rtuCnt, .rtuFrac, .rtuSnaptime, .rtuSnapseq, .rtuSdStat] .empty
  else arr o 0x1000 8 4 (fun e _ => .at_ (.rtuSdParam (ix 4 e))) <|
    arr o 0x2000 32 512 (fun e k =>
      .at_ (match k with
        | 0 => .llDue (ix 512 e) | 1 => .llCtl (ix 512 e) | 2 => .llArg (ix 512 e) | _ => .llStat (ix 512 e))) .empty

def secAt (o : Nat) : Slot :=
  if o < 0x1000 then scal o [.keypart, .keycmd, .twdog, .twstate] .empty
  else arr o 0x1000 16 16 (fun e k => .at_ (if k = 0 then .twrangeLo (ix 16 e) else .twrangeHi (ix 16 e))) .empty

def meshAt (o : Nat) : Slot :=
  if o < 0x1000 then
    scal o [.ageCtl, .tmoRd, .tmoWr, .tmoAtom, .tmoQ, .tmoDev, .tmoSnp, .lateCnt, .wakeLimit, .statCtl, .statSeq] .empty
  else arr o 0x1000 8 7 (fun e _ => .at_ (.histEdge (ix 7 e))) <|
    arr o 0x2000 128 272 (fun e k =>
      if k = 0 then .at_ (.statReq (ix 272 e)) else if k = 1 then .at_ (.statBytes (ix 272 e))
      else if k < 10 then .at_ (.statHist (ix 272 e) (ix 8 (k - 2)))
      else if k = 10 then .at_ (.statMax (ix 272 e)) else if k = 11 then .at_ (.statTmo (ix 272 e)) else .empty) .empty

def dmAt (d o : Nat) : Slot :=
  if o < 0x1000 then scal o [.dmTinv (ix 2 d)] .empty
  else arr o 0x1000 32 32 (fun e k =>
    match k with
    | 0 => .at_ (.dmAttr (ix 2 d) (ix 32 e)) | 1 => .at_ (.dmCtl (ix 2 d) (ix 32 e))
    | 2 => .at_ (.dmXlat (ix 2 d) (ix 32 e)) | _ => .empty) .empty

/-- Items marked EP exist in IO0 and IO4 only. -/
def ioAt (p o : Nat) : Slot :=
  let f := ix 8 p
  let ep := fun (x : Slot) => if p = 0 ∨ p = 4 then x else .empty
  if o < 0x38 then scal o [.ctxbase f, .faultq f, .faultcnt f, .icqBase f, .icqTail f, .icqHead f, .icqStat f] .empty
  else if o < 0x1000 then
    ep (scal (o - 0x38) [.epCfg f, .epMsix f, .epWinsync f, .epRombase f, .epEvq f, .epStat f] .empty)
  else arr o 0x1000 16 4 (fun e k => .at_ (if k = 0 then .rpCtl f (ix 4 e) else .clasp f (ix 4 e))) <|
    arr o 0x2000 16 2048 (fun e k => .at_ (if k = 0 then .ioIntLo f (ix 2048 e) else .ioIntHi f (ix 2048 e))) <|
    arr o 0xA000 32 1024 (fun e k => ep (match k with
      | 0 => .at_ (.epWinA f (ix 1024 e)) | 1 => .at_ (.epWinB f (ix 1024 e)) | 2 => .at_ (.epWinC f (ix 1024 e))
      | _ => .empty)) <|
    arr o 0x12000 8 64 (fun e _ => ep (.at_ (.epOut f (ix 64 e)))) <|
    arr o 0x13000 4 24576 (fun e _ => ep (.mirror f e)) .empty

def l3ChipAt (o : Nat) : Slot :=
  if o < 0x1000 then scal o [.l3Thresh] .empty else arr o 0x1000 8 128 (fun e _ => .at_ (.l3Remap (ix 128 e))) .empty

def qsAt (t o : Nat) : Slot :=
  arr o 0 32 512 (fun e k =>
    .at_ (match k with
      | 0 => .qcfg (ix 128 t) (ix 512 e) | 1 => .qown (ix 128 t) (ix 512 e) | 2 => .qnaddr (ix 128 t) (ix 512 e)
      | _ => .qstat (ix 128 t) (ix 512 e))) .empty

/-- What lies at an offset of the Chip Control Space. -/
def slotAt (o : Nat) : Slot :=
  if o < 0x100000 then stwAt o
  else if o < 0x200000 then pwrAt (o - 0x100000)
  else if o < 0x300000 then clkAt (o - 0x200000)
  else if o < 0x400000 then rasAt (o - 0x300000)
  else if o < 0x500000 then
    scal (o - 0x400000) [.gpioDir, .gpioOut, .gpioIn, .gpioWorld, .gpioDenied, .gpioAltfn] .empty
  else if o < 0x600000 then rtuAt (o - 0x500000)
  else if o < 0x700000 then secAt (o - 0x600000)
  else if o < 0x800000 then meshAt (o - 0x700000)
  else if o < 0xA00000 then dmAt ((o - 0x800000) / 0x100000) (o % 0x100000)
  else if o < 0x1000000 then .none_
  else if o < 0x2000000 then
    if o % 0x100000 < 8 then .at_ (.mcRas (ix 16 ((o - 0x1000000) / 0x100000))) else .empty
  else if o < 0x4000000 then ioAt ((o - 0x2000000) / 0x400000) (o % 0x400000)
  else if o < 0x4100000 then if o % 0x1000 < 8 then .at_ (.l2Stat (ix 256 ((o - 0x4000000) / 0x1000))) else .empty
  else if 0x41F0000 ≤ o ∧ o < 0x4200000 then if o < 0x41F0008 then .at_ .l2Thresh else .empty
  else if 0x5000000 ≤ o ∧ o < 0x5200000 then
    let c := ix 256 ((o - 0x5000000) / 0x2000)
    let i := o % 0x2000
    if i < 8 then .at_ (.liuMerged c) else arr i 0x1000 8 256 (fun e _ => .at_ (.liuVstat c (ix 256 e))) .empty
  else if 0x6000000 ≤ o ∧ o < 0x6080000 then
    let n := ix 128 ((o - 0x6000000) / 0x1000)
    scal (o % 0x1000) [.l3Policy n, .l3Admit n, .l3Lock n, .l3Waypwr n, .l3Stat n] .empty
  else if 0x60F0000 ≤ o ∧ o < 0x6100000 then l3ChipAt (o - 0x60F0000)
  else if 0x8000000 ≤ o ∧ o < 0x8800000 then qsAt ((o - 0x8000000) / 0x10000) (o % 0x10000)
  else .none_

/-! ### Reads -/

/-- A pin as a world reads it (R294, R452). -/
def State.pinRead (s : State) (world : Bool) : Nat :=
  (List.range 24).foldl (fun n p =>
    if s.pinLevel p ∧ (world ∨ s.gpioRank p ≠ 1) then n + 2 ^ p else n) 0

def ownCode (rank : Nat) : Nat := match rank with | 1 => 3 | 2 => 2 | 3 => 1 | _ => 0

/-- The frequency of a clock domain in MHz (R24); the halving of a droop is not shown. -/
def State.cdFreq (s : State) (n : Nat) : Nat :=
  if n = 0 then 100 else if n = 1 then 1000 else if n = 2 then 1200
  else if n < 19 then ({ s with ras := { s.ras with drooping := [] } }).freqOf (n - 3)
  else if n < 23 then 2400
  else if n < 31 then
    let k := 2 * (n - 23)
    let a := s.mc.getD k McState.reset; let b := s.mc.getD (k + 1) McState.reset
    if a.trained then a.rate / 4 else if b.trained then b.rate / 4 else 0
  else if n < 39 then (if s.role (n - 31) = .disabled then 0 else 1000)
  else 2400

/-- A clock domain whose power domains are all below ON (R391, R393). -/
def State.cdGated (s : State) (n : Nat) : Bool :=
  if n = 2 then !s.isOn domSec
  else if 3 ≤ n ∧ n < 19 then !anyBelow 256 fun c => clusterOf (c / 2) == n - 3 && s.isOn c
  else if 19 ≤ n ∧ n < 23 then !s.isOn (domMesh (n - 19))
  else if 23 ≤ n ∧ n < 31 then !s.isOn (domMc (2 * (n - 23))) && !s.isOn (domMc (2 * (n - 23) + 1))
  else if 31 ≤ n ∧ n < 39 then !s.isOn (domIo (n - 31))
  else false

/-- One half of VSTAT: the pending and in-service state of a vector (R474); for vector 1, of the L1 timer (R312). -/
def State.vstat (s : State) (c vec : Nat) (world : Bool) : Nat :=
  let k := s.core c
  let pend := fun w => ((s.requests c).filter fun b => b.world == w && b.vec == vec && decide (b.tmr ≤ 1)).foldl
    (fun (m : Option IntBit) b => match m with | none => some b | some a => if b.better a then some b else some a) none
  let half := fun w =>
    let ins := b2n (k.serv.any fun b => b.world == w && b.vec == vec && decide (b.tmr ≤ 1))
    match pend w with
    | some b => b.prio * 16 + b.lvl * 4 + ins * 2 + 1
    | none => ins * 2
  half false + (if world then 256 * half true else 0)

/-- Words and complete messages of a queue. -/
def State.qcell (s : State) (t k : Nat) : Queue := s.qs.q.getD (t, k) ⟨[], none⟩
def tagOf (w : DWord) : Nat := w.toNat >>> 56
/-- Complete messages held: ONLY and LAST words (R328). -/
def Queue.msgs (q : Queue) : Nat := (q.words.filter fun w => tagOf w != 1).length

/-- A dword of a function's configuration space (R382): the identification, and what the rule says of the capabilities, which
stand where PCIe and the part put them: the MSI-X table size, the serial number, TotalVFs, NumVFs and the device ID of the
VFs. A VF's own identification reads as SR-IOV has it. The rest is free (log entry 44). -/
def State.cfgDword (s : State) (p f j : Nat) : Nat :=
  let d := (Config.pcieDword p f j).toNat
  let msix := Config.pcieCap f 0x11; let dsn := Config.pcieCap f 0x10003; let sriov := Config.pcieCap f 0x10010
  if j = 0 then (if f = 0 then 0x9256 * 2 ^ 16 + s.boot.fuses.vendorId.toNat else 2 ^ 32 - 1)
  else if j = 2 then 0x120000 * 2 ^ 8 + (s.reg .stwDevid).toNat / 2 ^ 8 % 2 ^ 8
  else if j = msix then d / 2 ^ 27 * 2 ^ 27 + (if f = 0 then 31 else 3) * 2 ^ 16 + d % 2 ^ 16
  else if j = dsn + 1 then s.boot.fuses.serial.toNat % 2 ^ 32
  else if j = dsn + 2 then s.boot.fuses.serial.toNat / 2 ^ 32
  else if f = 0 ∧ j = sriov + 3 then 31 * 2 ^ 16 + 31
  else if f = 0 ∧ j = sriov + 4 then d / 2 ^ 16 * 2 ^ 16 + s.fld (.epStat (ix 8 p)) F.epStat.NUMVF
  else if f = 0 ∧ j = sriov + 6 then 0x9257 * 2 ^ 16 + d % 2 ^ 16
  else d

/-- A dword of a function's configuration space as the host reads it (R474). -/
def State.mirrorRead (s : State) (p i : Nat) : Nat :=
  let f := i / 768
  if s.role p = .endpoint ∧ (f = 0 ∨ f ≤ s.fld (.epStat (ix 8 p)) F.epStat.NUMVF) then s.cfgDword p f (i % 768) else 0

/-- What a read of a register returns to a request. -/
def State.regView (s : State) (q : Req) (r : Reg) : DWord :=
  let w := s.reg r
  match r with
  | .dom n => s.domView n.val
  | .gpioIn => dw (s.pinRead q.world)
  | .gpioAltfn => setF (setF w F.gpioAltfn.OWN20 (ownCode (s.gpioRank 20))) F.gpioAltfn.OWN21 (ownCode (s.gpioRank 21))
  | .rtuCnt => s.now
  | .rtuFrac => s.rtu.fracHeld.zeroExtend 64
  | .rtuSdStat => s.sdStat
  | .rtuStatus => s.rtStatus
  | .twdog | .dmTinv _ | .gack _ | .epMsix _ | .epWinsync _ => 0
  | .twuse k => w ||| (if k.val = 12 then 0x40000000#64 else if k.val = 13 then 1 else 0)
  | .clkTwuse => w ||| 7
  | .cdCtl n => setF (setF w F.cdCtl.FREQ (s.cdFreq n.val)) F.cdCtl.GATED (b2n (s.cdGated n.val))
  | .qstat t k =>
    let c := s.qcell t.val k.val
    setF (setF (setF w F.qstat.WORDS c.words.length) F.qstat.MSGS c.msgs) F.qstat.CLAIMED (b2n c.claim.isSome)
  | .liuVstat c j => dw (s.vstat c.val (2 * j.val) q.world + s.vstat c.val (2 * j.val + 1) q.world * 2 ^ 32)
  | .l3Admit n => let a := s.coh.accepts.getD n.val (0, 0); dw (a.1 + a.2 * 2 ^ 32)
  | .ebAddr b i | .ebInfo b i => if s.flag (.ebStat b i) F.ebStat.HIDDEN ∧ !q.world then 0 else w
  | .clasp p r => if s.isRp p.val r.val then w else 0
  | .dmCtl d c => setF w F.dmCtl.BUSY (b2n (!(s.chan (32 * d.val + c.val)).descs.isEmpty))
  | .icqStat p => setF w F.icqStat.BUSY (b2n (s.fld (.icqHead p) F.icqHead.INDEX != s.fld (.icqTail p) F.icqTail.INDEX &&
      !s.flag (.icqStat p) F.icqStat.BADOP))
  | _ => w

/-- A read of a register: CALLOC allocates (R396), CNT captures FRAC (R410), DOMn shows the step reached (R401, R405). -/
def State.readReg (s : State) (q : Req) (r : Reg) : DWord × State :=
  match r with
  | .calloc => s.callocRead q.world
  | .rtuCnt => (s.now, { s with rtu := { s.rtu with fracHeld := s.rtu.frac } })
  | .dom n => let s := s.observe n.val; (s.regView q r, s)
  | .rtuStatus => let s := s.refSeen; (s.regView q r, s)
  | _ => (s.regView q r, s)

/-! ### Writes -/

/-- An access by software: a core's, or one through the debug port, which acts for it. -/
def fromCore : Agent → Bool
  | .core _ | .debug => true
  | _ => false

/-- Whether a request is a writer of a mailbox (R56). -/
def State.mbWriter (s : State) (m : Nat) (q : Req) : Bool :=
  match m with
  | 0 => fromCore q.agent && !q.world
  | 1 => fromCore q.agent && q.world
  | 2 => q.agent == .io 0 && s.role 0 == .endpoint
  | 3 => q.agent == .io 4 && s.role 4 == .endpoint
  | _ => q.agent == .stw

/-- A write with an action bit: the field bits first, then the action. -/
def State.goWrite (s : State) (q : Req) (r : Reg) (go : Place) (mask v : DWord) (act : State → State) : State :=
  let s := (s.writeReg r q.world mask v).setFld r go 0
  if q.world && getF (mask &&& v) go == 1 then act s else s

/-- A write of CLK.CDn_CTL (R299, R474). -/
def State.cdWrite (s : State) (q : Req) (n : Nat) (mask v : DWord) : State :=
  let r := Reg.cdCtl (ix 40 n)
  if !q.world ∧ s.cdTwused n then s.setFld r F.cdCtl.DENIED 1
  else s.writeReg r q.world (if 3 ≤ n ∧ n ≤ 22 then mask else mask &&& ~~~(maskF F.cdCtl.SPREAD)) v

/-- A write of PWR.LTOLn (R299, R398). -/
def State.ltolWrite (s : State) (q : Req) (n : Nat) (mask v : DWord) : State :=
  if !q.world ∧ s.twused n then s.toLog 0x000A 0 false [dw n, 256]
  else (s.writeReg (rLtol n) q.world mask v).callUp n

/-- A write of PWR.GPWAKEp (R294, R404). -/
def State.gpwakeWrite (s : State) (q : Req) (p : Nat) (mask v : DWord) : State :=
  let r := Reg.gpwake (ix 24 p)
  if !q.world ∧ (s.reg .gpioWorld).getLsbD p then s
  else
    let s := s.writeReg r q.world mask v
    s.callUp (s.fld r F.gpwake.DOMAIN)

/-- A write of a register that its serving agent performs. -/
def State.writeCcs (s : State) (q : Req) (r : Reg) (mask v : DWord) : State :=
  let w := writeFields r.fields q.world mask (s.reg r) v
  match r with
  | .mbCmd m | .mbSts m | .mbArg m _ => if s.mbWriter m.val q then s.mbWrite m r mask v else s
  | .stwIntLo k => s.routeSet q (.stw (BitVec.ofNat 8 k.val)) false mask v
  | .stwIntHi k => s.routeSet q (.stw (BitVec.ofNat 8 k.val)) true mask v
  | .ioIntLo p k => s.routeSet q (.io (BitVec.ofNat 3 p.val) (BitVec.ofNat 11 k.val)) false mask v
  | .ioIntHi p k => s.routeSet q (.io (BitVec.ofNat 3 p.val) (BitVec.ofNat 11 k.val)) true mask v
  | .gather k => s.gatherSet q k.val mask v
  | .gack k => s.gatherAck q k.val
  | .legacyCmd => s.legacyCmd q (getF v F.legacyCmd.CMD) (getF v F.legacyCmd.CLASS) (getF v F.legacyCmd.INDEX)
  | .candle k => s.candleWrite q k.val mask v
  | .savebase => s.saveBaseSet mask v
  | .ltol n => s.ltolWrite q n.val mask v
  | .gpwake p => s.gpwakeWrite q p.val mask v
  | .twuse k => if k.val = 13 then s.writeReg r q.world (mask &&& 1) v else s.writeReg r q.world mask v
  | .cdCtl n => s.cdWrite q n.val mask v
  | .iftCtl => s.goWrite q r F.iftCtl.GO mask v fun s => s.iftStart (s.fld r F.iftCtl.TILE) (s.fld r F.iftCtl.PART)
  | .fenceReq => s.goWrite q r F.fenceReq.GO mask v fun s =>
      s.fenceReq (s.flag r F.fenceReq.KIND) (s.flag r F.fenceReq.UNFENCE) (s.fld r F.fenceReq.INDEX)
  | .retireReg => s.goWrite q r F.retireReg.GO mask v fun s => s.retireStart (s.fld r F.retireReg.TILE)
  | .gpioDir | .gpioOut => s.gpioSet q r mask v
  | .gpioWorld => (s.writeReg r q.world mask v).pinsFrom s
  | .gpioAltfn => ((s.fnDenied q 21 r F.gpioAltfn.TALERT_EN mask v).writeReg r q.world mask v).pinsFrom s
  | .rtuSyncout => ((s.fnDenied q 20 r F.rtuSyncout.EN mask v).writeReg r q.world mask v).pinsFrom s
  | .rtuLoad => s.loadRtu q mask v
  | .llDue k | .llCtl k | .llArg k | .llStat k => s.llSet q k.val r mask v
  | .keypart => s.keypartWrite q mask v
  | .keycmd => s.keycmdWrite q mask v
  | .twdog => s.twdogKick q
  | .twstate => if getF mask F.twstate.AVAIL = 1 then s.availWrite q (getF v F.twstate.AVAIL == 1) else s
  | .twrangeLo k => s.twrangeWrite q k.val false mask v
  | .twrangeHi k => s.twrangeWrite q k.val true mask v
  | .statCtl =>
    let s := (s.writeReg r q.world mask v).setFld r F.statCtl.SNAP 0
    if getF (mask &&& v) F.statCtl.SNAP = 1 then s.statEnd else s
  | .dmTinv d => s.dmTinv d.val
  | .dmCtl d c => s.chanSet q (32 * d.val + c.val) mask v
  | .dmXlat d c => s.xlatSet q (32 * d.val + c.val) mask v
  | .faultq _ | .faultcnt _ | .icqTail _ | .icqHead _ | .epRombase _ | .epEvq _ | .epStat _ | .epOut _ _ =>
    s.managedSet q r mask v
  | .icqBase p => s.icqBaseSet q p.val mask v
  | .icqStat p => s.icqStatSet q p.val mask v
  | .epCfg p => s.epCfgSet q p.val mask v
  | .epMsix p => s.epMsix q p.val (getF v F.epMsix.FUNC) (getF v F.epMsix.VECTOR)
  | .epWinA p k | .epWinB p k | .epWinC p k => s.epWinSet q p.val k.val r mask v
  | .clasp p k =>
    s.claspSet p.val k.val (getF (mask &&& v) F.clasp.FORCE == 1) (getF (mask &&& v) F.clasp.RELEASE == 1) none
  | .l3Lock n => s.lockWrite n.val (getF w F.l3Lock.WAYS)
  | .l3Waypwr n => s.wayPower n.val (getF w F.l3Waypwr.REQ)
  | .qcfg t k => s.qcfgSet q t.val k.val mask v
  | .qown t k | .qnaddr t k => s.qownSet q t.val k.val r mask v
  | _ => s.writeReg r q.world mask v

/-- A register whose fields all lie in the low half of its slot: a write of the high half alone does nothing (R469). -/
def lowOnly (r : Reg) (mask : DWord) : Bool :=
  (mask &&& 0xFFFFFFFF#64) == 0 && (r.fields.all fun f => decide (f.at_.1 < 32))

/-- How an access to the Chip Control Space ends for its requester. -/
inductive CcsEnd where
  | ok (data : DWord)
  | err (status : Nat)
deriving DecidableEq, Repr

/-- An offset outside every block range: port 3 of the STW stop answers NO_AGENT (R464, R469). -/
def State.ccsHole (s : State) (off cmd : Nat) : CcsEnd × State := (.err 0x02, s.noAgent stwStop 3 cmd (some (0, 0x10000000 + off)))

/-- An access that ends in an error before its agent. -/
def State.ccsRefused (s : State) (r : Reg) (e cmd : Nat) : CcsEnd × State := (.err e, s.regRefused r e cmd)

/-- A read of 4 or 8 bytes at an offset: what the requester receives, and the state. -/
def State.ccsRead (s : State) (q : Req) (off n : Nat) : CcsEnd × State :=
  if !((n = 4 ∨ n = 8) ∧ off % n = 0) then (.err 0x04, s)
  else match slotAt off with
    | .none_ => s.ccsHole off 0x03
    | .empty => (.ok 0, s)
    | .mirror p i =>
      match s.regErr q (.epCfgm p 0 0) with
      | some e => s.ccsRefused (.epCfgm p 0 0) e 0x03
      | none => (.ok (dw (s.mirrorRead p.val i + (if n = 8 then s.mirrorRead p.val (i + 1) * 2 ^ 32 else 0))),
                 s.wake (domIo p.val))
    | .at_ r =>
      match s.regErr q r with
      | some e => s.ccsRefused r e 0x03
      | none =>
        let s := s.wake (regDom r)
        -- the high half of a 32-bit register reads 0 and is no read of it (R469)
        let (w, s1) := if n = 4 ∧ off % 8 = 4 ∧ r = .calloc then (0, s) else s.readReg q r
        (.ok (if n = 8 then w else if off % 8 = 4 then w >>> 32 else w &&& 0xFFFFFFFF#64), s1)

/-- A write of 4 or 8 bytes at an offset; `v` holds the data in its lane of the slot. -/
def State.ccsWrite (s : State) (q : Req) (off n : Nat) (v : DWord) : CcsEnd × State :=
  if !((n = 4 ∨ n = 8) ∧ off % n = 0) then (.err 0x04, s)
  else match slotAt off with
    | .none_ => s.ccsHole off 0x05
    | .empty => (.ok 0, s)
    | .mirror p _ =>
      match s.regErr q (.epCfgm p 0 0) with
      | some e => s.ccsRefused (.epCfgm p 0 0) e 0x05
      | none => (.ok 0, s.wake (domIo p.val))
    | .at_ r =>
      match s.regErr q r with
      | some e => s.ccsRefused r e 0x05
      | none =>
        let m := lanes (n == 8) (off % 8 == 4)
        let s := s.wake (regDom r)
        (.ok 0, if lowOnly r m then s else s.writeCcs q r m v)

/-- REGISTER_WRITE: a write of 4 or 8 bytes; with 4 bytes the value's low half is the data. -/
def execRegisterWrite (r : Req) (off : BitVec 28) (eight : Bool) (value : BitVec 64) (s : State) :
    Host.Outcome State Fault Refusal :=
  let v := if !eight ∧ off.toNat % 8 = 4 then value <<< 32 else value
  .next (s.ccsWrite r off.toNat (if eight then 8 else 4) v).2

end Sys2Proof.Machine
end

