-- ==== Sys2Proof/Machine/Device.lean ====
section
/-! DEFINITION. Accesses to addresses that are not Normal memory (R464, R468): the Chip Control Space, the windows of
windows and addresses without an agent (R21). -/

namespace Sys2Proof.Machine

/-- An access of `n` bytes to an address that is not Normal memory; `cmd` is the mesh command that carries it. -/
def State.devAccess (s : State) (q : Req) (cmd pa n : Nat) (wr : Option Nat) : DevEnd × State :=
  match region pa with
  | .ccs =>
    let off := pa - 0x10000000
    let r := match wr with
      | none => s.ccsRead q off n
      | some v => s.ccsWrite q off n (dw (if off % 8 = 4 ∧ n = 4 then v * 2 ^ 32 else v))
    match r with
    | (.ok d, s1) => (.ok (d.toNat, false), s1)
    | (.err e, s1) => (.error e, s1)
  | _ => s.windowAccess (agentStop q.agent) cmd pa n wr

/-- The stop that serves an address which is not Normal memory. -/
def State.devStop (s : State) (pa : Nat) : Stop :=
  match region pa with
  | .ccs => (match slotAt (pa - 0x10000000) with
      | .at_ r => regStop r
      | .mirror p _ => ioStop p.val
      | _ => stwStop)
  | .mmio p | .cfg p => if s.role p = .root then ioStop p else stwStop
  | .host p => if s.role p = .endpoint then ioStop p else stwStop
  | _ => stwStop

end Sys2Proof.Machine
end

