-- ==== Sys2Proof/Machine/Translate.lean ====
section
/-! DEFINITION. Address translation of a core (R183-R204, R211, R212): regimes, spans, table walks with their caches,
permissions and marks, the ownership and key rules on the final address, and the mark updates made at commit. -/

namespace Sys2Proof.Machine

/-! ### Exceptions as values -/

/-- What TFINFO and TFIPA report (R211). -/
structure TInfo where
  kind : Nat
  src : Nat
  fetch : Bool
  write : Bool
  stage : Bool
  walk : Bool
  span : Nat
  ipa : Option Nat
deriving DecidableEq, Repr

/-- A synchronous exception (R275): cause code, EADDR, translation report; for a machine check its KIND (R436) and the
key and address of the poisoned data. -/
structure Exc where
  code : Nat
  addr : DWord := 0
  tf : Option TInfo := none
  mck : Nat := 0
  at_ : Option (Nat × Nat) := none
deriving DecidableEq, Repr

/-- A piece of work of a core: an exception or a result, and the state, in which fills made on the way are kept. -/
def Act (α : Type) := State → Except Exc α × State

def Act.pure {α : Type} (a : α) : Act α := fun s => (.ok a, s)
def Act.fail {α : Type} (e : Exc) : Act α := fun s => (.error e, s)
def Act.bind {α β : Type} (x : Act α) (f : α → Act β) : Act β := fun s =>
  match x s with
  | (.error e, s1) => (.error e, s1)
  | (.ok a, s1) => f a s1
/-- Work that depends on the state. -/
def Act.with {α : Type} (f : State → Act α) : Act α := fun s => f s s
/-- A change of the state. -/
def Act.change (f : State → State) : Act Unit := fun s => (.ok (), f s)
/-- Work that answers from the state and changes it, and cannot fail. -/
def Act.look {α : Type} (f : State → α × State) : Act α := fun s => (.ok (f s).1, (f s).2)
def Act.check (ok : Bool) (e : Exc) : Act Unit := if ok then .pure () else .fail e
def Act.iter {α : Type} (f : α → Act Unit) : List α → Act Unit
  | [] => .pure ()
  | a :: l => (f a).bind fun _ => Act.iter f l

/-! ### Regimes and identity (R183, R271) -/

inductive Regime where
  | normal | hyp | trusted | monitor
deriving DecidableEq, Repr

def Core.regime (k : Core) : Regime :=
  if k.lvl = 2 then .hyp else if k.lvl = 3 then .monitor else if k.world then .trusted else .normal

/-- SYS.S2CTL has no effect in ISO.MODE = LK (R183, R277). -/
def State.s2ctl (s : State) (k : Core) : DWord := if s.iso = .lk then 0 else k.rs Sys.s2ctl

/-- Stage 2 applies to the accesses of a core. -/
def State.s2on (s : State) (k : Core) : Bool := k.regime == .normal && getF (s.s2ctl k) G.s2ctl.S2EN == 1

/-- The VMID tag of a core's translations (R183). -/
def State.tagVmid (s : State) (k : Core) : Nat :=
  match k.regime with
  | .normal => getF (s.s2ctl k) G.s2ctl.VMID
  | .trusted => 0
  | _ => 0xFFFF

/-- The identity of a core's requests (R271). -/
def State.ident (s : State) (c : Nat) : Ident :=
  let k := s.core c
  ⟨k.world, if 2 ≤ k.lvl then 0xFFFF else if s.s2on k then getF (s.s2ctl k) G.s2ctl.VMID else 0,
   match k.lk with | some l => l.id | none => 0⟩

/-- A request of a core with its identity. -/
def State.coreReq (s : State) (c : Nat) : Req :=
  let i := s.ident c
  ⟨.core (BitVec.ofNat 8 c), i.world, BitVec.ofNat 16 i.vmid, BitVec.ofNat 12 i.locket⟩

/-- The stage-1 control register of a core's regime, and its root for an address half. -/
def Core.ctl1 (k : Core) : DWord :=
  match k.regime with
  | .hyp => k.rs Sys.htctl
  | .monitor => k.rs Sys.mtctl
  | _ => k.rs Sys.tctl k.world
def Core.root1 (k : Core) (high : Bool) : DWord :=
  match k.regime with
  | .hyp => k.rs Sys.htroot
  | .monitor => k.rs Sys.mtroot
  | _ => k.rs (if high then Sys.troot1 else Sys.troot0) k.world

/-- Entry i of SYS.MATTR or SYS.S2MATTR (R152). -/
def mtypeAt (w : DWord) (i : Nat) : Nat := (w.toNat >>> (8 * i)) % 4

/-! ### The access being translated -/

/-- One access, or one part of a split access (R174): its address, the address of the whole access, what it does, and
whether the whole is unaligned (R158). -/
structure Fx where
  va : DWord
  whole : DWord
  fetch : Bool
  rd : Bool
  wr : Bool
  /-- a CMO by address: no marks, and none missing (R101) -/
  cmo : Bool
  unal : Bool
  /-- not on the committed path: no marks (R140) -/
  spec : Bool := false
deriving DecidableEq, Repr

/-- Where in a translation something happens: TFINFO.SRC, STAGE, WALK, SPAN, and the IPA of a stage-2 lookup. -/
structure Loc where
  src : Nat
  stage : Bool := false
  walk : Bool := false
  span : Nat := 0
  ipa : Option Nat := none
deriving DecidableEq, Repr

def Fx.exc (a : Fx) (code kind : Nat) (l : Loc) : Exc :=
  { code := code, addr := a.va, tf := some ⟨kind, l.src, a.fetch, a.wr, l.stage, l.walk, l.span, l.ipa⟩ }

/-- INSTR_TRANS or DATA_TRANS; INSTR_PERM or DATA_PERM; S2_INSTR or S2_DATA, always S2_DATA for a table (R192). -/
def Fx.trans (a : Fx) : Nat := if a.fetch then 0x04 else 0x05
def Fx.perm (a : Fx) : Nat := if a.fetch then 0x06 else 0x07
def Fx.s2 (a : Fx) (walk : Bool) : Nat := if a.fetch && !walk then 0x0A else 0x0B
def Fx.bus (a : Fx) : Exc := { code := if a.fetch then 0x19 else 0x1A, addr := a.va }
def Fx.align (a : Fx) : Exc := { code := 0x03, addr := a.whole }

/-! ### Table, descriptor and bitmap accesses (R190, R193, R200, R202, R204) -/

inductive TabKind where
  | walk | desc | bitmap
deriving DecidableEq, Repr

/-- Code and KIND where the access is typed Device, and where it ends in an error. -/
def TabKind.dev : TabKind → Nat × Nat
  | .walk => (0x0C, 5) | .desc => (0x1B, 5) | .bitmap => (0x1B, 9)
def TabKind.err : TabKind → Nat × Nat
  | .walk => (0x0D, 6) | .desc => (0x1B, 6) | .bitmap => (0x1B, 9)

/-- Table accesses for code inside a locket reach its memory of kind memory; else R278 applies (R279). -/
def State.tableOk (s : State) (id : Ident) (page : Nat) : Bool :=
  match s.locketOf page with
  | some (l, _, r) => id.locket == l && !r.thread
  | none => s.mayReach id page

/-- A read of a line through a core's L2 (R190, R216): a lookup matches on the address alone. `instr`: for a fetch or a
walk, which receive S. -/
def State.l2Read (s : State) (c line key : Nat) (instr : Bool) : State :=
  if s.hasLine c line then s
  else
    let s := (s.wakePath line).saw c 0x35
    (s.withCs (s.rdShared s.cs c line key instr)).statCore c 2

/-- The checks of a table access; the key it settles to. -/
def tableKey (c : Nat) (a : Fx) (t : TabKind) (l : Loc) (pa key : Nat) : Act Nat := fun s =>
  let id := s.ident c
  if s.physDevice pa then (.error (a.exc t.dev.1 t.dev.2 l), s)
  else if !s.tableOk id (pa / 4096) then (.error (a.exc 0x0E 7 l), s)
  else match s.settleKey id.world (pa / 4096) key with
    | none => (.error (a.exc 0x0E 7 l), s)
    | some k =>
      let hit := s.hasLine c (pa / 64)
      let ask := s.ownCorePath c (pa / 4096)
      let s := s.ownCore c (pa / 4096)
      match ask.orElse fun _ => s.coreErr c (pa / 64) hit with
      | some st => (.error (a.exc t.err.1 t.err.2 l), s.clearErr c (pa / 64) st)
      | none =>
        let cut := s.cutOff (pa / 64) && !hit
        let s := if hit then s else s.memIn (pa / 64)
        if s.m.poisonedIn pa 8 || cut then
          (.error { a.exc 0x16 0xA l with mck := 4, at_ := some (k, pa) }, if cut then s.underClasp (pa / 64) false else s)
        else (.ok k, s)

/-- An 8-byte read of a table. -/
def tableRead (c : Nat) (a : Fx) (t : TabKind) (l : Loc) (pa key : Nat) : Act DWord :=
  (tableKey c a t l pa key).bind fun k => fun s =>
    (.ok (dw (s.m.readIn pa 8 (s.keyAt c (pa / 64) k))), (s.grant c a.fetch).l2Read c (pa / 64) k true)

/-- The line of a table held unique by the core for an atomic update of 8 bytes, and these bytes (R196, R202, R216). -/
def tableOwn (c pa key : Nat) : Act DWord := fun s =>
  let line := pa / 64
  let s := s.grantData c
  let s := (if s.hasLine c line then s else s.saw c 0x35).getUnique c line key
  (.ok (dw (s.m.readIn pa 8 (s.keyAt c line key))), s)

/-- The update of 8 bytes of a table in a line held unique. -/
def tableWrite (c pa key : Nat) (w : DWord) : Act Unit := fun s =>
  (.ok (), s.storeLine c (pa / 64) (s.keyAt c (pa / 64) key) (byteMask (pa % 64) 8) (BitVec.ofNat 512 (w.toNat * 2 ^ (8 * (pa % 64)))))

/-! ### Leaves -/

/-- What one stage answers for an address: its output; permissions (`u` is R at stage 2), attribute index, key, marks;
the page size in bits; and where it came from: a table entry at an address, or a span. -/
structure Leaf where
  out : Nat
  u : Bool
  w : Bool
  x : Bool
  attr : Nat
  key : Nat
  a : Bool
  d : Bool
  glob : Bool
  bits : Nat
  src : Nat
  span : Option Nat
  dlog : Bool
  /-- chunk of R202 -/
  chunk : Nat
  e : DWord
  ea : Nat
  ekey : Nat
deriving DecidableEq, Repr

def bitsAt (lvl : Nat) : Nat := if lvl = 1 then 30 else if lvl = 2 then 21 else 12

/-- A leaf from a table entry (R187). -/
def leafAt (e : DWord) (lvl addr ea ekey : Nat) : Leaf :=
  let n := e.toNat
  { out := (n >>> 12) % 2 ^ 40 * 4096 + addr % 2 ^ bitsAt lvl, u := n.testBit 5, w := n.testBit 6, x := n.testBit 7,
    attr := (n >>> 2) % 8, key := n >>> 52, a := n.testBit 9, d := n.testBit 10, glob := n.testBit 8,
    bits := bitsAt lvl, src := lvl, span := none, dlog := false, chunk := 0, e := e, ea := ea, ekey := ekey }

/-- A block's low address bits must be zero (R188). -/
def blockOk (e : DWord) (lvl : Nat) : Bool := (e.toNat >>> 12) % 2 ^ 40 % 2 ^ (bitsAt lvl - 12) == 0

/-- A leaf from a span (R198). -/
def leafSpan (n base : Nat) (m : DWord) (addr : Nat) : Leaf :=
  let off := addr % 2 ^ 48 - base * 65536
  { out := getF m G.spanMap.PBASE * 65536 + off, u := getF m G.spanMap.U == 1, w := getF m G.spanMap.W == 1,
    x := getF m G.spanMap.X == 1, attr := getF m G.spanMap.ATTR, key := getF m G.spanMap.KEYID,
    a := getF m G.spanMap.A == 1, d := getF m G.spanMap.D == 1, glob := false, bits := 16, src := 4, span := some n,
    dlog := getF m G.spanMap.DLOG == 1, chunk := off / 2 ^ 21, e := m, ea := 0, ekey := 0 }

/-- Numbers of the span registers. -/
def spanReg (s2 : Bool) (n part : Nat) : Nat := (if s2 then 0x8100 else 0x4100) + 4 * n + part

/-- The lowest-numbered span of a stage that matches an address. -/
def Core.span (k : Core) (s2 : Bool) (addr : Nat) : Option Leaf :=
  let w := !s2 && k.world
  let u := addr % 2 ^ 48 / 65536
  (firstOf (fun n =>
      getF (k.rs (spanReg s2 n 2) w) G.spanMap.V == 1 &&
        decide (getF (k.rs (spanReg s2 n 0) w) G.spanBase.ADDR ≤ u) &&
        decide (u ≤ getF (k.rs (spanReg s2 n 1) w) G.spanLimit.ADDR))
    (List.range (if s2 then 8 else 16))).map fun n =>
      leafSpan n (getF (k.rs (spanReg s2 n 0) w) G.spanBase.ADDR) (k.rs (spanReg s2 n 2) w) addr

/-! ### Walk caches and TLBs (R204) -/

/-- The index of an address at a level (R187). -/
def idx9 (addr lvl : Nat) : Nat := addr >>> (39 - 9 * lvl) % 512
/-- The address bits that a table entry of a level stands for. -/
def pfx (addr lvl : Nat) : Nat := (addr % 2 ^ 48) >>> (39 - 9 * lvl)

/-- The tags of a core's cached table entries. -/
structure Tag where
  world : Bool
  vmid : Nat
  asid : Nat
deriving DecidableEq, Repr

def State.tag (s : State) (k : Core) (stage2 : Bool) : Tag :=
  ⟨k.world, s.tagVmid k,
   if stage2 then 0 else match k.regime with | .normal | .trusted => getF k.ctl1 G.tctl.ASID | _ => 0⟩

def WalkEntry.hit (e : WalkEntry) (t : Tag) (stage2 : Bool) (lvl addr : Nat) : Bool :=
  e.world == t.world && e.vmid == t.vmid && e.asid == t.asid && e.stage2 == stage2 && e.lvl == lvl &&
    e.prefix_ == pfx addr lvl && e.high == (decide (2 ^ 48 ≤ addr))

/-- The deepest cached table entry on an address's path: the level it leads to and the table there. -/
def UCore.walkFrom (u : UCore) (t : Tag) (stage2 : Bool) (addr : Nat) : Option (Nat × Nat) :=
  [2, 1, 0].findSome? fun lvl => (u.walks.find? fun e => e.hit t stage2 lvl addr).map fun e => (lvl + 1, e.next)

/-- An entry added to a bounded list: at capacity it replaces one that the array chooses. -/
def addBounded {α : Type} (cap stamp : Nat) (l : List α) (e : α) : List α :=
  if l.length < cap then l ++ [e] else l.set (Config.victimEntry stamp cap % cap) e

def UCore.addWalk (u : UCore) (e : WalkEntry) : UCore :=
  { u with walks := addBounded 64 u.stamp u.walks e, stamp := u.stamp + 1 }

/-- The entries of the array and set that an entry goes into, and how many these hold (R204); the set of an L2 TLB entry is
given by the low nine bits of its page number (log entry 45). -/
def TlbEntry.rival (e d : TlbEntry) : Bool :=
  d.arr == e.arr && (e.arr != .l2 || (d.vpage >>> (d.bits - 12)) % 512 == (e.vpage >>> (e.bits - 12)) % 512)
def TlbArray.ways : TlbArray → Nat
  | .itlb => 64 | .dtlb => 96 | .l2 => 8 | .giant => 64

/-- An entry added to its array: where its set is full it replaces one that the array chooses. -/
def UCore.addTlb (u : UCore) (e : TlbEntry) : UCore :=
  let rs := (u.tlb.zipIdx.filter fun p => e.rival p.1).map (·.2)
  let n := e.arr.ways
  { u with tlb := if rs.length < n then u.tlb ++ [e] else u.tlb.set (rs.getD (Config.victimEntry u.stamp n % n) 0) e,
           stamp := u.stamp + 1 }

def TlbEntry.hit (e : TlbEntry) (t : Tag) (s2only : Bool) (addr : Nat) : Bool :=
  e.world == t.world && e.vmid == t.vmid && (e.s2only || e.glob || e.asid == t.asid) && e.s2only == s2only &&
    e.vpage >>> (e.bits - 12) == addr >>> e.bits

/-- The L1 TLB that an access uses. -/
def Fx.l1tlb (a : Fx) : TlbArray := if a.fetch then .itlb else .dtlb

/-- A final translation cached for an access: in the L1 TLB of its kind, else in the second level, from which it is copied
into the L1 TLB. -/
def State.lookTlb (s : State) (c : Nat) (a : Fx) (t : Tag) : Option TlbEntry × State :=
  let u := s.ucore c
  match u.tlb.find? fun e => e.arr == a.l1tlb && e.hit t false a.va.toNat with
  | some e => (some e, s)
  | none =>
    let s := s.saw c (if a.fetch then 0x3A else 0x38)
    match u.tlb.find? fun e => (e.arr == .l2 || e.arr == .giant) && e.hit t false a.va.toNat with
    | some e => (some e, s.onUcore c fun u => u.addTlb { e with arr := a.l1tlb })
    | none => (none, s)

/-! ### Walks (R190, R191) -/

/-- A mark that an access needs: of stage 1 or 2, reached through stage 2 (`via`); in a table entry or a span; or a
dirty-log bit. -/
structure Mark where
  stage2 : Bool
  via : Bool
  leaf : Leaf
  needA : Bool
  needD : Bool
  log : Bool
  addr : Nat
  walk : Bool
deriving DecidableEq, Repr

/-- A walk from a table of a level: `conv` gives a table entry's physical address and key with the marks that reading it
needs, `trans` is the translation cause of the stage. The marks of all the entries read come back with the leaf. -/
def walkFrom (c : Nat) (a : Fx) (stage2 walk : Bool) (trans : Nat) (ipa : Option Nat) (addr : Nat)
    (conv : Nat → Nat → Act ((Nat × Nat) × List Mark)) : Nat → List Mark → Nat → Nat → Act (Leaf × List Mark)
  | 0, _, _, _ => .fail (a.exc trans 0 ⟨3, stage2, walk, 0, ipa⟩)
  | f + 1, pre, lvl, t =>
    let ea := t + 8 * idx9 addr lvl
    (conv lvl ea).bind fun ((pa, key), ms) =>
    let pre := pre ++ ms
    (tableRead c a .walk ⟨lvl, stage2, !stage2 || walk, 0, ipa⟩ pa key).bind fun e =>
    let n := e.toNat
    let miss : Nat → Act (Leaf × List Mark) := fun src => .fail (a.exc trans 0 ⟨src, stage2, stage2 && walk, 0, ipa⟩)
    if !n.testBit 0 then miss lvl
    else if lvl = 3 ∨ (1 ≤ lvl ∧ !n.testBit 1) then
      if blockOk e lvl then .pure (leafAt e lvl addr ea key, pre) else miss lvl
    else if !n.testBit 1 then miss 0
    else
      let next := (n >>> 12) % 2 ^ 40 * 4096
      (Act.change fun s =>
        let g := s.tag (s.core c) stage2
        s.onUcore c fun u => u.addWalk ⟨g.world, g.vmid, g.asid, stage2, lvl, pfx addr lvl, decide (2 ^ 48 ≤ addr), next, u.stamp⟩).bind
      fun _ => walkFrom c a stage2 walk trans ipa addr conv f pre (lvl + 1) next

/-- A walk from the deepest cached entry, or from the root. -/
def walk (c : Nat) (a : Fx) (stage2 walk_ : Bool) (trans : Nat) (ipa : Option Nat) (addr root : Nat)
    (conv : Nat → Nat → Act ((Nat × Nat) × List Mark)) : Act (Leaf × List Mark) := .with fun s =>
  match (s.ucore c).walkFrom (s.tag (s.core c) stage2) stage2 addr with
  | some (lvl, t) => walkFrom c a stage2 walk_ trans ipa addr conv 4 [] lvl t
  | none => walkFrom c a stage2 walk_ trans ipa addr conv 4 [] 0 root

/-- Stage 2 of an IPA, for the access itself or for a stage-1 table (R191, R192, R198). An IPA beyond 48 bits is reported with
SRC 7 (log entry 117); a walk here is a page walk of its own in the counts (log entry 114). -/
def stage2 (c : Nat) (a : Fx) (ipa : Nat) (walk_ : Bool) : Act Leaf := .with fun s =>
  let k := s.core c
  if ipa >>> 48 ≠ 0 then .fail (a.exc (a.s2 walk_) 4 ⟨7, true, walk_, 0, some ipa⟩)
  else
    let sp := if getF (s.s2ctl k) G.s2ctl.SPAN_EN = 1 then k.span true ipa else none
    match sp with
    | some l =>
      if 2 ^ 52 ≤ l.out then .fail (a.exc 0x1B 4 ⟨4, true, walk_, l.span.getD 0, some ipa⟩) else .pure l
    | none =>
      let t := s.tag k true
      let root := k.rs Sys.s2root
      match (s.ucore c).tlb.find? fun e => e.hit t true ipa with
      | some ⟨_, _, _, _, _, _, _, _, _, some (e, ea), _, l2, _, _⟩ => .pure (leafAt e l2 ipa ea (getF root G.s2root.KEYID))
      | _ =>
        (Act.change fun s => s.saw c 0x3B).bind fun _ =>
        (walk c a true walk_ (a.s2 walk_) (some ipa) ipa (getF root G.s2root.TABLE * 4096)
          (fun _ ea => .pure ((ea, getF root G.s2root.KEYID), []))).bind fun (l, _) =>
        (Act.change fun s => s.onUcore c fun u =>
          u.addTlb ⟨.l2, t.world, t.vmid, 0, false, true, ipa >>> 12, l.bits, none, some (l.e, l.ea), 0, l.src, 0, u.stamp⟩).bind
        fun _ => .pure l

/-! ### Marks (R196, R197, R200, R202) -/

/-- The marks an access through a leaf needs, or the cause where the stage does not set them. -/
def marksOf (a : Fx) (l : Leaf) (had stage2 via walk_ : Bool) (addr : Nat) : Except Exc (List Mark) :=
  let needA := !l.a
  let needD := a.wr && !l.d
  let loc : Loc := ⟨l.src, stage2, walk_, l.span.getD 0, if stage2 then some addr else none⟩
  if a.cmo || a.spec then .ok []
  else if (needA || needD) && !had then
    .error (if stage2 then a.exc (a.s2 walk_) (if needA then 2 else 3) loc
            else if needA then a.exc 0x08 2 loc else a.exc 0x09 3 loc)
  else .ok ((if needA || needD then [⟨stage2, via, l, needA, needD, false, addr, walk_⟩] else []) ++
            (if l.span.isSome && l.dlog && a.wr then [⟨stage2, via, l, false, false, true, addr, walk_⟩] else []))

def Act.ofExcept {α : Type} : Except Exc α → Act α
  | .ok a => .pure a
  | .error e => .fail e

/-- Stage-2 permissions and marks of an access (R189, R197). -/
def s2check (s : State) (c : Nat) (a : Fx) (l : Leaf) (ipa : Nat) (walk_ : Bool) : Except Exc (List Mark) :=
  let ok := if a.fetch && !walk_ then l.x else (!a.rd || l.u) && (!a.wr || l.w)
  if !ok then .error (a.exc (a.s2 walk_) 1 ⟨l.src, true, walk_, l.span.getD 0, some ipa⟩)
  else marksOf a l (getF (s.s2ctl (s.core c)) G.s2ctl.HAD == 1) true false walk_ ipa

/-- The access that a table read, or a table write of R196, makes at stage 2 in the name of the original one; that of a
CMO sets no marks either (R101). -/
def Fx.table (a : Fx) (wr : Bool) : Fx := { a with rd := !wr, wr := wr }

/-- The original access as TFINFO reports it. -/
def Exc.reported (e : Exc) (a : Fx) : Exc := { e with tf := e.tf.map fun t => { t with write := a.wr } }
def Act.reported {α : Type} (x : Act α) (a : Fx) : Act α := fun s =>
  match x s with
  | (.error e, s1) => (.error (e.reported a), s1)
  | r => r

/-- A stage-1 table address under stage 2: physical address, key (R194), and the stage-2 marks the access makes. -/
def tableVia (c : Nat) (a : Fx) (ipa : Nat) (wr : Bool) (t : TabKind) (src span : Nat) : Act ((Nat × Nat) × List Mark) :=
  ((stage2 c (a.table wr) ipa true).bind fun l => .with fun s =>
    match s2check s c (a.table wr) l ipa true with
    | .error e => .fail e
    | .ok ms =>
      if mtypeAt ((s.core c).rs Sys.s2mattr) l.attr < 2 then .fail (a.exc t.dev.1 t.dev.2 ⟨src, false, t == .walk, span, none⟩)
      else .pure ((l.out, l.key), ms)).reported a

/-! ### Mark updates at commit (R196, R200, R202) -/

/-- The address, key and stage-2 marks of a stage's table, descriptor or bitmap access. -/
def markAt (c : Nat) (m : Mark) (a : Fx) (t : TabKind) (addr key src span : Nat) : Act ((Nat × Nat) × List Mark) :=
  if m.via then tableVia c a addr true t src span else .pure ((addr, key), [])

/-- How a mark update ends: done, or the compare failed on a table entry and the instruction re-executes. -/
abbrev MarkEnd := Bool

/-- Whether a cached translation of the running world and VMID came from a leaf entry of a stage. -/
def TlbEntry.from_ (e : TlbEntry) (t : Tag) (l : Leaf) (stage2 : Bool) : Bool :=
  e.world == t.world && e.vmid == t.vmid &&
    (if stage2 then (e.e2.map fun p => p.2) == some l.ea else (e.e1.map fun p => p.2.1) == some l.ea)

/-- The cached translations that a failed compare discards (R196). -/
def dropLeaf (t : Tag) (l : Leaf) (stage2 : Bool) (u : UCore) : UCore :=
  { u with tlb := u.tlb.filter fun e => !e.from_ t l stage2 }

/-- The cached translations that the update was made for take the new marks: those that hold the value compared. -/
def renewLeaf (t : Tag) (l : Leaf) (w : DWord) (stage2 : Bool) (u : UCore) : UCore :=
  { u with tlb := u.tlb.map fun e =>
      if !e.from_ t l stage2 then e
      else if stage2 then { e with e2 := e.e2.map fun p => if p.1 = l.e then (w, p.2) else p }
      else { e with e1 := e.e1.map fun p => if p.1 = l.e then (w, p.2) else p } }

/-- The dirty-log cache (R203): an entry that matches becomes the most recently used. -/
def UCore.dlogHit (u : UCore) (e : DlogEntry) : Option UCore :=
  if u.dlog.contains e then some { u with dlog := u.dlog.erase e ++ [e] } else none
def UCore.dlogAdd (u : UCore) (e : DlogEntry) : UCore :=
  { u with dlog := (if u.dlog.length < 32 then u.dlog else u.dlog.drop 1) ++ [e] }

/-- Work done where an update before it has not failed a compare. -/
def Act.ifOk (x : Act MarkEnd) (y : Act MarkEnd) : Act MarkEnd := x.bind fun ok => if ok then y else .pure false

/-- One mark set; `pre` sets the stage-2 marks that its own access to a table, a descriptor or a bitmap needs, a write,
before anything is written there. -/
def setMarkBy (c : Nat) (a : Fx) (wrote : Bool) (m : Mark) (pre : List Mark → Act MarkEnd) : Act MarkEnd := .with fun s =>
  let k := s.core c
  let d := m.needD && wrote
  if m.log then
    if !wrote then .pure true
    else
      let n := m.leaf.span.getD 0
      let tag : DlogEntry := ⟨k.world, s.tagVmid k, m.stage2, n, m.leaf.chunk⟩
      match (s.ucore c).dlogHit tag with
      | some u => (Act.change fun s => s.setUcore c u).bind fun _ => .pure true
      | none =>
        let w := !m.stage2 && k.world
        let tbl := k.rs (if m.stage2 then Sys.s2spantbl else Sys.spantbl) w
        let addr := getF (k.rs (spanReg m.stage2 n 3) w) G.spanDlog.ADDR * 8 + 8 * (m.leaf.chunk / 64)
        (markAt c m a .bitmap addr (getF tbl G.spantbl.KEYID) 4 n).bind fun ((pa, key), ms) =>
        (tableKey c a .bitmap ⟨4, m.stage2, false, n, if m.stage2 then some m.addr else none⟩ pa key).bind fun key =>
        (pre ms).ifOk <| (tableOwn c pa key).bind fun old => (tableWrite c pa key (old ||| (1#64 <<< (m.leaf.chunk % 64)))).bind fun _ =>
        (Act.change fun s => s.onUcore c fun u => u.dlogAdd tag).bind fun _ => .pure true
  else if !m.needA && !d then .pure true
  else match m.leaf.span with
    | none =>
      let new := m.leaf.e ||| (if d then 0x600#64 else 0x200#64)
      (markAt c m a .walk m.leaf.ea m.leaf.ekey m.leaf.src 0).bind fun ((pa, key), ms) =>
      (tableKey c a .walk ⟨m.leaf.src, m.stage2, m.walk || !m.stage2, 0, if m.stage2 then some m.addr else none⟩ pa key).bind fun key =>
      (pre ms).ifOk <| (tableOwn c pa key).bind fun old =>
        if old = m.leaf.e then
          (tableWrite c pa key new).bind fun _ =>
          (Act.change fun s => s.onUcore c (renewLeaf (s.tag k m.stage2) m.leaf new m.stage2)).bind fun _ => .pure true
        else (Act.change fun s => s.onUcore c (dropLeaf (s.tag k m.stage2) m.leaf m.stage2)).bind fun _ => .pure false
    | some n =>
      let w := !m.stage2 && k.world
      let reg := spanReg m.stage2 n 2
      let old := k.rs reg w
      let new := old ||| (if d then 0x300#64 else 0x100#64)
      let tbl := k.rs (if m.stage2 then Sys.s2spantbl else Sys.spantbl) w
      let loc : Loc := ⟨4, m.stage2, false, n, if m.stage2 then some m.addr else none⟩
      (markAt c m a .desc (getF tbl G.spantbl.ADDR * 512 + 32 * n + 16) (getF tbl G.spantbl.KEYID) 4 n).bind fun ((pa, key), ms) =>
      (tableKey c a .desc loc pa key).bind fun key =>
      (pre ms).ifOk <| (tableOwn c pa key).bind fun held =>
        if held = old then
          (tableWrite c pa key new).bind fun _ =>
          (Act.change fun s => s.onCore c fun k => k.ws reg w new).bind fun _ => .pure true
        else .fail (a.exc 0x1B 8 loc)

/-- Marks set in order; behind a failed compare only those of table reads, which have been made. -/
def eachMark (f : Mark → Act MarkEnd) : Bool → List Mark → Act MarkEnd
  | ok, [] => .pure ok
  | ok, m :: ms =>
    if ok || (m.walk && !m.needD && !m.log) then (f m).bind fun r => eachMark f (ok && r) ms else eachMark f ok ms

/-- Stage-2 marks set, which need none of their own. -/
def setPlain (c : Nat) (a : Fx) (wrote : Bool) : List Mark → Act MarkEnd :=
  eachMark (fun m => setMarkBy c a wrote m fun _ => .pure true) true

/-- The marks of an access set in order, each behind the stage-2 marks of its own access, which is a write. -/
def setMarks (c : Nat) (a : Fx) (wrote : Bool) : List Mark → Act MarkEnd :=
  eachMark (fun m => setMarkBy c a wrote m fun ms => (setPlain c a true ms).reported a) true

/-! ### The translation of an access (R212) -/

/-- A translated access: physical address, key, memory type, and the marks it needs. -/
structure Tr where
  pa : Nat
  key : Nat
  mtype : Nat
  marks : List Mark
deriving DecidableEq, Repr

/-- The binding check of a core inside a locket (R279). -/
def State.bound (s : State) (a : Fx) (l va pa : Nat) : Bool :=
  match s.sec.lockets.find l with
  | none => true
  | some k =>
    (match k.ranges.find? (·.has (pa / 4096)) with
     | none => true
     | some r => decide (va = r.vbase + (pa - r.pbase)) && (if a.fetch then r.x else (!a.rd || r.r) && (!a.wr || r.w))) &&
    k.ranges.all fun r =>
      !(decide (r.vbase ≤ va) && decide (va < r.vbase + 4096 * r.pages)) || decide (pa = r.pbase + (va - r.vbase))

/-- Stage-1 permissions (R189). -/
def s1ok (a : Fx) (lvl : Nat) (l : Leaf) : Bool :=
  if a.fetch then l.x && (l.u == decide (lvl = 0)) else (!a.wr || l.w) && (decide (0 < lvl) || l.u)

/-- Items 5 of R212: the final address. -/
def final (c : Nat) (a : Fx) (pa key mtype : Nat) (marks : List Mark) : Act Tr := .with fun s =>
  let id := s.ident c
  let dev := s.physDevice pa
  if dev && a.unal && decide (2 ≤ mtype) then .fail a.align
  else
    let mtype := if region pa = .ccs then 0 else if dev then min mtype 1 else mtype
    let bad := a.exc 0x0E 7 ⟨7, false, false, 0, none⟩
    if !s.mayReach id (pa / 4096) || (id.locket != 0 && !s.bound a id.locket a.va.toNat pa) then .fail bad
    else match s.settleKey id.world (pa / 4096) key with
      | none => .fail bad
      | some k =>
        (Act.check (s.ownCorePath c (pa / 4096)).isNone a.bus).bind fun _ =>
        (Act.change fun s => s.ownCore c (pa / 4096)).bind fun _ =>
        if region pa = .ccs ∧ (s.core c).lvl = 0 then .fail (a.exc a.perm 1 ⟨7, false, false, 0, none⟩)
        else .pure ⟨pa, k, mtype, marks⟩

/-- Stage 2 of the output of stage 1, from a cached leaf where there is one (R212 item 4). -/
def second (c : Nat) (a : Fx) (oa mt1 : Nat) (marks : List Mark) (cached : Option Leaf) :
    Act (Tr × Option Leaf) := .with fun s =>
  let k := s.core c
  let sp := if getF (s.s2ctl k) G.s2ctl.SPAN_EN = 1 then k.span true oa else none
  let get : Act Leaf := match cached, sp with
    | some l, none => .pure l
    | _, _ => stage2 c a oa false
  get.bind fun l =>
  let mt := min mt1 (mtypeAt (k.rs Sys.s2mattr) l.attr)
  if a.unal ∧ 2 ≤ mt1 ∧ mt < 2 then .fail a.align
  else (Act.ofExcept (s2check s c a l oa false)).bind fun ms =>
    (final c a l.out l.key mt (marks ++ ms)).bind fun t => .pure (t, some l)

/-- The leaf that a cached final translation holds for an address. -/
def TlbEntry.leaf1 (e : TlbEntry) (addr : Nat) : Option Leaf :=
  e.e1.map fun p => leafAt p.1 e.lvl1 addr p.2.1 p.2.2
def TlbEntry.leaf2 (e : TlbEntry) (ipa key : Nat) : Option Leaf :=
  e.e2.map fun p => leafAt p.1 e.lvl2 ipa p.2 key

/-- A bound on the times that stale cached entries can make an access walk again: each failed compare discards one. -/
def State.tries (s : State) (c : Nat) : Nat := (s.ucore c).tlb.length + 12

/-- Work repeated until a compare succeeds (R196 step 4): none asks for another go. -/
def again {α : Type} (x : Act (Option α)) (e : Exc) : Nat → Act α
  | 0 => .fail e
  | f + 1 => x.bind fun r => match r with
    | some v => .pure v
    | none => again x e f

/-- A stage-1 walk, with the stage-2 marks that the table pages it reads need: they are set at commit, behind those of
stage 1 (R196, R212 item 6). -/
def walk1 (c : Nat) (a : Fx) (s2 high : Bool) (va : Nat) : Act (Leaf × List Mark) := .with fun s =>
  let root := (s.core c).root1 high
  walk c a false false a.trans none va (getF root G.troot0.TABLE * 4096) fun lvl ea =>
    if s2 then tableVia c a ea false .walk lvl 0 else .pure ((ea, getF root G.troot0.KEYID), [])

/-- The whole translation of one access or part (R183-R198, R212). With TEN = 0 and no stage 2 the key ID is 0 (log entry
116). -/
def translate (c : Nat) (a : Fx) : Act Tr := .with fun s =>
  let k := s.core c
  let ctl := k.ctl1
  let va := a.va.toNat
  let s2 := s.s2on k
  let mattr := k.rs Sys.mattr k.world
  if getF ctl G.tctl.TEN = 0 then
    -- R185
    if va >>> 52 ≠ 0 then .fail (a.exc a.trans 4 ⟨5, false, false, 0, none⟩)
    else
      let mt := if a.fetch then 2 else mtypeAt mattr 0
      if a.unal ∧ mt < 2 then .fail a.align
      else if s2 then (second c a va mt [] none).bind fun p => .pure p.1
      else final c a va 0 mt []
  else
    -- R186
    let top := va >>> 47
    let high := decide (top = 0x1FFFF)
    let en := if high then getF ctl G.tctl.EN1 else getF ctl G.tctl.EN0
    if (top ≠ 0 ∧ !high) ∨ en = 0 then .fail (a.exc a.trans 0 ⟨5, false, false, 0, none⟩)
    else
      let had := getF ctl G.tctl.HAD == 1
      let t := s.tag k false
      -- after stage 1
      let rest : Leaf → List Mark → Option (Option Leaf) → Act (Tr × Option Leaf) := fun l pre cached =>
        let mt := mtypeAt mattr l.attr
        if s2 ∧ 2 ^ 48 ≤ l.out ∧ l.span = none then .fail (a.exc a.trans 4 ⟨l.src, false, false, 0, none⟩)
        else if a.unal ∧ mt < 2 then .fail a.align
        else if !s1ok a k.lvl l then .fail (a.exc a.perm 1 ⟨l.src, false, false, l.span.getD 0, none⟩)
        else (Act.ofExcept (marksOf a l had false s2 false va)).bind fun ms =>
          match cached with
          | some none => (final c a l.out l.key mt (ms ++ pre)).bind fun t => .pure (t, none)
          | some (some l2) => second c a l.out mt (ms ++ pre) (some l2)
          | none => if s2 then second c a l.out mt (ms ++ pre) none
                    else (final c a l.out l.key mt (ms ++ pre)).bind fun t => .pure (t, none)
      match (if getF ctl G.tctl.SPAN_EN = 1 then k.span false va else none) with
      | some l =>
        if (if s2 then 2 ^ 48 else 2 ^ 52) ≤ l.out then .fail (a.exc 0x1B 4 ⟨4, false, false, l.span.getD 0, none⟩)
        else (rest l [] none).bind fun p => .pure p.1
      | none =>
        (Act.look fun s => s.lookTlb c a t).bind fun found =>
        match found with
        | some e =>
          match e.leaf1 va with
          | some l =>
            (rest l [] (some (e.leaf2 l.out (getF (k.rs Sys.s2root) G.s2root.KEYID)))).bind fun p => .pure p.1
          | none => .fail (a.exc a.trans 0 ⟨5, false, false, 0, none⟩)
        | none =>
          (Act.change fun s => s.saw c 0x3B).bind fun _ =>
          (walk1 c a s2 high va).bind fun (l, pre) =>
          (rest l pre none).bind fun (tr, l2) =>
          let bits := match l2 with | some x => min l.bits x.bits | none => l.bits
          let keep := match l2 with | some x => x.span.isNone | none => !s2
          (Act.change fun s => if keep then s.onUcore c fun u =>
              let e : TlbEntry := ⟨if bits = 30 then .giant else .l2, t.world, t.vmid, t.asid,
                l.glob || (k.regime == .hyp || k.regime == .monitor), false, va >>> 12, bits, some (l.e, l.ea, l.ekey),
                l2.map fun x => (x.e, x.ea), l.src, (l2.map fun x => x.src).getD 0, l.out >>> 12, u.stamp⟩
              (u.addTlb e).addTlb { e with arr := a.l1tlb }
            else s).bind fun _ => .pure tr

end Sys2Proof.Machine
end

