-- ==== Sys2Proof/Machine/Lsu.lean ====
section
/-! DEFINITION. What a core does to memory once an access is translated: loads with forwarding (R155, R161, R172), the
merge buffer (R169-R171, R176), committed stores, atomics (R90, R91, R155), Device accesses (R155, R157), fetches, accesses
on a wrong path (R140), and the errors that caches find (R241). -/

namespace Sys2Proof.Machine

/-! ### Array errors (R241) -/

/-- What the L1 or L2 check found on the data of a line: an event, a poisoned line, or a lost tag. Only errors of the L2
count for its ways (R242). -/
def arrayErr (c : Nat) (e : ArrErr) (line key : Nat) : Act Unit := fun s =>
  let ev : Nat → Nat → Event := fun cls sev =>
    { bank := c / 2, cls := cls, sev := sev, src := c, addr := some (key, 64 * line), hidden := s.hiddenAt (s.ident c).world (64 * line) }
  let way := fun (l1 : Bool) => match s.coh.priv.find (c, line) with
    | some p => if l1 then s else s.wayErrAdd false c p.way
    | none => s
  match e with
  | .none | .l1iParity => (.ok (), s)
  | .corrected l1 tag => (.ok (), (way l1).logErr (ev (if tag then 6 else 5) 0))
  | .data l1 =>
    let dirty : Bool := match s.coh.priv.find (c, line) with
      | some p => if l1 then (p.l1d.map (·.2)) == some true else p.st == .m || p.st == .o
      | none => false
    if dirty then (.ok (), ({ s with m := s.m.poisonLine line }).logErr (ev 5 1)) else (.ok (), (way l1).logErr (ev 5 0))
  | .tagLost _ => (.error { code := 0x16, mck := 3, at_ := some (key, 64 * line) }, s)

/-- A machine check for poison consumed at an address (R435, R436). -/
def poisonExc (va : DWord) (key pa : Nat) : Exc := { code := 0x16, addr := va, mck := 1, at_ := some (key, pa) }
def dataBus (va : DWord) : Exc := { code := 0x1A, addr := va }
def instrBus (va : DWord) : Exc := { code := 0x19, addr := va }

/-! ### The merge buffer -/

/-- An entry's bytes over a line, newest last. -/
def overlay (line : Nat) (base : Line) (es : List MbEntry) : Line :=
  (es.filter fun e => e.line == line).foldl (fun l e => mergeLine e.mask l e.data) base

/-- The bytes of a line that buffered stores hold. -/
def heldMask (line : Nat) (es : List MbEntry) : BitVec 64 :=
  (es.filter fun e => e.line == line).foldl (fun m e => m ||| e.mask) 0

/-- The entries of one line performed, oldest first. -/
def State.drainLine (s : State) (c line : Nat) : State :=
  let es := (s.ucore c).mbuf
  (es.filter fun e => e.line == line).foldl (fun s e => s.performStore c e)
    (s.onUcore c fun u => { u with mbuf := u.mbuf.filter fun e => e.line != line })

/-- An entry may be written out when none before it is closed or of the same line (R159, R170). -/
def mayLeave (es : List MbEntry) (i : Nat) : Bool :=
  match es[i]? with
  | none => false
  | some e => (es.take i).all fun d => !d.closed && d.line != e.line

/-- Entry i written out. -/
def State.writeOut (s : State) (c i : Nat) : State :=
  match (s.ucore c).mbuf[i]? with
  | none => s
  | some e => (s.onUcore c fun u => { u with mbuf := u.mbuf.eraseIdx i }).performStore c e

/-- Every open entry closed (R170). -/
def State.closeBuf (s : State) (c : Nat) : State :=
  s.onUcore c fun u => { u with mbuf := u.mbuf.map fun e => { e with closed := true } }

/-- The newest open entry of the same line, type, identity and key, as an index; none where a younger entry holds some of
the store's bytes, which must not be overtaken (R159, R169). -/
def mbSlot (es : List MbEntry) (e : MbEntry) : Option Nat :=
  let same := fun (d : MbEntry) => !d.closed && d.line == e.line && d.id == e.id && d.key == e.key && d.mtype == e.mtype
  match ((es.zipIdx.filter fun p => same p.1).getLast?).map (·.2) with
  | some i => if (es.drop (i + 1)).any fun d => d.line == e.line && d.mask &&& e.mask != 0 then none else some i
  | none => none

/-- A store put into an entry: its bytes replace older ones. -/
def MbEntry.merge (d e : MbEntry) : MbEntry :=
  { d with data := mergeLine e.mask d.data e.data, mask := d.mask ||| e.mask, lows := d.lows ++ e.lows, highs := d.highs ++ e.highs }

/-- A committed store to Normal memory enters the merge buffer (R169). -/
def State.buffer (s : State) (c : Nat) (e : MbEntry) : State :=
  let es := (s.ucore c).mbuf
  match mbSlot es e with
  | some i =>
    let s := s.onUcore c fun u => { u with mbuf := u.mbuf.modify i fun d => d.merge e }
    match (s.ucore c).mbuf[i]? with
    | some d => if d.mask = fullMask ∧ mayLeave (s.ucore c).mbuf i then s.writeOut c i else s
    | none => s
  | none =>
    let s := if 8 ≤ es.length then s.writeOut c 0 else s
    s.onUcore c fun u => { u with mbuf := u.mbuf ++ [{ e with age := u.stamp + 1 }], stamp := u.stamp + 1 }

/-! ### Squashes that an access brings about -/

/-- A load took its data while the addresses of some younger ones of the older stores were not known: where one of them
overlaps it, it is squashed and executes again, which is another attempt (R126, R149). -/
def State.passing (s : State) (c : Nat) (x : Issue) (line : Nat) (want : BitVec 64) : State :=
  let l := (s.ucore c).stores
  if (l.drop (l.length - min x.passed.toNat storeQueueSize)).any fun p => p.1 == line && p.2 &&& want != 0 then
    ((s.saw c 0x3D).loopExit c).saw c 0x30
  else s

/-- A store of `n` bytes at an address commits: younger loads may have passed it, and an instruction fetched behind it
that it changes is squashed and fetched again (R126, R136). -/
def State.stored (s : State) (c : Nat) (x : Issue) (pa n : Nat) : State :=
  let s := s.onUcore c fun u =>
    let l := u.stores ++ [(pa / 64, byteMask (pa % 64) n)]
    { u with stores := l.drop (l.length - storeQueueSize) }
  if (x.behind.take robSize).any fun p => decide (pa / 4 ≤ p.toNat / 4) && decide (p.toNat / 4 ≤ (pa + n - 1) / 4) then
    (s.saw c 0x50).loopExit c
  else s

/-! ### Reads -/

/-- A core's access to an address that is not Normal memory: the gathered write before it goes first (R171), and an
RSP_ERR that the core has received for the address is what it ends in (R262). -/
def State.coreDev (s : State) (c cmd pa n : Nat) (wr : Option Nat) : DevEnd × State :=
  let s := s.flushGath c
  match s.rspErr c (pa / 64) with
  | some e => (.error e, s.clearErr c (pa / 64) e)
  | none => match s.devAccess (s.coreReq c) cmd pa n wr with
    | (.error e, s1) => (.error e, s1.statErr c (s1.core c).statId (if wr.isSome then 2 else 0) e)
    | (.ok r, s1) => (.ok r, s1.statCore c 2)

/-- A line brought into the L1 of a core (R214, R216): a miss in the L1 asks the L2, through its request port; a line that
comes from behind a clasped port is poisoned (R380). -/
def State.lineIn (s : State) (c line key : Nat) (instr : Bool) : State :=
  let s := if s.hasLine c line then s else s.cutIn line
  let held := if instr then ((s.coh.priv.find (c, line)).bind (·.l1i)).isSome else s.inL1d c line
  let s := if held then s else (s.saw c (if instr then 0x37 else 0x33)).grant c instr
  (s.l2Read c line key instr).fillL1 c line instr

/-- A read of Normal-NC or Device-typed memory at the home. -/
def State.lineNc (s : State) (c line key : Nat) : State :=
  ((s.wakePath line).readHome line key).2.2.statCore c 2

/-- A committed demand access that trains the L2 prefetcher (R217). -/
def State.train (s : State) (c line key : Nat) : State :=
  let page := (line / 64, key, s.ident c)
  s.onUcore c fun u => { u with trained := if u.trained.contains page then u.trained else u.trained ++ [page] }

/-- A read of one part, which lies in one line of memory: forwarded where the merge buffer holds all its bytes (R161). -/
def readPart (c : Nat) (x : Issue) (a : Fx) (t : Tr) (n : Nat) : Act Nat := fun s =>
  let line := t.pa / 64
  if s.physDevice t.pa then
    match s.coreDev c 0x03 t.pa n none with
    | (.error _, s1) => (.error (dataBus a.va), s1)
    | (.ok (v, p), s1) => if p then (.error (poisonExc a.va t.key t.pa), s1) else (.ok v, s1)
  else
    let want := byteMask (t.pa % 64) n
    let s := if t.mtype ≤ 1 then s.flushGath c else (s.settleGath c line).passing c x line want
    let es := (s.ucore c).mbuf
    let have_ := heldMask line es &&& want
    if have_ = want ∧ 2 ≤ t.mtype then
      (.ok (((overlay line 0 es).toNat >>> (8 * (t.pa % 64))) % 2 ^ (8 * n)), s)
    else
      let s := if have_ = 0 then s else s.drainLine c line
      match s.coreErr c line (t.mtype == 3 && s.hasLine c line) with
      | some st => (.error (dataBus a.va), s.clearErr c line st)
      | none =>
        let cut := t.mtype != 3 && s.cutOff line
        let s1 := if t.mtype = 3 then s.lineIn c line t.key false else s.lineNc c line t.key
        match arrayErr c (if t.mtype = 3 then x.arr else .none) line t.key s1 with
        | (.error e, s2) => (.error e, s2)
        | (.ok _, s2) =>
          if cut || s2.m.poisonedIn t.pa n then (.error (poisonExc a.va t.key t.pa), s2)
          else if t.mtype = 3 then (.ok (s2.m.readIn t.pa n (s2.keyAt c line t.key)), s2.train c line t.key)
          else (.ok (s2.m.readIn t.pa n t.key), s2)

/-! ### Parts of an access (R158, R174, R175) -/

/-- The parts of an access: address and size; two where it crosses a line. -/
def parts (va : DWord) (n : Nat) : List (DWord × Nat) :=
  let o := va.toNat % 64
  if o + n ≤ 64 then [(va, n)] else [(va, 64 - o), (va + dw (64 - o), n - (64 - o))]

/-- The access of a part. -/
def fxOf (va whole : DWord) (n : Nat) (rd wr : Bool) : Fx :=
  { va := va, whole := whole, fetch := false, rd := rd, wr := wr, cmo := false,
    unal := decide (whole.toNat % n ≠ 0) }

/-- Each part of an access in turn: translated, its marks set, and checked by `f`: every cause of a lower part comes
before any of a higher one, and no part is performed yet (R175). None where a table entry has changed since it was cached. -/
def eachPart {α : Type} (c : Nat) (whole : DWord) (n : Nat) (rd wr : Bool) (f : Fx → Tr → Nat → Act α) :
    List (DWord × Nat) → Act (Option (List α))
  | [] => .pure (some [])
  | (va, k) :: l =>
    let a := fxOf va whole n rd wr
    (translate c a).bind fun t => (setMarks c a wr t.marks).bind fun ok =>
      if ok then (f a t k).bind fun v => (eachPart c whole n rd wr f l).bind fun r => .pure (r.map fun r => v :: r)
      else .pure none

/-- A whole access, which executes again after a failed compare (R196 step 4). -/
def eachAgain {α : Type} (c : Nat) (va : DWord) (n : Nat) (rd wr : Bool) (f : Fx → Tr → Nat → Act α) : Act (List α) :=
  .with fun s => again (eachPart c va n rd wr f (parts va n)) { code := 0x05, addr := va } (s.tries c)

/-- The number that parts give, the lower one first; `ns`: their sizes. -/
def joinParts : List Nat → List (DWord × Nat) → Nat
  | v :: vs, (_, n) :: l => v + joinParts vs l * 256 ^ n
  | _, _ => 0

/-- Whether an access would raise an exception: raised here; otherwise nothing has been done yet. -/
def Act.peek {α : Type} (x : Act α) : Act Unit := fun s =>
  match x s with
  | (.error e, s1) => (.error e, s1)
  | (.ok _, _) => (.ok (), s)

/-- The reads of the parts of a load. -/
def readParts (c : Nat) (x : Issue) : List (Fx × Tr × Nat) → Act (List Nat)
  | [] => .pure []
  | (a, t, k) :: l => (readPart c x a t k).bind fun v => (readParts c x l).bind fun vs => .pure (v :: vs)

/-- A load of n bytes; where it has two parts, the causes of both are looked for before either is read (R175). -/
def load (c : Nat) (x : Issue) (va : DWord) (n : Nat) : Act Nat :=
  (Act.change fun s => s.saw c 0x30).bind fun _ =>
    (eachAgain c va n true false fun a t k =>
        (if k = n then .pure () else (readPart c x a t k).peek).bind fun _ => .pure (a, t, k)).bind fun ps =>
      (readParts c x ps).bind fun vs => .pure (joinParts vs (parts va n))

/-! ### Stores -/

/-- The merge-buffer entry of a part; `low`, `high`: the number of the split store whose lower or higher part it is. -/
def mbOf (id : Ident) (t : Tr) (n v : Nat) (low high : List Nat) : MbEntry :=
  { line := t.pa / 64, id := id, key := t.key, mtype := t.mtype,
    data := BitVec.ofNat 512 (v % 256 ^ n * 2 ^ (8 * (t.pa % 64))), mask := byteMask (t.pa % 64) n, closed := false,
    lows := low, highs := high }

/-- What the L1 and L2 checks find on the line of a store, before any of its parts is written (R175, R241). -/
def storeCheck (c : Nat) (x : Issue) (t : Tr) : Act Unit := fun s =>
  if s.physDevice t.pa ∨ t.mtype ≠ 3 then (.ok (), s) else arrayErr c x.arr (t.pa / 64) t.key s

/-- A Device-G store joins the gathered write at the head of the store queue, or starts one; it is sent unless it waits for
the next, which a store-release does not (R159, R171). -/
def State.gather (s : State) (c : Nat) (x : Issue) (e : MbEntry) (release : Bool) : State :=
  let s := match (s.ucore c).gath with
    | some g => if g.block = e.line ∧ g.id = e.id ∧ g.key = e.key then s else s.flushGath c
    | none => s
  let s := if (s.ucore c).gath.isNone then s.onUcore c fun u => { u with stamp := u.stamp + 1 } else s
  let s := s.onUcore c fun u => { u with gath := match u.gath with
    | some g => some { g with data := mergeLine e.mask g.data e.data, mask := g.mask ||| e.mask }
    | none => some ⟨e.line, e.id, e.key, e.data, e.mask, u.stamp⟩ }
  if x.gathers && !release then s else s.flushGath c

/-- A store of one part that has committed; a Device-S store first waits for its target's answer (R155). -/
def storePart (c : Nat) (x : Issue) (a : Fx) (t : Tr) (n v : Nat) (low high : List Nat) (release : Bool) : Act Unit := fun s =>
  let e := mbOf (s.ident c) t n v low high
  if t.mtype = 0 then
    if s.physDevice t.pa then
      match s.coreDev c 0x05 t.pa n (some (v % 256 ^ n)) with
      | (.ok _, s1) => (.ok (), s1.stored c x t.pa n)
      | (.error _, s1) => (.error (dataBus a.va), s1)
    else
      let s := (s.flushGath c).drainLine c e.line
      match s.coreErr c e.line false true with
      | some st => (.error (dataBus a.va), s.clearErr c e.line st 2)
      | none =>
        let s := s.stored c x t.pa n
        (.ok (), ((s.wakePath e.line).statCore c 2).writeHome e.line e.key e.mask e.data 0)
  else
    let s := s.stored c x t.pa n
    if t.mtype = 1 then (.ok (), (if s.physDevice t.pa then s else s.drainLine c e.line).gather c x e release)
    else
      let s := s.settleGath c e.line
      (.ok (), if release then s.performStore c e else s.buffer c e)

def storeParts (c : Nat) (x : Issue) (release : Bool) (split : Option Nat) : Bool → Nat → List (Fx × Tr × Nat) → Act Unit
  | _, _, [] => .pure ()
  | up, v, (a, t, n) :: l =>
    (storePart c x a t n v (if up then [] else split.toList) (if up then split.toList else []) release).bind fun _ =>
      storeParts c x release split true (v / 256 ^ n) l

/-- The number of a split store. -/
def State.splitNo (s : State) (c : Nat) : Nat × State :=
  ((s.ucore c).stamp, s.onUcore c fun u => { u with stamp := u.stamp + 1 })

/-- A store of n bytes; a store-release follows every earlier store of the core (R167). -/
def store (c : Nat) (x : Issue) (va : DWord) (n v : Nat) (release : Bool) : Act Unit :=
  (eachAgain c va n false true fun a t k => (storeCheck c x t).bind fun _ => .pure (a, t, k)).bind fun ps =>
    (Act.change fun s => if release then s.drain c else s).bind fun _ =>
      (Act.look fun s => if ps.length = 1 then (none, s) else let r := s.splitNo c; (some r.1, r.2)).bind fun split =>
        storeParts c x release split false v ps

/-! ### Atomics (R90, R91, R155) -/

/-- The read-modify-write itself, on a translated location: the old value returned, `new` stored where there is one. -/
def atomicAt (c : Nat) (x : Issue) (va : DWord) (t : Tr) (n old : Nat) (new : Option Nat) : Act Nat := fun s =>
  let line := t.pa / 64
  let wb := t.mtype == 3
  match s.coreErr c line (wb && s.hasUnique c line) (t.mtype != 3) with
  | some st => (.error (dataBus va), s.clearErr c line st 1)
  | none =>
    let cut := s.cutOff line && !(wb && s.hasLine c line)
    let s := if cut then let s := s.underClasp line false
                         (if wb then { s with m := s.m.poisonLine line } else s) else s
    match arrayErr c (if wb then x.arr else .none) line t.key s with
    | (.error e, s1) => (.error e, s1)
    | (.ok _, s1) =>
      if cut || s1.m.poisonedIn t.pa n then (.error (poisonExc va t.key t.pa), s1)
      else
        let data : Line := BitVec.ofNat 512 (new.getD 0 % 256 ^ n * 2 ^ (8 * (t.pa % 64)))
        let mask := byteMask (t.pa % 64) n
        let s := s1.wakePath line
        let s := if wb then s.ownLine c line t.key false
                 else (s.withCs ((s.keyConflict s.cs line t.key).purge line)).statCore c 2
        let s := match new with
          | none => s
          | some _ =>
            let s := s.stored c x t.pa n
            if wb then s.storeLine c line (s.keyAt c line t.key) mask data else s.writeHome line t.key mask data 0
        (.ok old, s)

/-- What the read of an atomic meets in DRAM (R353), where the core does not hold the line. -/
def State.atomicRead (s : State) (c : Nat) (t : Tr) : State :=
  let line := t.pa / 64
  if (t.mtype = 3 ∧ s.hasLine c line) ∨ (s.coreErr c line false (t.mtype != 3)).isSome then s else s.memIn line

/-- A read-modify-write of n bytes: `f` gives the new value, or none where a comparison fails. A Device type is turned away
once the location is translated and checked (log entry 92); the marks, of which D is set only where the location is
written, come before the errors of the access itself (R212). -/
def atomicOp (c : Nat) (x : Issue) (va : DWord) (n : Nat) (release : Bool) (f : Nat → Option Nat) : Act Nat := .with fun s0 =>
  let a := fxOf va va n true true
  again ((translate c a).bind fun t =>
      if t.mtype ≤ 1 then .fail { code := 0x07, addr := va, tf := some ⟨1, 7, false, true, false, false, 0, none⟩ }
      else
        (Act.change fun s =>
            (if release then s.drain c else (s.settleGath c (t.pa / 64)).drainLine c (t.pa / 64)).atomicRead c t).bind fun _ => .with fun s =>
          let old := s.m.readIn t.pa n (if t.mtype = 3 ∧ s.hasUnique c (t.pa / 64) then s.keyAt c (t.pa / 64) t.key else t.key)
          (setMarks c a (f old).isSome t.marks).bind fun ok =>
            if ok then (atomicAt c x va t n old (f old)).bind fun v => .pure (some v) else .pure none)
    { code := 0x05, addr := va } (s0.tries c)

/-! ### Fetch -/

/-- The access of an instruction fetch at pc. -/
def fetchFx (pc : DWord) : Fx :=
  { va := pc, whole := pc, fetch := true, rd := false, wr := false, cmo := false, unal := false }

/-- An error that the L2 check found. -/
def errOfL2 : ArrErr → Bool
  | .corrected l1 _ | .data l1 | .tagLost l1 => !l1
  | _ => false

/-- Whether a fetch of a line reads it in the core's L2. -/
def State.fromL2 (s : State) (c line : Nat) : Bool :=
  match s.coh.priv.find (c, line) with
  | some p => p.l1i.isNone
  | none => false

/-- A parity error in the L1I: the line is invalidated there and fetched again (R241). -/
def State.l1iDrop (s : State) (c line : Nat) : State :=
  let s := match s.coh.priv.find (c, line) with
    | some p => { s with coh := { s.coh with priv := s.coh.priv.set (c, line) { p with l1i := none } } }
    | none => s
  s.logErr { bank := c / 2, cls := 5, sev := 0, src := c, addr := some (0, 64 * line), hidden := s.hiddenAt (s.ident c).world (64 * line) }

/-- The fetch of the instruction at pc: its causes and fills, and its line where the L1I takes it (R78, R110, R137, R215).
The word itself comes with the command. -/
def fetchPart (c : Nat) (x : Issue) (pc : DWord) (t : Tr) : Act (Option Nat) := fun s =>
  let line := t.pa / 64
  if s.physDevice t.pa then
    match s.coreDev c 0x03 t.pa 4 none with
    | (.error _, s1) => (.error (instrBus pc), s1)
    | (.ok (_, p), s1) => if p then (.error (poisonExc pc t.key t.pa), s1) else (.ok none, s1)
  else
    match s.coreErr c line (t.mtype == 3 && s.hasLine c line) with
    | some st => (.error (instrBus pc), s.clearErr c line st)
    | none =>
      let cut := t.mtype != 3 && s.cutOff line
      let s := if x.arr = .l1iParity ∧ t.mtype = 3 then s.l1iDrop c line else s
      match arrayErr c (if errOfL2 x.arr && t.mtype == 3 && s.fromL2 c line then x.arr else .none) line t.key s with
      | (.error e, s) => (.error e, s)
      | (.ok _, s) =>
        let s := if t.mtype = 3 then s.lineIn c line t.key true else s.lineNc c line t.key
        if cut || s.m.poisonedIn t.pa 4 then (.error (poisonExc pc t.key t.pa), s)
        else (.ok (if t.mtype = 3 then some line else none), s)

/-- The fetch at pc: its line in the L1I. An instruction that the loop buffer replays is not fetched (R112, R113). -/
def fetch (c : Nat) (x : Issue) : Act (Option Nat) := .with fun s =>
  let pc := (s.core c).pc
  if (s.ucore c).loop.run.isSome then .pure none
  else
    again ((translate c (fetchFx pc)).bind fun t => (setMarks c (fetchFx pc) false t.marks).bind fun ok =>
        if ok then (fetchPart c x pc t).bind fun l => .pure (some l) else .pure none)
      { code := 0x04, addr := pc } (s.tries c)

/-! ### The wrong path (R140) -/

/-- An access on a wrong path: walks and fills from Normal memory, never a mark, a Device access, a store or a cause. -/
def State.wrongOne (s : State) (c : Nat) (w : Wrong) : State :=
  let s := if w.acc = .read then s.saw c 0x30 else s
  let a : Fx := { va := w.va, whole := w.va, fetch := w.acc == .fetch, rd := w.acc == .read, wr := w.acc == .write, cmo := false,
                  unal := false, spec := true }
  match translate c a s with
  | (.error _, s1) => s1
  | (.ok t, s1) =>
    let line := t.pa / 64
    if s1.physDevice t.pa ∨ t.mtype < 2 ∨ w.acc = .write ∨ (s1.coreErr c line (t.mtype == 3 && s1.hasLine c line)).isSome then s1
    else if t.mtype = 3 then s1.lineIn c line t.key a.fetch
    else s1.lineNc c line t.key

/-- What a core did on wrong paths before an instruction; a mispredicted branch can have at most the reorder buffer's µops
behind it. -/
def State.wrongPath (s : State) (c : Nat) (l : List Wrong) : State := (l.take robSize).foldl (fun s w => s.wrongOne c w) s

end Sys2Proof.Machine
end

