-- ==== Sys2Proof/Machine/Ops.lean ====
section
/-! DEFINITION. What every instruction of a core shares: the checks of its results (R142-R145, R438), performance
counters (R146-R150), the loop buffer (R111-R113), taking an exception (R273-R275, R291, R436) or an interrupt
(R304, R305, R133, R134, R315), returning from one (R274, R314), and committing. -/

namespace Sys2Proof.Machine

/-! ### Performance counters -/

/-- A counter advanced by an amount; a wrap sets its PMOVF bit and may raise the overflow interrupt in the world that owns
the monitor registers (R147, log entry 47). `bit` is its place in PMOVF. -/
def State.pmAdd (s : State) (c num bit amt : Nat) : State :=
  let k := s.core c
  let v := (k.rs num).toNat + amt
  let k1 := k.ws num false (dw v)
  if v < 2 ^ 64 then (if amt = 0 then s else s.setCore c k1)
  else
    let k2 := k1.ws Sys.pmovf false (k.rs Sys.pmovf ||| (1#64 <<< bit))
    let s := s.setCore c k2
    if k.sflag Sys.pmctl false G.pmctl.OVF_IE then
      logged (s.intArrive c k.pmWorld (k.sf Sys.pmctl false G.pmctl.VEC) (k.sf Sys.pmctl false G.pmctl.OVF_PRIO) 1)
    else s

/-- What a counter that selects `sel` counts of events: those of its code that count, met at the levels it names (R148). -/
def metAmount (sel : DWord) (evs : List Met) : Nat :=
  let ev := getF sel G.pmevsel.EVENT
  (evs.filter fun e => e.ev == ev && ev != 0 && e.counts && (getF sel G.pmevsel.LVL).testBit e.lvl).foldl (fun a e => a + e.amt) 0

/-- The programmable counters, set up as in k, after events. -/
def State.pmMet (s : State) (c : Nat) (k : Core) (evs : List Met) : State :=
  (List.range 8).foldl (fun s n => s.pmAdd c (0x60 + n) n (metAmount (k.rs (0x4058 + n)) evs)) s

/-- Events of a core with the state k, and how often each has happened. -/
def Core.metAll (k : Core) (evs : List (Nat × Nat)) : List Met := evs.map fun e => { k.met e.1 false with amt := e.2 }

/-- Events of a core that had the state k when they happened. -/
def State.pmEvents (s : State) (c : Nat) (k : Core) (evs : List (Nat × Nat)) : State :=
  if k.counts then s.pmMet c k (k.metAll evs) else s

/-- The committed variant of an issued event (R150). -/
def committedOf (ev : Nat) : Option Nat :=
  if ev = 0x33 then some 0x34 else if ev = 0x35 then some 0x36 else if ev = 0x38 then some 0x39
  else if ev = 0x3B then some 0x3C else none

/-- What is known of an instruction before its first attempt: the core then, its µops, how often it is attempted, how many
events were met before it, and whether it is a JALR that fetch waits for (R122). -/
structure Under where
  core : Core
  uops : Nat
  attempts : Nat
  before : Nat
  barredJalr : Bool
  looped : Bool
deriving DecidableEq, Repr

/-- The committed variants of events (R149). -/
def committedMet (l : List Met) : List Met := l.filterMap fun e => (committedOf e.ev).map fun ev => { e with ev := ev }

/-- The events of an instruction: those met on its way, those that its commit counts, and the numbers that only cycles or
wrong paths give, which are free (log entry 90). `n`: the draw; `cycles`: whether its cycles count (R148, R149). -/
def Under.events (u : Under) (n : Nat) (seen : List Met) (evs : List (Nat × Nat)) (done cycles : Bool) : List Met :=
  let cyc := if cycles then Config.eventCount n 0x01 % 2 ^ 32 else 0
  let some_ := fun (ev : Nat) => (ev, Config.eventCount n ev % (cyc + 1))
  let own := (seen.drop u.before).filter fun e => !e.past
  let loads := own.filter (·.ev == 0x30)
  let misses := (evs.filter fun e => e.1 == 0x11).foldl (fun a e => a + e.2) 0
  seen ++ committedMet (seen.filter (·.past)) ++ (if done then committedMet own else []) ++ u.core.metAll
    ([(0x30, (u.attempts - 1) * loads.length), (0x03, u.uops * u.attempts + Config.eventCount n 0x03 % 2 ^ 32)] ++
    (if done then evs else []) ++
    [(0x12, misses + Config.eventCount n 0x12 % 2 ^ 32), (0x01, cyc), (0x20, if u.looped then cyc else 0),
     (0x15, if u.barredJalr then (some_ 0x15).2 else 0)] ++ [0x80, 0x81, 0x82, 0x83].map some_)

/-- The counters after an instruction that has committed, or has ended in an exception or in an interrupt before it: its
events, SYS.PMCMT, and the cycles, which inside a locket do not count (R148, R149). -/
def State.pmEnd (s : State) (c : Nat) (u : Under) (evs : List (Nat × Nat)) (done : Bool) : State :=
  let seen := (s.ucore c).seen
  let n := s.free
  let cycles := (s.core c).lk.isNone
  let s := ({ s with free := s.free + 1 } : State).onUcore c fun q => { q with seen := [] }
  let s := s.pmMet c u.core (u.events n seen evs done cycles)
  if u.core.counts then
    let s := if done then s.pmAdd c Sys.pmcmt 9 1 else s
    if cycles then s.pmAdd c Sys.pmcyc 8 (Config.eventCount n 0x01 % 2 ^ 32) else s
  else s

/-! ### What an instruction does to the flow of control, and the loop buffer -/

/-- The next instruction; a conditional direct branch, with its predicted direction; J, with whether its target was
predicted; anything else that redirects. -/
inductive Flow where
  | next
  | cond (taken pred : Bool) (target : DWord)
  | jump (target : DWord)
  | other
deriving DecidableEq, Repr

/-- What an instruction that commits leaves to the common part: the next pc, its flow and its events. -/
structure Done where
  pc : DWord
  flow : Flow := .next
  evs : List (Nat × Nat) := []
deriving DecidableEq, Repr

/-- The shape of an instruction: its µops (R123), whether it is serialising (R117), whether a loop that holds it does
not qualify for another reason (R111), whether it is a JALR. -/
structure Shape where
  uops : Nat := 1
  ser : Bool := false
  noLoop : Bool := false
  jalr : Bool := false
deriving DecidableEq, Repr

/-- A running iteration with one more instruction, from a line of the L1I where it was fetched from one. -/
def LoopCand.add (l : LoopCand) (uops : Nat) (line : Option Nat) (jump : Bool) (dir : Option Bool) : LoopCand :=
  { l with uops := l.uops + uops, taken := l.taken + b2n jump, path := l.path ++ dir.toList,
           lines := l.lines ++ line.toList.filter fun n => !l.lines.contains n }

/-- A loop at the end of an iteration that was predicted taken, before which `n` in a row were. -/
def LoopCand.begin (t p : DWord) (n : Nat) : LoopCand :=
  { start := t, stop := p, count := n, uops := 0, taken := 0, path := [], lines := [] }

/-- The end of an iteration at a backward taken branch at p to t, predicted so or not. The second end in a row whose
iteration qualifies starts the capture of the next one, whose end starts the replay (R112). -/
def LoopBuf.turn (l : LoopBuf) (t p : DWord) (pred : Bool) : LoopBuf :=
  let rest := l.cands.filter fun q => !(q.start == t && q.stop == p)
  if !pred then { l with cands := rest ++ [LoopCand.begin t p 0] }
  else match l.cands.find? fun q => q.start == t && q.stop == p with
    | none => { l with cands := rest ++ [LoopCand.begin t p 1] }
    | some q =>
      if q.count < 2 then { l with cands := rest ++ [LoopCand.begin t p (q.count + 1)] }
      else { cands := [], run := some { start := t, stop := p, path := q.path, at_ := 0, lines := q.lines } }

/-- What the loop buffer tracks after an instruction at p, from a line, while it does not replay (R111, R112): an iteration
that cannot qualify is forgotten. -/
def LoopBuf.track (l : LoopBuf) (sh : Shape) (p : DWord) (line : Option Nat) (fl : Flow) : LoopBuf :=
  let grow := fun (jump : Bool) (dir : Option Bool) =>
    { l with cands := (l.cands.map fun q => q.add sh.uops line jump dir).filter fun q => decide (q.uops ≤ 128) && decide (q.taken ≤ 8) }
  match fl with
  | .next => grow false none
  | .jump t => let l := grow true none; if t ≤ p then l.turn t p true else l
  | .cond taken pred t =>
    let l := grow taken (some taken)
    if t ≤ p then
      if taken then l.turn t p pred else { l with cands := l.cands.filter fun q => !(q.start == t && q.stop == p) }
    else l
  | .other => { l with cands := [] }

/-- The replay after an instruction at p; none where it exits (R113): a direction prediction that differs from the captured
path, a misprediction, or anything that the buffer cannot hold. -/
def LoopRun.follow (r : LoopRun) (p : DWord) : Flow → Option LoopRun
  | .next => some r
  | .jump _ => some (if p = r.stop then { r with at_ := 0 } else r)
  | .cond taken pred _ =>
    if p = r.stop then (if taken then some { r with at_ := 0 } else none)
    else if r.path[r.at_]? = some pred ∧ pred = taken then some { r with at_ := r.at_ + 1 } else none
  | .other => none

/-- The loop buffer after an instruction; `off`: LB_DIS = 1 or prediction barred. -/
def LoopBuf.step (l : LoopBuf) (sh : Shape) (p : DWord) (line : Option Nat) (fl : Flow) (off : Bool) : LoopBuf :=
  if sh.ser || sh.noLoop || off then LoopBuf.reset
  else match l.run with
    | some r => { cands := [], run := r.follow p fl }
    | none => l.track sh p line fl

/-- The loop buffer left where a line that its instructions came from is no longer in the L1I (R113). -/
def State.loopValid (s : State) (c : Nat) : State :=
  match (s.ucore c).loop.run with
  | some r =>
    if r.lines.all fun l => match s.coh.priv.find (c, l) with | some p => p.l1i.isSome | none => false then s else s.loopExit c
  | none => s

/-! ### Commit -/

/-- Prediction is barred, or the loop buffer is not used in this world. -/
def Core.loopOff (k : Core) : Bool := k.barred || k.sflag Sys.predctl k.world G.predctl.LB_DIS

/-- An instruction from a line commits; `u` is what was known before it. -/
def State.commit (s : State) (c : Nat) (u : Under) (sh : Shape) (line : Option Nat) (d : Done) : State :=
  let s := s.onCore c fun q => { q with pc := d.pc }
  let s := s.onUcore c fun q =>
    let l := q.loop.step sh u.core.pc line d.flow u.core.loopOff
    { q with loop := l, seen := if q.loop.run.isSome && l.run.isNone then q.seen ++ [u.core.met 0x21 false] else q.seen }
  s.pmEnd c u ((0x02, 1) :: (0x04, sh.uops) :: d.evs) true

/-! ### Where exceptions are taken (R275) -/

/-- The level and world an exception is taken at. -/
def State.target275 (s : State) (c : Nat) (e : Exc) : Nat × Bool :=
  let k := s.core c
  let stage2 := match e.tf with | some t => t.stage | none => false
  if k.world then (if k.lvl = 3 ∨ e.code = 0x12 ∨ e.code = 0x16 then 3 else 1, true)
  else if e.code = 0x12 then (3, true)
  else
    let l2 := [0x0A, 0x0B, 0x11, 0x16, 0x18].contains e.code ||
      ([0x0C, 0x0D, 0x1B].contains e.code && stage2) || (e.code == 0x0E && (stage2 || s.s2on k))
    (max k.lvl (if l2 && s.iso != .lk then 2 else 1), false)

/-! ### Entry (R272, R273) -/

/-- ECAUSE, ESTATE and TFINFO as words. -/
def causeWord (code inner vec : Nat) : DWord := dw (code + inner * 2 ^ 8 + vec * 2 ^ 16)
def Core.stateWord (k : Core) (plk : Bool) : DWord := dw (k.lvl + b2n k.world * 4 + b2n k.ie * 8 + b2n plk * 16)
def TInfo.word (t : TInfo) : DWord :=
  dw (t.kind + t.src * 2 ^ 4 + b2n t.fetch * 2 ^ 7 + b2n t.write * 2 ^ 8 + b2n t.stage * 2 ^ 9 + b2n t.walk * 2 ^ 10 +
    b2n t.ipa.isSome * 2 ^ 11 + t.span * 2 ^ 12)

/-- One entry: target level and world, what ECAUSE, EPC and EADDR receive, the offset of the handler, and whether it
ended locket execution. -/
structure Entry where
  lvl : Nat
  world : Bool
  code : Nat
  inner : Nat := 0
  vec : Nat := 0
  epc : DWord
  eaddr : DWord := 0
  tf : Option TInfo := none
  off : Nat
  plk : Bool := false
deriving DecidableEq, Repr

/-- The world return record made on an entry from the normal world into the trusted world (R296, R297). -/
def Core.worldRet (k : Core) (e : Entry) : WorldRet :=
  { pc := if e.code = 0x12 then e.epc + 4 else e.epc, lvl := k.lvl, ie := k.ie, g := k.g, v := k.v, fcsr := k.rs Sys.fcsr,
    byCall := e.code == 0x12, vec := e.vec }

/-- The registers of the target level written, level and world switched, the handler's address (R273). -/
def Core.enter (k : Core) (e : Entry) : Core :=
  let b := bankOf e.lvl e.world
  let q := (((k.ws (Sys.estateAt e.lvl) b (k.stateWord e.plk)).ws (Sys.epcAt e.lvl) b e.epc).ws
    (Sys.ecauseAt e.lvl) b (causeWord e.code e.inner e.vec)).ws (Sys.eaddrAt e.lvl) b e.eaddr
  let q := match e.tf with
    | some t => (q.ws (Sys.tfinfoAt e.lvl) false t.word).ws (Sys.tfipaAt e.lvl) false (dw (t.ipa.getD 0 / 4096 * 4096))
    | none => q
  { q with run := .running, lvl := e.lvl, world := e.world, ie := false, lk := none, barred := false,
           wret := if e.world && !k.world then some (k.worldRet e) else k.wret,
           pc := k.rs (Sys.vbaseAt e.lvl) b + dw e.off }

def State.enterAt (s : State) (c : Nat) (e : Entry) : State := (s.onCore c fun k => k.enter e).loopExit c

/-! ### Leaving a locket (R287, R291) -/

/-- The general and vector registers as a save area holds them. -/
def Core.gBytes (k : Core) : List Byte := (List.range 31).flatMap fun i => leBytes 8 (k.rg (BitVec.ofNat 5 (i + 1))).toNat
def Core.vBytes (k : Core) : List Byte := (List.range 32).flatMap fun i => leBytes 32 (k.rv (BitVec.ofNat 5 i)).toNat

/-- Bytes written to a slot's page by the core, under the locket's key. -/
def State.slotWrite (s : State) (c key pa : Nat) (bs : List Byte) : State :=
  match s.agentWrite true (tileStop (c / 2)) hypId key false (linesOf bs.length) pa bs with
  | .ok s1 => s1
  | .error _ => s

/-- The page of a slot of a locket, and the locket's key. -/
def State.slotPage (s : State) (l slot : Nat) : Option (Nat × Nat) :=
  match s.sec.lockets.find l with
  | some k => (k.slots[slot]?).map fun p => (p, k.key)
  | none => none

/-- The thread's state saved to its slot, which becomes SAVED; the registers read zero from then on. -/
def State.lkSave (s : State) (c : Nat) (x : LkCtx) (pc cause : DWord) : State :=
  let k := s.core c
  let s := match s.slotPage x.id x.slot with
    | some (p, key) =>
      ((s.slotWrite c key p (leBytes 8 1 ++ leBytes 8 pc.toNat ++ leBytes 8 (k.rs Sys.fcsr).toNat ++ leBytes 8 cause.toNat)).slotWrite
        c key (p + 0x100) k.gBytes).slotWrite c key (p + 0x200) k.vBytes
    | none => s
  s.onCore c fun k => { (k.ws Sys.fcsr false 0) with g := [], v := [], lk := none }

/-- The causes whose EADDR is a faulting address (R272, R275). -/
def addrCause (code : Nat) : Bool := (decide (3 ≤ code) && decide (code ≤ 0x0E)) || code == 0x16 || (decide (0x19 ≤ code) && decide (code ≤ 0x1B))

/-- An entry made from inside a locket: an asynchronous exit, entered as LOCKET_EXIT. `pc` is what the slot saves. -/
def State.lkExit (s : State) (c : Nat) (x : LkCtx) (e : Entry) (pc : DWord) : State :=
  (s.lkSave c x pc (causeWord 0x0F e.code e.vec)).enterAt c
    { lvl := e.lvl, world := e.world, code := 0x0F, inner := e.code, vec := e.vec, epc := x.enter,
      eaddr := if addrCause e.code then e.eaddr &&& ~~~(0xFFF#64) else 0, off := 0x300, plk := true }

/-- An entry, from wherever the core is. SCALL and BREAK in a locket save the pc after themselves. -/
def State.takeEntry (s : State) (c : Nat) (e : Entry) : State :=
  match (s.core c).lk with
  | none => s.enterAt c e
  | some x => s.lkExit c x e (if e.code = 0x10 ∨ e.code = 0x13 then e.epc + 4 else e.epc)

/-! ### Machine checks (R436, R437, R446) -/

/-- Class and severity of the event behind a machine check, by KIND. -/
def mckClass (kind : Nat) : Nat × Nat :=
  if kind = 2 then (0x03, 2) else if kind = 3 then (0x06, 3) else if kind = 5 then (0x02, 2) else (0x09, 2)

/-- The record and MCINFO of a machine check taken at a level. -/
def State.mckRecord (s : State) (c : Nat) (e : Exc) (lvl : Nat) (world : Bool) : State :=
  let k := s.core c
  let p := mckClass e.mck
  let hid := match e.at_ with | some a => s.hiddenAt k.world a.2 | none => k.world
  let (slot, s) := s.logErrSlot { bank := c / 2, cls := p.1, sev := p.2, src := c, addr := e.at_, hidden := hid }
  -- parity of committed state has no KIND of its own: KIND and RESTART are free (log entry 93)
  let (kind, restart, s) : Nat × Bool × State :=
    if e.mck = 5 then let r := s.fresh; (r.1.toNat % 256, r.1.getLsbD 8, r.2) else (e.mck, e.mck != 3, s)
  let w := dw (0x8000 + b2n restart * 0x4000 + b2n slot.isSome * 0x800 + slot.getD 0 * 0x100 + kind)
  s.onCore c fun k => k.ws (Sys.mcinfoAt lvl) (bankOf lvl world) w

/-- The times of a core's replay-exhausted machine checks of the last second, this one included. -/
def State.mckTimes (s : State) (c : Nat) : List DWord :=
  ((s.core c).mchecks.filter fun t => decide (s.now.toNat - t.toNat < 1000000000)) ++ [s.now]

/-- The third machine check of KIND 0x02 within one second fences the core (R446). -/
def State.mckCount (s : State) (c kind : Nat) : State :=
  if kind = 2 then
    let l := s.mckTimes c
    let s := s.onCore c fun k => { k with mchecks := l }
    if 3 ≤ l.length then s.fenceAny c 2 else s
  else s

/-! ### Taking a synchronous exception -/

/-- The offset of a synchronous exception's handler (R273). -/
def Core.syncOff (k : Core) (code lvl : Nat) (world : Bool) : Nat :=
  if code = 0x16 then 0x200 else if k.lvl = lvl ∧ k.world = world then 0 else 0x100

/-- A core takes an exception at the instruction at its pc. A machine check at a level whose INPROG is set is fatal, and
the core commits nothing more (R437). -/
def State.raise (s : State) (c : Nat) (e : Exc) : State :=
  let k := s.core c
  let (lvl, world) := s.target275 c e
  let ent : Entry := { lvl := lvl, world := world, code := e.code, epc := k.pc, eaddr := e.addr, tf := e.tf,
                       off := k.syncOff e.code lvl world }
  if e.code = 0x16 then
    if k.sflag (Sys.mcinfoAt lvl) (bankOf lvl world) G.mcinfo.INPROG then
      (s.onCore c fun k => { k with run := .stopped }).logErr { bank := c / 2, cls := 0x0A, sev := 3, src := c }
    else ((s.mckRecord c e lvl world).takeEntry c ent).mckCount c e.mck
  else s.takeEntry c ent

/-! ### Taking an interrupt -/

/-- A physical interrupt accepted: marked in service at the level it is taken at, in the one bit of its vector or timer
(R303, R312), and its pending bit cleared. -/
def State.acceptPhys (s : State) (c : Nat) (b : IntBit) : State :=
  let k := s.core c
  let lvl := k.takenAt b
  let s := s.pmEvents c k [(0x60, 1)]
  let s := s.onCore c fun k => { k with
    serv := (k.serv.filter fun d => !(d.world == b.world && d.vec == b.vec && d.tmr == b.tmr)) ++ [{ b with lvl := lvl }]
    pend := k.pend.filter fun d => !(d.world == b.world && d.vec == b.vec && d.tmr == b.tmr) }
  s.takeEntry c { lvl := lvl, world := b.world, code := 0x17, vec := b.vec, epc := k.pc, off := 0x1000 + 8 * b.vec }

/-- A virtual interrupt accepted at guest L1 (R315). -/
def State.acceptVirt (s : State) (c v : Nat) : State :=
  let k := s.core c
  let s := s.pmEvents c k [(0x60, 1)]
  let s := s.onCore c fun k => { k with vcpu := { k.vcpu with
    serv := k.vcpu.serv ||| (1#16 <<< (v / 32)), pend := k.vcpu.pend &&& ~~~(1#512 <<< v) } }
  s.takeEntry c { lvl := 1, world := false, code := 0x17, vec := v, epc := k.pc, off := 0x1000 + 8 * v }

/-- What is offered at a commit boundary is accepted. -/
def State.accept (s : State) (c : Nat) : Option State :=
  (s.taking c).map fun e => match e with
    | .phys b => s.acceptPhys c b
    | .virt v => s.acceptVirt c v

/-! ### Return from exception (R274, R314) -/

/-- Whether ERET is refused. -/
def State.eretBad (s : State) (k : Core) : Bool :=
  let w := k.rs (Sys.estateAt k.lvl) (bankOf k.lvl k.world)
  let lvl := getF w G.estate.PLVL
  let world := getF w G.estate.PWORLD == 1
  decide (k.lvl < lvl) || (world != k.world && k.lvl != 3) || (lvl == 2 && world) || (lvl == 3 && !world) ||
    (lvl == 2 && s.iso == .lk)

/-- The core after ERET: pc, level, world and IE from the registers of its level. The world return record ends with the
stay in the trusted world. -/
def Core.eret (k : Core) : Core :=
  let b := bankOf k.lvl k.world
  let w := k.rs (Sys.estateAt k.lvl) b
  let world := getF w G.estate.PWORLD == 1
  { k with pc := k.rs (Sys.epcAt k.lvl) b, lvl := getF w G.estate.PLVL, world := world,
           ie := getF w G.estate.PIE == 1, barred := false, wret := if world then k.wret else none }

/-! ### Running an instruction -/

/-- The arrays of a core's private hierarchy are initialised (R240). -/
def State.arraysReady (s : State) (c : Nat) : Bool :=
  let r := Reg.l2Stat (ix 256 c)
  s.flag r F.l2Stat.L2_INIT_DONE && s.flag r F.l2Stat.L1D_INIT_DONE && s.flag r F.l2Stat.L1I_INIT_DONE

/-- A core that can run an instruction: running, its domain ON, its arrays initialised, no reset under way, present. -/
def State.canRun (s : State) (c : Nat) : Bool :=
  (s.core c).run == .running && s.isOn (domCore c) && s.arraysReady c && s.boot.resetting.isNone && !s.noCore c

/-- Class and performance event of a replay, by what the check covers (R144, R150). -/
def checkClass : CheckKind → Nat
  | .residue => 0x01 | .register | .map => 0x02
def checkEvents : CheckKind → List Nat
  | .residue => [0x70] | .register => [0x71] | .map => []

/-- A detection recorded as corrected (R144). -/
def State.detect (s : State) (c : Nat) (kind : CheckKind) : State := s.logErr { bank := c / 2, cls := checkClass kind, sev := 0, src := c }

/-- `n` detections, each followed by a replay, which leaves the loop buffer (R113, R143). -/
def State.replays (s : State) (c n : Nat) (kind : CheckKind) : State :=
  (List.range n).foldl (fun s _ => (checkEvents kind).foldl (fun s ev => s.saw c ev) ((s.detect c kind).loopExit c)) s

/-- The fourth detection at an instruction, after its third replay. -/
def State.exhaust (s : State) (c : Nat) (kind : CheckKind) : State := (s.replays c 3 kind).detect c kind

/-- How often an instruction is attempted. -/
def attemptsOf : Checks → Nat
  | .pass | .committed _ _ _ => 1
  | .retried n _ => n.val + 2
  | .exhausted _ _ _ => 4

/-- A machine check for an exhausted replay, or for bad parity of committed state. -/
def exhaustedExc : Exc := { code := 0x16, mck := 2 }
def committedExc : Exc := { code := 0x16, mck := 5 }

/-- What the two cores of a tile find decides where it ends: no failure in the cores that run; a handover to the partner of
a twin tile's failing core; or a machine check (R145, R438). -/
def State.verdict (s : State) (c : Nat) (even odd : Bool) (own : State → State) (hand : State → State) (e : Exc) :
    Option Exc × State :=
  if s.twin (c / 2) then
    if even != odd then
      let f := if even then c else c + 1
      (none, (hand ((own s).logErr { bank := c / 2, cls := 0x03, sev := 0, src := f })).handover f)
    else (if even then some e else none, if even then own s else s)
  else
    let failed := if s.survivor (c / 2) then even || odd else if c % 2 = 0 then even else odd
    (if failed then some e else none, if failed then own s else s)

/-- The checks of the instruction (R142-R145, R438): the machine check it ends in, if any. A twin tile with one failing
core hands over first. -/
def State.checked (s : State) (c : Nat) (x : Checks) : Option Exc × State :=
  match x with
  | .pass => (none, s)
  | .retried n kind => (none, s.replays c (n.val + 1) kind)
  | .exhausted kind e o => s.verdict c e o (fun s => s.exhaust c kind) (fun s => s) exhaustedExc
  | .committed _ e o => s.verdict c e o (fun s => s.loopExit c) (fun s => s) committedExc

/-- Span MAP registers as `b` holds them. -/
def Core.spansOf (k b : Core) : Core :=
  let put := fun (s2 w : Bool) (k : Core) (n : Nat) =>
    let r := spanReg s2 n 2
    if k.rs r w = b.rs r w then k else k.ws r w (b.rs r w)
  (List.range 8).foldl (put true false) ((List.range 16).foldl (put false k.world) k)

/-- Whether a store that waits meets an error when it is performed now. -/
def State.storeFails (s : State) (c : Nat) (e : MbEntry) : Bool :=
  (s.coreErr c e.line (e.mtype == 3 && s.hasUnique c e.line) (e.mtype != 3)).isSome

/-- The stores that waited in `s` wait again, but for those that have failed since, or that a device has received. -/
def UCore.waitAgain (u : UCore) (c : Nat) (s : State) : UCore :=
  { u with mbuf := (s.ucore c).mbuf.filter fun e => u.mbuf.contains e || !s.storeFails c e,
           gath := match (s.ucore c).gath with
             | some g => if u.gath = some g ∨ (!s.physDevice (64 * g.block) && !s.storeFails c g.entry) then some g else none
             | none => none }

/-- What an instruction that raises an exception leaves of the work on memory it began in `s`: neither a mark in a table,
a descriptor, a bitmap or a span register (R79, R196, R200, R202), nor what the caches of table entries, of
translations and of the dirty log gained by it; stores that it had drained wait again (R181), and it has trained no
prefetcher (R217). -/
def State.unmarked (z : State) (c : Nat) (s : State) : State :=
  let z := z.onUcore c fun u => { u with trained := (s.ucore c).trained }
  if z.m.mem = s.m.mem then z
  else
    let z := { z with m := { z.m with mem := s.m.mem, lkey := s.m.lkey, poison := s.m.poison, latent := s.m.latent } }
    let z := z.onCore c fun k => k.spansOf (s.core c)
    z.onUcore c fun u =>
      { u.waitAgain c s with
        dlog := (s.ucore c).dlog
        walks := u.walks.filter fun e => (s.ucore c).walks.contains e
        tlb := u.tlb.filter fun e => (s.ucore c).tlb.contains e }

/-- Fetch and work of an instruction: its line, and what it leaves to the common part. -/
def attempt (c : Nat) (x : Issue) (body : Nat → Act Done) : Act (Option Nat × Done) :=
  (fetch c x).bind fun line => (body c).bind fun d => .pure (line, d)

/-- An exception at the instruction, unless an interrupt is offered at the boundary before it: then that is accepted
(R305). `s` is the state at the boundary, `s1` the one in which the exception arose. -/
def State.except (s s1 : State) (c : Nat) (e : Exc) : State :=
  match (s.onUcore c fun u => { u with seen := (s1.ucore c).seen }).accept c with
  | some t => t
  | none => s1.raise c e

/-- What comes before the instruction: the core runs, which holds its domain ON (R394); the loop buffer's lines are looked
at, and what the core did on wrong paths since the last one. -/
def State.opened (s : State) (x : Issue) : State :=
  ((s.restartHyst (domCore x.core.toNat)).loopValid x.core.toNat).wrongPath x.core.toNat x.wrong

/-- What is known of an instruction before its first attempt, in the state after its checks. -/
def State.under (s s0 : State) (x : Issue) (sh : Shape) : Under :=
  let c := x.core.toNat
  { core := s0.core c, uops := sh.uops, attempts := attemptsOf x.checks, before := (s.ucore c).seen.length,
    barredJalr := sh.jalr && (s0.core c).barred, looped := (s.ucore c).loop.run.isSome }

/-- The events met by the attempts of an instruction whose replay is exhausted, of which nothing else stays (R143, R149). -/
def State.tried (s : State) (c : Nat) (x : Issue) (body : Nat → Act Done) : State :=
  match x.checks with
  | .exhausted _ _ _ => s.onUcore c fun u => { u with seen := ((attempt c x body s).2.ucore c).seen }
  | _ => s

/-- An instruction of a core: its body answers the common part's share, or an exception. A core that cannot run it is
left as it is: the event cannot come about. -/
def State.run (s : State) (x : Issue) (sh : Shape) (body : Nat → Act Done) : State :=
  let c := x.core.toNat
  if s.canRun c then
    let s := s.opened x
    let (bad, s0) := s.checked c x.checks
    let u := s.under s0 x sh
    match bad with
    | some e => let s1 := s0.tried c x body
                (s1.except s1 c e).pmEnd c u [] false
    | none => match attempt c x body s0 with
      | (.ok (line, d), s1) => s1.commit c u sh line d
      | (.error e, s1) => (s0.except (s1.unmarked c s0) c e).pmEnd c u [] false
  else s

/-- An instruction that only changes its own core, and goes on at the next one. -/
def plain (f : State → Core → Core) (c : Nat) : Act Done := fun s =>
  let k := s.core c
  (.ok { pc := k.pc + 4 }, s.setCore c (f s k))

end Sys2Proof.Machine
end

