-- ==== Sys2Proof/Machine/Operands.lean ====
section
/-! DEFINITION. Operand forms of the instruction set: immediates, addresses and targets (R72, R73), lanes (R70, R71),
instruction words (R72, R74), and which words are defined (R75, R76). -/

namespace Sys2Proof.Machine

/-! ### Immediates, addresses, targets -/

def sext16 (i : BitVec 16) : DWord := i.signExtend 64
def zext16 (i : BitVec 16) : DWord := i.zeroExtend 64
/-- sext(imm16 << 16) of LUI and AUIPC: a 32-bit value sign-extended. -/
def upper16 (i : BitVec 16) : DWord := ((i.zeroExtend 32) <<< 16).signExtend 64
/-- The address of an M-format access. -/
def mAddr (k : Core) (rb : BitVec 5) (off : BitVec 12) : DWord := k.rg rb + off.signExtend 64
/-- B-format and J-format targets. -/
def bTarget (pc : DWord) (off : BitVec 16) : DWord := pc + (off.signExtend 64 <<< 2)
def jTarget (pc : DWord) (off : BitVec 26) : DWord := pc + (off.signExtend 64 <<< 2)

/-! ### Lanes -/

/-- The lane width in bits that w encodes (R74), and how many lanes there are. -/
def laneBits (w : BitVec 2) : Nat := 8 * 2 ^ w.toNat
def laneCount (w : BitVec 2) : Nat := 256 / laneBits w
/-- Lane i of width b bits of a vector register, as a number. -/
def lane (b : Nat) (v : VWord) (i : Nat) : Nat := (v.toNat >>> (b * i)) % 2 ^ b
/-- A register with n lanes of b bits, lane i given by f. -/
def ofLanes (b n : Nat) (f : Nat → Nat) : VWord :=
  BitVec.ofNat 256 ((List.range n).foldl (fun a i => a + f i % 2 ^ b * 2 ^ (b * i)) 0)
/-- A register whose lane 0 is given and whose higher bits are zero (R71). -/
def lane0 (b x : Nat) : VWord := BitVec.ofNat 256 (x % 2 ^ b)
/-- All ones or zero in a lane. -/
def maskLane (b : Nat) (p : Bool) : Nat := if p then 2 ^ b - 1 else 0
/-- A number of b bits read as signed. -/
def toSigned (b x : Nat) : Int := if x < 2 ^ (b - 1) then (x : Int) else (x : Int) - 2 ^ b
def ofSigned (b : Nat) (x : Int) : Nat := (x % 2 ^ b).toNat

/-! ### Instruction words (R72) -/

def wordA (maj : Nat) (rd rs1 rs2 : BitVec 5) (fn : Nat) : Word :=
  BitVec.ofNat 32 (maj * 2 ^ 26 + rd.toNat * 2 ^ 21 + rs1.toNat * 2 ^ 16 + rs2.toNat * 2 ^ 11 + fn)
def wordI (maj : Nat) (rd rs1 : BitVec 5) (imm : BitVec 16) : Word :=
  BitVec.ofNat 32 (maj * 2 ^ 26 + rd.toNat * 2 ^ 21 + rs1.toNat * 2 ^ 16 + imm.toNat)
def wordM (maj : Nat) (rt rb : BitVec 5) (mf : Nat) (off : BitVec 12) : Word :=
  BitVec.ofNat 32 (maj * 2 ^ 26 + rt.toNat * 2 ^ 21 + rb.toNat * 2 ^ 16 + mf * 2 ^ 12 + off.toNat)
def wordJ (maj : Nat) (off : BitVec 26) : Word := BitVec.ofNat 32 (maj * 2 ^ 26 + off.toNat)
def wordV (maj : Nat) (vd vs1 vs2 vs3 : BitVec 5) (w : BitVec 2) (fn : Nat) : Word :=
  BitVec.ofNat 32 (maj * 2 ^ 26 + vd.toNat * 2 ^ 21 + vs1.toNat * 2 ^ 16 + vs2.toNat * 2 ^ 11 + vs3.toNat * 2 ^ 6 +
    w.toNat * 2 ^ 4 + fn)
def wordCvt (vd vs1 : BitVec 5) (fn : Nat) : Word := wordA 0x24 vd vs1 0 fn

/-! ### Defined words (R75, R76, R82-R107) -/

def aluDefined (fn c : Nat) : Bool :=
  [0x00, 0x01, 0x02, 0x03, 0x04, 0x05, 0x08, 0x09, 0x0A, 0x0B, 0x10, 0x11, 0x12, 0x13, 0x18, 0x19, 0x1A, 0x1B].contains fn ||
    ([0x20, 0x21, 0x22, 0x23].contains fn && c == 0)

def miscDefined (a b c fn : Nat) : Bool :=
  if [0x00, 0x01, 0x02, 0x03, 0x24, 0x25, 0x30, 0x31, 0x32].contains fn then a == 0 && b == 0 && c == 0
  else if [0x10, 0x11, 0x12, 0x14, 0x15, 0x16, 0x21, 0x22].contains fn then a == 0 && c == 0
  else if fn = 0x18 then c == 0
  else if fn = 0x20 ∨ fn = 0x23 then a == 0
  else false

/-- ATOMIC: ordering in fn[10:9], size in fn[8]; CAS and CASP take size 8, CASP even registers (R90, R91). -/
def atomicDefined (a c fn : Nat) : Bool :=
  fn / 16 % 16 == 0 && (decide (fn % 16 ≤ 8) ||
    (fn / 256 % 2 == 1 && (fn % 16 == 9 || (fn % 16 == 10 && a % 2 == 0 && c % 2 == 0))))

def queueDefined (c fn : Nat) : Bool :=
  (fn == 0) || (fn % 32 == 1) || ((fn == 2 || fn == 3) && c == 0)

def vfpDefined (scalar : Bool) (c d w fn : Nat) : Bool :=
  decide (2 ≤ w) && d == 0 && (!([4, 10, 11].contains fn) || c == 0) &&
    (decide (fn ≤ 12) || (fn == 13 && w == 2 && !scalar))

def vpermDefined (c d w fn : Nat) : Bool :=
  match fn with
  | 0 => true
  | 1 => d == 0
  | 2 | 5 => c == 0 && d == 0
  | 3 | 4 => d == 0 && decide (c < 256 / (8 * 2 ^ w))
  | _ => false

/-- Whether a word is a defined encoding, by its fields. -/
def defined (maj a b c low : Nat) : Bool :=
  let imm := c * 2 ^ 11 + low
  let d := low / 2 ^ 6
  let w := low / 16 % 4
  let fn := low % 16
  match maj with
  | 0x01 => aluDefined low c
  | 0x02 => [0, 1, 2, 3, 8, 9, 10, 11].contains low
  | 0x03 | 0x04 | 0x05 | 0x06 | 0x07 | 0x08 | 0x0D | 0x0E | 0x0F | 0x10 | 0x11 | 0x12 | 0x13 | 0x14 | 0x15 => true
  | 0x09 => decide (imm < 256)
  | 0x0A | 0x0B => b == 0
  | 0x0C => decide (b < 4)
  | 0x16 => (low == 0 && c == 0) || (low == 1 && a == 0 && b == 0 && c == 0) || low == 2
  | 0x18 => decide (imm / 4096 ≤ 13)
  | 0x19 => decide (imm / 4096 ≤ 13) && !([1, 3, 5].contains (imm / 4096))
  | 0x1A => atomicDefined a c low
  | 0x1B => miscDefined a b c low
  | 0x1C => b == 0
  | 0x1D => a == 0
  | 0x1E => decide (low ≤ 6) && a == 0 && b == 0 && c == 0
  | 0x1F => queueDefined c low
  | 0x20 => d == 0
  | 0x21 => vfpDefined false c d w fn
  | 0x22 => vfpDefined true c d w fn
  | 0x23 => decide (2 ≤ w) && decide (fn ≤ 7)
  | 0x24 => decide (low % 64 ≤ 13)
  | 0x25 => vpermDefined c d w fn
  | _ => false

/-- Whether a word is a defined encoding. -/
def definedWord (x : Word) : Bool :=
  let n := x.toNat
  defined (n / 2 ^ 26) (n / 2 ^ 21 % 32) (n / 2 ^ 16 % 32) (n / 2 ^ 11 % 32) (n % 2 ^ 11)

/-! ### The exceptions that operand forms and levels raise -/

def illegal : Exc := { code := 0x01 }
def privileged : Exc := { code := 0x02 }
/-- TRAPPED_SYS carries the instruction word (R276). -/
def trapped (w : Word) : Exc := { code := 0x18, addr := w.zeroExtend 64 }

end Sys2Proof.Machine
end

