-- ==== Sys2Proof/Machine/Alu.lean ====
section
/-! DEFINITION. Integer instructions (R82-R84): ALU, MULDIV, immediate and shift forms. They run at any level and raise
nothing beyond R78. -/

namespace Sys2Proof.Machine

/-! ### Results -/

def b2w (b : Bool) : DWord := dw (b2n b)
/-- Shifts take the low six bits of the amount. -/
def amt (w : DWord) : Nat := w.toNat % 64
def clz64 (w : DWord) : Nat := if w = 0 then 64 else 63 - w.toNat.log2
def ctz64 (w : DWord) : Nat := (firstOf (fun i => w.getLsbD i) (List.range 64)).getD 64
def popc64 (w : DWord) : Nat := (List.range 64).foldl (fun n i => n + b2n (w.getLsbD i)) 0
def bswap64 (w : DWord) : DWord := dw (beNat (leBytes 8 w.toNat))
def mulh (a b : Int) : DWord := BitVec.ofInt 64 (a * b / 2 ^ 64)
/-- Quotients and remainders with the results of R83 for a zero divisor and for −2^63 by −1. -/
def divS (a b : DWord) : DWord := if b = 0 then BitVec.allOnes 64 else BitVec.ofInt 64 (a.toInt.tdiv b.toInt)
def remS (a b : DWord) : DWord := if b = 0 then a else BitVec.ofInt 64 (a.toInt.tmod b.toInt)
def divU (a b : DWord) : DWord := if b = 0 then BitVec.allOnes 64 else a.udiv b
def remU (a b : DWord) : DWord := if b = 0 then a else a.umod b

/-- A register form, a one-operand form, an immediate form: rd receives a function of the operands. -/
def State.alu (s : State) (x : Issue) (rd rs1 rs2 : BitVec 5) (f : DWord → DWord → DWord) : State :=
  s.run x {} (plain fun _ k => k.wg rd (f (k.rg rs1) (k.rg rs2)))
def State.alu1 (s : State) (x : Issue) (rd rs1 : BitVec 5) (f : DWord → DWord) : State :=
  s.run x {} (plain fun _ k => k.wg rd (f (k.rg rs1)))
/-- A form whose result depends on pc and the old rd alone. -/
def State.alu0 (s : State) (x : Issue) (rd : BitVec 5) (f : Core → DWord) : State :=
  s.run x {} (plain fun _ k => k.wg rd (f k))

/-! ### ALU and MULDIV -/

def execAdd (x : Issue) (rd rs1 rs2 : BitVec 5) (s : State) : Host.Outcome State Fault Refusal :=
  .next (s.alu x rd rs1 rs2 fun a b => a + b)
def execSub (x : Issue) (rd rs1 rs2 : BitVec 5) (s : State) : Host.Outcome State Fault Refusal :=
  .next (s.alu x rd rs1 rs2 fun a b => a - b)
def execAnd (x : Issue) (rd rs1 rs2 : BitVec 5) (s : State) : Host.Outcome State Fault Refusal :=
  .next (s.alu x rd rs1 rs2 fun a b => a &&& b)
def execOr (x : Issue) (rd rs1 rs2 : BitVec 5) (s : State) : Host.Outcome State Fault Refusal :=
  .next (s.alu x rd rs1 rs2 fun a b => a ||| b)
def execXor (x : Issue) (rd rs1 rs2 : BitVec 5) (s : State) : Host.Outcome State Fault Refusal :=
  .next (s.alu x rd rs1 rs2 fun a b => a ^^^ b)
def execAndn (x : Issue) (rd rs1 rs2 : BitVec 5) (s : State) : Host.Outcome State Fault Refusal :=
  .next (s.alu x rd rs1 rs2 fun a b => a &&& ~~~b)
def execSll (x : Issue) (rd rs1 rs2 : BitVec 5) (s : State) : Host.Outcome State Fault Refusal :=
  .next (s.alu x rd rs1 rs2 fun a b => a <<< amt b)
def execSrl (x : Issue) (rd rs1 rs2 : BitVec 5) (s : State) : Host.Outcome State Fault Refusal :=
  .next (s.alu x rd rs1 rs2 fun a b => a >>> amt b)
def execSra (x : Issue) (rd rs1 rs2 : BitVec 5) (s : State) : Host.Outcome State Fault Refusal :=
  .next (s.alu x rd rs1 rs2 fun a b => a.sshiftRight (amt b))
def execRor (x : Issue) (rd rs1 rs2 : BitVec 5) (s : State) : Host.Outcome State Fault Refusal :=
  .next (s.alu x rd rs1 rs2 fun a b => a.rotateRight (amt b))
def execSlt (x : Issue) (rd rs1 rs2 : BitVec 5) (s : State) : Host.Outcome State Fault Refusal :=
  .next (s.alu x rd rs1 rs2 fun a b => b2w (a.slt b))
def execSltu (x : Issue) (rd rs1 rs2 : BitVec 5) (s : State) : Host.Outcome State Fault Refusal :=
  .next (s.alu x rd rs1 rs2 fun a b => b2w (a.ult b))
def execSeq (x : Issue) (rd rs1 rs2 : BitVec 5) (s : State) : Host.Outcome State Fault Refusal :=
  .next (s.alu x rd rs1 rs2 fun a b => b2w (a == b))
def execSne (x : Issue) (rd rs1 rs2 : BitVec 5) (s : State) : Host.Outcome State Fault Refusal :=
  .next (s.alu x rd rs1 rs2 fun a b => b2w (a != b))
def execMin (x : Issue) (rd rs1 rs2 : BitVec 5) (s : State) : Host.Outcome State Fault Refusal :=
  .next (s.alu x rd rs1 rs2 fun a b => if a.slt b then a else b)
def execMax (x : Issue) (rd rs1 rs2 : BitVec 5) (s : State) : Host.Outcome State Fault Refusal :=
  .next (s.alu x rd rs1 rs2 fun a b => if a.slt b then b else a)
def execMinu (x : Issue) (rd rs1 rs2 : BitVec 5) (s : State) : Host.Outcome State Fault Refusal :=
  .next (s.alu x rd rs1 rs2 fun a b => if a.ult b then a else b)
def execMaxu (x : Issue) (rd rs1 rs2 : BitVec 5) (s : State) : Host.Outcome State Fault Refusal :=
  .next (s.alu x rd rs1 rs2 fun a b => if a.ult b then b else a)
def execMul (x : Issue) (rd rs1 rs2 : BitVec 5) (s : State) : Host.Outcome State Fault Refusal :=
  .next (s.alu x rd rs1 rs2 fun a b => a * b)
def execMulh (x : Issue) (rd rs1 rs2 : BitVec 5) (s : State) : Host.Outcome State Fault Refusal :=
  .next (s.alu x rd rs1 rs2 fun a b => mulh a.toInt b.toInt)
def execMulhu (x : Issue) (rd rs1 rs2 : BitVec 5) (s : State) : Host.Outcome State Fault Refusal :=
  .next (s.alu x rd rs1 rs2 fun a b => mulh a.toNat b.toNat)
def execMulhsu (x : Issue) (rd rs1 rs2 : BitVec 5) (s : State) : Host.Outcome State Fault Refusal :=
  .next (s.alu x rd rs1 rs2 fun a b => mulh a.toInt b.toNat)
def execDiv (x : Issue) (rd rs1 rs2 : BitVec 5) (s : State) : Host.Outcome State Fault Refusal :=
  .next (s.alu x rd rs1 rs2 fun a b => divS a b)
def execDivu (x : Issue) (rd rs1 rs2 : BitVec 5) (s : State) : Host.Outcome State Fault Refusal :=
  .next (s.alu x rd rs1 rs2 fun a b => divU a b)
def execRem (x : Issue) (rd rs1 rs2 : BitVec 5) (s : State) : Host.Outcome State Fault Refusal :=
  .next (s.alu x rd rs1 rs2 fun a b => remS a b)
def execRemu (x : Issue) (rd rs1 rs2 : BitVec 5) (s : State) : Host.Outcome State Fault Refusal :=
  .next (s.alu x rd rs1 rs2 fun a b => remU a b)
def execClz (x : Issue) (rd rs1 : BitVec 5) (s : State) : Host.Outcome State Fault Refusal :=
  .next (s.alu1 x rd rs1 fun a => dw (clz64 a))
def execCtz (x : Issue) (rd rs1 : BitVec 5) (s : State) : Host.Outcome State Fault Refusal :=
  .next (s.alu1 x rd rs1 fun a => dw (ctz64 a))
def execPopc (x : Issue) (rd rs1 : BitVec 5) (s : State) : Host.Outcome State Fault Refusal :=
  .next (s.alu1 x rd rs1 fun a => dw (popc64 a))
def execBswap (x : Issue) (rd rs1 : BitVec 5) (s : State) : Host.Outcome State Fault Refusal :=
  .next (s.alu1 x rd rs1 fun a => bswap64 a)

/-! ### Immediate forms -/

def execAddi (x : Issue) (rd rs1 : BitVec 5) (imm : BitVec 16) (s : State) : Host.Outcome State Fault Refusal :=
  .next (s.alu1 x rd rs1 fun a => a + sext16 imm)
def execAndi (x : Issue) (rd rs1 : BitVec 5) (imm : BitVec 16) (s : State) : Host.Outcome State Fault Refusal :=
  .next (s.alu1 x rd rs1 fun a => a &&& zext16 imm)
def execOri (x : Issue) (rd rs1 : BitVec 5) (imm : BitVec 16) (s : State) : Host.Outcome State Fault Refusal :=
  .next (s.alu1 x rd rs1 fun a => a ||| zext16 imm)
def execXori (x : Issue) (rd rs1 : BitVec 5) (imm : BitVec 16) (s : State) : Host.Outcome State Fault Refusal :=
  .next (s.alu1 x rd rs1 fun a => a ^^^ zext16 imm)
def execSlti (x : Issue) (rd rs1 : BitVec 5) (imm : BitVec 16) (s : State) : Host.Outcome State Fault Refusal :=
  .next (s.alu1 x rd rs1 fun a => b2w (a.slt (sext16 imm)))
def execSltiu (x : Issue) (rd rs1 : BitVec 5) (imm : BitVec 16) (s : State) : Host.Outcome State Fault Refusal :=
  .next (s.alu1 x rd rs1 fun a => b2w (a.ult (sext16 imm)))
def execLui (x : Issue) (rd : BitVec 5) (imm : BitVec 16) (s : State) : Host.Outcome State Fault Refusal :=
  .next (s.alu0 x rd fun _ => upper16 imm)
def execAuipc (x : Issue) (rd : BitVec 5) (imm : BitVec 16) (s : State) : Host.Outcome State Fault Refusal :=
  .next (s.alu0 x rd fun k => k.pc + upper16 imm)
/-- The 16-bit field k of rd replaced; the others are kept. -/
def execMovk (x : Issue) (rd : BitVec 5) (k : BitVec 2) (imm : BitVec 16) (s : State) : Host.Outcome State Fault Refusal :=
  .next (s.alu0 x rd fun q =>
    (q.rg rd &&& ~~~(0xFFFF#64 <<< (16 * k.toNat))) ||| (zext16 imm <<< (16 * k.toNat)))
def execSlli (x : Issue) (rd rs1 : BitVec 5) (sh : BitVec 6) (s : State) : Host.Outcome State Fault Refusal :=
  .next (s.alu1 x rd rs1 fun a => a <<< sh.toNat)
def execSrli (x : Issue) (rd rs1 : BitVec 5) (sh : BitVec 6) (s : State) : Host.Outcome State Fault Refusal :=
  .next (s.alu1 x rd rs1 fun a => a >>> sh.toNat)
def execSrai (x : Issue) (rd rs1 : BitVec 5) (sh : BitVec 6) (s : State) : Host.Outcome State Fault Refusal :=
  .next (s.alu1 x rd rs1 fun a => a.sshiftRight sh.toNat)
def execRori (x : Issue) (rd rs1 : BitVec 5) (sh : BitVec 6) (s : State) : Host.Outcome State Fault Refusal :=
  .next (s.alu1 x rd rs1 fun a => a.rotateRight sh.toNat)

end Sys2Proof.Machine
end

