-- ==== Sys2Proof/Machine/Branch.lean ====
section
/-! DEFINITION. The branch predictor (R114-R116, R120, R121) and the branches and jumps (R85-R87). Prediction decides
no result: it is trained by what commits, and its misses are counted. -/

namespace Sys2Proof.Machine

/-! ### Indices (R114) -/

/-- The XOR of the k-bit pieces of a number. -/
def foldBits (k : Nat) : Nat → Nat → Nat
  | 0, _ => 0
  | f + 1, x => if x = 0 then 0 else x % 2 ^ k ^^^ foldBits k f (x / 2 ^ k)

/-- Bits [hi:lo] of an address. -/
def pcBits (pc : DWord) (hi lo : Nat) : Nat := (pc.toNat >>> lo) % 2 ^ (hi - lo + 1)

/-- World and domain tag as one number: what the entries of tagged structures carry. -/
def Core.domain (k : Core) : Nat := k.sf Sys.pdt k.world G.pdt.TAG + 4096 * b2n k.world

def baseIdx (pc : DWord) : Nat := pcBits pc 15 3 ^^^ (pcBits pc 16 16 * 0x1000)
def histLen (t : Nat) : Nat := match t with | 1 => 8 | 2 => 24 | 3 => 64 | _ => 160
def Predictor.h (p : Predictor) (t : Nat) : Nat := p.hist.toNat % 2 ^ histLen t
def Predictor.tagIdx (p : Predictor) (t : Nat) (pc : DWord) : Nat := pcBits pc 12 2 ^^^ foldBits 11 16 (p.h t)
def Predictor.tagOf (p : Predictor) (t : Nat) (pc : DWord) : Nat := pcBits pc 22 13 ^^^ foldBits 10 16 (p.h t)
def btbSet (pc : DWord) : Nat := pcBits pc 11 2
def btbTag (pc : DWord) : Nat := foldBits 16 4 (pcBits pc 47 12)
def Predictor.indSet (p : Predictor) (pc : DWord) : Nat :=
  p.itargets.foldl (fun x t => x ^^^ pcBits t 10 2) (pcBits pc 10 2)
def indTag (pc : DWord) : Nat := pcBits pc 18 11

/-! ### Direction (R115, R116) -/

def Predictor.base (p : Predictor) (world : Bool) : Map Nat (BitVec 2) := if world then p.base1 else p.base0
def Predictor.setBase (p : Predictor) (world : Bool) (m : Map Nat (BitVec 2)) : Predictor :=
  if world then { p with base1 := m } else { p with base0 := m }

/-- The entry of a tagged table that matches. -/
def Predictor.hit (p : Predictor) (dom t : Nat) (pc : DWord) : Option TagEntry :=
  match p.tagged.find (t, p.tagIdx t pc) with
  | some e => if e.tag = p.tagOf t pc ∧ e.pdt = dom then some e else none
  | none => none

/-- The matching table of longest history, below a bound. -/
def Predictor.provider (p : Predictor) (dom : Nat) (pc : DWord) (below : Nat) : Option (Nat × TagEntry) :=
  [4, 3, 2, 1].findSome? fun t => if t < below then (p.hit dom t pc).map fun e => (t, e) else none

def TagEntry.taken (e : TagEntry) : Bool := !e.ctr.msb
def Predictor.baseDir (p : Predictor) (world : Bool) (pc : DWord) : Bool :=
  ((p.base world).getD (baseIdx pc) 1).getLsbD 1

def Predictor.direction (p : Predictor) (dom : Nat) (world : Bool) (pc : DWord) (below : Nat := 5) : Bool :=
  match p.provider dom pc below with
  | some (_, e) => e.taken
  | none => p.baseDir world pc

/-- Saturating counters. -/
def bump2 (c : BitVec 2) (up : Bool) : BitVec 2 := if up then (if c = 3 then 3 else c + 1) else (if c = 0 then 0 else c - 1)
def bump3 (c : BitVec 3) (up : Bool) : BitVec 3 := if up then (if c = 3 then 3 else c + 1) else (if c = 4 then 4 else c - 1)

/-- A tagged entry allocated above the provider after a wrong prediction: weak in the outcome's direction, with useful 0 (log
entry 111). -/
def Predictor.allocate (p : Predictor) (dom prov : Nat) (pc : DWord) (taken : Bool) : Predictor :=
  let ts := [1, 2, 3, 4].filter fun t => prov < t
  let useful : Nat → BitVec 2 := fun t => match p.tagged.find (t, p.tagIdx t pc) with | some e => e.useful | none => 0
  match ts.find? fun t => useful t == 0 with
  | some t => { p with tagged := p.tagged.set (t, p.tagIdx t pc) ⟨p.tagOf t pc, dom, if taken then 0 else 7, 0⟩ }
  | none =>
    let lower := fun (m : Map (Nat × Nat) TagEntry) t => match m.find (t, p.tagIdx t pc) with
      | some e => m.set (t, p.tagIdx t pc) { e with useful := e.useful - 1 }
      | none => m
    { p with tagged := ts.foldl lower p.tagged }

/-- The direction structures and the history after a conditional branch commits; no other branch shifts the history (log
entry 111). -/
def Predictor.train (p : Predictor) (dom : Nat) (world : Bool) (pc : DWord) (taken : Bool) : Predictor :=
  let dir := p.direction dom world pc
  let q := match p.provider dom pc 5 with
    | some (t, e) =>
      let alt := p.direction dom world pc t
      let u := if e.taken = taken ∧ alt ≠ taken then bump2 e.useful true else e.useful
      { p with tagged := p.tagged.set (t, p.tagIdx t pc) { e with ctr := bump3 e.ctr taken, useful := u } }
    | none => p.setBase world ((p.base world).set (baseIdx pc) (bump2 ((p.base world).getD (baseIdx pc) 1) taken))
  let q := if dir ≠ taken then q.allocate dom (match p.provider dom pc 5 with | some (t, _) => t | none => 0) pc taken else q
  { q with hist := (q.hist <<< 1) ||| BitVec.ofNat 160 (b2n taken) }

/-! ### Targets -/

/-- The way of a set that holds a tag, and the way to replace. -/
def wayOf (m : Map Nat TargetEntry) (st_ ways tag dom : Nat) : Option (Nat × TargetEntry) :=
  (List.range ways).findSome? fun w => match m.find (st_ * ways + w) with
    | some e => if e.tag = tag ∧ e.pdt = dom then some (st_ * ways + w, e) else none
    | none => none
def putTarget (m : Map Nat TargetEntry) (st_ ways tag dom stamp : Nat) (kind : BranchType) (t : DWord) : Map Nat TargetEntry :=
  let slot := match wayOf m st_ ways tag dom with
    | some (i, _) => i
    | none => match firstOf (fun w => (m.find (st_ * ways + w)).isNone) (List.range ways) with
      | some w => st_ * ways + w
      | none => st_ * ways + Config.victimEntry stamp ways % ways
  m.set slot ⟨tag, dom, kind, t.truncate 48⟩

def Predictor.learnTarget (p : Predictor) (dom stamp : Nat) (kind : BranchType) (pc t : DWord) : Predictor :=
  { p with btb := putTarget p.btb (btbSet pc) 8 (btbTag pc) dom stamp kind t }
def Predictor.learnInd (p : Predictor) (dom stamp : Nat) (pc t : DWord) : Predictor :=
  { p with ind := putTarget p.ind (p.indSet pc) 4 (indTag pc) dom stamp .indirect t, itargets := (t :: p.itargets).take 8 }

/-- A stored 48-bit address as a pc: pcs are canonical (R186). -/
def pcOf (a : BitVec 48) : DWord := a.signExtend 64

def Predictor.btbTarget (p : Predictor) (dom : Nat) (pc : DWord) : Option DWord :=
  (wayOf p.btb (btbSet pc) 8 (btbTag pc) dom).map fun q => pcOf q.2.target
/-- The target of an indirect jump: the target buffer's where the indirect predictor holds none (log entry 112). -/
def Predictor.indTarget (p : Predictor) (dom : Nat) (pc : DWord) : Option DWord :=
  match wayOf p.ind (p.indSet pc) 4 (indTag pc) dom with
  | some q => some (pcOf q.2.target)
  | none => p.btbTarget dom pc

/-- A call's return address pushed; a full stack loses its oldest entry (R115). -/
def Predictor.push (p : Predictor) (dom : Nat) (a : DWord) : Predictor := { p with ras := (⟨dom, a.truncate 48⟩ :: p.ras).take 32 }
/-- The address that a return is predicted to go to, and the predictor with the stack popped (R115). -/
def Predictor.pop (p : Predictor) (dom : Nat) (pc : DWord) : Option DWord × Predictor :=
  match p.ras with
  | [] => (p.btbTarget dom pc, p)
  | a :: l => (if a.pdt = dom then some (pcOf a.addr) else p.btbTarget dom pc, { p with ras := l })

/-! ### Clearing (R120, R121) -/

/-- The entries kept: those a test on the carried domain keeps. The return-stack entries below a cleared one move up (log entry
113). -/
def Predictor.keepDom (p : Predictor) (ok : Nat → Bool) : Predictor :=
  { p with tagged := p.tagged.keep fun _ e => ok e.pdt, btb := p.btb.keep fun _ e => ok e.pdt,
           ind := p.ind.keep fun _ e => ok e.pdt, ras := p.ras.filter fun a => ok a.pdt }

def Predictor.clearHist (p : Predictor) : Predictor := { p with hist := 0, itargets := [] }

/-- A write of SYS.PDT in a world, with the old tag. -/
def Predictor.pdtWrite (p : Predictor) (world : Bool) (oldDom : Nat) (clr : Bool) : Predictor :=
  let p := p.clearHist
  if clr then (p.setBase world []).keepDom fun d => d != oldDom else p

/-- PRED.FLUSH in a world. -/
def Predictor.flush (p : Predictor) (world : Bool) : Predictor :=
  (p.clearHist.setBase world []).keepDom fun d => decide (4096 ≤ d) != world

/-! ### Branches and jumps -/

def State.onPred (s : State) (c : Nat) (f : Nat → Predictor → Predictor) : State :=
  if (s.core c).barred then s
  else s.onUcore c fun u => { u with pred := f u.stamp u.pred, stamp := u.stamp + 1 }

/-- The direction predicted for the conditional branch at pc: barred, every branch is fetched as not taken (R122); while the
loop buffer replays, its own branch is predicted taken (R112). -/
def State.predicted (s : State) (c : Nat) : Bool :=
  let k := s.core c
  let u := s.ucore c
  if k.barred then false
  else if u.loop.run.any fun r => r.stop == k.pc then true
  else u.pred.direction k.domain k.world k.pc

/-- Whether the target buffer predicts another target for the direct branch at pc (R117, log entry 94). While the loop buffer
replays, targets come from it. -/
def State.missTarget (s : State) (c : Nat) (t : DWord) : Bool :=
  let k := s.core c
  let u := s.ucore c
  !k.barred && u.loop.run.isNone && (u.pred.btbTarget k.domain k.pc).any fun g => g != t

/-- A compare-and-branch (R85). -/
def branch (p : DWord → DWord → Bool) (rs1 rs2 : BitVec 5) (off : BitVec 16) (c : Nat) : Act Done := fun s =>
  let k := s.core c
  let taken := p (k.rg rs1) (k.rg rs2)
  let t := bTarget k.pc off
  let pred := s.predicted c
  let miss := pred != taken || (taken && s.missTarget c t)
  (.ok { pc := if taken then t else k.pc + 4, flow := .cond taken pred t, evs := (0x10, 1) :: if miss then [(0x11, 1)] else [] },
   s.onPred c fun st q =>
     let q := q.train k.domain k.world k.pc taken
     if taken then q.learnTarget k.domain st .cond k.pc t else q)

def State.branch (s : State) (x : Issue) (p : DWord → DWord → Bool) (rs1 rs2 : BitVec 5) (off : BitVec 16) : State :=
  s.run x {} (Sys2Proof.Machine.branch p rs1 rs2 off)

def execBeq (x : Issue) (rs1 rs2 : BitVec 5) (off : BitVec 16) (s : State) : Host.Outcome State Fault Refusal :=
  .next (s.branch x (fun a b => a == b) rs1 rs2 off)
def execBne (x : Issue) (rs1 rs2 : BitVec 5) (off : BitVec 16) (s : State) : Host.Outcome State Fault Refusal :=
  .next (s.branch x (fun a b => a != b) rs1 rs2 off)
def execBlt (x : Issue) (rs1 rs2 : BitVec 5) (off : BitVec 16) (s : State) : Host.Outcome State Fault Refusal :=
  .next (s.branch x BitVec.slt rs1 rs2 off)
def execBge (x : Issue) (rs1 rs2 : BitVec 5) (off : BitVec 16) (s : State) : Host.Outcome State Fault Refusal :=
  .next (s.branch x (fun a b => !a.slt b) rs1 rs2 off)
def execBltu (x : Issue) (rs1 rs2 : BitVec 5) (off : BitVec 16) (s : State) : Host.Outcome State Fault Refusal :=
  .next (s.branch x BitVec.ult rs1 rs2 off)
def execBgeu (x : Issue) (rs1 rs2 : BitVec 5) (off : BitVec 16) (s : State) : Host.Outcome State Fault Refusal :=
  .next (s.branch x (fun a b => !a.ult b) rs1 rs2 off)

/-- J. -/
def jump (off : BitVec 26) (c : Nat) : Act Done := fun s =>
  let k := s.core c
  let t := jTarget k.pc off
  (.ok { pc := t, flow := .jump t, evs := (0x10, 1) :: if s.missTarget c t then [(0x11, 1)] else [] },
   s.onPred c fun st q => q.learnTarget k.domain st .jump k.pc t)

def execJ (x : Issue) (off : BitVec 26) (s : State) : Host.Outcome State Fault Refusal := .next (s.run x {} (jump off))

/-- JAL: a call. -/
def jumpLink (off : BitVec 26) (c : Nat) : Act Done := fun s =>
  let k := s.core c
  let t := jTarget k.pc off
  (.ok { pc := t, flow := .other, evs := (0x10, 1) :: if s.missTarget c t then [(0x11, 1)] else [] },
   (s.onPred c fun st q => (q.learnTarget k.domain st .call k.pc t).push k.domain (k.pc + 4)).setCore c (k.wg 31 (k.pc + 4)))

def execJal (x : Issue) (off : BitVec 26) (s : State) : Host.Outcome State Fault Refusal := .next (s.run x {} (jumpLink off))

/-- The predictor after a JALR to t, and whether its target was missed; none where prediction is barred. An indirect call uses
and trains the indirect predictor too, and a JALR without a predicted target counts as missed (log entry 112). -/
def State.trainJalr (s : State) (c : Nat) (rd rs1 : BitVec 5) (t : DWord) : List (Nat × Nat) × State :=
  let k := s.core c
  let p := (s.ucore c).pred
  let ret := rd == 0 && rs1 == 31
  let (guess, q) := if ret then p.pop k.domain k.pc else (p.indTarget k.domain k.pc, p)
  let miss := !k.barred && guess != some t
  ((0x10, 1) :: (if miss then [(0x11, 1), (if ret then 0x13 else 0x14, 1)] else []),
   s.onPred c fun st _ =>
     let q := q.learnTarget k.domain st (if ret then .ret else if rd = 31 then .call else .indirect) k.pc t
     let q := if ret then q else q.learnInd k.domain st k.pc t
     if rd = 31 then q.push k.domain (k.pc + 4) else q)

/-- JALR (R86, R87). -/
def jumpReg (rd rs1 : BitVec 5) (imm : BitVec 16) (c : Nat) : Act Done := fun s =>
  let k := s.core c
  let t := k.rg rs1 + sext16 imm
  if t.toNat % 4 ≠ 0 then (.error { code := 0x03, addr := t }, s)
  else
    let (evs, s1) := s.trainJalr c rd rs1 t
    (.ok { pc := t, flow := .other, evs := evs }, s1.setCore c (k.wg rd (k.pc + 4)))

def execJalr (x : Issue) (rd rs1 : BitVec 5) (imm : BitVec 16) (s : State) : Host.Outcome State Fault Refusal :=
  .next (s.run x { jalr := true } (jumpReg rd rs1 imm))

end Sys2Proof.Machine
end

