-- ==== Sys2Proof/Machine/Maint.lean ====
section
/-! DEFINITION. Barriers (R139, R166-R168), cache maintenance (R231-R235), TLB invalidation (R203, R206, R207) and
control of prediction (R120-R122). -/

namespace Sys2Proof.Machine

/-! ### Level checks -/

/-- A level below what the instruction's table entry permits raises PRIV_INSTR (R77). -/
def atLeast (c lvl : Nat) : Act Unit := .with fun s => .check (decide (lvl ≤ (s.core c).lvl)) privileged

/-- What HTRAP traps: operations at L0 and L1 of the normal world, not in ISO.MODE = LK (R276). -/
def State.traps (s : State) (c : Nat) (p : Place) : Bool :=
  let k := s.core c
  !k.world && decide (k.lvl ≤ 1) && s.iso != .lk && k.sflag Sys.htrap false p

/-- Work that ends an instruction which goes on at the next one. -/
def finish (f : State → State) (evs : List (Nat × Nat)) (c : Nat) : Act Done := fun s =>
  (.ok { pc := (s.core c).pc + 4, evs := evs }, f s)

/-! ### Barriers -/

/-- A barrier that orders stores: it closes the merge buffer and completes when every earlier store is performed
(R165, R170). -/
def State.barrier (s : State) (c : Nat) : State := (s.closeBuf c).drain c

/-- A core that runs its instructions in order has performed every earlier load. As a barrier it ends gathering (R171). -/
def execFenceL (x : Issue) (s : State) : Host.Outcome State Fault Refusal :=
  .next (s.run x {} (finish (fun s => s.flushGath x.core.toNat) []))
def execFenceS (x : Issue) (s : State) : Host.Outcome State Fault Refusal :=
  .next (s.run x {} (finish (fun s => s.barrier x.core.toNat) []))
def execFenceLs (x : Issue) (s : State) : Host.Outcome State Fault Refusal :=
  .next (s.run x {} (finish (fun s => s.barrier x.core.toNat) []))
/-- The loop buffer is discarded by the serialising commit (R139). -/
def execFenceI (x : Issue) (s : State) : Host.Outcome State Fault Refusal :=
  .next (s.run x { ser := true } (finish (fun s => s.barrier x.core.toNat) [(0x51, 1)]))

/-! ### Maintenance by address -/

inductive Cmo where
  | clean | inv | clinv
deriving DecidableEq, Repr

/-- The effect on a line of Normal memory in every cache of the chip. -/
def State.cmoLine (s : State) (o : Cmo) (line key : Nat) : State :=
  let s := s.withCs (s.keyConflict s.cs line key)
  match o with
  | .clean => s.withCs (s.cs.cleanVa line)
  | .inv => s.invLine line
  | .clinv => s.withCs (s.cs.purge line)

/-- The access of a CMO by address: translated as the named data set requires, without marks (R101). -/
def cmoFx (va : DWord) (wr : Bool) : Fx :=
  { va := va, whole := va, fetch := false, rd := !wr, wr := wr, cmo := true, unal := false }

/-- A CMO by address on its line of Normal memory: stores of the core to the same line come first; one that ends in an error
is not performed and is recorded as a committed store is (R232, R262). -/
def State.cmoAt (s : State) (c : Nat) (o : Cmo) (line key mtype : Nat) : State :=
  let s := (s.drainLine c line).grant c false
  match s.coreErr c line false with
  | some st => (s.clearErr c line st).storeFailed c
      { line := line, id := s.ident c, key := key, mtype := mtype, data := 0, mask := 0, closed := false, lows := [], highs := [] } st
  | none => ((s.wakePath line).statCore c 0).cmoLine o line key

/-- A Device type does nothing (R232). -/
def cmoVa (o : Cmo) (rs1 : BitVec 5) (lvl : Nat) (c : Nat) : Act Done :=
  (atLeast c lvl).bind fun _ => .with fun s =>
  (translate c (cmoFx ((s.core c).rg rs1) (o != .clean))).bind fun t =>
  finish (fun s =>
    if t.mtype ≤ 1 ∨ s.physDevice t.pa then s else s.cmoAt c o (t.pa / 64) t.key t.mtype) [] c

def execCmoCleanVa (x : Issue) (rs1 : BitVec 5) (s : State) : Host.Outcome State Fault Refusal :=
  .next (s.run x {} (cmoVa .clean rs1 0))
def execCmoInvVa (x : Issue) (rs1 : BitVec 5) (s : State) : Host.Outcome State Fault Refusal :=
  .next (s.run x {} (cmoVa .inv rs1 1))
def execCmoClinvVa (x : Issue) (rs1 : BitVec 5) (s : State) : Host.Outcome State Fault Refusal :=
  .next (s.run x {} (cmoVa .clinv rs1 1))

/-! ### Maintenance by set and way (R233) -/

/-- The line of a core's private hierarchy that a test picks. -/
def State.privAt (s : State) (c : Nat) (p : Nat → PrivLine → Bool) : Option (Nat × PrivLine) :=
  (s.coh.priv.find? fun q => q.1.1 == c && p q.1.2 q.2).map fun q => (q.1.2, q.2)

/-- The line's data below a dropped dirty copy becomes what readers see, unless another private hierarchy holds it. -/
def State.dropDirty (s : State) (line : Nat) : State :=
  if s.coh.priv.any fun q => q.1.2 == line then s
  else match s.coh.l3.find line with
    | some ⟨_, true, false, _, some v⟩ => s.revert line v
    | _ => s.discard line

def State.swL1d (s : State) (c : Nat) (o : Cmo) (st_ way : Nat) : State :=
  match s.privAt c fun line p => setD line == st_ && (p.l1d.map Prod.fst) == some way with
  | none => s
  | some (line, p) =>
    let put := fun (s : State) (q : PrivLine) => s.withCs (s.cs.privSet c line q)
    match o with
    | .clean => put s { p with l1d := some (way, false), l2old := none }
    | .clinv => put s { p with l1d := none, l2old := none }
    | .inv =>
      let s := match p.l1d, p.l2old with
        | some (_, true), some v => s.revert line v
        | _, _ => s
      put s { p with l1d := none, l2old := none }

def State.swL1i (s : State) (c st_ way : Nat) : State :=
  match s.privAt c fun line p => setI line == st_ && p.l1i == some way with
  | none => s
  | some (line, p) => s.withCs (s.cs.privSet c line { p with l1i := none })

/-- A line taken out of the L2 is reported to its home as a victim (R226); discarded data goes nowhere. -/
def State.swL2 (s : State) (c : Nat) (o : Cmo) (st_ way : Nat) : State :=
  match s.privAt c fun line p => setOf line == st_ && p.way == way with
  | none => s
  | some (line, p) =>
    let dirty := decide (p.st = .m ∨ p.st = .o)
    let clean := fun (s : State) => s.withCs (s.leave s.cs c line p.cleaned)
    match o with
    | .clean => if dirty then s.withCs (s.cs.cleanVa line) else s
    | .clinv => clean (if dirty then s.withCs (s.cs.cleanVa line) else s)
    | .inv =>
      if dirty then
        (s.withCs ((let x := s.cs.privErase c line
                    match x.coh.dir.find line with
                    | some d => x.dirSet line (d.drop c)
                    | none => x).unlend line)).dropDirty line
      else clean s

def State.swL3 (s : State) (n : Nat) (o : Cmo) (st_ way : Nat) : State :=
  match (s.l3InSet s.cs n st_).find? fun p => p.2.way == way && !p.2.lent with
  | none => s
  | some (line, l) =>
    let cleaned := s.cs.l3WriteBack line l
    match o with
    | .clean => s.withCs (cleaned.l3Set line { l with dirty := false, old := none })
    | .clinv => s.withCs (cleaned.l3Erase line)
    | .inv =>
      let s1 := s.withCs (s.cs.l3Erase line)
      if l.dirty ∧ l.old.isNone then s1.dropDirty line else s1

/-- The operand of a set/way form: cache, way, set. -/
def State.cmoSw (s : State) (c : Nat) (o : Cmo) (w : DWord) : State :=
  let cache := w.toNat % 8
  let way := w.toNat / 16 % 16
  let st_ := w.toNat / 2 ^ 16 % 2 ^ 11
  let o := if o = .inv ∧ (s.core c).lvl < 3 then .clinv else o
  match cache with
  | 0 => s.swL1d c o st_ way
  | 1 => s.swL1i c st_ way
  | 2 => s.swL2 c o st_ way
  | 3 => s.swL3 (c / 2) o st_ way
  | _ => s

def cmoSwBody (o : Cmo) (fn : Nat) (rs1 : BitVec 5) (c : Nat) : Act Done :=
  (atLeast c 1).bind fun _ => .with fun s =>
  (Act.check (!s.traps c G.htrap.TSW) (trapped (wordA 0x1B 0 rs1 0 fn))).bind fun _ =>
  finish (fun s => s.cmoSw c o ((s.core c).rg rs1)) [] c

def execCmoCleanSw (x : Issue) (rs1 : BitVec 5) (s : State) : Host.Outcome State Fault Refusal :=
  .next (s.run x { ser := true } (cmoSwBody .clean 0x14 rs1))
def execCmoInvSw (x : Issue) (rs1 : BitVec 5) (s : State) : Host.Outcome State Fault Refusal :=
  .next (s.run x { ser := true } (cmoSwBody .inv 0x15 rs1))
def execCmoClinvSw (x : Issue) (rs1 : BitVec 5) (s : State) : Host.Outcome State Fault Refusal :=
  .next (s.run x { ser := true } (cmoSwBody .clinv 0x16 rs1))

/-! ### Preload (R235) -/

/-- An empty locked slot of the line's set. -/
def State.lockedSlot (s : State) (n line : Nat) : Option Nat :=
  let held := s.l3InSet s.cs n (setOf line)
  firstOf (fun w => s.l3Locked n w && !s.l3Off n w && !s.l3Dis n w && !(held.any fun p => p.2.way == w)) (List.range 12)

/-- The line placed in a locked slot of its home slice: status and state. An owner gives the line by SNP_SHARED; a line from
behind a clasped port is installed poisoned (R235, R380). -/
def State.preload (s : State) (line key : Nat) : Nat × State :=
  let s := s.withCs (s.keyConflict s.cs line key)
  let n := s.home line
  let held := s.coh.l3.find line
  match held with
  | some l => if s.l3Locked n l.way then (1, s) else
      match s.lockedSlot n line with
      | none => (2, s)
      | some w => (0, s.withCs (s.cs.l3Set line { l with way := w }))
  | none =>
    match s.lockedSlot n line with
    | none => (2, s)
    | some w =>
      let s := s.cutIn line
      let x := s.cs
      let x := match (x.coh.dir.find line).bind (·.owner) with
        | some o => (x.snoopShared o line).settle line
        | none => x
      (0, s.withCs (x.l3Set line ⟨w, false, false, key, none⟩))

/-- CMO.PRELOAD (R235). A request of it that ends in an error raises DATA_BUS, as a load would (log entry 103). -/
def execCmoPreload (x : Issue) (rd rs1 : BitVec 5) (s : State) : Host.Outcome State Fault Refusal :=
  .next (s.run x {} fun c => (atLeast c 1).bind fun _ => .with fun s =>
    let va := (s.core c).rg rs1
    (translate c (cmoFx va false)).bind fun t => .with fun s =>
    let done := fun (n : Nat) (s : State) => s.onCore c fun k => k.wg rd (dw n)
    if t.mtype ≠ 3 ∨ s.physDevice t.pa then finish (done 3) [] c
    else
      let s1 := (s.drainLine c (t.pa / 64)).grant c false
      match s1.coreErr c (t.pa / 64) false with
      | some st => (Act.change fun _ => s1.clearErr c (t.pa / 64) st).bind fun _ => .fail (dataBus va)
      | none =>
        let (n, s2) := ((s1.wakePath (t.pa / 64)).statCore c 0).preload (t.pa / 64) t.key
        finish (fun _ => done n s2) [] c)

/-! ### TLB invalidation (R203, R206) -/

def TlbEntry.covers (e : TlbEntry) (addr : Nat) : Bool := e.vpage >>> (e.bits - 12) == addr >>> e.bits
def WalkEntry.onPath (e : WalkEntry) (addr : Nat) : Bool :=
  e.prefix_ == pfx addr e.lvl && e.high == decide (2 ^ 48 ≤ addr)

/-- The TLB and walk-cache entries kept, and the dirty-log entries kept. -/
def UCore.keepTlb (u : UCore) (t : TlbEntry → Bool) (w : WalkEntry → Bool) (d : DlogEntry → Bool := fun _ => true) : UCore :=
  { u with tlb := u.tlb.filter t, walks := u.walks.filter w, dlog := u.dlog.filter d }

def UCore.tinvVa (u : UCore) (world : Bool) (vmid va asid : Nat) : UCore :=
  u.keepTlb
    (fun e => !(!e.s2only && e.world == world && e.vmid == vmid && (e.glob || e.asid == asid) && e.covers va))
    (fun e => !(!e.stage2 && e.world == world && e.vmid == vmid && e.onPath va))
def UCore.tinvAsid (u : UCore) (world : Bool) (vmid asid : Nat) : UCore :=
  u.keepTlb (fun e => !(!e.s2only && e.world == world && e.vmid == vmid && !e.glob && e.asid == asid)) fun _ => true
def UCore.tinvVmid (u : UCore) (vmid : Nat) : UCore :=
  u.keepTlb (fun e => e.world || e.vmid != vmid) fun e => e.world || e.vmid != vmid
/-- The trusted world's entries stay, whatever their VMID (log entry 118). -/
def UCore.tinvIpa (u : UCore) (ipa vmid : Nat) : UCore :=
  u.keepTlb (fun e => !(!e.world && e.vmid == vmid && (!e.s2only || e.covers ipa)))
    fun e => !(e.stage2 && !e.world && e.vmid == vmid && e.onPath ipa)
def UCore.tinvAll1 (u : UCore) (world : Bool) (vmid : Nat) : UCore :=
  u.keepTlb (fun e => !(e.world == world && e.vmid == vmid)) (fun e => !(e.world == world && e.vmid == vmid))
    fun e => !(!e.stage2 && e.world == world && e.vmid == vmid)
def UCore.tinvAll2 (u : UCore) (both : Bool) : UCore :=
  u.keepTlb (fun e => !both && e.world) (fun e => !both && e.world) fun _ => false

/-- A TINV: level, the modes in which it is not defined, and what it leaves of the core's structures. -/
def State.tinv (s : State) (x : Issue) (lvl : Nat) (f : State → Core → UCore → UCore) : State :=
  s.run x { ser := true } fun c => .with fun s =>
    (Act.check (!(lvl == 2 && s.iso == .lk)) illegal).bind fun _ => (atLeast c lvl).bind fun _ =>
    finish (fun s => s.onUcore c (f s (s.core c))) [] c

def low16 (w : DWord) : Nat := w.toNat % 2 ^ 16

def execTinvVa (x : Issue) (rs1 rs2 : BitVec 5) (s : State) : Host.Outcome State Fault Refusal :=
  .next (s.tinv x 1 fun s k u => u.tinvVa k.world (s.tagVmid k) (k.rg rs1).toNat (low16 (k.rg rs2)))
def execTinvAsid (x : Issue) (rs1 : BitVec 5) (s : State) : Host.Outcome State Fault Refusal :=
  .next (s.tinv x 1 fun s k u => u.tinvAsid k.world (s.tagVmid k) (low16 (k.rg rs1)))
def execTinvVmid (x : Issue) (rs1 : BitVec 5) (s : State) : Host.Outcome State Fault Refusal :=
  .next (s.tinv x 2 fun _ k u => u.tinvVmid (low16 (k.rg rs1)))
def execTinvIpa (x : Issue) (rs1 rs2 : BitVec 5) (s : State) : Host.Outcome State Fault Refusal :=
  .next (s.tinv x 2 fun _ k u => u.tinvIpa (k.rg rs1).toNat (low16 (k.rg rs2)))
def execTinvAll (x : Issue) (s : State) : Host.Outcome State Fault Refusal :=
  .next (s.tinv x 1 fun s k u => if k.lvl = 1 then u.tinvAll1 k.world (s.tagVmid k) else u.tinvAll2 (k.lvl == 3))
/-- Every TINV and walk has finished before it: a core that runs its instructions in order only advances. -/
def execTsync (x : Issue) (s : State) : Host.Outcome State Fault Refusal :=
  .next (s.tinv x 1 fun _ _ u => u)

/-! ### Prediction (R121, R122) -/

def execPredFlush (x : Issue) (s : State) : Host.Outcome State Fault Refusal :=
  .next (s.run x { ser := true } fun c => (atLeast c 1).bind fun _ => .with fun s =>
    (Act.check (!s.traps c G.htrap.TPRED) (trapped (wordA 0x1B 0 0 0 0x30))).bind fun _ =>
    finish (fun s => s.onUcore c fun u => { u with pred := u.pred.flush (s.core c).world }) [(0x16, 1)] c)
def execPredBar (x : Issue) (s : State) : Host.Outcome State Fault Refusal :=
  .next (s.run x { ser := true } (plain fun _ k => { k with barred := true }))
def execPredUnbar (x : Issue) (s : State) : Host.Outcome State Fault Refusal :=
  .next (s.run x { ser := true } (plain fun _ k => { k with barred := false }))

end Sys2Proof.Machine
end

