-- ==== Sys2Proof/Machine/System.lean ====
section
/-! DEFINITION. System register access (R99, R119, R147, R272, R276, R306, R311-R316): what a number names, what a read
returns, what a write does, and the writes that have rows of their own. -/

namespace Sys2Proof.Machine

/-! ### Numbers -/

/-- A number that names a register. The L2 and L3 copies of TFINFO and TFIPA have no number of their own (R184). -/
def Sys.named (num : Nat) : Bool := (Sys.fields num).isSome && !([0x8028, 0x8029, 0xC028, 0xC029].contains num)

/-- Registers of class L1+ that exist once for both worlds. -/
def Sys.single (num : Nat) : Bool :=
  decide (num < 0x4000) || decide (0x8000 ≤ num) || num == 0x4005 || (decide (0x4050 ≤ num) && decide (num ≤ 0x406A)) ||
    num == 0x4028 || num == 0x4029

/-- Where a number's copy is kept for code at a level and world: the number, and the bank (R119, R184). -/
def Sys.place (num lvl : Nat) (world : Bool) : Nat × Bool :=
  (if num = 0x4028 then Sys.tfinfoAt lvl else if num = 0x4029 then Sys.tfipaAt lvl else num, !Sys.single num && world)

/-- The level whose interrupt registers a number names. -/
def Sys.levelOf (num : Nat) : Nat := num / 2 ^ 14

/-! ### Access checks -/

/-- The hypervisor traps the access (R276). -/
def State.sysTrapped (s : State) (c num : Nat) (write : Bool) : Bool :=
  (s.traps c G.htrap.TPMU && ((decide (0x60 ≤ num) && decide (num ≤ 0x69)) || (decide (0x4050 ≤ num) && decide (num ≤ 0x406A)))) ||
  (write && ((s.traps c G.htrap.TPRED && (num == 0x4040 || num == 0x4041)) ||
    (s.traps c G.htrap.TTCTL && ((decide (0x4020 ≤ num) && decide (num ≤ 0x4029)) || (decide (0x4100 ≤ num) && decide (num ≤ 0x413F)))) ||
    (s.traps c G.htrap.TMATTR && num == 0x4010)))

/-- Level of a register, and of the counters at L0 (R99, R147). -/
def State.sysAllowed (s : State) (c num : Nat) (write : Bool) : Bool :=
  let k := s.core c
  decide (Sys.levelOf num ≤ k.lvl) &&
    !(decide (0x60 ≤ num) && decide (num ≤ 0x69) && k.lvl == 0 && (write || !k.sflag Sys.pmctl false G.pmctl.UEN))

def sysCheck (c num : Nat) (write : Bool) (w : Word) : Act Unit := .with fun s =>
  (Act.check (Sys.named num && !(s.iso == .lk && Sys.levelOf num == 2)) illegal).bind fun _ =>
  (Act.check (s.sysAllowed c num write) privileged).bind fun _ =>
  Act.check (!s.sysTrapped c num write) (trapped w)

/-! ### Reads -/

/-- The world of an interrupt register's copy: L1 of the executing world, L2 of the normal, L3 of the trusted one. -/
def worldAt (lvl : Nat) (world : Bool) : Bool := if lvl = 1 then world else lvl == 3

/-- At L1 of the normal world, SYS.IEOI and SYS.IRPR act on the virtual state while EN = 1 (R315). -/
def Core.virtAt (k : Core) (lvl : Nat) (world : Bool) : Bool := k.vcpuOn && lvl == 1 && !world

/-- What a read of a register returns. -/
def State.sysRead (s : State) (c num : Nat) : DWord :=
  let k := s.core c
  let p := Sys.place num k.lvl k.world
  let lvl := Sys.levelOf num
  let w := worldAt lvl k.world
  if num = Sys.time then s.now
  else if num = Sys.status then dw (k.lvl + b2n k.world * 4 + b2n k.ie * 8 + b2n k.lk.isSome * 16)
  else if num = Sys.predctl then setF (k.rs num p.2) G.predctl.BARRED (b2n k.barred)
  else if num = Sys.irprAt lvl then dw (if k.virtAt lvl w then servClass k.vcpu.serv else k.running lvl w)
  else if num = Sys.ieoiAt lvl then 0
  else if num = Sys.tmrctlAt lvl then setF (k.rs num p.2) G.tmrctl.FIRED (b2n (k.fired s.now (lvl, w)))
  else k.rs p.1 p.2

/-! ### Writes -/

/-- The end of service of a vector at a level (R306, R312, R315). -/
def Core.eoi (k : Core) (lvl : Nat) (world : Bool) (vec : Nat) : Core :=
  if k.virtAt lvl world then { k with vcpu := { k.vcpu with serv := k.vcpu.serv &&& ~~~(1#16 <<< (vec / 32)) } }
  else { k with serv := k.serv.filter fun b =>
    !((if b.tmr = 0 then b.lvl else b.tmr) == lvl && b.world == world && b.vec == vec) }

/-- The pending bits of one class written back to its word (R316). -/
def State.vcpuClass (s : State) (key pa : Nat) (pend : BitVec 512) (k c : Nat) : Bool × State :=
  let bits := ((pend >>> (32 * k)).truncate 32 : BitVec 32).toNat
  if bits = 0 then (false, s)
  else match s.coreAtomic c hypId key (pa + 4 * k) 4 (fun o => o ||| bits) with
    | .ok (_, _, s1) => (true, s1)
    | .error e => (true, s.noAgentIf e 0x07 key (pa + 4 * k))

/-- The virtual state written back to the record that SYS.VCPU names (R316). -/
def State.vcpuBack (s : State) (c : Nat) : State :=
  let k := s.core c
  let key := recordKey k; let pa := recordPa k
  let (top, s) := (List.range 16).foldl (fun (q : Nat × State) i =>
    let (wrote, s1) := q.2.vcpuClass key pa k.vcpu.pend i c
    (if wrote then i else q.1, s1)) (0, s)
  let s := if top = 0 then s
    else match s.coreAtomic c hypId key (pa + 0x40) 8 (fun o => max o top) with
      | .ok (_, _, s1) => s1
      | .error e => s.noAgentIf e 0x07 key (pa + 0x40)
  let s := match s.coreWrite c hypId key (pa + 0x50) (leBytes 2 k.vcpu.serv.toNat) with
    | .ok s1 => s1
    | .error e => s.noAgentIf e 0x05 key (pa + 0x50)
  s.onCore c fun k => { k with vcpu := { k.vcpu with pend := 0, serv := 0 } }

/-- A field of the record; a free value where the read ends in an error. -/
def State.vcpuField (s : State) (c off n : Nat) : Nat × State :=
  let k := s.core c
  match s.coreNat c hypId (recordKey k) (recordPa k + off) n with
  | .ok (v, _, s1) => (v, s1)
  | .error e => let (w, s1) := (s.noAgentIf e 0x03 (recordKey k) (recordPa k + off)).fresh; (w.toNat, s1)

/-- NOTICE and VSERV read from the record that SYS.VCPU names (R314). -/
def State.vcpuLoad (s : State) (c : Nat) : State :=
  let (nt, s) := s.vcpuField c 0x48 8
  let (sv, s) := s.vcpuField c 0x50 2
  s.onCore c fun k => { k with vcpu := { nvec := nt % 512, serv := BitVec.ofNat 16 sv, pend := 0 } }

/-- The record named by a value of SYS.VCPU is refused by the ownership check or key rule (R280, R283). -/
def State.vcpuDenied (s : State) (w : DWord) : Bool :=
  (s.agentKey false hypId (getF w G.vcpu.ADDR * 2) (getF w G.vcpu.KEYID)).isNone

def refusedAt (pa : Nat) : Exc := { code := 0x0E, addr := dw pa, tf := some ⟨7, 7, false, true, false, false, 0, none⟩ }

/-- A write of SYS.VCPU (R314, R316). -/
def vcpuWrite (c : Nat) (v : DWord) : Act Unit := .with fun s =>
  let old := (s.core c).rs Sys.vcpu
  let new := writeFields ((Sys.fields Sys.vcpu).getD []) (s.core c).world (BitVec.allOnes 64) old v
  let on := fun (w : DWord) => getF w G.vcpu.EN == 1
  let moved := getF new G.vcpu.ADDR != getF old G.vcpu.ADDR
  let back := on old && (!on new || moved)
  let fill := on new && (!on old || moved)
  (Act.check (!(back && s.vcpuDenied old)) (refusedAt (getF old G.vcpu.ADDR * 128))).bind fun _ =>
  (Act.check (!(fill && s.vcpuDenied new)) (refusedAt (getF new G.vcpu.ADDR * 128))).bind fun _ =>
  .change fun s =>
    let s := if back then s.vcpuBack c else s
    let s := s.onCore c fun k => k.ws Sys.vcpu false new
    if fill then s.vcpuLoad c else s

/-- The dirty-log entries that a write of a span's MAP or DLOG removes (R203). -/
def UCore.dropSpan (u : UCore) (world : Bool) (num : Nat) : UCore :=
  let s2 := decide (0x8000 ≤ num)
  let n := (num - (if s2 then 0x8100 else 0x4100)) / 4
  { u with dlog := u.dlog.filter fun e => !(e.stage2 == s2 && e.span == n && (s2 || e.world == world)) }

/-- A register written by its fields (R11, R13). -/
def Core.sysStore (k : Core) (num : Nat) (v : DWord) : Core :=
  let p := Sys.place num k.lvl k.world
  k.ws p.1 p.2 (writeFields ((Sys.fields num).getD []) k.world (BitVec.allOnes 64) (k.rs p.1 p.2) v)

/-- Numbers of a span's MAP and DLOG. -/
def Sys.isMapDlog (num : Nat) : Bool :=
  ((decide (0x4100 ≤ num) && decide (num ≤ 0x413F)) || (decide (0x8100 ≤ num) && decide (num ≤ 0x811F))) && num % 4 ≥ 2

/-- What a write does to the state. -/
def State.sysWrite (s : State) (c num : Nat) (v : DWord) : State :=
  let k := s.core c
  let lvl := Sys.levelOf num
  if num = Sys.status then s.setCore c { k with ie := getF v G.status.IE == 1 }
  else if num = Sys.ieoiAt lvl then s.setCore c (k.eoi lvl (worldAt lvl k.world) (getF v G.ieoi.VECTOR))
  else if num = Sys.pdt then
    let clr := k.sflag Sys.predctl k.world G.predctl.CLR_ON_SWITCH
    (s.onUcore c fun u => { u with pred := u.pred.pdtWrite k.world k.domain clr }).setCore c (k.sysStore num v)
  else if Sys.isMapDlog num then (s.onUcore c fun u => u.dropSpan k.world num).setCore c (k.sysStore num v)
  else if num = Sys.pmctl then s.setCore c { k.sysStore num v with pmWorld := k.world }
  else s.setCore c (k.sysStore num v)

/-! ### The instructions -/

def sysrdBody (rd : BitVec 5) (num : Nat) (c : Nat) : Act Done :=
  (sysCheck c num false (wordI 0x1C rd 0 (BitVec.ofNat 16 num))).bind fun _ =>
  plain (fun s k => k.wg rd (s.sysRead c num)) c

def execSysrd (x : Issue) (rd : BitVec 5) (num : BitVec 16) (s : State) : Host.Outcome State Fault Refusal :=
  .next (s.run x {} (sysrdBody rd num.toNat))

def syswrBody (num : Nat) (rs1 : BitVec 5) (c : Nat) : Act Done :=
  (sysCheck c num true (wordI 0x1D 0 rs1 (BitVec.ofNat 16 num))).bind fun _ => .with fun s =>
  let v := (s.core c).rg rs1
  (if num = Sys.vcpu then vcpuWrite c v else .change fun s => s.sysWrite c num v).bind fun _ =>
  finish id (if num = Sys.pdt then [(0x16, 1)] else []) c

/-- SYSWR of a numbered register. -/
def State.syswr (s : State) (x : Issue) (num : Nat) (rs1 : BitVec 5) : State := s.run x { ser := true } (syswrBody num rs1)

def execSyswr (x : Issue) (num : BitVec 16) (rs1 : BitVec 5) (s : State) : Host.Outcome State Fault Refusal :=
  .next (s.syswr x num.toNat rs1)

/-! Writes with rows of their own are SYSWR of the register they name. -/

def execPdtWrite (x : Issue) (rs1 : BitVec 5) (s : State) : Host.Outcome State Fault Refusal :=
  .next (s.syswr x Sys.pdt rs1)
def execMattrWrite (x : Issue) (s2 : Bool) (rs1 : BitVec 5) (s : State) : Host.Outcome State Fault Refusal :=
  .next (s.syswr x (if s2 then Sys.s2mattr else Sys.mattr) rs1)
def execSpanRegisterWrite (x : Issue) (s2 : Bool) (n : BitVec 4) (part : BitVec 2) (rs1 : BitVec 5) (s : State) :
    Host.Outcome State Fault Refusal :=
  .next (s.syswr x (spanReg s2 n.toNat part.toNat) rs1)
def execTimerRegisterWrite (x : Issue) (lvl : Fin 3) (ctl : Bool) (rs1 : BitVec 5) (s : State) :
    Host.Outcome State Fault Refusal :=
  .next (s.syswr x (if ctl then Sys.tmrctlAt (lvl.val + 1) else Sys.tmrcmpAt (lvl.val + 1)) rs1)
def execIeoiWrite (x : Issue) (lvl : Fin 3) (rs1 : BitVec 5) (s : State) : Host.Outcome State Fault Refusal :=
  .next (s.syswr x (Sys.ieoiAt (lvl.val + 1)) rs1)
/-- The SYSWR that sets EN (R314). -/
def execVcpuEnable (x : Issue) (rs1 : BitVec 5) (s : State) : Host.Outcome State Fault Refusal :=
  .next (s.syswr x Sys.vcpu rs1)
/-- The SYSWR that clears EN or changes ADDR (R316). -/
def execVcpuWriteback (x : Issue) (rs1 : BitVec 5) (s : State) : Host.Outcome State Fault Refusal :=
  .next (s.syswr x Sys.vcpu rs1)

end Sys2Proof.Machine
end

