-- ==== Sys2Proof/Machine/Control.lean ====
section
/-! DEFINITION. Transfers of control (R102, R103, R274, R306, R335), accepting an interrupt with late takeover (R133-R135),
halting debug (R457), and the core's own events between instructions (R129-R132, R147, R169, R180, R190, R196-R202). -/

namespace Sys2Proof.Machine

/-! ### Calls and traps -/

/-- An instruction that ends in an exception. -/
def State.traps1 (s : State) (x : Issue) (e : Exc) : State := s.run x { ser := true } fun _ => .fail e

def execScall (x : Issue) (s : State) : Host.Outcome State Fault Refusal := .next (s.traps1 x { code := 0x10 })
def execBreak (x : Issue) (s : State) : Host.Outcome State Fault Refusal := .next (s.traps1 x { code := 0x13 })

def execHcall (x : Issue) (s : State) : Host.Outcome State Fault Refusal :=
  .next (s.run x { ser := true } fun c => .with fun s =>
    (Act.check (!(s.core c).world && s.iso != .lk) illegal).bind fun _ => (atLeast c 1).bind fun _ => .fail { code := 0x11 })

/-- TCALL; in the normal world, while trusted services are unavailable, it sets g1 := −16 (R297). -/
def tcallBody (c : Nat) : Act Done :=
  (atLeast c 1).bind fun _ => .with fun s =>
  (Act.check (!s.traps c G.htrap.TTCALL) (trapped (wordA 0x1E 0 0 0 2))).bind fun _ =>
  if !(s.core c).world && !s.avail then plain (fun _ k => k.wg 1 (neg 16)) c else .fail { code := 0x12 }

def execTcall (x : Issue) (s : State) : Host.Outcome State Fault Refusal := .next (s.run x { ser := true } tcallBody)

/-- A word that is no defined encoding (R75). A defined one is not this event. -/
def execIllegalInstr (x : Issue) (word : BitVec 32) (s : State) : Host.Outcome State Fault Refusal :=
  .next (if definedWord word then s else s.run x {} fun _ => .fail illegal)

/-! ### Return -/

/-- ERET; from L2 into a virtual CPU the record is harvested (R314). -/
def eretBody (c : Nat) : Act Done :=
  (atLeast c 1).bind fun _ => .with fun s =>
  (Act.check (!s.eretBad (s.core c)) illegal).bind fun _ => fun s =>
  let k := s.core c
  let q := k.eret
  let s1 := s.setCore c q
  (.ok { pc := q.pc, flow := .other }, s1.resumed c (k.lvl == 2))

def execEret (x : Issue) (s : State) : Host.Outcome State Fault Refusal := .next (s.run x { ser := true } eretBody)

/-! ### Waits -/

/-- Something that ends a WFI: an interrupt deliverable with IE ignored, or a virtual one. -/
def State.wakeable (s : State) (c : Nat) : Bool := s.anyDeliverable c || ((s.core c).virtOffered false).isSome

def wfiBody (c : Nat) : Act Done :=
  (atLeast c 1).bind fun _ => .with fun s =>
  (Act.check (!s.traps c G.htrap.TWFI) (trapped (wordA 0x1E 0 0 0 4))).bind fun _ =>
  finish (fun s => if s.wakeable c then s else s.onCore c fun k => { k with run := .wfi }) [] c

def execWfi (x : Issue) (s : State) : Host.Outcome State Fault Refusal := .next (s.run x { ser := true } wfiBody)

/-- The queue latch of the current world, and the core with it clear. -/
def Core.latch (k : Core) : Bool := if k.world then k.latchT else k.latchN
def Core.unlatch (k : Core) : Core := if k.world then { k with latchT := false } else { k with latchN := false }

def wfqBody (c : Nat) : Act Done :=
  finish (fun s =>
    if (s.core c).latch then s.onCore c Core.unlatch
    else if s.wakeable c then s else s.onCore c fun k => { k with run := .wfq }) [] c

def execWfq (x : Issue) (s : State) : Host.Outcome State Fault Refusal := .next (s.run x { ser := true } wfqBody)

/-! ### Accepting an interrupt -/

/-- The level and world an interrupt is routed to. -/
def Entering.route (k : Core) : Entering → Nat × Bool
  | .phys b => (k.takenAt b, b.world)
  | .virt _ => (1, false)

def State.lateArrive (s : State) (c : Nat) (l : LateInt) : State :=
  if l.timer then s else logged (s.intArrive c l.world l.vec.toNat l.prio.toNat l.lvl.toNat)

/-- A pending bit that was not there before. -/
def newBit (old new : Core) (l : LateInt) : Option IntBit :=
  new.pend.find? fun b => b.world == l.world && b.vec == l.vec.toNat && !(old.pend.contains b)

/-- What an arrival during an entry makes pending: an INT, a virtual vector that its harvest makes deliverable, or the
request of a core timer that fires within the entry, at most 30 ns long (R134, R312). -/
def State.lateNew (s s1 : State) (c : Nat) (l : LateInt) : Option Entering :=
  let k := s.core c
  let t := (l.lvl.toNat, l.world)
  if l.timer then
    if timers.contains t && !(l.world && s.sec.discard) && k.timerReq (s.now + 30) t then some (.phys (k.timerBit t)) else none
  else match newBit k (s1.core c) l with
    | some b => if k.deliverable b true then some (.phys b) else none
    | none => if (s1.core c).virtOffered ≠ k.virtOffered then (s1.core c).virtOffered.map .virt else none

/-- Whether an interrupt takes an entry over: strictly higher priority, same level and world (R134). -/
def Entering.beats (k : Core) (e d : Entering) : Bool := decide (d.prio < e.prio) && e.route k == d.route k

/-- An entry under way: the state, what is being entered, the arrivals that wait for its end, and the takeovers so far. -/
structure Takeover where
  s : State
  cur : Entering
  wait : List LateInt
  n : Nat

/-- The arrivals that one selection sees; the highest priority among those that take over wins (R135). -/
def Takeover.select (c : Nat) (k : Core) (w : Takeover) (ls : List LateInt) : Takeover :=
  let r := ls.foldl (fun (r : Takeover × Option Entering) l =>
      let s1 := r.1.s.lateArrive c l
      match r.1.s.lateNew s1 c l with
      | some e =>
        if e.beats k w.cur then ({ r.1 with s := s1 }, if (r.2.map (·.prio)).getD 0 < e.prio then some e else r.2)
        else ({ r.1 with wait := r.1.wait ++ [l] }, r.2)
      | none => ({ r.1 with wait := r.1.wait ++ [l] }, r.2)) (w, none)
  match r.2 with
  | some e => { r.1 with cur := e, n := r.1.n + 1 }
  | none => r.1

/-- The selections of an entry: one for the arrivals of cycles 1 to 5, then one for each cycle to 23. In an exit from a
locket the window counts from the end of the save, so every later cycle of the operand lies before its end (R134, R291). -/
def lateGroups (inLocket : Bool) (ls : List LateInt) : List (List LateInt) :=
  let at_ := fun (a b : Nat) => ls.filter fun l => decide (a ≤ l.cycle.toNat) && decide (l.cycle.toNat ≤ b)
  at_ 1 5 :: (List.range (if inLocket then 58 else 18)).map fun i => at_ (6 + i) (6 + i)

/-- Arrivals outside every selection. -/
def lateRest (inLocket : Bool) (ls : List LateInt) : List LateInt :=
  ls.filter fun l => l.cycle == 0 || (!inLocket && decide (23 < l.cycle.toNat))

/-- Acceptance of what is offered, with the interrupts that arrive during the entry (R133-R135). -/
def State.acceptLate (s : State) (c : Nat) (e : Entering) (late : List LateInt) : State :=
  let k := s.core c
  let w := (lateGroups k.lk.isSome late).foldl (Takeover.select c k) { s := s, cur := e, wait := [], n := 0 }
  let s := (List.range w.n).foldl (fun s _ => s.pmEvents c k [(0x61, 1)]) w.s
  let s := match w.cur with
    | .phys b => s.acceptPhys c b
    | .virt v => s.acceptVirt c v
  (w.wait ++ lateRest k.lk.isSome late).foldl (fun s l => s.lateArrive c l) s

def State.interrupt (s : State) (c : Nat) (late : List LateInt) : State :=
  if s.canRun c then
    match s.taking c with
    | some e =>
      let u : Under := { core := s.core c, uops := 0, attempts := 0, before := (s.ucore c).seen.length, barredJalr := false,
                         looped := (s.ucore c).loop.run.isSome }
      (s.acceptLate c e late).pmEnd c u [] false
    | none => s
  else s

def execInterruptAccept (core : BitVec 8) (late : List LateInt) (s : State) : Host.Outcome State Fault Refusal :=
  .next (s.interrupt core.toNat late)

/-! ### Debug (R457) -/

/-- A halt on the engineering part; from inside a locket the asynchronous exit comes first. Its inner cause is a free
value: the spec names none. -/
def State.debugHalt (s : State) (c : Nat) : State :=
  let live := match (s.core c).run with | .running | .wfi | .wfq => true | _ => false
  if s.boot.fuses.engineering && live && s.isOn (domCore c) && !s.noCore c then
    let s := match (s.core c).lk with
      | some x =>
        let (w, s) := s.fresh
        s.lkExit c x { lvl := 1, world := false, code := w.toNat % 256, epc := (s.core c).pc, off := 0x300 } (s.core c).pc
      | none => s
    (s.onCore c fun k => { k with run := .halted }).loopExit c
  else s

def execDebugHalt (core : BitVec 8) (s : State) : Host.Outcome State Fault Refusal := .next (s.debugHalt core.toNat)

/-! ### The L2 request port and the prefetcher (R129-R132, R217) -/

def State.portEvent (s : State) (c code : Nat) : State :=
  if s.isOn (domCore c) && !s.noCore c then s.pmEvents c (s.core c) [(code, 1)] else s

def State.onL2Port (s : State) (c : Nat) (f : L2Port → L2Port) : State := s.onUcore c fun u => { u with port := f u.port }

/-- An instruction-class request has waited 32 cycles in a row: the next grant is its class's, and ends the wait (R131). -/
def execL2PortEscalation (core : BitVec 8) (s : State) : Host.Outcome State Fault Refusal :=
  let c := core.toNat
  .next (if s.isOn (domCore c) && !s.noCore c then (s.onL2Port c fun p => { p with instr := 32 }).portEvent c 0x43 else s)
/-- A prefetch request that has waited 256 cycles is dropped; the one behind it has not waited (R132). -/
def execL2portPfDrop (core : BitVec 8) (s : State) : Host.Outcome State Fault Refusal :=
  let c := core.toNat
  .next (if s.isOn (domCore c) && !s.noCore c then (s.onL2Port c fun p => { p with prefetch := 0 }).portEvent c 0x44 else s)

/-- A Normal-WB read of a line of the page that trained the prefetcher last, under that access's key and identity. The port
serves it when no request of another class waits (R130); one that the ownership check refuses is dropped (R140, R280). -/
def State.prefetch (s : State) (c i : Nat) : State :=
  match (s.ucore c).trained.getLast? with
  | none => s
  | some (page, key, id) =>
    let line := 64 * page + i
    if !s.mayReach id page || (s.settleKey id.world page key) != some key || (s.ucore c).port.instr != 0 then s
    else match s.lineErr (tileStop (c / 2)) line with
      | some _ => s
      | none =>
        let s := (s.onL2Port c fun p => { p with prefetch := 0 }).portEvent c 0x42
        if s.hasLine c line then s
        else
          let s := s.wakePath line
          (s.withCs (s.rdShared s.cs c line key false)).statCore c 2

def execL2Prefetch (core : BitVec 8) (line : BitVec 6) (s : State) : Host.Outcome State Fault Refusal :=
  .next (if s.canRun core.toNat then s.prefetch core.toNat line.toNat else s)

/-! ### Counters -/

/-- The register of counter n of PMOVF. -/
def pmcReg (n : Nat) : Nat := if n < 8 then 0x60 + n else if n = 8 then Sys.pmcyc else Sys.pmcmt

/-- Whether a counter counts what the core does now: an event for the counters that select one, at the levels they name. -/
def Core.pmSelected (k : Core) (n : Nat) : Bool :=
  let w := k.rs (0x4058 + n)
  decide (8 ≤ n) || (getF w G.pmevsel.EVENT != 0 && (getF w G.pmevsel.LVL).testBit k.lvl)

/-- A counter at its greatest value counts once more. -/
def execPmcOverflow (core : BitVec 8) (n : Fin 10) (s : State) : Host.Outcome State Fault Refusal :=
  let c := core.toNat
  let k := s.core c
  .next (if s.canRun c && k.counts && k.pmSelected n.val && k.rs (pmcReg n.val) == BitVec.allOnes 64 then s.pmAdd c (pmcReg n.val) n.val 1 else s)

/-! ### The merge buffer -/

/-- A warm reset proceeds once every buffer is empty (R182). -/
def State.afterDrain (s : State) : State := if s.boot.draining && s.drained then s.warmReset else s

/-- Entry i may be written out now. -/
def State.mbReady (s : State) (c i : Nat) : Bool :=
  (s.boot.resetting.isNone || s.boot.draining) && mayLeave (s.ucore c).mbuf i

/-- The gathered write at the head of the store queue goes out when the command names the place behind the last entry
(R164, R171, log entry 48). -/
def State.gathReady (s : State) (c i : Nat) : Bool :=
  (s.boot.resetting.isNone || s.boot.draining) && i == (s.ucore c).mbuf.length

def execMergeBufferWriteout (core : BitVec 8) (i : Fin 8) (s : State) : Host.Outcome State Fault Refusal :=
  let c := core.toNat
  .next (if s.mbReady c i.val then (s.writeOut c i.val).afterDrain
         else if s.gathReady c i.val then (s.flushGath c).afterDrain else s)

/-- A buffered store whose request ends in an error: not written, recorded, MC_NOTIFY raised (R180). -/
def execCommittedStoreFailure (core : BitVec 8) (i : Fin 8) (status : BitVec 8) (s : State) :
    Host.Outcome State Fault Refusal :=
  let c := core.toNat
  .next (match (s.ucore c).mbuf[i.val]? with
    | none => s
    | some e => if s.mbReady c i.val then
        ((s.onUcore c fun u => { u with mbuf := u.mbuf.eraseIdx i.val }).storeFailed c e status.toNat).afterDrain
      else s)

/-! ### Walks and marks on their own -/

/-- The access a row names. -/
def accFx (va : DWord) (acc : Acc) (spec : Bool) : Fx :=
  { va := va, whole := va, fetch := acc == .fetch, rd := acc == .read, wr := acc == .write, cmo := false, unal := false,
    spec := spec }

/-- A walk for an access that has not reached commit: fills only; a fault is not raised (R140, R190). -/
def execPageWalk (core : BitVec 8) (va : BitVec 64) (acc : Acc) (s : State) : Host.Outcome State Fault Refusal :=
  let c := core.toNat
  .next (if s.canRun c then (translate c (accFx va acc true) s).2 else s)

/-- The marks of one kind that an access at the head needs; a fault is raised by the instruction that makes it. -/
def State.markRow (s : State) (c : Nat) (va : DWord) (acc : Acc) (p : Mark → Bool) : State :=
  if s.canRun c then
    let a := accFx va acc false
    match (translate c a).bind (fun t => setMarks c a (acc == .write) (t.marks.filter p)) s with
    | (.ok _, s1) => s1
    | (.error e, s1) => s.except (s1.unmarked c s) c e
  else s

def execAdMarkUpdate (core : BitVec 8) (va : BitVec 64) (acc : Acc) (s : State) : Host.Outcome State Fault Refusal :=
  .next (s.markRow core.toNat va acc fun m => m.leaf.span.isNone)
def execSpanMarkUpdate (core : BitVec 8) (va : BitVec 64) (acc : Acc) (s : State) : Host.Outcome State Fault Refusal :=
  .next (s.markRow core.toNat va acc fun m => m.leaf.span.isSome && !m.log)
/-- The dirty-log bit of a span, behind the span's own D (R202). -/
def execDirtyLogSet (core : BitVec 8) (va : BitVec 64) (s : State) : Host.Outcome State Fault Refusal :=
  .next (s.markRow core.toNat va .write fun m => m.leaf.span.isSome)

end Sys2Proof.Machine
end

