-- ==== Sys2Proof/Machine/LoadStore.lean ====
section
/-! DEFINITION. Loads and stores (R88, R89, R167) and atomics (R90, R91). -/

namespace Sys2Proof.Machine

/-! ### Loads -/

/-- An access that must be aligned whatever the memory type (R80 item 5, R89). -/
def aligned (on : Bool) (va : DWord) (n : Nat) : Act Unit :=
  .check (!on || va.toNat % n == 0) { code := 0x03, addr := va }

/-- A load of n bytes from an M-format address: what `fin` makes of them enters the core. -/
def loadBody (x : Issue) (rb : BitVec 5) (off : BitVec 12) (n : Nat) (acq : Bool) (fin : Core → Nat → Core) (c : Nat) :
    Act Done := .with fun s =>
  let va := mAddr (s.core c) rb off
  (aligned acq va n).bind fun _ => (load c x va n).bind fun v => fun s =>
    (.ok { pc := (s.core c).pc + 4, evs := [(0x31, 1)] }, s.onCore c fun k => fin k v)

def zeroExt (rt : BitVec 5) (k : Core) (v : Nat) : Core := k.wg rt (dw v)
def signExt (n : Nat) (rt : BitVec 5) (k : Core) (v : Nat) : Core := k.wg rt (BitVec.ofInt 64 (toSigned (8 * n) v))
/-- Lane 0, or a whole register; higher bits zero (R71). -/
def intoVec (rt : BitVec 5) (k : Core) (v : Nat) : Core := k.wv rt (BitVec.ofNat 256 v)

def execLb (x : Issue) (rt rb : BitVec 5) (off : BitVec 12) (s : State) : Host.Outcome State Fault Refusal :=
  .next (s.run x {} (loadBody x rb off 1 false (signExt 1 rt)))
def execLbu (x : Issue) (rt rb : BitVec 5) (off : BitVec 12) (s : State) : Host.Outcome State Fault Refusal :=
  .next (s.run x {} (loadBody x rb off 1 false (zeroExt rt)))
def execLh (x : Issue) (rt rb : BitVec 5) (off : BitVec 12) (s : State) : Host.Outcome State Fault Refusal :=
  .next (s.run x {} (loadBody x rb off 2 false (signExt 2 rt)))
def execLhu (x : Issue) (rt rb : BitVec 5) (off : BitVec 12) (s : State) : Host.Outcome State Fault Refusal :=
  .next (s.run x {} (loadBody x rb off 2 false (zeroExt rt)))
def execLw (x : Issue) (rt rb : BitVec 5) (off : BitVec 12) (s : State) : Host.Outcome State Fault Refusal :=
  .next (s.run x {} (loadBody x rb off 4 false (signExt 4 rt)))
def execLwu (x : Issue) (rt rb : BitVec 5) (off : BitVec 12) (s : State) : Host.Outcome State Fault Refusal :=
  .next (s.run x {} (loadBody x rb off 4 false (zeroExt rt)))
def execLd (x : Issue) (rt rb : BitVec 5) (off : BitVec 12) (s : State) : Host.Outcome State Fault Refusal :=
  .next (s.run x {} (loadBody x rb off 8 false (zeroExt rt)))
def execLv (x : Issue) (rt rb : BitVec 5) (off : BitVec 12) (s : State) : Host.Outcome State Fault Refusal :=
  .next (s.run x {} (loadBody x rb off 32 false (intoVec rt)))
def execLab (x : Issue) (rt rb : BitVec 5) (off : BitVec 12) (s : State) : Host.Outcome State Fault Refusal :=
  .next (s.run x {} (loadBody x rb off 1 true (zeroExt rt)))
def execLah (x : Issue) (rt rb : BitVec 5) (off : BitVec 12) (s : State) : Host.Outcome State Fault Refusal :=
  .next (s.run x {} (loadBody x rb off 2 true (zeroExt rt)))
def execLaw (x : Issue) (rt rb : BitVec 5) (off : BitVec 12) (s : State) : Host.Outcome State Fault Refusal :=
  .next (s.run x {} (loadBody x rb off 4 true (zeroExt rt)))
def execLad (x : Issue) (rt rb : BitVec 5) (off : BitVec 12) (s : State) : Host.Outcome State Fault Refusal :=
  .next (s.run x {} (loadBody x rb off 8 true (zeroExt rt)))
def execFlw (x : Issue) (rt rb : BitVec 5) (off : BitVec 12) (s : State) : Host.Outcome State Fault Refusal :=
  .next (s.run x {} (loadBody x rb off 4 false (intoVec rt)))
def execFld (x : Issue) (rt rb : BitVec 5) (off : BitVec 12) (s : State) : Host.Outcome State Fault Refusal :=
  .next (s.run x {} (loadBody x rb off 8 false (intoVec rt)))

/-! ### Stores -/

/-- A store of n bytes that `get` takes from the core. -/
def storeBody (x : Issue) (rb : BitVec 5) (off : BitVec 12) (n : Nat) (rel : Bool) (get : Core → Nat) (c : Nat) :
    Act Done := .with fun s =>
  let k := s.core c
  let va := mAddr k rb off
  (aligned rel va n).bind fun _ => (store c x va n (get k % 256 ^ n) rel).bind fun _ =>
    .pure { pc := k.pc + 4, evs := [(0x32, 1)] }

def fromG (rt : BitVec 5) (k : Core) : Nat := (k.rg rt).toNat
def fromV (rt : BitVec 5) (k : Core) : Nat := (k.rv rt).toNat

def execSb (x : Issue) (rt rb : BitVec 5) (off : BitVec 12) (s : State) : Host.Outcome State Fault Refusal :=
  .next (s.run x {} (storeBody x rb off 1 false (fromG rt)))
def execSh (x : Issue) (rt rb : BitVec 5) (off : BitVec 12) (s : State) : Host.Outcome State Fault Refusal :=
  .next (s.run x {} (storeBody x rb off 2 false (fromG rt)))
def execSw (x : Issue) (rt rb : BitVec 5) (off : BitVec 12) (s : State) : Host.Outcome State Fault Refusal :=
  .next (s.run x {} (storeBody x rb off 4 false (fromG rt)))
def execSd (x : Issue) (rt rb : BitVec 5) (off : BitVec 12) (s : State) : Host.Outcome State Fault Refusal :=
  .next (s.run x {} (storeBody x rb off 8 false (fromG rt)))
def execSv (x : Issue) (rt rb : BitVec 5) (off : BitVec 12) (s : State) : Host.Outcome State Fault Refusal :=
  .next (s.run x {} (storeBody x rb off 32 false (fromV rt)))
def execSrb (x : Issue) (rt rb : BitVec 5) (off : BitVec 12) (s : State) : Host.Outcome State Fault Refusal :=
  .next (s.run x {} (storeBody x rb off 1 true (fromG rt)))
def execSrh (x : Issue) (rt rb : BitVec 5) (off : BitVec 12) (s : State) : Host.Outcome State Fault Refusal :=
  .next (s.run x {} (storeBody x rb off 2 true (fromG rt)))
def execSrw (x : Issue) (rt rb : BitVec 5) (off : BitVec 12) (s : State) : Host.Outcome State Fault Refusal :=
  .next (s.run x {} (storeBody x rb off 4 true (fromG rt)))
def execSrd (x : Issue) (rt rb : BitVec 5) (off : BitVec 12) (s : State) : Host.Outcome State Fault Refusal :=
  .next (s.run x {} (storeBody x rb off 8 true (fromG rt)))
def execFsw (x : Issue) (rt rb : BitVec 5) (off : BitVec 12) (s : State) : Host.Outcome State Fault Refusal :=
  .next (s.run x {} (storeBody x rb off 4 false (fromV rt)))
def execFsd (x : Issue) (rt rb : BitVec 5) (off : BitVec 12) (s : State) : Host.Outcome State Fault Refusal :=
  .next (s.run x {} (storeBody x rb off 8 false (fromV rt)))

/-! ### Atomics -/

/-- The access size in bytes of the forms but CASP (R90). -/
def atomSize (size8 : Bool) : Nat := if size8 then 8 else 4

/-- An atomic of n bytes at g[rs1]; `f` gives the new value of the old one, `fin` puts the old value into the core. -/
def atomBody (x : Issue) (rs1 : BitVec 5) (n : Nat) (ord : BitVec 2) (f : Core → Nat → Option Nat)
    (fin : Core → Nat → Core) (c : Nat) : Act Done := .with fun s =>
  let k := s.core c
  let va := k.rg rs1
  (aligned true va n).bind fun _ => (atomicOp c x va n (ord.getLsbD 1) (f k)).bind fun v => fun s =>
    (.ok { pc := k.pc + 4 }, s.onCore c fun k => fin k v)

/-- The single-operand forms: memory becomes a function of the old value and of rs2, both of n bytes. -/
def State.atom (s : State) (x : Issue) (rd rs1 rs2 : BitVec 5) (ord : BitVec 2) (size8 : Bool)
    (f : Nat → Nat → Nat → Nat) : State :=
  let n := atomSize size8
  s.run x {} (atomBody x rs1 n ord (fun k old => some (f (8 * n) old ((k.rg rs2).toNat % 256 ^ n))) (zeroExt rd))

def execSwap (x : Issue) (rd rs1 rs2 : BitVec 5) (ord : BitVec 2) (size8 : Bool) (s : State) : Host.Outcome State Fault Refusal :=
  .next (s.atom x rd rs1 rs2 ord size8 (fun _ _ v => v))
def execAadd (x : Issue) (rd rs1 rs2 : BitVec 5) (ord : BitVec 2) (size8 : Bool) (s : State) : Host.Outcome State Fault Refusal :=
  .next (s.atom x rd rs1 rs2 ord size8 (fun b o v => (o + v) % 2 ^ b))
def execAand (x : Issue) (rd rs1 rs2 : BitVec 5) (ord : BitVec 2) (size8 : Bool) (s : State) : Host.Outcome State Fault Refusal :=
  .next (s.atom x rd rs1 rs2 ord size8 (fun _ o v => o &&& v))
def execAor (x : Issue) (rd rs1 rs2 : BitVec 5) (ord : BitVec 2) (size8 : Bool) (s : State) : Host.Outcome State Fault Refusal :=
  .next (s.atom x rd rs1 rs2 ord size8 (fun _ o v => o ||| v))
def execAxor (x : Issue) (rd rs1 rs2 : BitVec 5) (ord : BitVec 2) (size8 : Bool) (s : State) : Host.Outcome State Fault Refusal :=
  .next (s.atom x rd rs1 rs2 ord size8 (fun _ o v => o ^^^ v))
def execAsmin (x : Issue) (rd rs1 rs2 : BitVec 5) (ord : BitVec 2) (size8 : Bool) (s : State) : Host.Outcome State Fault Refusal :=
  .next (s.atom x rd rs1 rs2 ord size8 (fun b o v => if toSigned b o < toSigned b v then o else v))
def execAsmax (x : Issue) (rd rs1 rs2 : BitVec 5) (ord : BitVec 2) (size8 : Bool) (s : State) : Host.Outcome State Fault Refusal :=
  .next (s.atom x rd rs1 rs2 ord size8 (fun b o v => if toSigned b o < toSigned b v then v else o))
def execAumin (x : Issue) (rd rs1 rs2 : BitVec 5) (ord : BitVec 2) (size8 : Bool) (s : State) : Host.Outcome State Fault Refusal :=
  .next (s.atom x rd rs1 rs2 ord size8 (fun _ o v => min o v))
def execAumax (x : Issue) (rd rs1 rs2 : BitVec 5) (ord : BitVec 2) (size8 : Bool) (s : State) : Host.Outcome State Fault Refusal :=
  .next (s.atom x rd rs1 rs2 ord size8 (fun _ o v => max o v))

/-- CAS; size 4 is not defined. -/
def execCas (x : Issue) (rd rs1 rs2 : BitVec 5) (ord : BitVec 2) (size8 : Bool) (s : State) : Host.Outcome State Fault Refusal :=
  .next (if size8 then
      s.run x {} (atomBody x rs1 8 ord (fun k old => if old = (k.rg rd).toNat then some (k.rg rs2).toNat else none) (zeroExt rd))
    else s.run x {} (fun _ => .fail illegal))

/-- A pair of registers as 16 bytes, the even one low. -/
def Core.pair (k : Core) (r : BitVec 5) : Nat := (k.rg r).toNat + (k.rg (r + 1)).toNat * 2 ^ 64
def pairExt (rd : BitVec 5) (k : Core) (v : Nat) : Core := (k.wg rd (dw v)).wg (rd + 1) (dw (v / 2 ^ 64))

/-- CASP; size 4 and odd registers are not defined. -/
def execCasp (x : Issue) (rd rs1 rs2 : BitVec 5) (ord : BitVec 2) (size8 : Bool) (s : State) : Host.Outcome State Fault Refusal :=
  .next (if size8 ∧ !rd.getLsbD 0 ∧ !rs2.getLsbD 0 then
      s.run x { uops := 2 } (atomBody x rs1 16 ord (fun k old => if old = k.pair rd then some (k.pair rs2) else none) (pairExt rd))
    else s.run x { uops := 2 } (fun _ => .fail illegal))

end Sys2Proof.Machine
end

