-- ==== Sys2Proof/Machine/Locket.lean ====
section
/-! DEFINITION. Lockets: entering and leaving (R289, R290), Hallmark reports (R293), the locket services of the trusted
world (R285-R288), and the restart of the trusted world (R298). -/

namespace Sys2Proof.Machine

def State.onSec (s : State) (f : SecState → SecState) : State := { s with sec := f s.sec }

/-! ### LKENTER and LKEXIT -/

/-- A word of a list of bytes, at a byte offset. -/
def wordAt (bs : List Byte) (o n : Nat) : Nat := leNat ((bs.drop o).take n)

/-- The core inside its locket, its registers loaded from a slot (R287, R289). -/
def Core.lkLoad (k : Core) (x : LkCtx) (bs : List Byte) : Core :=
  let q := k.ws Sys.fcsr false (writeFields ((Sys.fields Sys.fcsr).getD []) true (BitVec.allOnes 64) 0 (dw (wordAt bs 0x10 8)))
  { q with
    pc := dw (wordAt bs 8 8) &&& ~~~3#64
    g := (List.range 31).map fun i => (BitVec.ofNat 5 (i + 1), dw (wordAt bs (0x100 + 8 * i) 8))
    v := (List.range 32).map fun i => (BitVec.ofNat 5 i, BitVec.ofNat 256 (wordAt bs (0x200 + 32 * i) 32))
    lk := some x }

/-- LKENTER completes with a status. -/
def lkStatus (rd : BitVec 5) (n : Nat) (c : Nat) : Act Done :=
  finish (fun s => s.onCore c fun k => k.wg rd (neg n)) [] c

/-- A core's request to the SEC, which it wakes; one that finds no way there ends as a load's does (R26, R262). -/
def toSec (c : Nat) : Act Unit := fun s =>
  match s.pathErr (tileStop (c / 2)) secStop domSec with
  | some _ => (.error (dataBus 0), s)
  | none => (.ok (), s.wake domSec)

/-- A slot of a READY locket bound to the caller: read, and entered when its STATE is FRESH or SAVED. -/
def lkSlot (rd : BitVec 5) (l slot page key : Nat) (c : Nat) : Act Done := fun s =>
  match s.agentRead true (tileStop (c / 2)) hypId key 26 page 0x600 with
  | .error _ => (.error (dataBus 0), s)
  | .ok (bs, p, s1) =>
    let st := wordAt bs 0 8
    if p then (.error (poisonExc 0 key page), s1)
    else if st = 2 then lkStatus rd 4 c s1
    else if 2 < st then lkStatus rd 2 c s1
    else
      let s2 := s1.slotWrite c key page (leBytes 8 2)
      let k := (s2.core c).lkLoad ⟨l, slot, (s2.core c).pc, rd⟩ bs
      (.ok { pc := k.pc, flow := .other }, s2.setCore c k)

/-- LKENTER (R289): in ISO.MODE = HV and in the trusted world it is illegal (R104). -/
def lkenterBody (rd rs1 : BitVec 5) (c : Nat) : Act Done := .with fun s =>
  let k := s.core c
  let v := (k.rg rs1).toNat
  let l := v % 2 ^ 12
  (Act.check (s.iso != .hv && !k.world) illegal).bind fun _ =>
  (Act.check (k.lvl == 0) privileged).bind fun _ =>
  if 2 ^ 20 ≤ v then lkStatus rd 2 c
  else (toSec c).bind fun _ => match s.sec.lockets.find l with
    | none => lkStatus rd 1 c
    | some lk =>
      if lk.st ≠ 2 then lkStatus rd 1 c
      else if lk.vmid ≠ (s.ident c).vmid then .fail { code := 0x0E, tf := some ⟨7, 7, false, false, false, false, 0, none⟩ }
      else match lk.slots[v / 2 ^ 12]? with
        | none => lkStatus rd 2 c
        | some page => lkSlot rd l (v / 2 ^ 12) page lk.key c

def execLkenter (x : Issue) (rd rs1 : BitVec 5) (s : State) : Host.Outcome State Fault Refusal :=
  .next (s.run x { ser := true } (lkenterBody rd rs1))

/-- LKEXIT (R290): the slot becomes FRESH, and the registers stay as the locket left them. -/
def lkexitBody (c : Nat) : Act Done := .with fun s =>
  match (if s.iso = .hv then none else (s.core c).lk) with
  | none => .fail illegal
  | some x => fun s =>
    let s := match s.slotPage x.id x.slot with
      | some (p, key) => s.slotWrite c key p (leBytes 8 0)
      | none => s
    let k := { ((s.core c).wg x.rd 0) with lk := none }
    (.ok { pc := x.enter + 4, flow := .other }, s.setCore c k)

def execLkexit (x : Issue) (s : State) : Host.Outcome State Fault Refusal :=
  .next (s.run x { ser := true } lkexitBody)

/-! ### LKREPORT (R293) -/

/-- The physical address a locket binds a virtual address to, in a writable range of kind memory. -/
def Locket.bind (l : Locket) (va : Nat) : Option Nat :=
  (l.ranges.find? fun r => r.w && !r.thread && decide (r.vbase ≤ va) && decide (va < r.vbase + 4096 * r.pages)).map fun r =>
    r.pbase + (va - r.vbase)

/-- The loads of the 64 bytes of user data. -/
def loadWords (c : Nat) (x : Issue) (va : DWord) : Nat → Act Nat
  | 0 => .pure 0
  | n + 1 => (load c x va 8).bind fun w => (loadWords c x (va + 8) n).bind fun r => .pure (w + 2 ^ 64 * r)

/-- The translations of the two pages of the buffer, as writes. -/
def touchWrite (c : Nat) (va : DWord) : Act Unit :=
  (eachAgain c va 8 false true fun _ _ _ => .pure ()).bind fun _ => .pure ()

def lkreportBody (x : Issue) (rd rs1 rs2 : BitVec 5) (c : Nat) : Act Done := .with fun s =>
  let k := s.core c
  let buf := (k.rg rs1).toNat
  match (if s.iso = .hv then none else k.lk) with
  | none => .fail illegal
  | some y =>
    match s.sec.lockets.find y.id with
    | none => .fail illegal
    | some l =>
      if buf % 4096 ≠ 0 ∨ (l.bind buf).isNone ∨ (l.bind (buf + 4096)).isNone then lkStatus rd 2 c
      else if s.sec.reports.any fun r => r.locket == y.id && r.slot == y.slot then lkStatus rd 4 c
      else
        (touchWrite c (k.rg rs1)).bind fun _ => (touchWrite c (k.rg rs1 + 4096)).bind fun _ =>
        (loadWords c x (k.rg rs2) 8).bind fun w => (toSec c).bind fun _ =>
        finish (fun s => (s.onCore c fun k => k.wg rd 0).onSec fun e =>
          { e with reports := e.reports ++ [⟨y.id, y.slot, buf, BitVec.ofNat 512 w⟩] }) [] c

def execLkreport (x : Issue) (rd rs1 rs2 : BitVec 5) (s : State) : Host.Outcome State Fault Refusal :=
  .next (s.run x { ser := true } (lkreportBody x rd rs1 rs2))

/-- A byte string of a fixed length. -/
def fixLen (n : Nat) (bs : List Byte) : List Byte := (bs ++ List.replicate n 0).take n

def zeros (n : Nat) : List Byte := List.replicate n 0

/-- A certificate as bytes. -/
def State.certBytes (s : State) (i : Nat) : List Byte :=
  let e := s.boot.fuses.engineering; let m := s.boot.measures
  (List.range (Config.certificateLen e m i)).map (Config.certificate e m i)

/-- ISO.MODE as a number. -/
def isoNat : IsoMode → Nat
  | .hv => 0 | .lk => 1 | .hvlk => 2

/-- Bytes 0x004-0x1FF of a report, which its signature covers. -/
def State.reportBody (s : State) (r : Report) (l : Locket) (serial : Nat) : List Byte :=
  let debug := s.fld .stwDevid F.stwDevid.DBG_OPEN
  leBytes 4 0x50524851 ++ leBytes 2 1 ++ leBytes 2 (debug + 2 * b2n s.avail + 4 * isoNat s.iso) ++
    leBytes 2 r.locket ++ leBytes 2 l.vmid ++ leBytes 4 (s.reg .stwDevid).toNat ++ leBytes 2 s.boot.cfgSvn ++
    leBytes 2 s.boot.fwSvn ++ leBytes 8 s.now.toNat ++ leBytes 8 serial ++ zeros 24 ++ beBytes 48 l.meas.toNat ++
    beBytes 48 s.boot.cfgHash.toNat ++ ((s.boot.measures.take 4).flatMap fun m => beBytes 48 m.toNat) ++
    lineBytes r.user ++ zeros 96

/-- A whole report after STATUS. -/
def State.reportBytes (s : State) (r : Report) (l : Locket) (serial : Nat) : List Byte :=
  let body := s.reportBody r l serial
  let chain := ((List.range 3).flatMap s.certBytes).take 7576
  body ++ fixLen 96 ((if s.sec.zeroed then Config.hallmarkZero else Config.hallmarkSign s.boot.measures) (Config.sha384 body)) ++ leBytes 4 chain.length ++ leBytes 4 3 ++ chain

/-- Bytes written by the SEC to a locket's virtual addresses, page by page. -/
def State.secWriteVa (s : State) (l : Locket) (va : Nat) (bs : List Byte) : State :=
  match l.bind va with
  | none => s
  | some pa => match s.agentWrite true secStop hypId l.key false (linesOf bs.length) pa bs with
    | .ok s1 => s1
    | .error _ => s

/-- The report of a thread slot written under the locket key, STATUS last. -/
def State.reportDone (s : State) (l slot : Nat) : State :=
  match s.sec.reports.find? fun r => r.locket == l && r.slot == slot with
  | none => s
  | some r =>
    let s := s.onSec fun e => { e with reports := e.reports.filter fun q => !(q.locket == l && q.slot == slot) }
    match s.sec.lockets.find l with
    | none => s
    | some k =>
      let bs := s.reportBytes r k s.sec.serial
      let s := (s.secWriteVa k (r.buf + 4) (bs.take 4092)).secWriteVa k (r.buf + 4096) (bs.drop 4092)
      (s.secWriteVa k r.buf (leBytes 4 1)).onSec fun e => { e with serial := e.serial + 1 }

def execHallmarkReportComplete (l : BitVec 12) (slot : BitVec 8) (s : State) : Host.Outcome State Fault Refusal :=
  .next (s.reportDone l.toNat slot.toNat)

/-! ### The locket services (R285) -/

/-- The status of a service and its results in g2-g4. -/
structure SvcEnd where
  status : DWord
  results : List DWord := []

/-- The call a core serves: it runs trusted code entered by TCALL with this function in g1 (R285, R296). -/
def State.svcCall (s : State) (c code : Nat) : Option WorldRet :=
  let k := s.core c
  match k.wret with
  | some w => if s.canRun c && k.world && w.byCall && w.g.getD 1 0 == dw code then some w else none
  | none => none

/-- The VMID of the caller (R271, R285). -/
def State.callerVmid (s : State) (c : Nat) (w : WorldRet) : Nat :=
  let ctl := s.s2ctl (s.core c)
  if w.lvl = 2 then 0xFFFF else if getF ctl G.s2ctl.S2EN = 1 then getF ctl G.s2ctl.VMID else 0

/-- A service performed for a call, and the return to the caller: g1 takes the status, g2-g4 the results. -/
def State.serve (s : State) (c code : Nat) (f : WorldRet → State → SvcEnd × State) : State :=
  match s.svcCall c code with
  | none => s
  | some w =>
    let (e, s1) := if !s.avail then (⟨neg 16, []⟩, s) else if s.iso = .hv then (⟨neg 2, []⟩, s) else f w s
    let g := (e.results.zipIdx 2).foldl (fun (g : Map (BitVec 5) DWord) p => g.set (BitVec.ofNat 5 p.2) p.1)
      (w.g.set 1 e.status)
    (s1.onCore c fun k => k.back w g).loopExit c

def arg (w : WorldRet) (i : Nat) : Nat := (w.g.getD (BitVec.ofNat 5 i) 0).toNat

/-- A service on an existing locket of the caller, in one of the states given: −2, −10 or −3 otherwise. -/
def State.onLocket (s : State) (c : Nat) (w : WorldRet) (sts : List Nat) (f : Nat → Locket → State → SvcEnd × State) :
    SvcEnd × State :=
  let id := arg w 2
  if id = 0 ∨ 4096 ≤ id then (⟨neg 2, []⟩, s)
  else match s.sec.lockets.find id with
    | none => (⟨neg 10, []⟩, s)
    | some l =>
      if l.vmid ≠ s.callerVmid c w then (⟨neg 3, []⟩, s)
      else if !sts.contains l.st then (⟨neg 10, []⟩, s)
      else f id l s

def State.setLocket (s : State) (id : Nat) (l : Locket) : State :=
  s.onSec fun e => { e with lockets := e.lockets.set id l }

/-- SHA-384 of the previous measurement followed by more (R285, R286). -/
def extend (m : BitVec 384) (bs : List Byte) : BitVec 384 := Config.sha384 (beBytes 48 m.toNat ++ bs)

def svcCreate (c : Nat) (w : WorldRet) (s : State) : SvcEnd × State :=
  let v := s.callerVmid c w
  let key := firstOf (fun k => decide (s.fld .keypart F.keypart.NWMAX < k) && !(s.sec.lockets.any fun p => p.2.key == k))
    (List.range (s.fld .keypart F.keypart.TWBASE))
  let id := firstOf (fun i => i != 0 && (s.sec.lockets.find i).isNone) (List.range 4096)
  if w.lvl = 2 then (⟨neg 3, []⟩, s)
  else match id, key with
    | some i, some k =>
      (⟨0, [dw i]⟩, (s.freshKey k).setLocket i
        { st := 1, vmid := v, key := k, ranges := [], slots := [], meas := extend 0 (1 :: leBytes 2 v), devs := [],
          caller := none })
    | _, _ => (⟨neg 9, []⟩, s)

def execLkCreate (core : BitVec 8) (s : State) : Host.Outcome State Fault Refusal :=
  .next (s.serve core.toNat 0x0100 (svcCreate core.toNat))

/-! #### LK_ADD_RANGE (R285, R286) -/

/-- The caller's stage 2 of one page: physical page address and key, when it is readable. -/
def State.callerPage (s : State) (c ipa : Nat) : Option (Nat × Nat) × State :=
  let k := s.core c
  let a : Fx := { va := dw ipa, whole := dw ipa, fetch := false, rd := true, wr := false, cmo := true, unal := false }
  let t := s.setCore c { k with world := false, lvl := 1 }
  match stage2 c a ipa false t with
  | (.ok l, t1) => (if l.u then some (l.out, l.key) else none, t1.setCore c k)
  | (.error _, t1) => (none, t1.setCore c k)

/-- A range of the caller's addresses as contiguous physical pages: their start and the key of each page. Without a
stage 2 the addresses are physical. -/
def State.callerRange (s : State) (c : Nat) (w : WorldRet) (pa : Nat) : Nat → Option (Nat × List Nat) × State
  | 0 => (some (pa, []), s)
  | n + 1 =>
    if s.iso ≠ .hvlk ∨ w.lvl = 2 ∨ getF (s.s2ctl (s.core c)) G.s2ctl.S2EN = 0 then (some (pa, List.replicate (n + 1) 0), s)
    else match s.callerPage c pa with
      | (none, s1) => (none, s1)
      | (some (out, key), s1) =>
        if n = 0 then (some (out, [key]), s1)
        else match State.callerRange s1 c w (pa + 4096) n with
          | (some (o, ks), s2) => (if o = out + 4096 then some (out, key :: ks) else none, s2)
          | (none, s2) => (none, s2)

/-- Pages at which an owner or the coverage of the map can change, within a range, its first page included. -/
def State.points (s : State) (a b : Nat) : List Nat :=
  a :: (((s.bounds ++ ((s.m.dram ++ s.m.cxl).flatMap fun (m : MemSet) => [m.base / 4096, (m.base + m.size) / 4096])).filter fun p =>
    decide (a < p) && decide (p < b)))

/-- Every page of a range is UNOWNED Normal memory. -/
def State.freeNormal (s : State) (a b : Nat) : Bool :=
  (s.points a b).all fun p => s.owner p == .unowned && s.covered (4096 * p)

def overlaps (a b c d : Nat) : Bool := decide (a < d) && decide (c < b)

/-- One page filled by the SEC under a locket key: zeros, or a copy of a source page with its poison. -/
def State.fillPage (s : State) (dst key : Nat) (src : Option (Nat × Nat)) : State :=
  (List.range 64).foldl (fun s i =>
    let (d, p, s) := match src with
      | none => ((0 : Line), false, s)
      | some (pa, k) => match s.agentLine true secStop hypId (pa / 64 + i) k with
        | .ok r => r
        | .error _ => (0, true, s)
    match s.agentWriteLine true secStop hypId (dst / 64 + i) key fullMask d p with
    | .ok s1 => s1
    | .error _ => s) s

/-- The contents of a range under a locket key. -/
def State.rangeBytes (s : State) (pa key pages : Nat) : List Byte :=
  (List.range (64 * pages)).flatMap fun i => lineBytes (s.m.under (pa / 64 + i) key)

/-- A range added to a locket: the pages taken, filled and measured. -/
def State.addRange (s : State) (id : Nat) (l : Locket) (r : LkRange) (flags : Nat) (src : Option (Nat × List Nat)) : State :=
  let a := r.pbase / 4096
  let l1 := { l with
    ranges := l.ranges ++ [r]
    slots := if r.thread then l.slots ++ (List.range r.pages).map (fun i => r.pbase + 4096 * i) else l.slots }
  let s := (s.ownInv a (a + r.pages - 1)).setLocket id l1
  let s := (List.range r.pages).foldl (fun s i =>
    s.fillPage (r.pbase + 4096 * i) l.key (src.map fun p => (p.1 + 4096 * i, p.2.getD i 0))) s
  let c := if flags / 16 % 2 = 1 then beBytes 48 (Config.sha384 (s.rangeBytes r.pbase l.key r.pages)).toNat else zeros 48
  s.setLocket id { l1 with
    meas := extend l.meas ((2 : Byte) :: (leBytes 8 r.vbase ++ leBytes 8 r.pages ++ leBytes 1 (flags % 32) ++ c)) }

/-- Whether the arguments of LK_ADD_RANGE are in range and aligned. -/
def addArgsOk (p v n flags src : Nat) : Bool :=
  p % 4096 == 0 && v % 4096 == 0 && src % 4096 == 0 && decide (0 < n) && decide (n ≤ 2 ^ 40) && decide (p + 4096 * n ≤ 2 ^ 52) &&
    decide (v + 4096 * n ≤ 2 ^ 64) && decide (flags < 32) && decide (src + 4096 * n ≤ 2 ^ 52) &&
    (flags / 16 % 2 == 1 || src == 0)

/-- The part after the arguments have been resolved to physical pages. -/
def State.addChecked (s : State) (id : Nat) (l : Locket) (r : LkRange) (flags : Nat) (src : Option (Nat × List Nat)) :
    SvcEnd × State :=
  let a := r.pbase / 4096
  let srcOk := match src with
    | none => true
    | some (q, ks) => s.freeNormal (q / 4096) (q / 4096 + r.pages) &&
        ks.all fun k => decide (k ≤ s.fld .keypart F.keypart.NWMAX)
  if !srcOk then (⟨neg 2, []⟩, s)
  else if 64 ≤ l.ranges.length ∨ (r.thread ∧ 256 < l.slots.length + r.pages) then (⟨neg 9, []⟩, s)
  else if !s.freeNormal a (a + r.pages) ∨ (l.ranges.any fun q =>
      overlaps r.vbase (r.vbase + 4096 * r.pages) q.vbase (q.vbase + 4096 * q.pages)) then (⟨neg 11, []⟩, s)
  else (⟨0, []⟩, s.addRange id l r flags src)

def svcAddRange (c : Nat) (w : WorldRet) (s : State) : SvcEnd × State :=
  s.onLocket c w [1] fun id l s =>
    let v := arg w 4; let n := arg w 5; let fl := arg w 6; let sa := arg w 7
    if !addArgsOk (arg w 3) v n fl sa then (⟨neg 2, []⟩, s)
    else match s.callerRange c w (arg w 3) n with
      | (none, s1) => (⟨neg 2, []⟩, s1)
      | (some (p, _), s1) =>
        let r : LkRange := { pbase := p, vbase := v, pages := n, r := fl.testBit 0, w := fl.testBit 1, x := fl.testBit 2,
                             thread := fl.testBit 3 }
        if sa = 0 then s1.addChecked id l r fl none
        else match s1.callerRange c w sa n with
          | (none, s2) => (⟨neg 2, []⟩, s2)
          | (some q, s2) => s2.addChecked id l r fl (some q)

def execLkAddRange (core : BitVec 8) (s : State) : Host.Outcome State Fault Refusal :=
  .next (s.serve core.toNat 0x0101 (svcAddRange core.toNat))

def svcInit (c : Nat) (w : WorldRet) (s : State) : SvcEnd × State :=
  s.onLocket c w [1] fun id l s =>
    (⟨0, []⟩, s.setLocket id { l with st := 2, meas := extend l.meas (3 :: leBytes 2 l.slots.length) })

def execLkInit (core : BitVec 8) (s : State) : Host.Outcome State Fault Refusal :=
  .next (s.serve core.toNat 0x0102 (svcInit core.toNat))

/-- Slots of a locket whose STATE is RUNNING (R287). -/
def State.threadsRunning (s : State) (l : Locket) : Nat :=
  (l.slots.filter fun p => s.m.readIn p 8 l.key == 2).length

def svcDestroy (c : Nat) (w : WorldRet) (s : State) : SvcEnd × State :=
  s.onLocket c w [1, 2] fun id l s =>
    if s.threadsRunning l ≠ 0 then (⟨neg 4, []⟩, s)
    else (⟨0, []⟩, s.setLocket id { l with st := 3, caller := some (c, w.lvl, false) })

def execLkDestroy (core : BitVec 8) (s : State) : Host.Outcome State Fault Refusal :=
  .next (s.serve core.toNat 0x0103 (svcDestroy core.toNat))

/-- LK_STATUS of an ID that names no locket answers FREE. -/
def svcStatus (c : Nat) (w : WorldRet) (s : State) : SvcEnd × State :=
  let id := arg w 2
  if 0 < id ∧ id < 4096 ∧ s.sec.lockets.find id = none then (⟨0, [0, 0, 0]⟩, s)
  else s.onLocket c w [1, 2, 3] fun _ l s =>
    (⟨0, [dw l.st, dw (l.ranges.foldl (fun n r => n + r.pages) 0), dw (s.threadsRunning l)]⟩, s)

def execLkStatus (core : BitVec 8) (s : State) : Host.Outcome State Fault Refusal :=
  .next (s.serve core.toNat 0x0104 (svcStatus core.toNat))

/-! #### LK_ASSIGN and the owners it sets (R285, R288, R338, R374) -/

/-- The locket of a device's context changed, by a write of the trusted world under the key of the context table. -/
def State.ctxLocket (s : State) (p rid l : Nat) : State :=
  let r := Reg.ctxbase (ix 8 p)
  let pa := s.fld r F.ctxbase.ADDR * 4096 + 32 * rid
  let key := s.fld r F.ctxbase.KEYID
  match s.agentNat true secStop hypId key pa 8 with
  | .error _ => s
  | .ok (w, _, s1) =>
    match s1.agentWrite true secStop hypId key false 2 pa (leBytes 8 (setF (dw w) (27, 16) l).toNat) with
    | .ok s2 => s2
    | .error _ => s1

/-- The owner of a channel set. -/
def State.chanAssign (s : State) (ch vmid l : Nat) : State :=
  let r := Reg.dmAttr (ix 2 (ch / 32)) (ix 32 ch)
  s.setReg r (setF (setF (setF (s.reg r) F.dmAttr.WORLD 0) F.dmAttr.VMID vmid) F.dmAttr.LOCKET l)

def svcAssign (c : Nat) (w : WorldRet) (s : State) : SvcEnd × State :=
  s.onLocket c w [1, 2] fun id l s =>
    let t := arg w 4
    if arg w 3 = 0 then
      if 64 ≤ t then (⟨neg 2, []⟩, s) else (⟨0, []⟩, s.chanAssign t l.vmid id)
    else if arg w 3 = 1 then
      if 8 ≤ t / 2 ^ 16 then (⟨neg 2, []⟩, s)
      else
        let d := (t / 2 ^ 16, t % 2 ^ 16)
        let l1 := { l with devs := if l.devs.contains d then l.devs else l.devs ++ [d] }
        (⟨0, []⟩, (s.setLocket id l1).ctxLocket d.1 d.2 id)
    else (⟨neg 2, []⟩, s)

def execLkAssign (core : BitVec 8) (s : State) : Host.Outcome State Fault Refusal :=
  .next (s.serve core.toNat 0x0105 (svcAssign core.toNat))

/-! #### The scrub (R288) -/

/-- Channels assigned to a locket lose their owner. -/
def State.freeChans (s : State) (l : Nat) : State :=
  (List.range 64).foldl (fun s ch =>
    if s.fld (.dmAttr (ix 2 (ch / 32)) (ix 32 ch)) F.dmAttr.LOCKET = l then s.chanAssign ch 0 0 else s) s

def State.scrubDone (s : State) (l : Nat) : State :=
  match s.sec.lockets.find l with
  | none => s
  | some k =>
    if k.st ≠ 3 then s
    else
      let s := s.discardKey k.key
      let s := k.ranges.foldl (fun s r =>
        (List.range r.pages).foldl (fun s i => s.fillPage (r.pbase + 4096 * i) 0 none) s) s
      let s := k.ranges.foldl (fun s r => s.ownInv (r.pbase / 4096) (r.pbase / 4096 + r.pages - 1)) s
      let s := s.onSec fun e => { e with lockets := e.lockets.erase l }
      let s := k.devs.foldl (fun s d => s.ctxLocket d.1 d.2 0) (s.freeChans l)
      match k.caller with
      | some (c, lvl, world) => s.sendInt secStop c world 5 8 lvl
      | none => s

def execLocketScrubDone (l : BitVec 12) (s : State) : Host.Outcome State Fault Refusal := .next (s.scrubDone l.toNat)

/-! ### Restart of the trusted world (R298) -/

/-- A core that R298 may redirect: running, or held by R297. -/
def State.redirectable (s : State) (c : Nat) : Bool :=
  !s.noCore c && (match (s.core c).run with
    | .running | .wfi | .wfq => s.isOn (domCore c)
    | .evicted => true
    | _ => false)

/-- The core that R37 would choose among those. -/
def State.restartCore (s : State) : Option Nat :=
  if s.redirectable s.boot.cfg.bootCore then some s.boot.cfg.bootCore else firstOf s.redirectable (List.range 256)

/-- The core at L3 of the trusted world, at the firmware's entry address: an exception entry (R270, R273) with that address
in place of a handler's; a running core's normal-world state stays in its world return record. -/
def Core.restarted (k : Core) (entry : DWord) (plk : Bool) : Core :=
  { k.enter { lvl := 3, world := true, code := 0x17, inner := 1, epc := k.pc, off := 0, plk := plk } with pc := entry }

/-- Trusted candles withdrawn, trusted Lamplighter entries cleared. -/
def State.withdrawTrusted (s : State) : State :=
  let s := (List.range 32).foldl (fun s i =>
    let k := ix 512 (480 + i)
    ((((s.setReg (.llDue k) 0).setReg (.llCtl k) (Reg.llCtl k).reset).setReg (.llArg k) 0).setReg (.llStat k) 0)) s
  { s with csr := s.csr.keep fun r _ => match r with | .candle k => decide (k.val < 3840) | _ => true }

/-- A locket thread that is redirected leaves its locket first (R291). -/
def State.redirect (s : State) (c : Nat) : State :=
  let plk := (s.core c).lk.isSome
  let s := match (s.core c).lk with
    | some x =>
      let s := s.lkSave c x (s.core c).pc (causeWord 0x17 1 0)
      s.onCore c fun k => { k with pc := x.enter }
    | none => s
  -- a held core whose domain is not ON starts once it is (R37)
  let s := if (s.core c).run = .evicted then
      { s with pwr := { s.pwr with saved := s.pwr.saved.erase c } }.wake (domCore c)
    else s
  ((s.onCore c fun k => k.restarted (dw s.boot.twEntry) plk).loopExit c).onSec fun e => { e with discard := false }

/-- The reload, once RESTARTING is set. -/
def State.restart (s : State) (fr : Nat) : State :=
  let auto := s.sec.autoReload
  let s := (s.setFld .twstate F.twstate.RESTARTING 0).onSec fun e => { e with autoReload := false }
  let s := if auto then s.onSec fun e => { e with autoRestarts := e.autoRestarts + 1 } else s
  if !s.componentOk s.boot.fwSel 0x8103 then s.toLog 0x0009 2 true []
  else
    let s := (s.placeComponent fr 0x8103).withdrawTrusted
    let s := s.count .twstate F.twstate.RESTARTS
    match s.restartCore with
    | some c => s.redirect c
    | none => s

/-- The Steward decides on a restart of its own (log entry 99): trusted services, where they still stand, are lost, and the
reload begins. -/
def State.ownRestart (s : State) : State :=
  let s := if s.avail then s.servicesLost else s
  s.autoStart

/-- A restart of the trusted world ends: that under way, or one the Steward decides on itself, as long as it makes automatic
ones. -/
def execTrustedRestart (own : Bool) (s : State) : Host.Outcome State Fault Refusal :=
  .next (match s.m.fr with
    | none => s
    | some fr =>
      if s.flag .twstate F.twstate.RESTARTING then s.restart fr
      else if own ∧ s.autoAllowed then s.ownRestart.restart fr
      else s)

/-! ### Memory through the debug port (R457) -/

/-- An aligned 8-byte access of the engineering part's debug port, with WORLD 1, VMID 0xFFFF and LOCKET 0; refusals are
recorded. -/
def State.debugAccess (s : State) (pa : Nat) (wr : Option DWord) : State :=
  let id : Ident := ⟨true, 0xFFFF, 0⟩
  let q : Req := ⟨.debug, true, 0xFFFF, 0⟩
  if s.physDevice pa then (s.devAccess q (if wr.isSome then 0x05 else 0x03) pa 8 (wr.map (·.toNat))).2
  else
    let r : Except Fail State := match wr with
      | none => match s.agentNat false stwStop id 0 pa 8 with
        | .ok (_, _, s1) => .ok s1
        | .error e => .error e
      | some v => s.agentWrite false stwStop id 0 false 2 pa (leBytes 8 v.toNat)
    match r with
    | .ok s1 => s1
    | .error .denied => s.logErr { bank := 160, cls := 0x33, sev := 2, addr := some (0, pa), hidden := true }
    | .error (.err _) => s

def execDebugMemoryAccess (pa : BitVec 52) (write : Option (BitVec 64)) (s : State) : Host.Outcome State Fault Refusal :=
  .next (if s.boot.fuses.engineering then s.debugAccess pa.toNat write else s)

end Sys2Proof.Machine
end

