-- ==== Sys2Proof/Machine/Queue.lean ====
section
/-! DEFINITION. Queue stations (R321-R335), doorbells (R317, R318), and the instructions that use them (R106, R107, R330,
R331). -/

namespace Sys2Proof.Machine

/-! ### Handles and access checks (R322, R326) -/

def hStation (h : Word) : Nat := h.toNat / 2 ^ 25
def hIndex (h : Word) : Nat := h.toNat / 2 ^ 16 % 512
def hKey (h : Word) : Nat := h.toNat % 2 ^ 16

/-- Source ports: a core by its number, a Data Mover channel from 256, an I/O stop from 320. -/
def portOfChan (ch : Nat) : Nat := 256 + ch
def portOfIo (p : Nat) : Nat := 320 + p

abbrev rQcfg (t k : Nat) : Reg := .qcfg (ix 128 t) (ix 512 k)
abbrev rQown (t k : Nat) : Reg := .qown (ix 128 t) (ix 512 k)
abbrev rQstat (t k : Nat) : Reg := .qstat (ix 128 t) (ix 512 k)

/-- PUTSCOPE of a queue; a submission queue follows 0b00. -/
def State.putScope (s : State) (t k : Nat) : Nat :=
  if s.flag (rQcfg t k) F.qcfg.KIND then 0 else s.fld (rQown t k) F.qown.PUTSCOPE

/-- Whether a scope lets an identity put to a queue of an owner (R325). -/
def scopeOk (scope : Nat) (o id : Ident) : Bool :=
  match scope with
  | 0 => id == o
  | 1 => id.world == o.world && id.vmid == o.vmid
  | 2 => id.world == o.world
  | _ => true

/-- The first failing check of an operation, as its result code; 0 where all pass (R326). -/
def State.qCheck (s : State) (src : Nat) (id : Ident) (h : Word) (put : Bool) : Nat :=
  let t := hStation h; let k := hIndex h
  let cfg := s.reg (rQcfg t k)
  let dm := getF cfg F.qcfg.KIND == 1
  let o := s.qOwner t k
  if getF cfg F.qcfg.V = 0 then 0x11
  else if getF cfg F.qcfg.KEY ≠ hKey h then 0x12
  else if dm && (if put then decide (256 ≤ src) else src != portOfChan (getF cfg F.qcfg.DMCH)) then 0x13
  else if (if put then scopeOk (s.putScope t k) o id else (id == o)) then 0
  else 0x14

/-! ### Notices (R334) -/

/-- The notice write of NMODE 0b11: a Device-S write of 4 bytes with the owner's world and VMID. -/
def State.noticeWrite (s : State) (t k : Nat) : State :=
  let o := s.qOwner t k
  let id : Ident := ⟨o.world, o.vmid, 0⟩
  let pa := s.fld (.qnaddr (ix 128 t) (ix 512 k)) F.qnaddr.ADDR * 4
  let v := t * 2 ^ 25 + k * 2 ^ 16
  let drop := fun (s : State) => s.logErr { bank := t, cls := 0x40, sev := 2, src := k, addr := some (0, pa), hidden := s.hiddenAt o.world pa }
  if !s.mayReach id (pa / 4096) || (s.settleKey id.world (pa / 4096) 0).isNone then drop s
  else
    let s := s.ownSeen (tileStop t) (pa / 4096)
    match s.devAccess ⟨.station (BitVec.ofNat 7 t), o.world, BitVec.ofNat 16 o.vmid, 0⟩ 0x05 pa 4 (some v) with
    | (.ok _, s1) => s1
    | (.error _, s1) => drop s1

/-- The INT of a submission queue to its channel's Data Mover, with the channel number in AUX[8:0]. It asks for nothing but the
wake of the Data Mover's domain, which takes descriptors whenever it can. -/
def dmNotice (t ch : Nat) (world : Bool) : HeldPacket :=
  let p := intPacket (tileStop t) 0 world 0 0 0
  { p with pkt := { p.pkt with dst := dmStop (ch / 32), dport := 0, aux := BitVec.ofNat 32 ch }, dom := domDm (ch / 32), int := none
           note := true }

def State.noticeDm (s : State) (t ch : Nat) (world : Bool) : State :=
  let p := dmNotice t ch world
  match s.way false s.mesh.held s.mesh.held p with
  | (b, .arrives) => s.cross p.pkt p.vc (p.crossed b)
  | (b, .waits dom) => s.come p b dom
  | (b, .fails e) =>
    let at_ := match b with | some b => b.stop | none => tileStop t
    if e = 0x03 then s.logErr { bank := meshBank at_, cls := 0x16, sev := 2, src := p.dom } else s

/-- The notice after a complete message. -/
def State.qNotice (s : State) (t k : Nat) : State :=
  let cfg := s.reg (rQcfg t k)
  let w := (s.qOwner t k).world
  let core := getF cfg F.qcfg.NCORE
  if getF cfg F.qcfg.KIND = 1 then s.noticeDm t (getF cfg F.qcfg.DMCH) w
  else match getF cfg F.qcfg.NMODE with
    | 0 => s
    | 1 => s.sendInt (tileStop t) core w 2 0 1
    | 2 => s.sendInt (tileStop t) core w 2 (getF cfg F.qcfg.NPRIO) (getF cfg F.qcfg.NLVL)
    | _ => s.noticeWrite t k

/-! ### Puts (R327-R330) -/

def tagged (tag : Nat) (w : BitVec 56) : DWord := dw (tag * 2 ^ 56 + w.toNat)

/-- The words of a message with their tags. -/
def tagWords : List (BitVec 56) → List DWord
  | [] => []
  | [w] => [tagged 3 w]
  | ws => (ws.dropLast.map (tagged 1)) ++ [tagged 2 (ws.getLastD 0)]

def State.queue (s : State) (t k : Nat) : Queue := s.qs.q.getD (t, k) ⟨[], none⟩
def State.setQueue (s : State) (t k : Nat) (q : Queue) : State := { s with qs := { s.qs with q := s.qs.q.set (t, k) q } }

/-- A message refused as FULL or BUSY. -/
def State.qFull (s : State) (t k : Nat) : State := s.count (rQstat t k) F.qstat.FULLCNT

/-- A message whose words have all arrived is appended at one instant, or refused as FULL (R328). -/
def State.qAppend (s : State) (t k : Nat) (ws : List (BitVec 56)) : Nat × State :=
  let q := s.queue t k
  if 2 ^ s.fld (rQcfg t k) F.qcfg.CAP < q.words.length + ws.length then (1, s.qFull t k)
  else (0, (s.setQueue t k { q with words := q.words ++ tagWords ws }).qNotice t k)

def State.setParts (s : State) (f : Map (Nat × Nat) Part → Map (Nat × Nat) Part) : State :=
  { s with qs := { s.qs with parts := f s.qs.parts } }

/-- The reassembly buffer of a station that holds part 0 of a source port and handle (R329). -/
def State.heldPart (s : State) (t src : Nat) (h : Word) : Option (Nat × Part) :=
  [0, 1, 2, 3].findSome? fun b => match s.qs.parts.find (t, b) with
    | some p => if p.src = src ∧ p.handle = h then some (b, p) else none
    | none => none

/-- A held part 0 discarded, and recorded. -/
def State.partLost (s : State) (t b : Nat) : State :=
  match s.qs.parts.find (t, b) with
  | none => s
  | some p => (s.setParts fun m => m.erase (t, b)).logErr
      { bank := t, cls := 0x40, sev := 2, src := p.src, hidden := (s.qOwner t (hIndex p.handle)).world }

/-- One MSG packet at a station: whether more follows, whether it is part 1. Its result code. A message whose part 0 finds
no buffer is counted as refused once, with its part 1 (R329). -/
def State.qPut (s : State) (src : Nat) (id : Ident) (h : Word) (ws : List (BitVec 56)) (more part1 : Bool) : Nat × State :=
  let t := hStation h; let k := hIndex h
  let e := s.qCheck src id h true
  if e ≠ 0 then (e, s)
  else if part1 then
    match s.heldPart t src h with
    | none => (2, s.qFull t k)
    | some (b, p) => (s.setParts fun m => m.erase (t, b)).qAppend t k (p.words ++ ws)
  else if more then
    match s.heldPart t src h with
    | some (b, _) => (0, (s.partLost t b).setParts fun m => m.set (t, b) ⟨src, h, ws⟩)
    | none => match firstOf (fun b => (s.qs.parts.find (t, b)).isNone) [0, 1, 2, 3] with
      | some b => (0, s.setParts fun m => m.set (t, b) ⟨src, h, ws⟩)
      | none => (2, s)
  else s.qAppend t k ws

/-- A whole message: one packet, or two of at most 32 words each; the first of the codes that is not OK (R329). -/
def State.qSend (s : State) (src : Nat) (id : Ident) (h : Word) (ws : List (BitVec 56)) : Nat × State :=
  if ws.length ≤ 32 then s.qPut src id h ws false false
  else
    let (e, s) := s.qPut src id h (ws.take 32) true false
    let (f, s) := s.qPut src id h (ws.drop 32) false true
    (if e ≠ 0 then e else f, s)

def execReassemblyTimeout (t : BitVec 7) (buf : BitVec 2) (s : State) : Host.Outcome State Fault Refusal :=
  .next (s.partLost t.toNat buf.toNat)

/-! ### Gets (R331-R333) -/

def wordTag (w : DWord) : Nat := w.toNat / 2 ^ 56

/-- The words after the message at the head. -/
def dropMessage (ws : List DWord) : List DWord := (ws.dropWhile fun w => wordTag w == 1).drop 1

/-- The word at the head taken; `bad`: its parity is wrong. -/
def State.qTake (s : State) (src t k : Nat) (bad : Bool) : DWord × State :=
  let q := s.queue t k
  match q.words with
  | [] => (0, s)
  | w :: ws =>
    if q.claim.isSome ∧ q.claim ≠ some src then (0, s)
    else if bad then
      let s := (s.setQueue t k ⟨dropMessage (w :: ws), none⟩).count (rQstat t k) F.qstat.PERR
      (dw (0xEE * 2 ^ 56), s.logErr { bank := t, cls := 0x40, sev := 2, src := k, hidden := (s.qOwner t k).world })
    else (w, s.setQueue t k ⟨ws, if wordTag w = 1 then some src else none⟩)

/-- One QREAD at a station: a result code, or the word. -/
def State.qGet (s : State) (src : Nat) (id : Ident) (h : Word) (bad : Bool) : Except Nat DWord × State :=
  let e := s.qCheck src id h false
  if e ≠ 0 then (.error e, s)
  else
    let (w, s1) := s.qTake src (hStation h) (hIndex h) bad
    (.ok w, s1)

/-- A claim broken: its holder made no QGET for 100 µs (R332). -/
def State.claimBreak (s : State) (t k : Nat) : State :=
  let q := s.queue t k
  if q.claim.isSome then (s.setQueue t k ⟨dropMessage q.words, none⟩).count (rQstat t k) F.qstat.BROKEN else s

def execClaimBreak (t : BitVec 7) (k : BitVec 9) (s : State) : Host.Outcome State Fault Refusal :=
  .next (s.claimBreak t.toNat k.toNat)

/-! ### The way to a station (R262, R265, R322) -/

/-- The error a request meets on its way to a station, recorded where the station's tile has no agent. -/
def State.stationErr (s : State) (src : Stop) (t cmd : Nat) : Option Nat × State :=
  if s.fencedTile t then (some 0x02, s.noAgent (tileStop t) 3 cmd none)
  else match s.pathErr src (tileStop t) (domTile t) with
    | some e => (some e, s)
    | none => (none, s.wake (domTile t))

/-! ### QPUT, QPUTM, QGET -/

/-- A core's request to a station, with its data flits: an RSP_ERR that the core has received for the command ends it. -/
def State.coreStation (s : State) (c t cmd flits : Nat) : Option Nat × State :=
  match s.unitErr c cmd with
  | some e => (some e, s.clearUnit c cmd)
  | none => match s.stationErr (tileStop (c / 2)) t cmd with
    | (some e, s1) => (some e, s1.statErr c (s1.core c).statId flits e)
    | (none, s1) => (none, s1.statCore c flits)

/-- QUEUE_FAULT: the handle and the reason (R326). -/
def queueFault (h : Word) (e : Nat) : Exc := { code := 0x15, addr := dw (h.toNat + e * 2 ^ 32) }

/-- A core's message: it follows every earlier store (R165). The status of R330, or a fault. -/
def coreSend (c : Nat) (h : Word) (ws : List (BitVec 56)) : Act DWord := fun s =>
  let s := s.drain c
  -- the second of two packets is a transaction of its own
  let s := if 32 < ws.length then s.statCore c 8 else s
  match s.coreStation c (hStation h) 0x08 ((ws.length - (if 32 < ws.length then 32 else 0) + 3) / 4) with
  | (some _, s1) => (.ok (neg 12), s1)
  | (none, s1) =>
    let (e, s2) := s1.qSend c (s1.ident c) h ws
    match e with
    | 0 => (.ok 0, s2)
    | 1 => (.ok (neg 13), s2)
    | 2 => (.ok (neg 4), s2)
    | e => (.error (queueFault h e), s2)

/-- rd := a value, and on to the next instruction. -/
def result (rd : BitVec 5) (w : DWord) (c : Nat) : Act Done := plain (fun _ k => k.wg rd w) c

def execQput (x : Issue) (rd rs1 rs2 : BitVec 5) (s : State) : Host.Outcome State Fault Refusal :=
  .next (s.run x {} fun c => .with fun s =>
    let k := s.core c
    (coreSend c ((k.rg rs1).truncate 32) [(k.rg rs2).truncate 56]).bind fun w => result rd w c)

/-- The payloads of a message in memory; their reads count as issued loads alone (log entry 114). -/
def loadPayloads (c : Nat) (x : Issue) (va : DWord) : Nat → Act (List (BitVec 56))
  | 0 => .pure []
  | n + 1 => (load c x va 8).bind fun w => (loadPayloads c x (va + 8) n).bind fun r => .pure (BitVec.ofNat 56 w :: r)

def execQputm (x : Issue) (rd rs1 rs2 : BitVec 5) (n : BitVec 6) (s : State) : Host.Outcome State Fault Refusal :=
  .next (s.run x { uops := n.toNat + 3, noLoop := true } fun c => .with fun s =>
    let k := s.core c
    let va := k.rg rs2
    (aligned true va 8).bind fun _ => (loadPayloads c x va (n.toNat + 1)).bind fun ws =>
    (coreSend c ((k.rg rs1).truncate 32) ws).bind fun w => result rd w c)

def execQget (x : Issue) (rd rs1 : BitVec 5) (bad : Bool) (s : State) : Host.Outcome State Fault Refusal :=
  .next (s.run x {} fun c => .with fun s =>
    let h : Word := ((s.core c).rg rs1).truncate 32
    match s.coreStation c (hStation h) 0x09 1 with
    | (some _, s1) => fun _ => (.error (dataBus 0), s1)
    | (none, s1) => match s1.qGet c (s1.ident c) h bad with
      | (.ok w, s2) => fun _ => result rd w c s2
      | (.error e, s2) => fun _ => (.error (queueFault h e), s2))

/-! ### Doorbells (R317, R318) -/

/-- A doorbell as the STW stop receives it. -/
structure Bell where
  mask : BitVec 256
  vec : Nat
  prio : Nat
  lvl : Nat
  counter : Option Nat
  load : Bool
  world : Bool
deriving DecidableEq, Repr

/-- A core that the STW stop leaves out: absent, or held in reset (R37, R297). -/
def State.bellSkips (s : State) (c : Nat) : Bool :=
  s.noCore c || (s.core c).run == .held || (s.core c).run == .evicted

/-- Fields a doorbell may not have. -/
def State.bellBad (s : State) (b : Bell) : Bool :=
  !(b.vec == 0 || b.vec == 7 || (decide (32 ≤ b.vec) && decide (b.vec < 512))) || b.mask == 0 || b.prio == 0 ||
    !s.levelOk b.world b.lvl

/-- The STW stop's work on a doorbell: its result code, the number of INTs sent. -/
def State.bell (s : State) (b : Bell) : DWord × State :=
  let r := fun (i : Nat) => Reg.gather (ix 64 i)
  let ts := (List.range 256).filter fun c => b.mask.getLsbD c && !s.bellSkips c
  let fan := fun (s : State) => ts.foldl (fun s c => s.sendInt stwStop c b.world b.vec b.prio b.lvl) s
  if s.bellBad b then (neg 2, s)
  else match b.counter with
    | none => (dw ts.length, fan s)
    | some i =>
      if s.flag (r i) F.gather.WORLD != b.world then (neg 3, s)
      else if b.load ∧ s.fld (r i) F.gather.COUNT ≠ 0 then (neg 4, s)
      else (dw ts.length, fan (if b.load then s.setFld (r i) F.gather.COUNT ts.length else s))

/-- A descriptor of 64 bytes as words (R317): the fields out of range are found by the core, which sees them all. -/
def State.bellOf (s : State) (c : Nat) (d : Nat) : DWord ⊕ Bell :=
  let k := s.core c
  let vec := d / 2 ^ 256 % 2 ^ 16
  let ctr := d / 2 ^ 272 % 2 ^ 8
  let fl := d / 2 ^ 280 % 2 ^ 8
  let lvl := fl / 2 % 4
  let b : Bell := ⟨BitVec.ofNat 256 d, vec, fl / 8 % 16, lvl, if ctr = 0xFF then none else some ctr, fl % 2 == 1, k.world⟩
  let guest := s.s2on k
  if (64 ≤ ctr ∧ ctr ≠ 0xFF) ∨ 128 ≤ fl ∨ d / 2 ^ 288 ≠ 0 ∨ s.bellBad b ∨ k.lvl < lvl ∨ (guest ∧ lvl ≠ 1) then .inl (neg 2)
  else if guest && !k.sflag Sys.dbctl false G.dbctl.GUEST then .inl (neg 3)
  else .inr b

def execDoorbell (x : Issue) (rd rs1 : BitVec 5) (s : State) : Host.Outcome State Fault Refusal :=
  .next (s.run x { uops := 3, noLoop := true } fun c =>
    (atLeast c 1).bind fun _ => .with fun s =>
    let va := (s.core c).rg rs1
    (aligned true va 64).bind fun _ => (loadWords c x va 8).bind fun d => .with fun s =>
    match s.bellOf c d with
    | .inl w => result rd w c
    | .inr b =>
      if (s.unitErr c 0x0B).isSome then fun s => result rd (neg 12) c (s.clearUnit c 0x0B)
      else match s.pathErr (tileStop (c / 2)) stwStop 416 with
      | some e => fun s => result rd (neg 12) c (s.statErr c (s.core c).statId 1 e)
      | none => let (w, s1) := (s.statCore c 1).bell b
                fun _ => result rd w c s1)

end Sys2Proof.Machine
end

