-- ==== Sys2Proof/Machine/Mesh.lean ====
section
/-! DEFINITION. The mesh: request packets on their way (R253-R257, R265-R267) and at their targets (R218-R231, R248-R252),
responses, tags, generations and timeouts (R258-R263), and links (R245-R247). -/

namespace Sys2Proof.Machine

/-! ### Initiators (R268) -/

def hdrIdent (h : Hdr) : Ident := ⟨h.world, h.vmid.toNat, h.locket.toNat⟩

/-- The tile of a stop in rows 1 to 8. -/
def tileOf (st : Stop) : Nat := 16 * (st.y.val - 1) + st.x.toNat

/-- The agent of an initiator number. -/
def agentOf (i : Nat) : Agent :=
  if i < 256 then .core (BitVec.ofNat 8 i)
  else if i < 260 then .dm 0 else if i < 264 then .dm 1 else .io (BitVec.ofNat 3 (i - 264))

/-- The error bank of an initiator (R430). -/
def initBank (i : Nat) : Nat := if i < 256 then i / 2 else if i < 260 then 157 else if i < 264 then 158 else 144 + (i - 264)

def hdrReq (h : Hdr) : Req := ⟨agentOf h.init.val, h.world, h.vmid, h.locket⟩
def hdrSrc (h : Hdr) : Stop := initStop h.init.val

/-- The requester of a packet. -/
def HeldPacket.req_ (p : HeldPacket) : Req := ⟨agentOf p.init, p.pkt.world, p.pkt.vmid, p.pkt.locket⟩

/-! ### Ports and the commands meant for them (R20, R21, R23, R251, R252) -/

/-- A port with no agent. -/
def State.noPort (s : State) (st : Stop) (port : Nat) : Bool :=
  let y := st.y.val; let x := st.x.toNat
  if y = 0 ∨ y = 9 then
    port != 0 || x == 15 || (x == 11 && y == 9) ||
      (anyBelow 8 fun p => ioStop p == st && s.role p == .disabled)
  else
    let t := tileOf st
    if port < 2 then s.noCore (2 * t + port) else s.fencedTile t

/-- The error bank of the agent at a port (R430). -/
def agentBank (st : Stop) : Nat :=
  let y := st.y.val; let x := st.x.toNat
  if y ≠ 0 ∧ y ≠ 9 then tileOf st
  else if x = 7 then 160 else if x = 11 then 159
  else if x = 3 then 157 + y / 9
  else if x % 2 = 0 then 128 + 8 * (y / 9) + x / 2
  else 144 + 4 * (y / 9) + x / 4

/-- The power domain that a port leads into; a port with no agent leads into none, which stands as the Steward's, always
ON. -/
def State.portDom (s : State) (st : Stop) (port : Nat) : Nat :=
  let y := st.y.val; let x := st.x.toNat
  if s.noPort st port then 416
  else if y ≠ 0 ∧ y ≠ 9 then
    let t := tileOf st
    if port < 2 then domCore (2 * t + port) else domTile t
  else if x = 7 then (if y = 0 then 416 else 415) else if x = 11 then domSec
  else if x = 3 then domDm (y / 9)
  else if x % 2 = 0 then domMc (8 * (y / 9) + x / 2)
  else domIo (4 * (y / 9) + x / 4)

/-- Commands of R250. -/
def meshCmds : List Nat :=
  [0x01, 0x02, 0x03, 0x04, 0x05, 0x06, 0x07, 0x08, 0x09, 0x0A, 0x0B, 0x10, 0x11, 0x12, 0x13, 0x20, 0x21, 0x40, 0x41, 0x42, 0x43,
   0x44]

/-- Commands meant for the agent at a port: cores take INT and snoops, slices line requests, stations queue packets,
edge agents uncached reads and writes; the Steward takes doorbells, and Data Movers the notices of their channels. -/
def cmdFits (st : Stop) (port cmd : Nat) : Bool :=
  let y := st.y.val; let x := st.x.toNat
  if 0x40 ≤ cmd then meshCmds.contains cmd
  else if y ≠ 0 ∧ y ≠ 9 then
    match port with
    | 0 | 1 => [0x03, 0x05, 0x0A, 0x20, 0x21].contains cmd
    | 2 => [0x01, 0x02, 0x03, 0x04, 0x05, 0x06, 0x07, 0x10, 0x11, 0x12, 0x13].contains cmd
    | _ => [0x03, 0x05, 0x08, 0x09].contains cmd
  else [0x03, 0x04, 0x05].contains cmd || (cmd == 0x0B && x == 7 && y == 0) || (cmd == 0x0A && x == 3)

/-! ### Tags and generations (R260, R261) -/

/-- The key of a tag of an initiator. -/
abbrev tagKey (i : Fin 272) (tag : BitVec 12) : Nat × Nat := (i.val, tag.toNat)

def State.setTxn (s : State) (k : Nat × Nat) (t : Txn) : State := s.onMesh fun m => { m with txns := m.txns.set k t }

/-- Whether a tag without an open transaction may be allocated with a generation: the next after its last one. -/
def State.genOk (s : State) (k : Nat × Nat) (g : BitVec 4) : Bool :=
  match s.mesh.gens.find k with
  | none => true
  | some o => g == o + 1

/-- TIME of a request's class (R258). -/
def State.timeOf (s : State) (p : Packet) : Nat :=
  if p.mtype.toNat ≤ 1 ∨ (List.range 8).any (fun i => ioStop i == p.dst) then s.fld .tmoDev F.tmoDev.TIME
  else match p.cmd.toNat with
    | 0x01 | 0x02 | 0x03 => s.fld .tmoRd F.tmoRd.TIME
    | 0x07 => s.fld .tmoAtom F.tmoAtom.TIME
    | 0x08 | 0x09 | 0x0B => s.fld .tmoQ F.tmoQ.TIME
    | _ => s.fld .tmoWr F.tmoWr.TIME

/-- A packet that waits and carries a request, and one that a router holds whose request has not been given. -/
def HeldPacket.carries (q p : HeldPacket) : Bool := q.isReq && q.key == p.key && q.req.isSome
def HeldPacket.stands (q p : HeldPacket) : Bool := q.isReq && q.key == p.key && q.req.isNone

/-- TIME of a request as its initiator sends it: half of its class for one that an I/O stop issues for a transaction it
holds (R259). -/
def State.timeFor (s : State) (p : HeldPacket) : Nat :=
  if p.vc = vcEsc ∧ 264 ≤ p.init then s.timeOf p.pkt / 2 else s.timeOf p.pkt

/-- The transaction of a request, timed from its issue: a new one, or one whose packet a router has held. -/
def State.openReq (s : State) (p : HeldPacket) : Option State :=
  match s.mesh.txns.find p.key with
  | none =>
    if s.genOk p.key p.pkt.gen then
      some ((s.setTxn p.key { pkt := p.pkt, time := s.timeFor p, inner := none, paused := false, quarantined := false,
                              arrived := false, answer := none, esc := p.vc == vcEsc }).onMesh fun m => { m with gens := m.gens.set p.key p.pkt.gen })
    else none
  | some o =>
    if o.pkt.gen = p.pkt.gen ∧ !o.arrived ∧ !(s.mesh.held.any fun q => q.carries p) then some (s.setTxn p.key { o with pkt := p.pkt })
    else none

/-- Command, AUX, data flits and DPOISON of a response (R250). -/
def Answer.parts : Answer → BitVec 8 × BitVec 32 × List (BitVec 256) × BitVec 8
  | .data g dp fs => (0x40, g.zeroExtend 32, fs, dp.zeroExtend 8)
  | .ack aux => (0x41, aux, [], 0)
  | .err e => (0x42, BitVec.ofNat 32 e, [], 0)

/-- The response packet to a request or a snoop, sent from a stop (R249). -/
def HeldPacket.reply (p : HeldPacket) (src : Stop) (a : Answer) : HeldPacket :=
  { pkt := { p.pkt.response a.parts.1 a.parts.2.1 a.parts.2.2.1 a.parts.2.2.2 with src := src }
    vc := vcRsp, dom := 416, init := p.init, rsp := some a, snoop := p.snoop }

/-- The response of a request has reached its initiator. -/
def State.landed (s : State) (p : HeldPacket) (a : Answer) : State :=
  s.onTxn p.key fun t => if t.pkt.gen = p.pkt.gen then { t with answer := some a } else t

/-- A response to a request sets out on the RSP mesh; over a failed link it cannot come back (R247, R254). -/
def State.sendRsp (s : State) (r : HeldPacket) (a : Answer) : State :=
  match s.way false s.mesh.held s.mesh.held r with
  | (_, .arrives) => (s.cross r.pkt vcRsp (r.legs.filterMap (·.1))).landed r a
  | (b, .waits dom) => s.come r b dom
  | (b, .fails _) => s.cross r.pkt vcRsp (r.crossed b)

/-- A response is given to a request from a stop. -/
def State.answer (s : State) (p : HeldPacket) (src : Stop) (a : Answer) : State :=
  match s.mesh.txns.find p.key with
  | some t =>
    if t.pkt.gen = p.pkt.gen then (s.setTxn p.key { t with arrived := true, paused := false }).sendRsp (p.reply src a) a else s
  | none => s

/-! ### Errors a slice finds (R241) -/

/-- An L3 tag error on a dirty line: the line is lost. -/
def State.lostLine (s : State) (line : Nat) : State :=
  let s := s.withCs (s.cs.l3Erase line)
  if (s.cs.dirtyOwner line).isSome then s else s.discard line

def State.sliceErr (s : State) (e : SliceErr) (line key : Nat) : State :=
  let n := s.home line
  let ev : Nat → Nat → Nat → Event := fun cls sev src =>
    { bank := n, cls := cls, sev := sev, src := src, addr := some (key, 64 * line), hidden := s.hiddenAt false (64 * line) }
  match e, s.coh.l3.find line with
  | .none, _ => s
  | .dirSingle, _ => s.logErr (ev 6 0 0)
  | .dirUncorr, _ => s.logErr (ev 6 3 0)
  | .single, some l => (s.wayErrAdd true n l.way).logErr (ev 5 0 l.way)
  | .dataUncorr, some l =>
    if l.dirty then ({ s with m := s.m.poisonLine line }).logErr (ev 5 1 l.way)
    else ((s.wayErrAdd true n l.way).withCs (s.cs.l3Erase line)).logErr (ev 5 0 l.way)
  | .tagFound, some l =>
    if l.dirty then (s.lostLine line).logErr (ev 6 3 l.way)
    else ((s.wayErrAdd true n l.way).withCs (s.cs.l3Erase line)).logErr (ev 6 0 l.way)
  | _, none => s

/-! ### Atomics (R90) -/

/-- The new value of an atomic of n bytes: operation, old value, operand, compare value. None for a code R90 does not
define. -/
def atomicNew (op n old v cmp : Nat) : Option Nat :=
  let b := 8 * n
  let signed := fun (x y : Nat) => decide (toSigned b x < toSigned b y)
  match op with
  | 0 => some v
  | 1 => some ((old + v) % 2 ^ b)
  | 2 => some (old &&& v)
  | 3 => some (old ||| v)
  | 4 => some (old ^^^ v)
  | 5 => some (if signed old v then old else v)
  | 6 => some (if signed old v then v else old)
  | 7 => some (min old v)
  | 8 => some (max old v)
  | 9 => if n = 8 then some (if old = cmp then v else old) else none
  | 10 => some (if old = cmp then v else old)
  | _ => none

/-- Bytes of the location of an ATOMIC. -/
def atomicSize (op : BitVec 4) (size8 : Bool) : Nat := if op = 10 then 16 else if size8 then 8 else 4

/-! ### Request packets (R243, R248, R250) -/

/-- Where a request for an address outside Normal memory goes: the agent that serves a register, the port of a window, or
port 3 of the STW stop, which has no agent (R464, R468). -/
def State.devPort (s : State) (pa : Nat) : Stop × Nat :=
  match region pa with
  | .ccs => (match slotAt (pa - 0x10000000) with
      | .at_ r => (regStop r, regPort r)
      | .mirror p _ => (ioStop p.val, 0)
      | .empty => (stwStop, 0)
      | .none_ => (stwStop, 3))
  | .mmio p | .cfg p => if s.role p = .root then (ioStop p, 0) else (stwStop, 3)
  | .host p => if s.role p = .endpoint then (ioStop p, 0) else (stwStop, 3)
  | _ => (stwStop, 3)

/-- Where a request for an address goes. -/
def State.goesTo (s : State) (pa : Nat) : Stop × Nat :=
  if s.physDevice pa then s.devPort pa else (tileStop (s.home (pa / 64)), 2)

/-- A request as its initiator sends it: destination, channel, command, address and the command's own fields. -/
def State.sends (s : State) (h : Hdr) (q : Option Ask) (dst : Stop × Nat) (vc : BitVec 2) (cmd pa : Nat) (aux bmask : Nat)
    (data : List (BitVec 256)) : HeldPacket :=
  { pkt := { dst := dst.1, dport := BitVec.ofNat 2 dst.2, src := hdrSrc h
             sport := if h.init.val < 256 then BitVec.ofNat 2 (h.init.val % 2) else 0
             cmd := BitVec.ofNat 8 cmd, tag := h.tag, gen := h.gen, world := h.world, vmid := h.vmid, locket := h.locket
             key := h.key, mtype := h.mtype, addr := BitVec.ofNat 52 pa, aux := BitVec.ofNat 32 aux
             bmask := BitVec.ofNat 64 bmask, dpoison := h.dpoison &&& BitVec.ofNat 8 (2 ^ data.length - 1), data := data }
    vc := vc, dom := s.portDom dst.1 dst.2, init := h.init.val, req := q }

/-- A line as two data flits. -/
def lineFlits (l : Line) : List (BitVec 256) := [l.truncate 256, (l >>> 256).truncate 256]

/-- The ownership check and the key rule at the initiator: the key that the request carries; none where it is refused,
or the SEC cannot be asked, so that no request is sent (R26, R280, R283). -/
def State.mayAsk (s : State) (h : Hdr) (pa : Nat) : Option (BitVec 12) :=
  if 256 ≤ h.init.val ∧ (s.ownPath (hdrSrc h) (pa / 4096)).isSome then none
  else (s.agentKey false (hdrIdent h) (pa / 64) h.key.toNat).map (BitVec.ofNat 12)

/-- A request for an address. -/
def State.asks (s : State) (h : Hdr) (q : Ask) (vc : BitVec 2) (cmd pa : Nat) (aux bmask : Nat)
    (data : List (BitVec 256)) : Option HeldPacket :=
  (s.mayAsk h pa).map fun k => s.sends { h with key := k } (some q) (s.goesTo pa) vc cmd pa aux bmask data

/-- The victim of a core's write-back buffer (R222, R243). -/
def State.victimAsks (s : State) (h : Hdr) (q : Ask) (line : Nat) (dirty : Bool) : Option HeldPacket :=
  match s.coh.wbuf.find (h.init.val, line) with
  | some (d, key) =>
    if d = dirty ∧ h.init.val < 256 then
      some (s.sends { h with key := BitVec.ofNat 12 key } (some q) (tileStop (s.home line), 2) vcEsc (if dirty then 0x04 else 0x06)
        (64 * line) 0 0 (lineFlits (s.m.under line key)))
    else none
  | none => none

/-- Words of a message, four to a flit. -/
def msgFlits : Nat → List (BitVec 56) → List (BitVec 256)
  | 0, _ => []
  | f + 1, ws =>
    if ws.isEmpty then []
    else BitVec.ofNat 256 ((ws.take 4).zipIdx.foldl (fun n q => n + q.1.toNat * 2 ^ (64 * q.2)) 0) :: msgFlits f (ws.drop 4)

/-- The channel of a request that may be issued for a held transaction: of the initiators, only I/O stops hold any (R243). -/
def hdrVc (h : Hdr) : BitVec 2 := if h.esc ∧ 264 ≤ h.init.val then vcEsc else vcReq

/-- The packet of a request; none where no initiator can send it: a read for a hierarchy that only cores have, a victim that
no write-back buffer holds, an ATOMIC that R90 does not define, a refused check. -/
def State.requestOf (s : State) (h : Hdr) (pa : BitVec 52) (q : Ask) : Option HeldPacket :=
  let ln := pa.toNat / 64 * 64
  let core := decide (h.init.val < 256)
  match q with
  | .rdShared _ _ => if core then s.asks h q vcReq 0x01 ln 0 0 [] else none
  | .rdUnique => if core then s.asks h q vcReq 0x02 ln 0 0 [] else none
  | .rdNc n => s.asks h q (hdrVc h) 0x03 (if n = 0 then ln else pa.toNat) n.toNat 0 []
  | .wrLine d => s.asks h q (hdrVc h) 0x04 ln 0 0 (lineFlits d)
  | .victim dirty _ => s.victimAsks h q (pa.toNat / 64) dirty
  | .wrPartial d m => s.asks h q (hdrVc h) 0x05 ln 0 m.toNat (lineFlits d)
  | .atomic op o sz v c =>
    if (atomicNew op.toNat (atomicSize op sz) 0 0 0).isNone ∨ pa.toNat % atomicSize op sz ≠ 0 then none
    else s.asks h q vcReq 0x07 pa.toNat (op.toNat + o.toNat * 16 + b2n sz * 64) 0 [BitVec.ofNat 256 (v.toNat + c.toNat * 2 ^ 128)]
  | .msg hd ws more part1 =>
    if ws.length = 0 ∨ 32 < ws.length ∨ (more ∧ part1) then none
    else some (s.sends h (some q) (tileStop (hStation hd), 3) vcReq 0x08 0 hd.toNat
      (ws.length - 1 + b2n more * 32 + b2n part1 * 64) (msgFlits 8 ws))
  | .qread hd _ => some (s.sends h (some q) (tileStop (hStation hd), 3) vcReq 0x09 0 hd.toNat 0 [])
  | .doorbell m aux => if core then some (s.sends h (some q) (stwStop, 0) vcReq 0x0B 0 aux.toNat 0 [m]) else none
  | .cmoClean => s.asks h q vcReq 0x10 ln 0 0 []
  | .cmoInv => s.asks h q vcReq 0x11 ln 0 0 []
  | .cmoClinv => s.asks h q vcReq 0x12 ln 0 0 []
  | .preload => s.asks h q vcReq 0x13 ln 0 0 []

/-! ### At the home (R220, R231, R235) -/

/-- Whether a request at a slice needs memory, so that its home holds an inner request (R220, R231, R235, R259): data that no
cache holds is read there; dirty data that a read or a clean brings out, and every uncached write, is written there. -/
def State.asksMemory (s : State) (p : HeldPacket) : Bool :=
  let line := p.pkt.addr.toNat / 64
  decide (p.pkt.dport = 2) && !s.physDevice p.pkt.addr.toNat &&
    match p.req with
    | some (.wrLine _) | some (.wrPartial _ _) | some (.atomic _ _ _ _ _) => true
    | some (.rdShared _ _) | some .rdUnique | some .preload => s.uncached line
    | some (.rdNc _) => s.uncached line || (s.cs.dirtyOwner line).isSome
    | some .cmoClean | some .cmoClinv => s.cs.dirty line
    | _ => false

/-- A request at its home slice, which passes an RSP_ERR of memory on (R259). -/
def State.atHome (s : State) (p : HeldPacket) (f : Nat → Nat → State → Answer × State) : Answer × State :=
  let line := p.pkt.addr.toNat / 64
  match s.memErr line (s.asksMemory p) with
  | some e => (.err e, s)
  | none => f line p.pkt.key.toNat (s.wake (s.memStop (64 * line)).2)

/-- The state that a read for a core was granted: S, E, M; none for an uncached one. -/
def State.granted (s : State) (c line : Nat) : BitVec 2 :=
  match s.coh.priv.find (c, line) with
  | some p => (match p.st with | .s => 0 | .e => 1 | _ => 2)
  | none => 3

/-- A line's data answered to a core that now holds it. -/
def State.lineAnswer (s : State) (c line key : Nat) : Answer :=
  .data (s.granted c line) (s.linePoison line) (lineFlits (s.m.under line (s.keyAt c line key)))

/-- A read of a line into a core's hierarchy. -/
def State.readFor (s : State) (p : HeldPacket) (e : SliceErr) (f : State → Nat → Nat → Cs) : Answer × State :=
  s.atHome p fun line k s =>
    let s := (if s.hasLine p.init line then s else s.cutIn line).sliceErr e line k
    let s := s.withCs (f s line k)
    (s.lineAnswer p.init line k, s)

/-- A data flit with a value at its place in the line. -/
def placed (pa v : Nat) : List (BitVec 256) := lineFlits (BitVec.ofNat 512 (v * 2 ^ (8 * (pa % 64))))

/-! ### Outside Normal memory (R371, R464, R468) -/

/-- The root port whose link carries a request to an address as a non-posted request (R371, R468). -/
def State.outPort (s : State) (pa : Nat) (wr : Bool) : Option (Nat × Nat) :=
  match region pa with
  | .mmio p => if wr then none else (s.claimer p pa).map fun r => (p, r)
  | .cfg p => let bus := pa % 2 ^ 28 / 2 ^ 20
              if bus = 0 then none else (s.busPort p bus).map fun r => (p, r)
  | _ => none

/-- A request through the host aperture that awaits its completion: a write is posted (R385, R389). -/
def State.hostOut (s : State) (p : HeldPacket) (wr : Bool) : State :=
  match region p.pkt.addr.toNat with
  | .host q =>
    let o := p.pkt.addr.toNat % 2 ^ 40
    let w := s.reg (.epOut (ix 8 q) (ix 64 (o / 2 ^ 34)))
    let r : HostOut := ⟨p.key, getF w F.epOut.FUNC, getF w F.epOut.HADDR * 2 ^ 34 + o % 2 ^ 34, getF w F.epOut.NS == 1⟩
    if wr then s else s.onPort q fun i => { i with ep := { i.ep with out := i.ep.out ++ [r] } }
  | _ => s

/-- A request that awaits its completion at a root port's link, clasped ports apart (R371, R380), or at an endpoint port. -/
def State.outOpen (s : State) (p : HeldPacket) (wr : Bool) : State :=
  match s.outPort p.pkt.addr.toNat wr with
  | none => s.hostOut p wr
  | some (q, r) => if s.clasped q r then s else s.onRp q r fun k => { k with open_ := k.open_ ++ [p.key] }

/-- A completion of an outbound request has come. -/
def State.outDone (s : State) (k : Nat × Nat) : State :=
  { s with io := s.io.mapV fun _ i => { i with
      ep := { i.ep with out := i.ep.out.filter fun o => o.key != k }
      rps := i.rps.mapV fun _ r => { r with open_ := r.open_.filter fun o => o != k } } }

/-- The answer of a target outside Normal memory. -/
def devAnswer (p : HeldPacket) (wr : Bool) (r : DevEnd × State) : Answer × State :=
  match r with
  | (.ok (v, bad), s) => (if wr then .ack 0 else .data 3 (if bad then 3 else 0) (placed p.pkt.addr.toNat v), s.outOpen p wr)
  | (.error e, s) => (.err e, s)

/-- A read of bytes outside Normal memory. -/
def State.devRead (s : State) (p : HeldPacket) (n : BitVec 7) : Answer × State :=
  devAnswer p false (s.devAccess p.req_ 0x03 p.pkt.addr.toNat (if n = 0 then 64 else min 64 n.toNat) none)

/-- A write of the bytes of a mask outside Normal memory: the Chip Control Space takes 4 or 8 bytes that follow one another
(R469). -/
def State.devWrite (s : State) (p : HeldPacket) (cmd : Nat) (mask : BitVec 64) (d : Line) : Answer × State :=
  let pa := p.pkt.addr.toNat
  devAnswer p true (match region pa, maskRuns mask with
    | _, [] => (.ok (0, false), s)
    | .ccs, [(o, n)] => s.devAccess p.req_ cmd (pa + o) n (some (d.toNat >>> (8 * o) % 256 ^ n))
    | .ccs, _ => (.error 0x04, s)
    | _, _ => s.windowMask p.pkt.src cmd pa mask d)

/-! ### Queue and doorbell packets (R318, R329, R331) -/

/-- The source port of a packet for a queue: that of a Data Mover is its channel bound to the queue, or the first of its
group. -/
def State.srcPort (s : State) (i : Nat) (hd : Word) : Nat :=
  if i < 256 then i
  else if i < 264 then
    let ch := s.fld (rQcfg (hStation hd) (hIndex hd)) F.qcfg.DMCH
    portOfChan (if ch / 8 = i - 256 then ch else 8 * (i - 256))
  else portOfIo (i - 264)

/-- AUX of a DOORBELL packet (R317). -/
def bellAux (mask : BitVec 256) (world : Bool) (aux : BitVec 32) : Bell :=
  let a := aux.toNat
  ⟨mask, a / 2 ^ 6 % 512, a / 2 ^ 15 % 16, a / 2 ^ 19 % 4, if a.testBit 22 then none else some (a % 64), a.testBit 21, world⟩

/-- The answer to a QREAD: one data flit with the word, or with the result code in byte 8 (log entry 95). -/
def qreadAnswer : Except Nat DWord → Answer
  | .ok w => .data 3 0 [w.zeroExtend 256]
  | .error e => .data 3 0 [BitVec.ofNat 256 (e * 2 ^ 64)]

/-! ### A request performed by its target -/

/-- The request of a packet performed: the answer, and the state. -/
def State.perform (s : State) (p : HeldPacket) (q : Ask) : Answer × State :=
  let pa := p.pkt.addr.toNat
  let line := pa / 64
  let dp : BitVec 2 := p.pkt.dpoison.truncate 2
  let id : Ident := ⟨p.pkt.world, p.pkt.vmid.toNat, p.pkt.locket.toNat⟩
  match q with
  | .rdShared instr e => s.readFor p e fun s line k => s.rdShared s.cs p.init line k instr
  | .rdUnique => s.readFor p .none fun s line k => s.rdUnique s.cs p.init line k
  | .rdNc n =>
    if s.physDevice pa then s.devRead p n
    else s.atHome p fun line k s => let (l, bad, s1) := s.readHome line k; (.data 3 bad (lineFlits l), s1)
  | .wrLine d =>
    if s.physDevice pa then s.devWrite p 0x04 fullMask d
    else s.atHome p fun line k s => (.ack 0, s.writeHome line k fullMask d dp)
  | .victim dirty e =>
    let s := s.sliceErr e line p.pkt.key.toNat
    (.ack 0, s.withCs (s.victim s.cs p.init line dirty p.pkt.key.toNat))
  | .wrPartial d m =>
    if s.physDevice pa then s.devWrite p 0x05 m d
    else s.atHome p fun line k s => (.ack 0, s.writeHome line k m d dp false)
  | .atomic op _ sz v c =>
    let n := atomicSize op sz
    s.atHome p fun _ k s =>
      let (old, bad, s1) := s.atomicHome k pa n
        fun old => (atomicNew op.toNat n old (v.toNat % 256 ^ n) (c.toNat % 256 ^ n)).getD old
      (.data 3 (if bad.getLsbD (pa % 64 / 32) then 1 else 0) [BitVec.ofNat 256 old], s1)
  | .msg hd ws more part1 =>
    let (e, s1) := s.qPut (s.srcPort p.init hd) id hd ws more part1
    (.ack (BitVec.ofNat 32 e), s1)
  | .qread hd bad =>
    let (w, s1) := s.qGet (s.srcPort p.init hd) id hd bad
    (qreadAnswer w, s1)
  | .doorbell m aux =>
    -- the number of INTs sent, or the low byte of the negative status (log entry 95)
    let (w, s1) := s.bell (bellAux m p.pkt.world aux)
    (.ack (if w.msb then w.truncate 32 &&& 0xFF else w.truncate 32 <<< 8), s1)
  | .cmoClean => s.atHome p fun line k s => (.ack 0, s.cmoLine .clean line k)
  | .cmoInv => s.atHome p fun line k s => (.ack 0, s.cmoLine .inv line k)
  | .cmoClinv => s.atHome p fun line k s => (.ack 0, s.cmoLine .clinv line k)
  | .preload => s.atHome p fun line k s => let (n, s1) := s.preload line k; (.ack (BitVec.ofNat 32 n), s1)

/-- Commands that act on a line of Normal memory, and on nothing else. -/
def lineOnly (cmd : Nat) : Bool := [0x01, 0x02, 0x06, 0x07, 0x10, 0x11, 0x12, 0x13].contains cmd

/-- An agent receives a command that is unlisted or not meant for it: it performs nothing and records it (R251). -/
def State.badCmd (s : State) (p : Packet) : State :=
  s.logErr { bank := agentBank p.dst, cls := 0x13, sev := 2, src := p.dport.toNat, info := p.cmd.toNat }

/-- A request at its destination port: the router answers for a port without an agent (R21), the agent where the command is
not meant for it (R251); else it is performed, and answered. -/
def State.serveAt (s : State) (p : HeldPacket) (q : Ask) : State :=
  let st := p.pkt.dst; let port := p.pkt.dport.toNat; let cmd := p.pkt.cmd.toNat
  if s.noPort st port then (s.noAgent st port cmd (some (p.pkt.key.toNat, p.pkt.addr.toNat))).answer p st (.err 0x02)
  else if !cmdFits st port cmd ∨ (lineOnly cmd ∧ s.physDevice p.pkt.addr.toNat) then (s.badCmd p.pkt).answer p st (.err 0x07)
  else
    let s := if s.asksMemory p then
        s.onTxn p.key fun t => { t with inner := some (t.time / 2) }
      else s
    let (a, s1) := s.perform p q
    s1.answer p st a

/-! ### Snoops (R220, R222, R258, R263) -/

/-- A snooped L2 answers from its caches or from its write-back buffer: whether it holds the line dirty, whether it holds it
alone, and its key. -/
def State.snooped (s : State) (c line : Nat) : Option (Bool × Bool × Nat) :=
  match s.coh.priv.find (c, line) with
  | some p => some (p.st == .m || p.st == .o, p.st == .e, p.key)
  | none => (s.coh.wbuf.find (c, line)).map fun v => (v.1, !v.1, v.2)

/-- The packet of a snoop, from the line's home slice to a core; its tag is the home's own. -/
def State.snoopPacket (s : State) (c line key : Nat) (inv : Bool) : HeldPacket :=
  let st := tileStop (c / 2)
  { pkt := { dst := st, dport := BitVec.ofNat 2 (c % 2), src := tileStop (s.home line), sport := 2
             cmd := if inv then 0x21 else 0x20, tag := 0, gen := 0, world := false, vmid := 0, locket := 0
             key := BitVec.ofNat 12 key, mtype := 3, addr := BitVec.ofNat 52 (64 * line) }
    vc := vcSnp, dom := s.portDom st (c % 2), init := 272 + s.home line, snoop := some ⟨c, line, inv, none⟩ }

/-- A snoop is lost: the core is no longer recorded; where it was the owner, the L3 or memory copy goes on, poisoned. -/
def State.snoopLost (s : State) (c line : Nat) (x : OpenSnoop) : State :=
  match s.coh.dir.find line with
  | none => s
  | some d =>
    let dirty := s.cs.dirtyOwner line == some c || x.taken
    let y := ((s.cs.privErase c line).dirSet line (d.drop c)).unlend line
    let s := s.withCs { y with coh := { y.coh with wbuf := y.coh.wbuf.erase (c, line) } }
    let s := if dirty then s.dropDirty line else s
    let s := if x.owner then { s with m := s.m.poisonLine line } else s
    s.logErr { bank := s.home line, cls := 0x15, sev := 2, src := c, addr := some (d.key, 64 * line),
               hidden := s.hiddenAt false (64 * line) }

/-- The home's part of an answered snoop: a core invalidated is no longer recorded, and its dirty data goes into the slice;
an owner that shares is a sharer. -/
def State.snoopHome (s : State) (m : SnoopMsg) : State :=
  match m.found, s.coh.dir.find m.line with
  | some (dirty, alone, key), some d =>
    if !d.holders.contains m.core then s
    else if m.inv then
      let x := s.cs.dirSet m.line (d.drop m.core)
      s.withCs (if dirty then s.l3Victim x m.line true key else x.unlend m.line)
    else if alone && d.owner == some m.core then
      s.withCs (s.cs.dirSet m.line ({ d with owner := none }.addSharer m.core))
    else s
  | _, _ => s

/-- The answer to a snoop reaches the home: an RSP_ERR is taken as a snoop that expired is (log entry 120); one that comes
after the expiry is late. -/
def State.snoopEnds (s : State) (m : SnoopMsg) (a : Answer) : State :=
  let k := (m.core, m.line)
  match s.mesh.snoops.find k with
  | none => s.count .lateCnt F.lateCnt.COUNT
  | some x =>
    let s := s.onMesh fun q => { q with snoops := q.snoops.erase k }
    match a with
    | .err _ => s.snoopLost m.core m.line x
    | _ => s.snoopHome m

/-- The answer to a snoop sets out; an answer that a failed link does not let pass leaves the snoop open until it expires. -/
def State.snoopReply (s : State) (p : HeldPacket) (m : SnoopMsg) (src : Stop) (a : Answer) : State :=
  let r := { p.reply src a with snoop := some m }
  match s.way false s.mesh.held s.mesh.held r with
  | (_, .arrives) => (s.cross r.pkt vcRsp (r.legs.filterMap (·.1))).snoopEnds m a
  | (b, .waits dom) => s.come r b dom
  | (b, .fails _) => s.cross r.pkt vcRsp (r.crossed b)

/-- A snoop reaches its port. The core gives up its copy, or shares it, and answers with its data where it is the one that
supplies it; one that holds nothing answers RSP_ACK. A victim stays in the write-back buffer until the home's RSP_ACK for
it. A port without a core answers NO_AGENT. -/
def State.snoopAt (s : State) (p : HeldPacket) (m : SnoopMsg) : State :=
  let st := p.pkt.dst
  if s.noCore m.core then
    (s.noAgent st p.pkt.dport.toNat p.pkt.cmd.toNat (some (p.pkt.key.toNat, p.pkt.addr.toNat))).snoopReply p m st (.err 0x02)
  else
    let f := s.snooped m.core m.line
    let data := match f with | some (dirty, alone, _) => dirty || (alone && !m.inv) | none => false
    let a : Answer := if data then
        .data 3 (s.linePoison m.line) (lineFlits (s.m.under m.line (s.keyAt m.core m.line p.pkt.key.toNat)))
      else .ack 0
    let s1 := s.withCs (if m.inv then s.cs.snoopInv m.core m.line else s.cs.snoopShared m.core m.line)
    let s2 := if m.inv && data then
        s1.onMesh fun q => { q with snoops := match q.snoops.find (m.core, m.line) with
          | some x => q.snoops.set (m.core, m.line) { x with taken := true }
          | none => q.snoops }
      else s1
    s2.snoopReply p { m with found := f } st a

/-! ### Packets on their way (R254, R257, R265, R266) -/

/-- A request for a slice whose arrays are not initialised waits in its request queue (R221, R240). -/
def State.forArrays (s : State) (p : HeldPacket) : Bool :=
  p.req.isSome && decide (p.pkt.dport = 2) && !s.noPort p.pkt.dst 2 && !s.physDevice p.pkt.addr.toNat &&
    !s.sliceReady (tileOf p.pkt.dst)

def State.waiting (s : State) (t : Nat) : List HeldPacket := s.mesh.queue.getD t []

/-- A slice's request queue is full: its home takes no further request (R221); those on ESC have buffers of their own
(R244). -/
def State.queueFull (s : State) (p : HeldPacket) : Bool :=
  p.vc != vcEsc && s.forArrays p && decide (96 ≤ ((s.waiting (tileOf p.pkt.dst)).filter fun q => q.vc != vcEsc).length)

/-- A packet reaches its destination port. -/
def State.atTarget (s : State) (p : HeldPacket) : State :=
  match p.rsp, p.snoop with
  | some a, some m => s.snoopEnds m a
  | some a, none => s.landed p a
  | none, some m => s.snoopAt p m
  | none, none =>
    match p.int, p.req with
    | some x, _ =>
      logged (if s.noCore x.core.toNat then (s, some (intNoAgent x.core.toNat))
              else s.intArrive x.core.toNat x.world x.vec.toNat x.prio.toNat x.lvl.toNat)
    | none, none => s
    | none, some q =>
      if s.forArrays p then
        s.onMesh fun m => { m with queue := m.queue.set (tileOf p.pkt.dst) (m.queue.getD (tileOf p.pkt.dst) [] ++ [p]) }
      else s.serveAt p q

/-- A router answers a request or a snoop with an error, and discards an INT (R247, R266); a response that it cannot forward
is lost. -/
def State.turnedAway (s : State) (p : HeldPacket) (b : Option BufId) (e : Nat) (quiet : Bool) : State :=
  let st := match b with | some b => b.stop | none => p.pkt.src
  let s := if e = 0x03 ∧ !quiet then s.logErr { bank := meshBank st, cls := 0x16, sev := 2, src := p.dom } else s
  match p.int, p.rsp, p.snoop with
  | none, none, none => if p.note then s else s.answer p st (.err e)
  | none, none, some m => s.snoopReply p m st (.err e)
  | _, _, _ => s

/-- A packet that stands nowhere goes as far as it can. `quiet`: the wake limit that turns it away is being recorded. -/
def State.goes (s : State) (quiet : Bool) (front others : List HeldPacket) (p : HeldPacket) : State :=
  match s.way (s.queueFull p) front others p with
  | (_, .arrives) => (s.cross p.pkt p.vc (p.legs.filterMap (·.1))).atTarget p
  | (b, .waits dom) => s.come p b dom
  | (b, .fails e) => (s.cross p.pkt p.vc (p.crossed b)).turnedAway p b e quiet

/-- The packet at a place of the list of waiting packets moves on, if it can: its initiator's timer runs again as it leaves
the buffer (R266). -/
def State.moves (s : State) (quiet : Bool) (i : Nat) : Option State :=
  match s.mesh.held[i]? with
  | none => none
  | some p =>
    let others := s.mesh.held.eraseIdx i
    match s.way (s.queueFull p) (s.mesh.held.take i) others p with
    | (b, .waits dom) =>
      if b ≠ p.at_ then some ((((s.wins p).onMesh fun m => { m with held := others }).setPaused p false).come p b dom)
      else if dom.isSome ∧ !p.wake then
        some ((s.onMesh fun m => { m with held := m.held.set i { p with wake := true } }).wake (dom.getD 416))
      else none
    | _ => some ((((s.wins p).onMesh fun m => { m with held := others }).setPaused p false).goes quiet [] others p)

/-- Every waiting packet that can go on does, in the order in which the routers choose (R255). -/
def State.flowFrom (quiet : Bool) : Nat → List Nat → State → State
  | 0, _, s => s
  | _, [], s => s
  | f + 1, i :: l, s =>
    match s.moves quiet i with
    | some s1 => State.flowFrom quiet f s1.choice s1
    | none => State.flowFrom quiet f l s

/-- A packet passes at most 25 inputs, and its response as many; each move looks at all packets again. -/
def State.flow (s : State) (quiet : Bool := false) : State :=
  let n := s.mesh.held.length
  State.flowFrom quiet (52 * n * (n + 1)) s.choice s

/-- A request row: the packet is issued, timed from then on, and goes as far as it can; where a router holds it already the
row says what it carries. -/
def State.issue (s : State) (h : Hdr) (pa : BitVec 52) (a : Ask) : State :=
  match s.requestOf h pa a with
  | none => s
  | some p =>
    match s.openReq p with
    | none => s
    | some s =>
      let pa := p.pkt.addr.toNat
      let s := if p.init < 256 ∨ p.pkt.dport ≠ 2 ∨ s.physDevice pa then s else s.ownSeen p.pkt.src (pa / 4096)
      let given := fun (q : HeldPacket) =>
        if q.stands p then { q with pkt := { p.pkt with age := q.pkt.age }, req := some a } else q
      if s.mesh.held.any fun q => q.stands p then s.onMesh fun m => { m with held := m.held.map given }
      else s.goes false s.mesh.held s.mesh.held p

def execRdShared (h : Hdr) (pa : BitVec 52) (instr : Bool) (err : SliceErr) (s : State) : Host.Outcome State Fault Refusal :=
  .next (s.issue h pa (.rdShared instr err))
def execRdUnique (h : Hdr) (pa : BitVec 52) (s : State) : Host.Outcome State Fault Refusal := .next (s.issue h pa .rdUnique)
def execRdNc (h : Hdr) (pa : BitVec 52) (count : BitVec 7) (s : State) : Host.Outcome State Fault Refusal :=
  .next (s.issue h pa (.rdNc count))
def execWrLine (h : Hdr) (pa : BitVec 52) (data : BitVec 512) (victim : Bool) (s : State) : Host.Outcome State Fault Refusal :=
  .next (s.issue h pa (if victim then .victim true .none else .wrLine data))
def execWrPartial (h : Hdr) (pa : BitVec 52) (data : BitVec 512) (mask : BitVec 64) (s : State) :
    Host.Outcome State Fault Refusal := .next (s.issue h pa (.wrPartial data mask))
def execVictimClean (h : Hdr) (pa : BitVec 52) (err : SliceErr) (s : State) : Host.Outcome State Fault Refusal :=
  .next (s.issue h pa (.victim false err))
def execAtomic (h : Hdr) (pa : BitVec 52) (op : BitVec 4) (form : AtomicForm) (operand compare : BitVec 128) (s : State) :
    Host.Outcome State Fault Refusal := .next (s.issue h pa (.atomic op form.ord form.size8 operand compare))
def execMsg (h : Hdr) (handle : BitVec 32) (words : List (BitVec 56)) (more part1 : Bool) (s : State) :
    Host.Outcome State Fault Refusal := .next (s.issue h 0 (.msg handle words more part1))
def execQread (h : Hdr) (handle : BitVec 32) (bad : Bool) (s : State) : Host.Outcome State Fault Refusal :=
  .next (s.issue h 0 (.qread handle bad))
def execDoorbellPacket (h : Hdr) (mask : BitVec 256) (aux : BitVec 32) (s : State) : Host.Outcome State Fault Refusal :=
  .next (s.issue h 0 (.doorbell mask aux))
def execCmoClean (h : Hdr) (pa : BitVec 52) (s : State) : Host.Outcome State Fault Refusal := .next (s.issue h pa .cmoClean)
def execCmoInv (h : Hdr) (pa : BitVec 52) (s : State) : Host.Outcome State Fault Refusal := .next (s.issue h pa .cmoInv)
def execCmoClinv (h : Hdr) (pa : BitVec 52) (s : State) : Host.Outcome State Fault Refusal := .next (s.issue h pa .cmoClinv)
def execPreload (h : Hdr) (pa : BitVec 52) (s : State) : Host.Outcome State Fault Refusal := .next (s.issue h pa .preload)

/-- The requests that wait for a slice's arrays are served in their order of arrival once both are initialised, and packets
that waited for space in its queue go on (R221, R240). -/
def State.serveQueue (s : State) (t : Nat) : State :=
  if s.sliceReady t then
    let ps := s.waiting t
    let s := s.onMesh fun m => { m with queue := m.queue.erase t }
    ps.foldl (fun s p => match p.req with | some q => s.serveAt p q | none => s) s
  else s

def execArrayInitDone (a : ArrayId) (s : State) : Host.Outcome State Fault Refusal :=
  .next (match a with
    | .l3 n | .dir n => ((s.arrayReady a).serveQueue n.toNat).flow
    | _ => s.arrayReady a)

/-- An entry ends, or reverses; packets that wait for a domain that is usable at once go on (R401, R403). -/
def execPowerEntryCommit (dom : Fin 417) (s : State) : Host.Outcome State Fault Refusal := .next (s.entryEnd dom.val).flow

def execPowerWakeStart (dom : Fin 417) (src : WakeSrc) (s : State) : Host.Outcome State Fault Refusal :=
  .next (s.wakeStart dom.val src).flow

/-- A domain reaches ON: packets that wait for it go on (R266, R405). -/
def execPowerWakeComplete (dom : Fin 417) (restoreOk : Bool) (s : State) : Host.Outcome State Fault Refusal :=
  let s := s.wakeComplete dom.val restoreOk
  .next ((if 256 ≤ dom.val ∧ dom.val < 384 then s.serveQueue (dom.val - 256) else s).flow)

/-! ### The end of a slice's retirement (R225, R447) -/

/-- A request on its way to a slice, or in its queue. -/
def State.inFlight (s : State) (t : Nat) : Bool :=
  !(s.waiting t).isEmpty ||
    s.mesh.held.any fun p => p.isReq && p.at_.isSome && p.pkt.dport == 2 && p.pkt.dst == tileStop t && !s.physDevice p.pkt.addr.toNat

/-- A held request goes to the new home of its line. -/
def State.reaim (s : State) (t : Nat) (p : HeldPacket) : HeldPacket :=
  if p.isReq && p.at_.isNone && p.pkt.dport == 2 && p.pkt.dst == tileStop t then
    let st := tileStop (s.home (p.pkt.addr.toNat / 64))
    { p with pkt := { p.pkt with dst := st }, dom := s.portDom st 2 }
  else p

/-- Every copy of the table holds the new entries, once the transactions in progress at the slice have completed; the held
requests are released (R225, R447). -/
def execSliceRetireDone (s : State) : Host.Outcome State Fault Refusal :=
  .next (match s.coh.retiring with
    | none => s
    | some t =>
      if s.inFlight t then s
      else
        let s := (s.retireDone t).setFld .retireReg F.retireReg.STATUS 0
        let hs := s.mesh.held.map (s.reaim t)
        let s := (hs.zip s.mesh.held).foldl (fun s q =>
          if q.1.pkt.dst = q.2.pkt.dst then s else s.onTxn q.1.key fun x => { x with pkt := q.1.pkt }) s
        ((s.onMesh fun m => { m with held := hs })).flow)

/-! ### Snoops and their expiry (R258, R263) -/

/-- A snoop as its home issues it, timed from then on. -/
def State.snoopOpened (s : State) (c line : Nat) (d : DirEntry) : State :=
  let x : OpenSnoop := { time := s.fld .tmoSnp F.tmoSnp.TIME, paused := false, owner := d.owner == some c, taken := false }
  s.onMesh fun q => { q with snoops := q.snoops.set (c, line) x }

/-- A home snoops a core that its directory records, once at a time. -/
def State.snoop (s : State) (c line : Nat) (inv : Bool) : State :=
  match s.coh.dir.find line with
  | none => s
  | some d =>
    if !d.holders.contains c ∨ (s.mesh.snoops.find (c, line)).isSome then s
    else
      let s := s.snoopOpened c line d
      s.goes false s.mesh.held s.mesh.held (s.snoopPacket c line d.key inv)

def execSnpShared (core : BitVec 8) (pa : BitVec 52) (s : State) : Host.Outcome State Fault Refusal :=
  .next (s.snoop core.toNat (pa.toNat / 64) false)
def execSnpInv (core : BitVec 8) (pa : BitVec 52) (s : State) : Host.Outcome State Fault Refusal :=
  .next (s.snoop core.toNat (pa.toNat / 64) true)

/-- A snoop expires, unless its timer is paused; its packet goes, and an answer under way is late. -/
def State.snoopExpire (s : State) (c line : Nat) : State :=
  match s.mesh.snoops.find (c, line) with
  | none => s
  | some x =>
    if x.paused then s
    else
      let its := fun (p : HeldPacket) => (p.snoop.map fun m => (m.core, m.line)) == some (c, line)
      let s := if s.mesh.held.any fun p => its p && p.rsp.isSome then s.count .lateCnt F.lateCnt.COUNT else s
      let s := s.onMesh fun q => { q with snoops := q.snoops.erase (c, line), held := q.held.filter fun p => !its p }
      (s.snoopLost c line x).flow

def execSnoopTimeout (core : BitVec 8) (pa : BitVec 52) (s : State) : Host.Outcome State Fault Refusal :=
  .next (s.snoopExpire core.toNat (pa.toNat / 64))

/-! ### Interrupts (R303, R307, R312, R313) -/

/-- An INT sent from a stop to a core. -/
def execInt (path : IntPath) (world : Bool) (vec : BitVec 9) (prio : BitVec 4) (lvl : BitVec 2) (s : State) :
    Host.Outcome State Fault Refusal :=
  .next (s.sendInt path.src path.core.toNat world vec.toNat prio.toNat lvl.toNat)

/-- An MSI of a device behind a root-mode port (R307). -/
def State.msi (s : State) (p : Nat) (rid : BitVec 16) (data : Nat) : State :=
  let src : IntSrc := .io (BitVec.ofNat 3 p) (BitVec.ofNat 11 data)
  let lo := s.reg (srcRegs src).1
  if data < 2048 ∧ getF lo F.ioIntLo.V = 1 ∧ getF lo F.ioIntLo.RID = rid.toNat then s.raiseSrc src
  else s.logErr { bank := 144 + p, cls := 0x32, sev := 0, src := rid.toNat }

/-- An MSI arrives through the root port whose bus range holds its requester: a clasped port discards it (R373, R380). One of a
root port itself comes from bus 0. -/
def State.msiVia (s : State) (p : Nat) (rid : BitVec 16) (data : Nat) : State :=
  match (if rid.toNat < 256 then none else s.busPort p (rid.toNat / 256)) with
  | some r => if s.clasped p r then s.count (rClasp p r) F.clasp.DROPPED else s.msi p rid data
  | none => s.msi p rid data

def execMsi (p : BitVec 3) (rid : BitVec 16) (data : BitVec 32) (s : State) : Host.Outcome State Fault Refusal :=
  .next (if s.role p.toNat = .root then s.msiVia p.toNat rid data.toNat else s)

/-- The delivery of an entry with VIRT = 1 (R313). -/
def execVirtualInterruptDelivery (src : IntSrc) (vec : BitVec 9) (s : State) : Host.Outcome State Fault Refusal :=
  let lo := s.reg (srcRegs src).1
  .next (if getF lo F.stwIntLo.V = 1 ∧ getF lo F.stwIntLo.VIRT = 1 ∧ getF lo F.stwIntLo.VECTOR = vec.toNat then
      logged (s.virtDeliver src vec.toNat)
    else s)

/-- A core timer falls due: a waiting core goes on, a sleeping domain is woken (R306, R312). -/
def State.timerDue (s : State) (c : Nat) (t : Nat × Bool) : State :=
  let k := s.core c
  if k.sflag (Sys.tmrctlAt t.1) (bankOf t.1 t.2) G.tmrctl.EN && !s.noCore c then
    let s := s.reach (k.rs (Sys.tmrcmpAt t.1) (bankOf t.1 t.2))
    if s.awake (domCore c) then s.endWait c else s.wake (domCore c)
  else s

def execCoreTimerDue (core : BitVec 8) (timer : Fin 4) (s : State) : Host.Outcome State Fault Refusal :=
  .next (s.timerDue core.toNat (timers.getD timer.val (1, false)))

/-! ### Responses (R249, R260-R262) -/

/-- A late response: counted; one for a quarantined tag releases it with its generation advanced. -/
def State.lateRsp (s : State) (k : Nat × Nat) (g : BitVec 4) : State :=
  let s := s.count .lateCnt F.lateCnt.COUNT
  match s.mesh.txns.find k with
  | some t =>
    if t.quarantined ∧ t.pkt.gen = g then (s.outDone k).onMesh fun m => { m with txns := m.txns.erase k } else s
  | none => s

/-- A core's committed store that its merge buffer has sent, or a CMO by VA: nothing waits for the answer (R165, R180). -/
def Txn.posted (t : Txn) (i : Nat) : Bool :=
  decide (i < 256) && (decide (t.pkt.cmd = 0x04) && !t.esc || decide (t.pkt.cmd = 0x05) && decide (t.pkt.mtype ≠ 0) ||
    [0x10, 0x11, 0x12].contains t.pkt.cmd.toNat)

/-- The RSP_ERR that an initiator has received for a request (R262): a committed store or CMO of a core fails as R180 says; no
one waits for a core's victim; else it is kept until what waits for it acts on it. -/
def State.keepErr (s : State) (i : Nat) (t : Txn) (e : Nat) : State :=
  if t.posted i then
    s.storeFailed i { line := t.pkt.addr.toNat / 64, id := ⟨t.pkt.world, t.pkt.vmid.toNat, t.pkt.locket.toNat⟩
                      key := t.pkt.key.toNat, mtype := t.pkt.mtype.toNat, data := 0, mask := t.pkt.bmask, closed := true
                      lows := [], highs := [] } e
  else if i < 256 ∧ t.esc then s
  else s.onMesh fun m => { m with errs := m.errs ++ [(i, t.pkt.cmd.toNat, t.pkt.addr.toNat / 64, e)] }

/-- A response arrives: it completes the open transaction whose TAG and GEN it carries, with its statistics. `ok`: whether
it is the response that the transaction's target or a router has given. -/
def State.respond (s : State) (i : Fin 272) (tag : BitVec 12) (g : BitVec 4) (latency : Nat) (ok : Txn → Option Answer) : State :=
  let k := tagKey i tag
  match s.mesh.txns.find k with
  | some t =>
    if t.pkt.gen = g ∧ !t.quarantined then
      match ok t with
      | none => s
      | some a =>
        let r := t.pkt.response a.parts.1 a.parts.2.1 a.parts.2.2.1 a.parts.2.2.2
        let s := s.outDone k
        let s := s.onMesh fun m => { m with txns := m.txns.erase k }
        let s := match a with | .err e => s.keepErr i.val t e | _ => s
        if s.counted t.pkt.world t.pkt.locket.toNat then s.statDone i.val (t.pkt.data.length + r.data.length) latency else s
    else s.lateRsp k g
  | none => s.lateRsp k g

/-- RSP_DATA with the state granted and DPOISON of its flits. -/
def execRspData (i : Fin 272) (tag : BitVec 12) (gen : BitVec 4) (latency : BitVec 32) (granted dpoison : BitVec 2)
    (s : State) : Host.Outcome State Fault Refusal :=
  .next (s.respond i tag gen latency.toNat fun t =>
    match t.answer with
    | some (.data g dp fs) => if g = granted ∧ dp = dpoison then some (.data g dp fs) else none
    | _ => none)
def execRspAck (i : Fin 272) (tag : BitVec 12) (gen : BitVec 4) (latency : BitVec 32) (code : BitVec 8) (s : State) :
    Host.Outcome State Fault Refusal :=
  .next (s.respond i tag gen latency.toNat fun t =>
    match t.answer with
    | some (.ack aux) => if aux.truncate 8 = code then some (.ack aux) else none
    | _ => none)
/-- RSP_ERR; one with status TIMEOUT is the failure of the request that the home holds to memory, passed on in place of the
answer that memory would have given (R259). -/
def execRspErr (i : Fin 272) (tag : BitVec 12) (gen : BitVec 4) (latency : BitVec 32) (status : BitVec 8) (s : State) :
    Host.Outcome State Fault Refusal :=
  .next (s.respond i tag gen latency.toNat fun t =>
    if t.answer = some (.err status.toNat) ∨ (status = 0x01 ∧ t.inner.isSome ∧ t.answer.isSome) then some (.err status.toNat)
    else none)

/-- A timer of an open transaction stopped or running again (R267). -/
def State.pauseTxn (s : State) (i : Fin 272) (tag : BitVec 12) (g : BitVec 4) (p : Bool) : State :=
  s.onTxn (tagKey i tag) fun t => if t.pkt.gen = g ∧ !t.quarantined then { t with paused := p } else t

def execWakePause (i : Fin 272) (tag : BitVec 12) (gen : BitVec 4) (s : State) : Host.Outcome State Fault Refusal :=
  .next (s.pauseTxn i tag gen true)
def execWakeResume (i : Fin 272) (tag : BitVec 12) (gen : BitVec 4) (s : State) : Host.Outcome State Fault Refusal :=
  .next (s.pauseTxn i tag gen false)

/-! ### Timeouts (R261) -/

/-- A transaction expires: RSP_ERR TIMEOUT at the initiator, an event in its bank, the tag quarantined. A request that has
not reached its target is performed there or not: `performed`. -/
def State.expire (s : State) (i : Fin 272) (tag : BitVec 12) (performed : Bool) : State :=
  let k := tagKey i tag
  match s.mesh.txns.find k with
  | none => s
  | some t =>
    if t.quarantined ∨ t.paused then s
    else
      let s := s.setTxn k { t with quarantined := true }
      let s := if performed then s else s.onMesh fun m => { m with
        held := m.held.filter fun p => !(p.isReq && p.key == k)
        queue := m.queue.mapV fun _ l => l.filter fun p => !(p.key == k) }
      let s := if s.counted t.pkt.world t.pkt.locket.toNat then s.statTimeout i.val else s
      (s.keepErr i.val t 0x01).logErr { bank := initBank i.val, cls := 0x14, sev := 2, src := i.val
                                        addr := some (t.pkt.key.toNat, t.pkt.addr.toNat)
                                        info := t.pkt.cmd.toNat + (t.pkt.dst.x.toNat + 16 * t.pkt.dst.y.val) * 2 ^ 8
                                        hidden := s.hiddenAt t.pkt.world t.pkt.addr.toNat }

def execTransactionTimeout (i : Fin 272) (tag : BitVec 12) (performed : Bool) (s : State) :
    Host.Outcome State Fault Refusal :=
  .next ((s.expire i tag performed).flow)

/-- Fifteen further periods pass: the tag is free again, with its generation advanced. -/
def execTagQuarantineRelease (i : Fin 272) (tag : BitVec 12) (s : State) : Host.Outcome State Fault Refusal :=
  let k := tagKey i tag
  .next (match s.mesh.txns.find k with
    | some t => if t.quarantined then s.onMesh fun m => { m with txns := m.txns.erase k } else s
    | none => s)

/-! ### Packets that are not performed (R21, R251, R252) -/

/-- A packet with any command, addressed to a port. -/
def State.toPort (s : State) (stop : Stop) (port : BitVec 2) (h : Hdr) (cmd : BitVec 8) (pa : BitVec 52) : HeldPacket :=
  s.sends h none (stop, port.toNat) (hdrVc h) cmd.toNat pa.toNat 0 0 []

/-- It is recorded, and answered with a status, an INT apart, which is discarded. -/
def State.refuseAt (s : State) (p : HeldPacket) (e : Nat) (f : State → State) : State :=
  if p.pkt.cmd = 0x0A then f s
  else match s.openReq p with
    | none => s
    | some s1 => (f s1).answer p p.pkt.dst (.err e)

/-- An agent receives a command that is unlisted or not meant for it: BAD_CMD, or for an INT a discard; logged. -/
def execBadCmdReceived (stop : Stop) (port : BitVec 2) (h : Hdr) (cmd : BitVec 8) (s : State) :
    Host.Outcome State Fault Refusal :=
  let p := s.toPort stop port h cmd 0
  .next (if cmdFits stop port.toNat cmd.toNat ∨ s.noPort stop port.toNat then s
    else s.refuseAt p 0x07 fun s => s.badCmd p.pkt)

def execNoAgentAnswer (stop : Stop) (port : BitVec 2) (h : Hdr) (cmd : BitVec 8) (pa : BitVec 52) (s : State) :
    Host.Outcome State Fault Refusal :=
  .next (if s.noPort stop port.toNat then
      s.refuseAt (s.toPort stop port h cmd pa) 0x02 fun s =>
        s.noAgent stop port.toNat cmd.toNat (some (h.key.toNat, pa.toNat))
    else s)

/-! ### Links (R246, R247) -/

/-- A link acknowledgement set ahead of all traffic on a link, or taken off it. -/
def State.setIdle (s : State) (l : LinkId) (f : Option (BitVec 288)) : State :=
  s.onMesh fun m => { m with links := m.links.set l { m.links.getD l Link.fresh with idle := f } }

/-- What a sender resends in a replay, from the flit named. -/
def State.setAgain (s : State) (l : LinkId) (fs : List (BitVec 288)) : State :=
  s.onMesh fun m => { m with links := m.links.set l { m.links.getD l Link.fresh with again := fs } }

/-- A receiver finds a CRC mismatch: it discards what follows until the replay arrives, and names the LSEQ it expects in an
idle flit of the reverse direction; the sender resends from that flit. -/
def execFlitCrcMismatch (l : LinkId) (lseq : BitVec 8) (s : State) : Host.Outcome State Fault Refusal :=
  let k := s.mesh.links.getD l Link.fresh
  .next (if s.mesh.failed.contains l ∨ (s.mesh.retry.find l).isSome ∨ !k.expects lseq then s
    else ((s.onMesh fun m => { m with retry := m.retry.set l (lseq, 0) }).setAgain l (k.resend lseq)).setIdle (linkBack l)
      (some (idleFlit (s.mesh.links.getD (linkBack l) Link.fresh).next lseq true)))

/-- A replay from the flit named: corrected when it succeeds; the eighth failure in a row fails the link, in both
directions. -/
def State.replay (s : State) (l : LinkId) (lseq : BitVec 8) (failed : Bool) : State :=
  let ev : Nat → Nat → Event := fun cls sev =>
    { bank := meshBank l.stop, cls := cls, sev := sev, src := l.stop.x.toNat + 16 * l.stop.y.val + 256 * l.side.toNat + 1024 * b2n l.rsp }
  match s.mesh.retry.find l with
  | none => s
  | some (e, n) =>
    if e ≠ lseq then s
    else if !failed then
      (((s.onMesh fun m => { m with retry := m.retry.erase l }).setAgain l []).setIdle (linkBack l) none).logErr (ev 0x10 0)
    else if n + 1 < 8 then s.onMesh fun m => { m with retry := m.retry.set l (e, n + 1) }
    else (((s.onMesh fun m => { m with
        retry := (m.retry.erase l).erase (linkBack l)
        failed := m.failed ++ [l] ++ (if m.failed.contains (linkBack l) then [] else [(linkBack l)]) }).setAgain l []).setIdle
          (linkBack l) none).logErr (ev 0x11 3)

def execLinkRetry (l : LinkId) (lseq : BitVec 8) (failed : Bool) (s : State) : Host.Outcome State Fault Refusal :=
  .next ((s.replay l lseq failed).flow)

/-! ### Arbitration age (R254, R255) -/

/-- The packet at the head of an input buffer has waited STEP mesh cycles: its AGE rises by one, up to 15. -/
def older (b : BufId) : List HeldPacket → List HeldPacket
  | [] => []
  | p :: l =>
    if p.at_ = some b then { p with pkt := { p.pkt with age := if p.pkt.age = 15 then 15 else p.pkt.age + 1 } } :: l
    else p :: older b l

def execAgeStep (stop : Stop) (q : InputVc) (s : State) : Host.Outcome State Fault Refusal :=
  .next (s.onMesh fun m => { m with held := older ⟨stop, q.side, q.vc⟩ m.held })

/-! ### Holds (R265, R266) -/

/-- The buffer in which a packet waits for a domain: that of its last router for the domain of its port, that of the router
before it for a mesh domain; none where it does not come to that domain. -/
def HeldPacket.holdAt (p : HeldPacket) (dom : Nat) : Option BufId :=
  if p.dom = dom then (inputs p).getLast?.map (·.2)
  else if (inputs p).any fun q => routerDom q.2.stop == some dom then
    ((inputs p).takeWhile fun q => routerDom q.2.stop != some dom).getLast?.map (·.2)
  else none

/-- The packet that a header announces, with its command and address; one for a queue goes to the station of the domain
that it waits for. -/
def State.announced (s : State) (dom : Nat) (h : Hdr) (cmd : BitVec 8) (pa : BitVec 52) : HeldPacket :=
  let dst := if cmd = 0x08 ∨ cmd = 0x09 then (tileStop (dom - 256), 3) else if cmd = 0x0B then (stwStop, 0) else s.goesTo pa.toNat
  s.sends h none dst (if cmd = 0x06 then vcEsc else hdrVc h) cmd.toNat pa.toNat 0 0 []

/-- A router holds a packet for a domain that is not ON, or is on its way down, and raises a wake; an INT receives no
pause. -/
def State.holdPacket (s : State) (dom : Nat) (h : Hdr) (cmd : BitVec 8) (pa : BitVec 52) (int : Option HeldInt) : State :=
  if s.awake dom ∨ s.mesh.wakeFail.contains dom then s
  else match int with
    | some x =>
      let p := intPacket (hdrSrc h) x.core.toNat x.world x.vec.toNat x.prio.toNat x.lvl.toNat
      (match p.holdAt dom with
       | some b => if s.noCore x.core.toNat then s else s.come p (some b) (some dom)
       | none => s)
    | none =>
      let p := s.announced dom h cmd pa
      match p.holdAt dom, s.openReq p with
      | some b, some s1 => s1.come p (some b) (some dom)
      | _, _ => s

def execRouterWakeHold (dom : Fin 417) (h : Hdr) (what : Announced) (s : State) : Host.Outcome State Fault Refusal :=
  .next (s.holdPacket dom.val h what.cmd what.pa what.int)

/-- The stop of a domain, for the die that records its wake failures. -/
def domStop (n : Nat) : Stop :=
  if n < 256 then tileStop (n / 2) else if n < 384 then tileStop (n - 256) else if n < 400 then mcStop (n - 384)
  else if n < 408 then ioStop (n - 400) else if n < 410 then dmStop (n - 408) else if n < 414 then edgeStop (4 * (n - 410)) 1
  else if n = 414 then secStop else if n = 415 then rtuStop else stwStop

/-- The wake limit of a domain passes: held packets are answered WAKE_FAIL and INTs discarded, until it reaches ON. -/
def State.wakeLimit (s : State) (dom : Nat) : State :=
  if s.isOn dom ∨ s.mesh.wakeFail.contains dom ∨ !(s.pwr.wakeReq.contains dom || s.pwr.waking.contains dom) then s
  else
    ((s.onMesh fun m => { m with wakeFail := m.wakeFail ++ [dom] }).logErr
        { bank := meshBank (domStop dom), cls := 0x16, sev := 2, src := dom }).flow true

def execWakeLimitExpiry (dom : Fin 417) (s : State) : Host.Outcome State Fault Refusal := .next (s.wakeLimit dom.val)

end Sys2Proof.Machine
end

