-- ==== Sys2Proof/Machine/Dma.lean ====
section
/-! DEFINITION. Translation by agents other than cores (R340, R374, R375), and the Data Movers (R338-R345). -/

namespace Sys2Proof.Machine

/-! ### Table walks of an agent -/

/-- An entry added to a set-associative array: in place of one of its set's where that has no free way. -/
def addWay {α : Type} [BEq α] (ways stamp : Nat) (rival : α → Bool) (l : List α) (e : α) : List α :=
  let held := l.filter rival
  if held.length < ways then l ++ [e]
  else match held[Config.victimEntry stamp ways % ways]? with
    | some v => l.erase v ++ [e]
    | none => l ++ [e]

/-- Why a translation fails, with the reason codes of R375. -/
inductive DmaErr where
  | trans | perm | mark | owner | key | walk | blocked | device
deriving DecidableEq, Repr

def DmaErr.code : DmaErr → Nat
  | .trans => 0 | .perm => 1 | .mark => 2 | .owner => 3 | .key => 4 | .walk => 5 | .blocked => 6 | .device => 7

/-- An agent's work: a failure or a result, and the state. -/
abbrev Dma (α : Type) := State → Except DmaErr α × State

def Dma.bind {α β : Type} (x : Dma α) (f : α → Dma β) : Dma β := fun s =>
  match x s with
  | (.error e, s1) => (.error e, s1)
  | (.ok a, s1) => f a s1
def Dma.ret {α : Type} (a : α) : Dma α := fun s => (.ok a, s)
def Dma.fail {α : Type} (e : DmaErr) : Dma α := fun s => (.error e, s)
def Dma.with {α : Type} (f : State → Dma α) : Dma α := fun s => f s s
def Dma.change (f : State → State) : Dma Unit := fun s => (.ok (), f s)

/-- How an agent translates: who it is, the tag of its cached translations, the port of its walk cache, the roots of its
stages, HAD, the types of S1MATTR and S2MATTR, and the key of an untranslated access. -/
structure DmaCtx where
  src : Stop
  id : Ident
  tag : Nat
  port : Option Nat
  root1 : Option DWord
  root2 : Option DWord
  had : Bool
  s1m : Nat
  s2m : Nat
  key : Nat
deriving DecidableEq, Repr

/-- Type i of S1MATTR or S2MATTR: eight 2-bit types. -/
def ctxType (m i : Nat) : Nat := m >>> (2 * i) % 4

def rootTable (w : DWord) : Nat := getF w G.troot0.TABLE * 4096
def rootKey (w : DWord) : Nat := getF w G.troot0.KEYID

/-- The error bank of a channel's Data Mover. -/
def dmBank (ch : Nat) : Nat := 157 + ch / 32

/-- A refusal of a channel's access by the Data Mover's ownership check or key rule, recorded (R280). -/
def State.dmRefused (s : State) (ch : Nat) (world : Bool) (pa key : Nat) : State :=
  s.logErr { bank := dmBank ch, cls := 0x33, sev := 2, src := ch, addr := some (key, pa), hidden := s.hiddenAt world pa }

/-- An access of a translation refused: a Data Mover, which has no port, records it here, a port where its request ends
(R280, R374). -/
def dmaRefused (x : DmaCtx) (e : DmaErr) (pa key : Nat) : Dma Nat := fun s =>
  (.error e, if x.port.isNone then s.dmRefused x.tag x.id.world pa key else s)

/-- The ownership check and key rule of an agent on an address, which fill its cache. -/
def dmaOwn (x : DmaCtx) (pa key : Nat) : Dma Nat := .with fun s =>
  if !s.mayReach x.id (pa / 4096) then dmaRefused x .owner pa key
  else match s.settleKey x.id.world (pa / 4096) key with
    | none => dmaRefused x .key pa key
    | some k =>
      -- the SEC's answer cannot come: the access ends as a walk error does
      if (s.ownPath x.src (pa / 4096)).isSome then .fail .walk
      else (Dma.change fun s => s.ownSeen x.src (pa / 4096)).bind fun _ => .ret k

/-- An 8-byte read of a table entry. -/
def tblRead (x : DmaCtx) (pa key : Nat) : Dma DWord := .with fun s =>
  if s.physDevice pa then .fail .walk
  else (dmaOwn x pa key).bind fun k => fun s =>
    match s.agentNat true x.src x.id k pa 8 with
    | .ok (n, false, s1) => (.ok (dw n), s1)
    | .ok (_, true, s1) => (.error .walk, s1)
    | .error e => (.error .walk, s.noAgentIf e 0x03 k pa)

/-- A table entry that an access must mark: the entry, its address and key, and whether D is set with A (R196). -/
structure DmaMark where
  e : DWord
  pa : Nat
  key : Nat
  d : Bool
deriving DecidableEq, Repr

/-- One more mark; an entry is marked once. -/
def joinMark (ms : List DmaMark) (m : DmaMark) : List DmaMark :=
  if ms.any fun n => n.pa == m.pa then ms.map fun n => if n.pa = m.pa then { n with d := n.d || m.d } else n else ms ++ [m]

/-- A walk from a table of a level; `conv` gives the physical address and key of a table entry, with the marks it needs;
`note` keeps a table entry in a walk cache. -/
def dmaWalk (x : DmaCtx) (conv : Nat → List DmaMark → Dma ((Nat × Nat) × List DmaMark)) (note : Nat → Nat → State → State)
    (addr : Nat) : Nat → Nat → Nat → List DmaMark → Dma (Leaf × List DmaMark)
  | 0, _, _, _ => .fail .trans
  | f + 1, lvl, t, ms =>
    let ea := t + 8 * idx9 addr lvl
    (conv ea ms).bind fun ((pa, key), ms) => (tblRead x pa key).bind fun e =>
    let n := e.toNat
    if !n.testBit 0 then .fail .trans
    else if lvl = 3 ∨ (1 ≤ lvl ∧ !n.testBit 1) then
      if blockOk e lvl then .ret (leafAt e lvl addr ea key, ms) else .fail .trans
    else if !n.testBit 1 then .fail .trans
    else
      let next := (n >>> 12) % 2 ^ 40 * 4096
      (Dma.change (note lvl next)).bind fun _ => dmaWalk x conv note addr f (lvl + 1) next ms

def IoWalk.hit (e : IoWalk) (x : DmaCtx) (stage2 : Bool) (lvl addr : Nat) : Bool :=
  e.tag == x.tag && e.stage2 == stage2 && e.lvl == lvl && e.prefix_ == pfx addr lvl

/-- Where a walk starts: the deepest cached table entry of the port's walk cache, or the root. -/
def State.dmaStart (s : State) (x : DmaCtx) (stage2 : Bool) (addr : Nat) (root : DWord) : Nat × Nat :=
  let l := match x.port with
    | some p => (s.port p).iowalk
    | none => []
  ([2, 1, 0].findSome? fun lvl => (l.find? fun e => e.hit x stage2 lvl addr).map fun e => (lvl + 1, e.next)).getD
    (0, rootTable root)

def State.dmaNote (s : State) (x : DmaCtx) (stage2 : Bool) (addr lvl next : Nat) : State :=
  match x.port with
  | none => s
  | some p => s.onPort p fun i => { i with iowalk := addBounded 32 s.coh.stamp i.iowalk ⟨x.tag, stage2, lvl, pfx addr lvl, next⟩ }

/-- Whether an access needs a mark of a leaf, A or for a write D; without HAD a missing one is a fault. -/
def dmaNeeds (x : DmaCtx) (l : Leaf) (wr : Bool) : Dma Bool :=
  let need := !l.a || (wr && !l.d)
  if need && !x.had then .fail .mark else .ret need

/-- A table entry compared and written with its marks (R196). -/
def dmaMark (x : DmaCtx) (m : DmaMark) : Dma Unit :=
  (dmaOwn x m.pa m.key).bind fun k => fun s =>
    let new := m.e ||| (if m.d then 0x600#64 else 0x200#64)
    match s.agentAtomic true x.src x.id k m.pa 8 (fun old => if dw old = m.e then new.toNat else old) with
    | .ok (old, p, s1) => if p then (.error .walk, s1) else if dw old = m.e then (.ok (), s1) else (.error .trans, s1)
    | .error e => (.error .walk, s.noAgentIf e 0x07 k m.pa)

/-- The marks of an access, set as it is performed (R374). -/
def dmaSetAll (x : DmaCtx) : List DmaMark → Dma Unit
  | [] => .ret ()
  | m :: ms => (dmaMark x m).bind fun _ => dmaSetAll x ms

/-- Stage 2 of an IPA by a walk, with its permission and the marks it needs. -/
def dmaStage2 (x : DmaCtx) (root : DWord) (rd wr : Bool) (ipa : Nat) (ms : List DmaMark) : Dma (Leaf × List DmaMark) := .with fun s =>
  if 2 ^ 48 ≤ ipa then .fail .trans
  else
    let st := s.dmaStart x true ipa root
    (dmaWalk x (fun ea ms => .ret ((ea, rootKey root), ms)) (fun lvl next s => s.dmaNote x true ipa lvl next) ipa 4 st.1 st.2 ms).bind
      fun (l, ms) =>
    if (rd && !l.u) || (wr && !l.w) then .fail .perm
    else (dmaNeeds x l wr).bind fun need => .ret (l, if need then joinMark ms ⟨l.e, l.ea, rootKey root, wr⟩ else ms)

/-- Stage 1 of a device address, checked as an L0 access (R374); its table pages go through stage 2 where both apply. -/
def dmaStage1 (x : DmaCtx) (root : DWord) (rd wr : Bool) (va : Nat) : Dma (Leaf × List DmaMark) := .with fun s =>
  if 2 ^ 48 ≤ va then .fail .trans
  else
    let conv : Bool → Nat → List DmaMark → Dma ((Nat × Nat) × List DmaMark) := fun w ea ms =>
      match x.root2 with
      | none => .ret ((ea, rootKey root), ms)
      | some r2 => (dmaStage2 x r2 true w ea ms).bind fun (l, ms) => .ret ((l.out, l.key), ms)
    let st := s.dmaStart x false va root
    (dmaWalk x (conv false) (fun lvl next s => s.dmaNote x false va lvl next) va 4 st.1 st.2 []).bind fun (l, ms) =>
    if !l.u || (wr && !l.w) then .fail .perm
    else (dmaNeeds x l wr).bind fun need =>
      if need then (conv true l.ea ms).bind fun ((pa, key), ms) => .ret (l, joinMark ms ⟨l.e, pa, key, wr⟩) else .ret (l, ms)

/-- A translated access: physical address, key, type; the entry that may be cached for it, and the marks it needs. -/
structure DmaTr where
  pa : Nat
  key : Nat
  mtype : Nat
  entry : Option LeafEntry
  marks : List DmaMark
deriving DecidableEq, Repr

def LeafEntry.hit (e : LeafEntry) (tag addr : Nat) (wr : Bool) : Bool :=
  e.tag == tag && e.page == addr >>> e.bits && (if wr then e.w else e.r)

/-- The cached entry that serves an access. -/
def dmaCached (l : List LeafEntry) (tag addr : Nat) (wr : Bool) : Option DmaTr :=
  (l.find? fun e => e.hit tag addr wr).map fun e => ⟨e.out + addr % 2 ^ e.bits, e.key, e.mtype, none, []⟩

/-- Translation by walks (R374): an access that goes through no stage keeps its address. -/
def dmaTranslate (x : DmaCtx) (rd wr : Bool) (addr : Nat) : Dma DmaTr :=
  let mk : Nat → Nat → Nat → Nat → Bool → List DmaMark → DmaTr := fun pa key mt bits r ms =>
    ⟨pa, key, mt, some ⟨x.tag, addr >>> bits, bits, pa / 2 ^ bits * 2 ^ bits, key, r, wr, mt⟩, ms⟩
  match x.root1, x.root2 with
  | none, none => .ret ⟨addr, x.key, 3, none, []⟩
  | none, some r2 =>
    (dmaStage2 x r2 rd wr addr []).bind fun (l, ms) => .ret (mk l.out l.key (ctxType x.s2m l.attr) l.bits l.u ms)
  | some r1, none =>
    (dmaStage1 x r1 rd wr addr).bind fun (l, ms) => .ret (mk l.out l.key (ctxType x.s1m l.attr) l.bits l.u ms)
  | some r1, some r2 =>
    (dmaStage1 x r1 rd wr addr).bind fun (l, ms) => (dmaStage2 x r2 rd wr l.out ms).bind fun (m, ms) =>
      .ret (mk m.out m.key (min (ctxType x.s1m l.attr) (ctxType x.s2m m.attr)) (min l.bits m.bits) (l.u && m.u) ms)

/-! ### Data Mover channels -/

def rCtl (ch : Nat) : Reg := .dmCtl (ix 2 (ch / 32)) (ix 32 ch)
def State.setChan (s : State) (ch : Nat) (k : Chan) : State := { s with dm := { s.dm with chans := s.dm.chans.set ch k } }

/-- How a channel translates (R338, R340, R343). -/
def State.chanCtx (s : State) (ch : Nat) : Option DmaCtx :=
  let w := s.reg (.dmXlat (ix 2 (ch / 32)) (ix 32 ch))
  if getF w F.dmXlat.EN = 1 then
    some { src := dmStop (ch / 32), id := s.chanOwner ch, tag := ch, port := none, root1 := none, root2 := some w, had := true,
           s1m := 0, s2m := 0xFFFF, key := 0 }
  else none

/-- Statuses of R344. -/
def DmaErr.status : DmaErr → Nat
  | .owner | .key => 3
  | _ => 2

/-- A channel's access: physical address and key, or a status of R344. `key` overrides the leaf's key (R343). -/
def State.chanAddr (s : State) (ch addr key : Nat) (own : Bool) (wr : Bool) : Except Nat (Nat × Nat) × State :=
  match s.chanCtx ch with
  | none => (.ok (addr, key), s)
  | some x =>
    let d := ch / 32
    let use := fun (t : DmaTr) => (t.pa, if own then key else t.key)
    match dmaCached (s.dm.tlb.getD d []) ch addr wr with
    | some t => (.ok (use t), s)
    | none => match dmaTranslate x (!wr) wr addr s with
      | (.error e, s1) => (.error e.status, s1)
      | (.ok t, s1) =>
        -- an access that the ownership check or the key rule is going to refuse sets no mark
        if (s1.agentKey false x.id (t.pa / 64) (use t).2).isNone then (.ok (use t), s1)
        else match dmaSetAll x t.marks s1 with
          | (.error e, s2) => (.error e.status, s2)
          | (.ok _, s2) => (.ok (use t), match t.entry with
            | some e => { s2 with dm := { s2.dm with tlb := s2.dm.tlb.set d (addBounded 512 s2.coh.stamp (s2.dm.tlb.getD d []) e) } }
            | none => s2)

/-- A channel's own access refused by the ownership check or key rule (R280). -/
def State.chanDenied (s : State) (ch pa key : Nat) : State := s.dmRefused ch (s.chanOwner ch).world pa key

/-- Poison that a channel has read, recorded in its Data Mover's bank (R435). -/
def State.chanPoison (s : State) (ch pa key : Nat) (p : Bool) : State :=
  if p then s.logErr { bank := dmBank ch, cls := 0x09, sev := 2, src := ch, addr := some (key, pa), hidden := s.hiddenAt (s.chanOwner ch).world pa }
  else s

/-- A channel's request, outside the table of a translation. -/
def State.chanReq (s : State) (ch : Nat) : Req :=
  let o := s.chanOwner ch
  ⟨.dm (ix 2 (ch / 32)), o.world, BitVec.ofNat 16 o.vmid, BitVec.ofNat 12 o.locket⟩

/-- The initiator number of a channel's group (R268). -/
def chanInit (ch : Nat) : Nat := 256 + ch / 8

/-- A channel's access has ended: its transaction counted (R268, R346), and a refusal or an answer NO_AGENT recorded; the
status of R344. -/
def State.chanEnds (s : State) (ch cmd key pa : Nat) : Fail → Nat × State
  | .denied => (3, s.chanDenied ch pa key)
  | .err e => (4, (s.statErr (chanInit ch) (s.chanOwner ch) 2 e).noAgentIf (.err e) cmd key pa)
def State.chanMade (s : State) (ch : Nat) : State := s.statOf (chanInit ch) (s.chanOwner ch) 2

/-- A channel's access outside Normal memory. -/
def State.chanDev (s : State) (ch cmd key pa n : Nat) (wr : Option Nat) : Except Nat (Nat × Bool) × State :=
  if (s.agentKey false (s.chanOwner ch) (pa / 64) key).isNone then (.error 3, s.chanDenied ch pa key)
  else match s.devAccess (s.chanReq ch) cmd pa n wr with
    | (.ok r, s1) => (.ok r, s1.chanMade ch)
    | (.error e, s1) => (.error (if e = 5 then 3 else 4), s1.statErr (chanInit ch) (s1.chanOwner ch) 2 e)

/-- Bytes read by a channel within one line: number and poison, or a status. -/
def State.chanRead (s : State) (ch addr n key : Nat) : Except Nat (Nat × Bool) × State :=
  match s.chanAddr ch addr key false false with
  | (.error e, s1) => (.error e, s1)
  | (.ok (pa, k), s1) =>
    if (s1.initErr (chanInit ch) pa n).isSome then (.error 4, s1.clearInit (chanInit ch) pa n)
    else if s1.physDevice pa then
      match s1.chanDev ch 0x03 k pa n none with
      | (.ok r, s2) => (.ok r, s2.chanPoison ch pa k r.2)
      | (.error e, s2) => (.error e, s2)
    else match s1.agentNat false (dmStop (ch / 32)) (s1.chanOwner ch) k pa n with
      | .ok (v, p, s2) => (.ok (v, p), (s2.chanMade ch).chanPoison ch pa k p)
      | .error e => let (st, s2) := s1.chanEnds ch 0x03 k pa e
                    (.error st, s2)

/-- Bytes written by a channel within one line: a status where it fails. -/
def State.chanWrite (s : State) (ch addr n key : Nat) (own : Bool) (v : Nat) (poison : Bool) : Option Nat × State :=
  match s.chanAddr ch addr key own true with
  | (.error e, s1) => (some e, s1)
  | (.ok (pa, k), s1) =>
    if (s1.initErr (chanInit ch) pa n).isSome then (some 4, s1.clearInit (chanInit ch) pa n)
    else if s1.physDevice pa then
      match s1.chanDev ch 0x05 k pa n (some v) with
      | (.ok _, s2) => (none, s2)
      | (.error e, s2) => (some e, s2)
    else match s1.agentWrite false (dmStop (ch / 32)) (s1.chanOwner ch) k poison 2 pa (leBytes n v) with
      | .ok s2 => (none, s2.chanMade ch)
      | .error e => let (st, s2) := s1.chanEnds ch 0x05 k pa e
                    (some st, s2)

/-! ### Descriptors (R341-R343) -/

inductive DmOp where
  | copy | fill | zero | crc | rekey
deriving DecidableEq, Repr

def DmOp.code : DmOp → Nat
  | .copy => 1 | .fill => 2 | .zero => 3 | .crc => 4 | .rekey => 5

def DmOp.reads : DmOp → Bool
  | .copy | .crc | .rekey => true
  | _ => false
def DmOp.writes : DmOp → Bool
  | .crc => false
  | _ => true

def dWord (ws : List DWord) (i : Nat) : Nat := (ws.getD i 0).toNat % 2 ^ 56
def dOp (ws : List DWord) : Nat := dWord ws 0 % 2 ^ 8
def dFence (ws : List DWord) : Bool := (dWord ws 0).testBit 8
def dQuiet (ws : List DWord) : Bool := (dWord ws 0).testBit 9
def dTag (ws : List DWord) : Nat := dWord ws 0 / 2 ^ 16 % 2 ^ 32

/-- Whether a descriptor of an operation is well formed: eight words, its OP, fields in range, unused ones zero, a length, no
overlap. -/
def dOk (o : DmOp) (ws : List DWord) : Bool :=
  let src := dWord ws 1; let dst := dWord ws 2; let n := dWord ws 3
  ws.length == 8 && dOp ws == o.code && dWord ws 0 / 2 ^ 10 % 2 ^ 6 == 0 && decide (dWord ws 0 < 2 ^ 48) && decide (src < 2 ^ 52) && decide (dst < 2 ^ 52) &&
    decide (0 < n) && decide (n < 2 ^ 40) && decide (dWord ws 4 < 2 ^ 24) && decide (dWord ws 5 < 2 ^ 32) &&
    decide (dWord ws 6 < 2 ^ 32) && dWord ws 7 == 0 && (o.reads || (src == 0 && dWord ws 4 % 2 ^ 12 == 0)) &&
    (o.writes || (dst == 0 && dWord ws 4 / 2 ^ 12 == 0)) && (o == .fill || o == .crc || dWord ws 6 == 0) && decide (src + n ≤ 2 ^ 52) && decide (dst + n ≤ 2 ^ 52) &&
    !(o.reads && o.writes && overlaps src (src + n) dst (dst + n))

/-- Byte i of what FILL writes. -/
def fillByte (pattern i : Nat) : Nat := pattern / 256 ^ (i % 4) % 256
def fillBytes (pattern i : Nat) : Nat → Nat
  | 0 => 0
  | n + 1 => fillByte pattern i + 256 * fillBytes pattern (i + 1) n

/-- What a descriptor has done: its status so far (OK or POISON), bytes, CRC. -/
structure DmRun where
  status : Nat
  done : Nat
  crc : BitVec 32

/-- A descriptor performed from byte i on, in ascending address order, at most one line of either side at a time. -/
def dmRun (o : DmOp) (ws : List DWord) (ch : Nat) : Nat → DmRun → State → DmRun × State
  | 0, r, s => (r, s)
  | f + 1, r, s =>
    let n := dWord ws 3; let i := r.done
    if n ≤ i then (r, s)
    else
      let src := dWord ws 1 + i; let dst := dWord ws 2 + i
      let k := min (n - i) (min (if o.reads then 64 - src % 64 else 64) (if o.writes then 64 - dst % 64 else 64))
      let sk := dWord ws 4 % 2 ^ 12; let dk := dWord ws 4 / 2 ^ 12
      let got : Except Nat (Nat × Bool) × State :=
        if o.reads then s.chanRead ch src k sk
        else (.ok (if o = .fill then fillBytes (dWord ws 6) i k else 0, false), s)
      match got with
      | (.error e, s1) => ({ r with status := e }, s1)
      | (.ok (v, p), s1) =>
        let wrote := if o.writes then s1.chanWrite ch dst k dk (o == .rekey) v p else (none, s1)
        match wrote with
        | (some e, s2) => ({ r with status := e }, s2)
        | (none, s2) => dmRun o ws ch f ⟨if p then 5 else r.status, i + k, crc32cFrom r.crc (leBytes k v)⟩ s2

/-- A halt of a channel (R344). -/
def State.chanHalt (s : State) (ch st_ : Nat) : State :=
  if st_ = 0 ∨ st_ = 5 then s else (s.setFld (rCtl ch) F.dmCtl.ERR st_).setFld (rCtl ch) F.dmCtl.HALTED 1

/-- The message at the head of a submission queue. -/
def headMessage (ws : List DWord) : List DWord :=
  (ws.takeWhile fun w => wordTag w == 1) ++ (ws.dropWhile fun w => wordTag w == 1).take 1

/-- The QREADs by which a channel takes the words of a descriptor, each with one data flit (R268, R346). -/
def State.chanQread (s : State) (ch n : Nat) : State :=
  (List.range n).foldl (fun s _ => s.statOf (chanInit ch) (s.chanOwner ch) 1) s

/-- Whether a channel may start a descriptor (R339, R344, R345). -/
def State.chanFree (s : State) (ch : Nat) : Bool :=
  let c := s.chan ch
  s.flag (rCtl ch) F.dmCtl.EN && !s.flag (rCtl ch) F.dmCtl.HALTED && decide (c.descs.length < 4) && c.retry.isNone

/-- A channel takes the next descriptor, when it is one of this operation or one that ends with BADDESC, and performs
it. -/
def State.chanTake (s : State) (ch : Nat) (o : DmOp) (bad : Bool) : State :=
  match s.sqOf ch with
  | none => s
  | some (t, k) =>
    let q := s.queue t k
    let ws := headMessage q.words
    if !s.chanFree ch ∨ ws = [] then s
    else if (s.stationErr (dmStop (ch / 32)) t 0x09).1.isSome then (s.stationErr (dmStop (ch / 32)) t 0x09).2
    else if dFence ws ∧ !(s.chan ch).descs.isEmpty then s
    else
      let known := [1, 2, 3, 4, 5].contains (dOp ws) && ws.length == 8
      if known ∧ dOp ws ≠ o.code then s
      else
        let s := (((s.wake (domTile t)).wake (domDm (ch / 32))).chanQread ch ws.length).setQueue t k ⟨dropMessage q.words, none⟩
        let s := if bad then (s.count (rQstat t k) F.qstat.PERR).logErr
            { bank := t, cls := 0x40, sev := 2, src := k, hidden := (s.chanOwner ch).world } else s
        let (r, s) := if bad || !dOk o ws then (⟨1, 0, 0⟩, s)
                      else dmRun o ws ch (dWord ws 3) ⟨0, 0, BitVec.ofNat 32 (dWord ws 6)⟩ s
        let c := s.chan ch
        (s.setChan ch { c with descs := c.descs ++ [⟨ws, r.status, if o = .crc then r.crc.toNat else r.done⟩] }).chanHalt ch r.status

def execCopy (d : Fin 2) (c : BitVec 5) (bad : Bool) (s : State) : Host.Outcome State Fault Refusal :=
  .next (s.chanTake (chanOf d c) .copy bad)
def execFill (d : Fin 2) (c : BitVec 5) (bad : Bool) (s : State) : Host.Outcome State Fault Refusal :=
  .next (s.chanTake (chanOf d c) .fill bad)
def execZero (d : Fin 2) (c : BitVec 5) (bad : Bool) (s : State) : Host.Outcome State Fault Refusal :=
  .next (s.chanTake (chanOf d c) .zero bad)
def execCrc32c (d : Fin 2) (c : BitVec 5) (bad : Bool) (s : State) : Host.Outcome State Fault Refusal :=
  .next (s.chanTake (chanOf d c) .crc bad)
def execRekey (d : Fin 2) (c : BitVec 5) (bad : Bool) (s : State) : Host.Outcome State Fault Refusal :=
  .next (s.chanTake (chanOf d c) .rekey bad)

/-! ### Completions (R344, R345) -/

/-- A completion put: retried while FULL or BUSY, dropped and recorded on any other failure. -/
def State.chanSend (s : State) (ch : Nat) (h : Word) (ws : List (BitVec 56)) : State :=
  let drop := fun (s : State) => s.logErr { bank := dmBank ch, cls := 0x41, sev := 2, src := ch, hidden := (s.chanOwner ch).world }
  let c := s.chan ch
  let s := s.setChan ch { c with retry := none }
  if (s.unitErr (chanInit ch) 0x08).isSome then drop (s.clearUnit (chanInit ch) 0x08)
  else match s.stationErr (dmStop (ch / 32)) (hStation h) 0x08 with
  | (some e, s1) => drop (s1.statErr (chanInit ch) (s1.chanOwner ch) ((ws.length + 3) / 4) e)
  | (none, s1) =>
    let (e, s2) := (s1.statOf (chanInit ch) (s1.chanOwner ch) ((ws.length + 3) / 4)).qPut (portOfChan ch) (s1.chanOwner ch) h ws false false
    if e = 0 then s2
    else if e = 1 ∨ e = 2 then s2.setChan ch { (s2.chan ch) with retry := some (h, ws) }
    else drop s2

/-- The oldest descriptor of a channel completes; QUIET sends no message when the status is OK. -/
def State.descDone (s : State) (ch : Nat) : State :=
  let c := s.chan ch
  match c.descs with
  | [] => s
  | d :: ds =>
    if c.retry.isSome then s
    else
      let s := s.setChan ch { c with descs := ds }
      if d.status = 0 ∧ dQuiet d.words then s
      else s.chanSend ch (BitVec.ofNat 32 (dWord d.words 5))
        [BitVec.ofNat 56 (dTag d.words + d.status * 2 ^ 32 + ch * 2 ^ 40), BitVec.ofNat 56 d.result]

def execDescriptorComplete (d : Fin 2) (c : BitVec 5) (s : State) : Host.Outcome State Fault Refusal :=
  .next (s.descDone (chanOf d c))

def execCompletionRetry (d : Fin 2) (c : BitVec 5) (s : State) : Host.Outcome State Fault Refusal :=
  .next (match (s.chan (chanOf d c)).retry with
    | none => s
    | some (h, ws) => s.chanSend (chanOf d c) h ws)

end Sys2Proof.Machine
end

