-- ==== Sys2Proof/Machine/Iotu.lean ====
section
/-! DEFINITION. Inbound requests of devices and the I/O Translation Unit (R373-R378, R467), and the queue aperture
(R336). -/

namespace Sys2Proof.Machine

def ioBank (p : Nat) : Nat := 144 + p

/-- An I/O stop's own identity, with which it sends fault records and event reports (log entry 14). -/
def ownIdent : Ident := ⟨false, 0, 0⟩

/-- A request of an I/O stop for an identity that ended in an error: counted (R268), and an answer NO_AGENT recorded. -/
def State.ioGone (s : State) (p : Nat) (id : Ident) (e : Fail) (cmd key pa : Nat) : State :=
  match e with
  | .denied => s
  | .err st => (s.statErr (264 + p) id 2 st).noAgentIf e cmd key pa

/-- A request of an I/O stop to a queue station, with its data flits. -/
def State.ioStation (s : State) (p : Nat) (id : Ident) (t cmd flits : Nat) : Option Nat × State :=
  match s.stationErr (ioStop p) t cmd with
  | (some e, s1) => (some e, s1.statErr (264 + p) id flits e)
  | (none, s1) => (none, s1.statOf (264 + p) id flits)

/-- A message an I/O stop sends on its own account: whether a queue took it. -/
def State.ioSend (s : State) (p : Nat) (h : Word) (ws : List (BitVec 56)) : Bool × State :=
  match s.ioStation p ownIdent (hStation h) 0x08 ((ws.length + 3) / 4) with
  | (some _, s1) => (false, s1)
  | (none, s1) => let (e, s2) := s1.qSend (portOfIo p) ownIdent h ws
                  (e == 0, s2)

/-! ### Fault records (R375) -/

/-- A fault record: requester ID, root port, whether a write, untranslated address. -/
def State.ioFault (s : State) (p r rid addr : Nat) (wr : Bool) (e : DmaErr) : State :=
  let q := Reg.faultq (ix 8 p)
  if !s.flag q F.faultq.EN then s
  else
    let w0 := BitVec.ofNat 56 (rid + e.code * 2 ^ 16 + b2n wr * 2 ^ 20 + r * 2 ^ 21)
    let (ok, s1) := s.ioSend p (BitVec.ofNat 32 (s.fld q F.faultq.HANDLE)) [w0, BitVec.ofNat 56 (addr % 2 ^ 52)]
    if ok then s1 else s1.count (.faultcnt (ix 8 p)) F.faultcnt.COUNT

/-- A refusal by the ownership check or the key rule, recorded by the agent (R280). -/
def State.ioDenied (s : State) (p src : Nat) (world : Bool) (at_ : Option (Nat × Nat)) : State :=
  s.logErr { bank := ioBank p, cls := 0x33, sev := 2, src := src, addr := at_,
             hidden := world || (match at_ with | some (_, pa) => s.hiddenAt world pa | none => false) }

/-- A posted write whose mesh transaction ends in RSP_ERR is dropped and recorded (R378). -/
def State.postedLost (s : State) (p src : Nat) (world : Bool) (pa : Nat) : State :=
  s.logErr { bank := ioBank p, cls := 0x30, sev := 2, src := src, addr := some (0, pa), hidden := s.hiddenAt world pa }

/-! ### Device contexts (R374) -/

structure IoCtx where
  tmode : Nat
  ats : Bool
  key : Nat
  x : DmaCtx
deriving DecidableEq, Repr

def ioCtxOf (p rid n : Nat) : IoCtx :=
  let w0 := n % 2 ^ 64
  let r1 := dw (n >>> 64); let r2 := dw (n >>> 128)
  let w3 := n >>> 192 % 2 ^ 32
  let tm := w0 / 2 % 8
  let key := w0 >>> 52 % 2 ^ 12
  { tmode := tm, ats := w0.testBit 4, key := key
    x := { src := ioStop p, id := ⟨w0.testBit 6, w0 >>> 28 % 2 ^ 16, w0 >>> 16 % 2 ^ 12⟩, tag := rid, port := some p
           root1 := if tm = 2 ∨ tm = 4 then some r1 else none
           root2 := if tm = 3 ∨ tm = 4 then some r2 else none
           had := w0.testBit 5, s1m := w3 % 2 ^ 16, s2m := w3 >>> 16, key := key } }

/-- A read by the I/O Translation Unit of one of its own tables fails: a refusal and an answer NO_AGENT are recorded. -/
def State.ioTable (s : State) (p key pa : Nat) (e : Fail) : State :=
  if e = .denied then s.ioDenied p p false (some (key, pa)) else s.ioGone p ownIdent e 0x03 key pa

/-- The context of a requester ID: blocked with EN = 0, V = 0 or such a TMODE; an unreadable one is a walk error. -/
def State.ioCtx (s : State) (p rid : Nat) : Except DmaErr IoCtx × State :=
  let r := Reg.ctxbase (ix 8 p)
  if !s.flag r F.ctxbase.EN then (.error .blocked, s)
  else
    let pa := s.fld r F.ctxbase.ADDR * 4096 + 32 * rid
    if s.physDevice pa then (.error .walk, s)
    else match s.agentNat false (ioStop p) ownIdent (s.fld r F.ctxbase.KEYID) pa 32 with
      | .error e => (.error .walk, s.ioTable p (s.fld r F.ctxbase.KEYID) pa e)
      | .ok (n, bad, s1) =>
        if bad then (.error .walk, s1)
        else
          let c := ioCtxOf p rid n
          if !n.testBit 0 ∨ c.tmode = 0 ∨ 5 ≤ c.tmode then (.error .blocked, s1) else (.ok c, s1)

/-! ### Translation by an I/O Translation Unit (R373 steps 4-6) -/

/-- A cached translation, or a walk. -/
def ioTranslate (p : Nat) (x : DmaCtx) (rd wr : Bool) (addr : Nat) : Dma DmaTr := fun s =>
  match (s.port p).iotlb.find? fun e => (!rd || e.hit x.tag addr false) && (!wr || e.hit x.tag addr true) with
  | some e => (.ok ⟨e.out + addr % 2 ^ e.bits, e.key, e.mtype, none, []⟩, s)
  | none => dmaTranslate x rd wr addr s

/-- The translation used: its marks set, and kept in the IOTLB, 256 sets of 8 ways, the set given by the low eight bits of the
page number (log entry 131). -/
def ioKeep (p : Nat) (x : DmaCtx) (t : DmaTr) : Dma Unit :=
  (dmaSetAll x t.marks).bind fun _ => Dma.change fun s => match t.entry with
    | some e => s.onPort p fun i => { i with iotlb := addWay 8 s.coh.stamp (fun d => d.page % 256 == e.page % 256) i.iotlb e }
    | none => s

/-- A translation granted to a device (R375). -/
def ioGrant (p : Nat) (x : DmaCtx) (rd wr : Bool) (addr : Nat) : Dma Unit := (ioTranslate p x rd wr addr).bind (ioKeep p x)

/-- How a request fails: the reason, and the physical address and key of a refusal by the ownership check. -/
abbrev IoRefusal := DmaErr × Option (Nat × Nat)

/-- An inbound request's way to its physical address and key. -/
def State.ioReach (s : State) (p : Nat) (c : IoCtx) (translated rd wr : Bool) (addr : Nat) :
    Except IoRefusal (Nat × Nat) × State :=
  let got : Except DmaErr DmaTr × State :=
    if translated then
      if c.ats then (.ok ⟨addr, (Config.atsKey c.x.tag addr).toNat, 3, none, []⟩, s) else (.error .perm, s)
    else ioTranslate p c.x rd wr addr s
  match got with
  | (.error e, s1) => (.error (e, none), s1)
  | (.ok t, s1) =>
    if 2 ^ 52 ≤ t.pa then (.error (.trans, none), s1)
    else if t.mtype ≤ 1 ∨ s1.physDevice t.pa then (.error (.device, none), s1)
    else match dmaOwn c.x t.pa t.key s1 with
      | (.error e, s2) => (.error (e, some (t.key, t.pa)), s2)
      | (.ok k, s2) => match ioKeep p c.x t s2 with
        | (.error e, s3) => (.error (e, none), s3)
        | (.ok _, s3) => (.ok (t.pa, k), s3)

/-- A failed request: its fault record, and the record of a refusal. -/
def State.ioRefused (s : State) (p r rid addr : Nat) (wr world : Bool) (e : IoRefusal) : State :=
  let s := s.ioFault p r rid addr wr e.1
  if e.1 = .owner ∨ e.1 = .key then s.ioDenied p r world e.2 else s

/-! ### The queue aperture (R336, R467) -/

/-- A refusal at the aperture, recorded as corrected. -/
def State.apRefused (s : State) (p : Nat) : State := s.logErr { bank := ioBank p, cls := 0x32, sev := 0, src := p }

/-- A put: a poisoned one is dropped and recorded (R435), a refused one is dropped and recorded. -/
def State.apPut (s : State) (p : Nat) (id : Ident) (h : Word) (ws : List (BitVec 64)) (poisoned : Bool) : State :=
  if ws.length = 0 ∨ 32 < ws.length then s
  else if poisoned then s.logErr { bank := ioBank p, cls := 0x40, sev := 2, src := p, hidden := id.world }
  else match s.ioStation p id (hStation h) 0x08 ((ws.length + 3) / 4) with
    | (some _, s1) => s1.postedLost p p id.world 0
    | (none, s1) =>
      let (e, s2) := s1.qSend (portOfIo p) id h (ws.map fun w => w.truncate 56)
      if e = 0 then s2 else s2.apRefused p

/-- A get: one QGET. -/
def State.apGet (s : State) (p : Nat) (id : Ident) (h : Word) (bad : Bool) : State :=
  match s.ioStation p id (hStation h) 0x09 1 with
  | (some _, s1) => s1
  | (none, s1) => match s1.qGet (portOfIo p) id h bad with
    | (.ok _, s2) => s2
    | (.error _, s2) => s2.apRefused p

/-- The 8-byte words of a write's data. -/
def dataWords : List Byte → List (BitVec 64)
  | a :: b :: c :: d :: e :: f :: g :: h :: r => BitVec.ofNat 64 (leNat [a, b, c, d, e, f, g, h]) :: dataWords r
  | _ => []

/-- A write at an offset of a slot: a put, or an access that performs nothing. -/
def State.apSlotWrite (s : State) (p : Nat) (id : Ident) (h : Word) (off : Nat) (data : List Byte) (poisoned : Bool) : State :=
  if off = 0 ∧ data.length % 8 = 0 ∧ 8 ≤ data.length ∧ data.length ≤ 256 then s.apPut p id h (dataWords data) poisoned else s

/-- A read at an offset of a slot. -/
def State.apSlotRead (s : State) (p : Nat) (id : Ident) (h : Word) (off n : Nat) (bad : Bool) : State :=
  if off = 0x100 ∧ n = 8 then s.apGet p id h bad else s

/-- The base of the aperture's bus range (R467). -/
def apBase : Nat := 0x100000000000
def inAperture (a : Nat) : Bool := decide (apBase ≤ a) && decide (a < 0x120000000000)
def inMsi (a : Nat) : Bool := decide (0x3FFFF000 ≤ a) && decide (a < 0x40000000)

/-- The identity of a device's context, for an aperture access; a blocked one is a fault. -/
def State.apDevice (s : State) (p r rid addr : Nat) (wr : Bool) (f : State → Ident → State) : State :=
  match s.ioCtx p rid with
  | (.error e, s1) => s1.ioFault p r rid addr wr e
  | (.ok c, s1) => f s1 c.x.id

/-! ### Inbound requests (R373, R378) -/

/-- Bytes a TLP names, whether it reads, whether it writes. -/
def TlpBytes : TlpOp → Nat × Bool × Bool
  | .read n => (n.toNat, true, false)
  | .write d => (d.length, false, true)
  | .fetchAdd e _ | .swap e _ => (if e then 8 else 4, true, true)
  | .cas l _ _ => (4 * 2 ^ l.val, true, true)

/-- A TLP within the limits of R368 that crosses no 4 KiB boundary; an atomic is aligned to its size. -/
def tlpOk (t : Tlp) : Bool :=
  let a := t.addr.toNat; let n := (TlpBytes t.op).1
  decide (a % 4096 + n ≤ 4096) && match t.op with
    | .read _ => true
    | .write d => decide (d.length ≤ 512)
    | _ => a % n == 0

/-- A poisoned completion to a device, recorded in the port's bank (R378, R435). -/
def State.ioPoison (s : State) (p r : Nat) (world : Bool) (pa key : Nat) (bad : Bool) : State :=
  if bad then s.logErr { bank := ioBank p, cls := 0x09, sev := 2, src := r, addr := some (key, pa), hidden := s.hiddenAt world pa }
  else s

/-- The mesh requests of a TLP at its physical address; an RSP_ERR that the I/O stop has received ends them (R378). -/
def State.tlpPerform (s : State) (p r : Nat) (x : DmaCtx) (pa k : Nat) (t : Tlp) : State :=
  let n := (TlpBytes t.op).1
  if (s.initErr (264 + p) pa n).isSome then
    let s := s.clearInit (264 + p) pa n
    match t.op with
    | .write _ => s.postedLost p r x.id.world pa
    | _ => s
  else
  let atomic := fun (n : Nat) (f : Nat → Nat) =>
    match s.agentAtomic false x.src x.id k pa n f with
    | .ok (_, bad, s1) => s1.ioPoison p r x.id.world pa k bad
    | .error e => s.ioGone p x.id e 0x07 k pa
  match t.op with
  | .read n => match s.agentRead false x.src x.id k (linesOf n.toNat) pa n.toNat with
    | .ok (_, bad, s1) => s1.ioPoison p r x.id.world pa k bad
    | .error e => s.ioGone p x.id e 0x03 k pa
  | .write d => match s.agentWrite false x.src x.id k t.poison (linesOf d.length) pa d with
    | .ok s1 => s1
    | .error e => (s.ioGone p x.id e 0x05 k pa).postedLost p r x.id.world pa
  | .fetchAdd e v => let n := if e then 8 else 4
                     atomic n fun old => (old + v.toNat) % 256 ^ n
  | .swap e v => let n := if e then 8 else 4
                 atomic n fun _ => v.toNat % 256 ^ n
  | .cas l c v => let n := 4 * 2 ^ l.val
                  atomic n fun old => if old = c.toNat % 256 ^ n then v.toNat % 256 ^ n else old

/-- A TLP that arrives at a root port (R373). -/
def State.inbound (s : State) (p r : Nat) (t : Tlp) : State :=
  let a := t.addr.toNat; let rid := t.rid.toNat
  let (n, rd, wr) := TlpBytes t.op
  if !s.isRp p r ∨ !s.flag (rClasp p r) F.clasp.LINKUP ∨ !tlpOk t then s
  else if s.clasped p r then s.count (rClasp p r) F.clasp.DROPPED
  else
    let s := (s.rpActive p r).wake (domIo p)
    let posted := match t.op with | .write d => some d | _ => none
    if t.pasid then s
    else if !t.translated && inMsi a then
      match posted with
      | some d => if n = 4 then s.msi p t.rid (leNat d)
                  else s.logErr { bank := ioBank p, cls := 0x32, sev := 0, src := rid }
      | none => s
    else if !t.translated && inAperture a then
      s.apDevice p r rid a wr fun s id =>
        let h : Word := BitVec.ofNat 32 ((a - apBase) / 512)
        match posted with
        | some d => s.apSlotWrite p id h (a % 512) d t.poison
        | none => if wr then s else s.apSlotRead p id h (a % 512) n false
    else match s.ioCtx p rid with
      | (.error e, s1) => s1.ioRefused p r rid a wr false (e, none)
      | (.ok c, s1) => match s1.ioReach p c t.translated rd wr a with
        | (.error e, s2) => s2.ioRefused p r rid a wr c.x.id.world e
        | (.ok (pa, k), s2) => s2.tlpPerform p r c.x pa k t

def execInboundRequest (p : BitVec 3) (rp : BitVec 2) (t : Tlp) (s : State) : Host.Outcome State Fault Refusal :=
  .next (s.inbound p.toNat rp.toNat t)

/-! ### ATS (R375) -/

/-- A Translation Request: A set, and D where write is granted; where write cannot be granted, read alone may be. -/
def State.atsRequest (s : State) (p r rid addr : Nat) (wr : Bool) : State :=
  if !s.isRp p r ∨ !s.flag (rClasp p r) F.clasp.LINKUP then s
  else if s.clasped p r then s.count (rClasp p r) F.clasp.DROPPED
  else
    let s := (s.rpActive p r).wake (domIo p)
    if inMsi addr || inAperture addr then s
    else match s.ioCtx p rid with
      | (.error e, s1) => s1.ioRefused p r rid addr wr false (e, none)
      | (.ok c, s1) =>
        if !c.ats then s1
        else match ioGrant p c.x true wr addr s1 with
          | (.ok _, s2) => s2
          | (.error e, s2) =>
            if wr ∧ (e = .perm ∨ e = .mark) then
              match ioGrant p c.x true false addr s2 with
              | (.ok _, s3) => s3
              | (.error e, s3) => s3.ioRefused p r rid addr wr c.x.id.world (e, none)
            else s2.ioRefused p r rid addr wr c.x.id.world (e, none)

def execAtsTranslationRequest (p : BitVec 3) (rp : BitVec 2) (rid : BitVec 16) (addr : BitVec 52) (write : Bool) (s : State) :
    Host.Outcome State Fault Refusal :=
  .next (s.atsRequest p.toNat rp.toNat rid.toNat addr.toNat write)

/-! ### The command ring (R376, R377) -/

abbrev rIcqHead (p : Nat) : Reg := .icqHead (ix 8 p)
abbrev rIcqStat (p : Nat) : Reg := .icqStat (ix 8 p)

/-- The command at HEAD: words 0 and 1, as one number. None while the ring is empty, stopped or waits for a device. -/
def State.icqCmd (s : State) (p : Nat) : Option (Nat × State) :=
  let base := Reg.icqBase (ix 8 p)
  let h := s.fld (rIcqHead p) F.icqHead.INDEX
  if s.role p ≠ .root ∨ h = s.fld (.icqTail (ix 8 p)) F.icqTail.INDEX ∨ s.flag (rIcqStat p) F.icqStat.BADOP ∨
      (s.port p).ats.isSome then none
  else
    let pa := s.fld base F.icqBase.ADDR * 4096 + 16 * h
    if s.physDevice pa then none
    else match s.agentNat false (ioStop p) ownIdent (s.fld base F.icqBase.KEYID) pa 16 with
      | .ok (n, false, s1) => some (n, s1)
      | _ => none

/-- A command that cannot be read stays at HEAD; a refused or unanswered read is recorded (R21, R280). -/
def State.icqLost (s : State) (p : Nat) : State :=
  let base := Reg.icqBase (ix 8 p)
  let h := s.fld (rIcqHead p) F.icqHead.INDEX
  let pa := s.fld base F.icqBase.ADDR * 4096 + 16 * h
  if s.role p ≠ .root ∨ h = s.fld (.icqTail (ix 8 p)) F.icqTail.INDEX ∨ s.flag (rIcqStat p) F.icqStat.BADOP ∨
      (s.port p).ats.isSome ∨ s.physDevice pa then s
  else match s.agentNat false (ioStop p) ownIdent (s.fld base F.icqBase.KEYID) pa 16 with
    | .error e => s.ioTable p (s.fld base F.icqBase.KEYID) pa e
    | .ok _ => s

def State.icqNext (s : State) (p : Nat) : State :=
  s.setFld (rIcqHead p) F.icqHead.INDEX ((s.fld (rIcqHead p) F.icqHead.INDEX + 1) % 256)

/-- The command at HEAD performed where it has an OP. -/
def State.icqRun (s : State) (p op : Nat) (f : Nat → State → State) : State :=
  match s.icqCmd p with
  | none => s.icqLost p
  | some (n, s1) => if n % 2 ^ 8 = op then f n (s1.wake (domIo p)) else s

/-- IOTU entries removed. -/
def State.ioDrop (s : State) (p : Nat) (tlb : LeafEntry → Bool) (walk : IoWalk → Bool) : State :=
  s.onPort p fun i => { i with iotlb := i.iotlb.filter fun e => !tlb e, iowalk := i.iowalk.filter fun e => !walk e }

def icqRid (n : Nat) : Nat := n / 2 ^ 16 % 2 ^ 16
/-- The first address and the number of bytes of a range. -/
def icqRange (n : Nat) : Nat × Nat := (n / 2 ^ 64 / 4096 * 4096, 4096 * 2 ^ (n / 2 ^ 32 % 64))

def execInvRid (p : BitVec 3) (s : State) : Host.Outcome State Fault Refusal :=
  .next (s.icqRun p.toNat 1 fun n s =>
    (s.ioDrop p.toNat (fun e => e.tag == icqRid n) (fun e => e.tag == icqRid n)).icqNext p.toNat)

/-- The entries of a requester ID that overlap a range; those of stage 2 are known by another address, and all go. -/
def execInvRange (p : BitVec 3) (s : State) : Host.Outcome State Fault Refusal :=
  .next (s.icqRun p.toNat 2 fun n s =>
    let (a, len) := icqRange n
    (s.ioDrop p.toNat
      (fun e => e.tag == icqRid n && decide (e.page * 2 ^ e.bits < a + len) && decide (a < (e.page + 1) * 2 ^ e.bits))
      (fun e => e.tag == icqRid n && (e.stage2 ||
        (decide (e.prefix_ * 2 ^ (39 - 9 * e.lvl) < a + len) && decide (a < (e.prefix_ + 1) * 2 ^ (39 - 9 * e.lvl)))))).icqNext p.toNat)

def execInvAll (p : BitVec 3) (s : State) : Host.Outcome State Fault Refusal :=
  .next (s.icqRun p.toNat 3 fun _ s => (s.ioDrop p.toNat (fun _ => true) (fun _ => true)).icqNext p.toNat)

/-- The request goes out to the device; the command waits for the device's completion. -/
def execAtsInv (p : BitVec 3) (s : State) : Host.Outcome State Fault Refusal :=
  .next (s.icqRun p.toNat 4 fun n s => s.onPort p.toNat fun i => { i with ats := some (icqRid n) })

def State.atsEnd (s : State) (p : Nat) : State := (s.onPort p fun i => { i with ats := none }).icqNext p

def execInvalidateCompletion (p : BitVec 3) (s : State) : Host.Outcome State Fault Refusal :=
  .next (match (s.port p.toNat).ats with
    | none => s
    | some rid => match s.busPort p.toNat (rid / 256) with
      -- under clasp the completion is discarded and counted (R380)
      | some r => if s.clasped p.toNat r then s.count (rClasp p.toNat r) F.clasp.DROPPED else s.atsEnd p.toNat
      | none => s.atsEnd p.toNat)

/-- 100 ms pass: the device's root port is clasped, then the command completes. -/
def execAtsInvTimeout (p : BitVec 3) (s : State) : Host.Outcome State Fault Refusal :=
  .next (match (s.port p.toNat).ats with
    | none => s
    | some rid =>
      let s := match s.busPort p.toNat (rid / 256) with
        | some r => s.claspEnter p.toNat r .atsTimeout false
        | none => s
      s.atsEnd p.toNat)

/-- WAIT: a 4-byte write under key ID 0. -/
def State.icqWait (s : State) (p n : Nat) : State :=
  let v := n / 2 ^ 32 % 2 ^ 32
  let pa := n / 2 ^ 64 % 2 ^ 52
  if s.physDevice pa then
    if s.mayReach ownIdent (pa / 4096) then (s.devAccess ⟨.io (BitVec.ofNat 3 p), false, 0, 0⟩ 0x05 pa 4 (some v)).2
    else s.ioDenied p p false (some (0, pa))
  else match s.agentWrite false (ioStop p) ownIdent 0 false 2 pa (leBytes 4 v) with
    | .ok s1 => s1
    | .error .denied => s.ioDenied p p false (some (0, pa))
    | .error e => (s.ioGone p ownIdent e 0x05 0 pa).postedLost p p false pa

def execWait (p : BitVec 3) (s : State) : Host.Outcome State Fault Refusal :=
  .next (s.icqRun p.toNat 5 fun n s => (s.icqWait p.toNat n).icqNext p.toNat)

def execIcqUnknownOp (p : BitVec 3) (s : State) : Host.Outcome State Fault Refusal :=
  .next (match s.icqCmd p.toNat with
    | none => s
    | some (n, s1) => if 1 ≤ n % 2 ^ 8 ∧ n % 2 ^ 8 ≤ 5 then s
                      else (s1.wake (domIo p.toNat)).setFld (rIcqStat p.toNat) F.icqStat.BADOP 1)

/-! ### The queue aperture, and the links of root ports -/

/-- An access through a queue window of an endpoint port, or by a device of a root port (R336, R384). -/
def State.apVia (s : State) (p : Nat) (via : ApVia) (h : Word) (wr : Bool) (off : Nat) (f : State → Ident → State) : State :=
  match via with
  | .device rp rid =>
    let r := rp.toNat
    if !s.isRp p r ∨ !s.flag (rClasp p r) F.clasp.LINKUP then s
    else if s.clasped p r then s.count (rClasp p r) F.clasp.DROPPED
    else ((s.rpActive p r).wake (domIo p)).apDevice p r rid.toNat (apBase + 512 * h.toNat + off) wr f
  | .window k =>
    let a := s.reg (.epWinA (ix 8 p) (ix 1024 k.toNat)); let c := s.reg (.epWinC (ix 8 p) (ix 1024 k.toNat))
    if s.hostOpen p (getF a F.epWinA.FUNC) ∧ getF a F.epWinA.V = 1 ∧ getF a F.epWinA.TYPE = 1 ∧
        getF a F.epWinA.TARGET % 2 ^ 32 = h.toNat ∧ getF a (if wr then F.epWinA.W else F.epWinA.R) = 1 then
      f (s.wake (domIo p)) (s.winIdent c)
    else s

def execAperturePut (p : BitVec 3) (via : ApVia) (handle : BitVec 32) (words : List (BitVec 64)) (poisoned : Bool) (s : State) :
    Host.Outcome State Fault Refusal :=
  .next (s.apVia p.toNat via handle true 0 fun s id => s.apPut p.toNat id handle words poisoned)

def execApertureGet (p : BitVec 3) (via : ApVia) (handle : BitVec 32) (bad : Bool) (s : State) :
    Host.Outcome State Fault Refusal :=
  .next (s.apVia p.toNat via handle false 0x100 fun s id => s.apGet p.toNat id handle bad)

/-- A completion timeout: the initiator receives TARGET_ERR, with AER logged (R371). -/
def State.outExpire (s : State) (p r : Nat) (k : Nat × Nat) : State :=
  if (s.rp p r).open_.contains k then
    ((s.onRp p r fun x => { x with open_ := x.open_.filter fun o => o != k }).reanswer k fun _ => .err 0x04).logErr
      { bank := ioBank p, cls := 0x30, sev := 0, src := r }
  else s

def execCompletionTimeout (p : BitVec 3) (rp : BitVec 2) (i : Fin 272) (tag : BitVec 12) (s : State) :
    Host.Outcome State Fault Refusal :=
  .next (s.outExpire p.toNat rp.toNat (tagKey i tag))

end Sys2Proof.Machine
end

