-- ==== Sys2Proof/Machine/Endpoint.lean ====
section
/-! DEFINITION. Links coming up and going down (R381, R390, R490), and endpoint ports: windows (R384), expansion ROM
(R386), host aperture (R385), event reports (R387), function level resets and PERST# (R389, R390). -/

namespace Sys2Proof.Machine

abbrev rEpStat (p : Nat) : Reg := .epStat (ix 8 p)

/-! ### Event reports (R387) -/

/-- A host-side event reported; a report that is refused is dropped and counted. -/
def State.epEvent (s : State) (p code f : Nat) : State :=
  let q := Reg.epEvq (ix 8 p)
  if !s.flag q F.epEvq.EN then s
  else
    let w := BitVec.ofNat 56 (code + f * 2 ^ 8 + s.now.toNat % 2 ^ 32 * 2 ^ 24)
    let (ok, s1) := s.ioSend p (BitVec.ofNat 32 (s.fld q F.epEvq.HANDLE)) [w]
    if ok then s1 else s1.count (rEpStat p) F.epStat.EVLOST

/-! ### Resets of functions (R389, R390) -/

def State.onEp (s : State) (p : Nat) (f : EpState → EpState) : State := s.onPort p fun i => { i with ep := f i.ep }

/-- Bus Master Enable of functions cleared. -/
def State.bmeClear (s : State) (p : Nat) (mask : BitVec 32) : State :=
  let s := s.onEp p fun e => { e with bme := e.bme &&& ~~~mask }
  s.setFld (rEpStat p) F.epStat.BME_PF (b2n ((s.port p).ep.bme.getLsbD 0))

/-- The functions that a reset of a function covers: the PF's covers all. -/
def flrMask (f : Nat) : BitVec 32 := if f = 0 then BitVec.allOnes 32 else 1#32 <<< f

/-- The outstanding host-aperture requests of functions end with TARGET_ERR; late completions are discarded (R389). -/
def State.endOut (s : State) (p : Nat) (mask : BitVec 32) : State :=
  let gone := (s.port p).ep.out.filter fun o => mask.getLsbD o.func
  let s := s.onEp p fun e => { e with out := e.out.filter fun o => !mask.getLsbD o.func }
  gone.foldl (fun s o => s.reanswer o.key fun _ => .err 4) s

/-- DMA of the functions is snuffed: until their reset ends they send and accept nothing. -/
def State.snuff (s : State) (p : Nat) (mask : BitVec 32) : State :=
  (s.endOut p mask).onEp p fun e => { e with resetting := e.resetting ||| mask }

def State.flrStart (s : State) (p f : Nat) : State :=
  if s.configurable p f then
    (s.snuff p (flrMask f)).epEvent p 1 f
  else s

def execFlrStart (p : BitVec 3) (func : BitVec 5) (s : State) : Host.Outcome State Fault Refusal :=
  .next (s.flrStart p.toNat func.toNat)

/-- The configuration state of the functions is reset. A VF's own reset is absorbed by one of the PF. -/
def State.flrDone (s : State) (p f : Nat) : State :=
  let e := (s.port p).ep
  if s.role p = .endpoint ∧ e.resetting.getLsbD f ∧ (f = 0 ∨ !e.resetting.getLsbD 0) then
    let m := flrMask f
    let s := s.onEp p fun e => { e with
      resetting := e.resetting &&& ~~~m, msixMask := e.msixMask.filter fun v => !m.getLsbD v.1
      msixPend := e.msixPend.filter fun v => !m.getLsbD v.1 }
    let s := if f = 0 then s.setFld (rEpStat p) F.epStat.NUMVF 0 else s
    (s.bmeClear p m).epEvent p 2 f
  else s

def execFlrDone (p : BitVec 3) (func : BitVec 5) (s : State) : Host.Outcome State Fault Refusal :=
  .next (s.flrDone p.toNat func.toNat)

/-- Every function reset, and the link down (R390). -/
def State.epReset (s : State) (p : Nat) : State :=
  (((s.setFld (rEpStat p) F.epStat.LINKUP 0).onEp p fun e => { e with link := .down }).bmeClear p (BitVec.allOnes 32)).snuff p
    (BitVec.allOnes 32)

def execPerstAssert (p : BitVec 3) (s : State) : Host.Outcome State Fault Refusal :=
  .next (if s.role p.toNat = .endpoint ∧ !s.flag (rEpStat p.toNat) F.epStat.PERST then
      ((s.setFld (rEpStat p.toNat) F.epStat.PERST 1).epReset p.toNat).epEvent p.toNat 3 0
    else s)

/-- PERST# goes high: the link may train again, and the port's domain is woken (R390, R404). -/
def execPerstDeassert (p : BitVec 3) (s : State) : Host.Outcome State Fault Refusal :=
  .next (if s.role p.toNat = .endpoint ∧ s.flag (rEpStat p.toNat) F.epStat.PERST then
      ((s.setFld (rEpStat p.toNat) F.epStat.PERST 0).wake (domIo p.toNat)).epEvent p.toNat 4 0
    else s)

def execLinkDown (p : BitVec 3) (s : State) : Host.Outcome State Fault Refusal :=
  .next (if s.role p.toNat = .endpoint ∧ s.flag (rEpStat p.toNat) F.epStat.LINKUP then
      (s.epReset p.toNat).epEvent p.toNat 5 0
    else s)

/-- What a root port's link trains to, of a free word (log entry 107): the highest rate that both ends support within RATE_CAP,
the rate and the width reached. -/
def trainedTo (cap lanes : Nat) (w : DWord) : Nat × Nat × Nat :=
  let both := 1 + w.toNat % 2 ^ 8 % cap
  (both, 1 + w.toNat / 2 ^ 8 % 2 ^ 8 % both, lanes / 2 ^ (w.toNat / 2 ^ 16 % 2 ^ 8 % (Nat.log2 lanes + 1)))

/-- A root port's link trains; one narrower than its lanes, or slower than both ends advertise, is recorded as corrected
(R367). -/
def State.rpTrain (s : State) (p r : Nat) : State :=
  let lanes := 16 / s.rootPorts p
  let (w, s) := s.fresh
  let (both, rate, width) := trainedTo (s.rateCap p) lanes w
  let s := (s.onRp p r fun k => { k with link := .l0, rate := rate, width := width }).setFld (rClasp p r) F.clasp.LINKUP 1
  if rate < both ∨ width < lanes then s.logErr { bank := ioBank p, cls := 0x30, sev := 0, src := r } else s

/-- A link trains, but not in recovery (R50): that of a root port whose PERST pin is high, clasped or not; that of an endpoint port from phase 4 of
start-up on while PERST# is deasserted. -/
def State.linkUp (s : State) (p r : Nat) : State :=
  if s.flag .stwBootstat F.stwBootstat.RCVR then s
  else if s.isRp p r then
    if (s.rp p r).link = .down ∧ s.boot.pins.perstHigh.contains (p, r) then
      s.rpTrain p r
    else s
  else if s.role p = .endpoint ∧ r = 0 ∧ 4 ≤ s.fld .stwBootstat F.stwBootstat.PHASE ∧ !s.flag (rEpStat p) F.epStat.PERST ∧
      !s.flag (rEpStat p) F.epStat.LINKUP then
    ((s.setFld (rEpStat p) F.epStat.LINKUP 1).onEp p fun e => { e with link := .l0 }).epEvent p 6 0
  else s

def execLinkUp (p : BitVec 3) (rp : BitVec 2) (s : State) : Host.Outcome State Fault Refusal :=
  .next (s.linkUp p.toNat rp.toNat)

/-! ### What the host changes (R387) -/

/-- The host clears Bus Master Enable, which it may have set before (log entry 21). -/
def execBmeClear (p : BitVec 3) (func : BitVec 5) (s : State) : Host.Outcome State Fault Refusal :=
  let (q, f) := (p.toNat, func.toNat)
  .next (if s.configurable q f then (s.bmeClear q (1#32 <<< f)).epEvent q 7 f else s)

def execNumvfChange (p : BitVec 3) (num : BitVec 5) (s : State) : Host.Outcome State Fault Refusal :=
  let q := p.toNat
  .next (if s.configurable q 0 then (s.setFld (rEpStat q) F.epStat.NUMVF num.toNat).epEvent q 8 0 else s)

/-! ### BAR2 (R384) -/

/-- Whether a window covers an offset of a function's BAR2. -/
def State.winCovers (s : State) (p k f o : Nat) : Bool :=
  let a := s.reg (.epWinA (ix 8 p) (ix 1024 k)); let b := s.reg (.epWinB (ix 8 p) (ix 1024 k))
  let lo := getF b F.epWinB.OFFSET * 512
  let n := if getF a F.epWinA.TYPE = 1 then 512 else 4096 * getF (s.reg (.epWinC (ix 8 p) (ix 1024 k))) F.epWinC.PAGES
  getF a F.epWinA.V == 1 && getF a F.epWinA.FUNC == f && decide (lo ≤ o) && decide (o < lo + n)

/-- The lowest-numbered one. -/
def State.winAt (s : State) (p f o : Nat) : Option Nat := firstOf (fun k => s.winCovers p k f o) (List.range 1024)

/-- The size of a function's BAR2 (R383). -/
def State.bar2Size (s : State) (p f : Nat) : Nat :=
  2 ^ s.fld (.epCfg (ix 8 p)) (if f = 0 then F.epCfg.BAR2_LOG2 else F.epCfg.VFBAR2_LOG2)

/-- A write without a window that permits it is dropped and recorded; a read without one has no effect. -/
def State.winRefused (s : State) (p f : Nat) (wr : Bool) : State :=
  if wr then s.logErr { bank := ioBank p, cls := 0x32, sev := 0, src := f } else s

/-- An access through a memory window. -/
def State.winMemory (s : State) (p f k o n : Nat) (wr : Option (List Byte)) : State :=
  let a := s.reg (.epWinA (ix 8 p) (ix 1024 k))
  let id := s.winIdent (s.reg (.epWinC (ix 8 p) (ix 1024 k)))
  let key := getF a F.epWinA.KEYID
  let pa := getF a F.epWinA.TARGET * 4096 + (o - s.fld (.epWinB (ix 8 p) (ix 1024 k)) F.epWinB.OFFSET * 512)
  let n' := match wr with | some d => d.length | none => n
  if s.physDevice pa then s
  else if (s.initErr (264 + p) pa n').isSome then
    let s := s.clearInit (264 + p) pa n'
    if wr.isSome then s.postedLost p f id.world pa else s
  else match wr with
    | none => match s.agentRead false (ioStop p) id key (linesOf n) pa n with
      | .ok (_, _, s1) => s1
      | .error .denied => s.ioDenied p f id.world (some (key, pa))
      | .error e => s.ioGone p id e 0x03 key pa
    | some d => match s.agentWrite false (ioStop p) id key false (linesOf n) pa d with
      | .ok s1 => s1
      | .error .denied => s.ioDenied p f id.world (some (key, pa))
      | .error e => (s.ioGone p id e 0x05 key pa).postedLost p f id.world pa

/-- A host access to BAR2 of a function; no TLP crosses a 4 KiB boundary. -/
def State.bar2 (s : State) (p f o n : Nat) (wr : Option (List Byte)) : State :=
  let n := match wr with | some d => d.length | none => n
  if !s.hostOpen p f ∨ 4096 < o % 4096 + n ∨ 512 < n ∨ s.bar2Size p f < o + n then s
  else
    let s := (s.wake (domIo p)).epTraffic p
    match s.winAt p f o with
    | none => s.winRefused p f wr.isSome
    | some k =>
      let a := s.reg (.epWinA (ix 8 p) (ix 1024 k))
      if getF a (if wr.isSome then F.epWinA.W else F.epWinA.R) = 0 then s.winRefused p f wr.isSome
      else if getF a F.epWinA.TYPE = 1 then
        let h : Word := BitVec.ofNat 32 (getF a F.epWinA.TARGET)
        let id := s.winIdent (s.reg (.epWinC (ix 8 p) (ix 1024 k)))
        let so := o - s.fld (.epWinB (ix 8 p) (ix 1024 k)) F.epWinB.OFFSET * 512
        match wr with
        | some d => s.apSlotWrite p id h so d false
        | none => s.apSlotRead p id h so n false
      else s.winMemory p f k o n wr

def execBar2Access (p : BitVec 3) (func : BitVec 5) (off : BitVec 40) (len : BitVec 10) (write : Option (List (BitVec 8)))
    (s : State) : Host.Outcome State Fault Refusal :=
  .next (s.bar2 p.toNat func.toNat off.toNat len.toNat write)

/-! ### Expansion ROM and host aperture (R385, R386) -/

/-- A host read of the expansion ROM reads chip memory under key ID 0. -/
def State.romRead (s : State) (p o n : Nat) : State :=
  let pa := s.fld (.epRombase (ix 8 p)) F.epRombase.ADDR * 2 ^ 20 + o
  if !s.hostOpen p 0 ∨ 2 ^ 20 < o + n ∨ s.physDevice pa then s
  else
    let s := (s.wake (domIo p)).epTraffic p
    match s.agentRead false (ioStop p) ownIdent 0 (linesOf n) pa n with
    | .ok (_, _, s1) => s1
    | .error .denied => s.ioDenied p p false (some (0, pa))
    | .error e => s.ioGone p ownIdent e 0x03 0 pa

def execExpansionRomRead (p : BitVec 3) (off : BitVec 20) (len : BitVec 10) (s : State) : Host.Outcome State Fault Refusal :=
  .next (s.romRead p.toNat off.toNat len.toNat)

/-- A chip request to a host aperture: sent through its slice, or ended with TARGET_ERR. -/
def execHostApertureRequest (h : Hdr) (pa : BitVec 52) (write : Bool) (s : State) : Host.Outcome State Fault Refusal :=
  .next (match region pa.toNat with
    | .host _ => s.issue h pa (if write then .wrPartial 0 (byteMask (pa.toNat % 64) 8) else .rdNc 8)
    | _ => s)

end Sys2Proof.Machine
end

