-- ==== Sys2Proof/Machine/MemCtl.lean ====
section
/-! DEFINITION. Memory controllers: patrol scrub (R353, R355), refresh (R357, R422), temperature limits (R358), soft repair
(R360), rank sparing (R361), mirroring (R362), MCn.RAS (R363). -/

namespace Sys2Proof.Machine

/-- A channel that is trained, awake and out of self-refresh (R359). -/
def State.mcWorks (s : State) (n : Nat) : Bool :=
  (s.mcAt n).trained && s.awake (domMc n) && !s.flag (rMcRas n) F.mcRas.SELFREF

/-- An event in a channel's error bank. -/
def State.mcEvent (s : State) (n cls sev src info : Nat) (pa : Option Nat) : State :=
  s.logErr { bank := 128 + n, cls := cls, sev := sev, src := src, info := info, addr := pa.map fun a => (0, a),
             hidden := match pa with | some a => s.hiddenAt false a | none => false }

/-! ### Mirroring (R362) -/

/-- MIRR_DEGR or COPYING shown by both channels of a pair (R363). -/
def State.setPair (s : State) (k : Nat) (p : Place) (v : Nat) : State :=
  (s.setFld (rMcRas k) p v).setFld (rMcRas (k + 1)) p v

/-- COPYING of a pair's channels: a rebuild, or a rank copy of the channel's own. -/
def State.showCopying (s : State) (k : Nat) : State :=
  let c := fun n => b2n ((s.mcAt k).rebuild || (s.mcAt n).copying.isSome)
  (s.setFld (rMcRas k) F.mcRas.COPYING (c k)).setFld (rMcRas (k + 1)) F.mcRas.COPYING (c (k + 1))

/-- A channel of a pair fails: the pair runs on the survivor, if there is one; a failure of the survivor is recorded, and the
spec says no more of it. -/
def State.mirrorFail (s : State) (n : Nat) : State :=
  let k := pairOf n
  let m := s.mcAt k
  if !s.inPair n ∨ !(s.mcAt n).trained then s
  else
    let t := match m.mirrorFailed with
      | none => (s.onMc k fun m => { m with mirrorFailed := some (n % 2 == 1) }).setPair k F.mcRas.MIRR_DEGR 1
      | some odd => if m.rebuild ∧ odd = (n % 2 == 1) then (s.onMc k fun m => { m with rebuild := false }).showCopying k else s
    if m.mirrorFailed = some (n % 2 == 1) ∧ !m.rebuild then s else t.mcEvent n 0x22 2 n 0 none

def execMirrorChannelFail (n : BitVec 4) (s : State) : Host.Outcome State Fault Refusal := .next (s.mirrorFail n.toNat)

/-- A rebuild ends: the pair reads from both channels again. -/
def State.rebuildDone (s : State) (n : Nat) : State :=
  let k := pairOf n
  let m := s.mcAt k
  if !m.rebuild then s
  else
    let s := s.onMc k fun m => { m with rebuild := false, mirrorFailed := none }
    ((s.setPair k F.mcRas.MIRR_DEGR 0).showCopying k).mcEvent (k + b2n (m.mirrorFailed == some true)) 0x22 0 n 0 none

def execMirrorRebuildDone (n : BitVec 4) (s : State) : Host.Outcome State Fault Refusal := .next (s.rebuildDone n.toNat)

/-! ### Patrol scrub (R355) -/

/-- A channel that some valid SCRUB entry names (R422). -/
def State.scrubWindowed (s : State) (n : Nat) : Bool :=
  anyBelow 512 fun k => s.flag (rLl k) F.llCtl.V && s.fld (rLl k) F.llCtl.ACTION == 4 && s.fld (rLl k) F.llCtl.TARGET == n

/-- A pass ends; where its windows were too short, the shortfall is recorded. -/
def State.passEnd (s : State) (n : Nat) : State :=
  let m := s.mcAt n
  let short := s.scrubWindowed n && decide (m.passAt.toNat + s.boot.cfg.scrub * 3600000000000 < s.now.toNat)
  let s := s.onMc n fun m => { m with patrol := 0, passAt := s.now }
  let s := s.setFld (rMcRas n) F.mcRas.PASSES (s.fld (rMcRas n) F.mcRas.PASSES + 1)
  if short then (s.setFld (rMcRas n) F.mcRas.SHORTFALL 1).mcEvent n 0x24 0 n 0 none else s

/-- Lines of a channel's usable memory: 2^24 for each GiB. -/
def McState.lines (m : McState) : Nat := m.usable * 2 ^ 24

/-- The line at a place of a channel's pass: that of the channel-local address, where the set of the channel, or of its pair,
reaches there (R350). -/
def State.patrolLine (s : State) (n pos : Nat) : Option Nat :=
  let i := if s.inPair n && !s.m.dram.any (fun d => d.members.contains n) then pairOf n else n
  match s.m.dram.find? fun d => d.members.contains i with
  | some d => (d.addrOf (d.members.idxOf i) (64 * pos)).map (· / 64)
  | none => none

/-- The next line of the pass read. `found`: what stands on the channel, there or on another line (log entry 125). -/
def State.patrolRead (s : State) (n : Nat) (found : DramErr) : State :=
  let m := s.mcAt n
  if !s.mcWorks n ∨ m.usable = 0 ∨ (s.scrubWindowed n ∧ !m.scrubWin) then s
  else
    let s := s.dramHas n found
    let s := match s.patrolLine n m.patrol with | some l => s.dramRead n l | none => s
    if m.lines ≤ m.patrol + 1 then s.passEnd n else s.onMc n fun m => { m with patrol := m.patrol + 1 }

def execPatrolScrubRead (n : BitVec 4) (found : DramErr) (s : State) : Host.Outcome State Fault Refusal :=
  .next (s.patrolRead n.toNat found)

def execScrubWindowEnd (n : BitVec 4) (s : State) : Host.Outcome State Fault Refusal :=
  .next (s.onMc n.toNat fun m => { m with scrubWin := false })

/-! ### Refresh (R357, R422) -/

/-- The next instant of a channel's grid after a time, in eighths of a nanosecond. -/
def gridNext (now n period : Nat) : Nat :=
  let o := 975 * n
  if now < o then o else o + ((now - o) / period + 1) * period

/-- Whether a channel uses every instant of the grid: at tREFI = 1.95 µs, and while postponed refreshes are to be made up
outside a quiet window. -/
def State.everyInstant (s : State) (n : Nat) : Bool :=
  s.flag (rMcRas n) F.mcRas.HOTREF || (!(s.mcAt n).refWin && decide (0 < (s.mcAt n).postponed))

/-- The time in eighths of a nanosecond. -/
def State.eighths (s : State) : Nat := 8 * s.rtu.cnt.toNat + s.rtu.frac.toNat / 8192

/-- RTCNT brought to the next instant that a channel uses. -/
def State.toGrid (s : State) (n : Nat) : State :=
  let t := gridNext s.eighths n (if s.everyInstant n then 15600 else 31200)
  { s with rtu := { s.rtu with cnt := dw (t / 8), frac := BitVec.ofNat 16 (t % 8 * 8192) } }

/-- An instant at which a refresh is due: every one at tREFI = 1.95 µs, else every second one. -/
def State.due (s : State) (n : Nat) : Bool :=
  s.flag (rMcRas n) F.mcRas.HOTREF || decide ((s.eighths - 975 * n) % 31200 = 0)

/-- A refresh at its instant: inside a quiet window it is postponed, up to four; the fifth shortens the window. Outside one,
an instant at which none is due makes up a postponed one. -/
def State.refresh (s : State) (n : Nat) : State :=
  if !s.mcWorks n then s
  else
    let s := s.toGrid n
    let m := s.mcAt n
    if m.refWin then
      if m.postponed < 4 then s.onMc n fun m => { m with postponed := m.postponed + 1 }
      else (s.onMc n fun m => { m with refWin := false }).toLog 0x000A 0 false [dw n, 3]
    else if m.postponed = 0 ∨ s.due n then s else s.onMc n fun m => { m with postponed := m.postponed - 1 }

def execMcRefresh (n : BitVec 4) (s : State) : Host.Outcome State Fault Refusal := .next (s.refresh n.toNat)

/-- The window ends; the postponed refreshes are made up at later instants of the grid. -/
def execRefreshWindowEnd (n : BitVec 4) (s : State) : Host.Outcome State Fault Refusal :=
  .next (s.onMc n.toNat fun m => { m with refWin := false })

/-! ### Temperatures (R357, R358) -/

/-- THROTTLE after a reading: a limit lifts when every DIMM is 5 °C below its threshold. -/
def throttleOf (old hot : Nat) : Nat :=
  if 105 < hot ∨ (old = 2 ∧ 100 < hot) then 2
  else if 95 < hot ∨ (1 ≤ old ∧ 90 < hot) then 1
  else 0

def State.dimmTemp (s : State) (n : Nat) (slot : Bool) (c : Nat) : State :=
  if !(s.mcAt n).trained then s
  else
    let s := s.onMc n fun m => if slot then { m with temp1 := c } else { m with temp0 := c }
    let m := s.mcAt n
    let hot := max m.temp0 m.temp1
    let r := rMcRas n
    let old := s.fld r F.mcRas.THROTTLE
    let new := throttleOf old hot
    let s := (s.setFld r F.mcRas.HOTREF (b2n (decide (85 < hot)))).setFld r F.mcRas.THROTTLE new
    if new = old then s else s.mcEvent n 0x25 0 n 0 none

def execDimmTemperatureChange (n : BitVec 4) (slot : Bool) (celsius : BitVec 8) (s : State) :
    Host.Outcome State Fault Refusal :=
  .next (s.dimmTemp n.toNat slot celsius.toNat)

/-! ### Soft repair (R360) -/

def State.memFlag (s : State) (i : Nat) : Bool := (s.byteOfMemCfg 2).testBit i
def State.pprThresh (s : State) : Nat := s.byteOfMemCfg 6 + 256 * s.byteOfMemCfg 7
def State.spareThresh (s : State) : Nat := s.byteOfMemCfg 4 + 256 * s.byteOfMemCfg 5

/-- A row that has reached the threshold: its repair begins, or is not made for want of a spare row. -/
def State.softPpr (s : State) (n : Nat) (r : DramRow) (spare : Bool) : State :=
  let m := s.mcAt n
  if !s.mcWorks n ∨ !s.memFlag 1 ∨ m.ppr.isSome ∨ (m.rowErr.getD r []).length < s.pprThresh then s
  else if spare then s.onMc n fun m => { m with ppr := some r }
  else (s.onMc n fun m => { m with rowErr := m.rowErr.erase r }).toLog 0x0008 0 false [dw n, 2, dw (rowWord r)]

def execSoftPpr (n : BitVec 4) (row : DramRow) (spare : Bool) (s : State) : Host.Outcome State Fault Refusal :=
  .next (s.softPpr n.toNat row spare)

/-- The row's lines are rewritten and the row unblocked; the repair is counted, recorded and logged as pending. -/
def State.pprDone (s : State) (n : Nat) : State :=
  match (s.mcAt n).ppr with
  | none => s
  | some r =>
    let c := s.fld (rMcRas n) F.mcRas.PPR_CNT
    let s := s.onMc n fun m => { m with ppr := none, rowErr := m.rowErr.erase r }
    let s := s.setFld (rMcRas n) F.mcRas.PPR_CNT (min (c + 1) 65535)
    let s := { s with log := { s.log with pprPending := s.log.pprPending ++ [(n, r)] } }
    (s.mcEvent n 0x23 0 (rowRank r) (rowWord r) none).toLog 0x0008 0 false [dw n, 0, dw (rowWord r)]

def execSoftPprComplete (n : BitVec 4) (s : State) : Host.Outcome State Fault Refusal := .next (s.pprDone n.toNat)

/-! ### Rank sparing (R361) -/

/-- A rank that has reached the threshold: its copy to the spare begins, where the spare is free and no rebuild runs; it is
only recorded once the spare is used, or being filled. -/
def State.rankCopy (s : State) (n r : Nat) : State :=
  let m := s.mcAt n
  if !s.mcWorks n ∨ !s.memFlag 0 ∨ (m.rankErr.getD r []).length < s.spareThresh then s
  else if m.spared.isSome ∨ (m.copying.isSome ∧ m.copying ≠ some r) then
    (s.onMc n fun m => { m with rankErr := m.rankErr.erase r }).mcEvent n 0x23 0 r 0 none
  else if m.copying.isSome ∨ (s.mcAt (pairOf n)).rebuild then s
  else ((s.onMc n fun m => { m with copying := some r }).setFld (rMcRas n) F.mcRas.COPYING 1).mcEvent n 0x23 0 r 0 none

def execRankCopyStart (n : BitVec 4) (rank : BitVec 3) (s : State) : Host.Outcome State Fault Refusal :=
  .next (s.rankCopy n.toNat rank.toNat)

/-- Every line copied: the spare stands in place of the failing rank. -/
def State.rankCopyEnd (s : State) (n : Nat) : State :=
  match (s.mcAt n).copying with
  | none => s
  | some r =>
    let m := s.mcAt n
    let s := s.onMc n fun m => { m with copying := none, spared := some r, rankErr := m.rankErr.erase r }
    (s.setFld (rMcRas n) F.mcRas.SPARED r).setFld (rMcRas n) F.mcRas.COPYING (b2n (s.inPair n && (s.mcAt (pairOf n)).rebuild))

def execRankCopyDone (n : BitVec 4) (s : State) : Host.Outcome State Fault Refusal := .next (s.rankCopyEnd n.toNat)

end Sys2Proof.Machine
end

