-- ==== Sys2Proof/Machine/Flags.lean ====
section
/-! DEFINITION. Binary floating point (R92-R94): formats, the exact value behind an encoding, rounding with the flags it
raises, and how flags reach FCSR or trap. -/

namespace Sys2Proof.Machine

/-- Flags in the order of FCSR.FLAGS: invalid, divide by zero, overflow, underflow, inexact (R93). -/
abbrev FFlags := BitVec 5
abbrev flagNV : FFlags := 16
abbrev flagDZ : FFlags := 8
abbrev flagOF : FFlags := 4
abbrev flagUF : FFlags := 2
abbrev flagNX : FFlags := 1

/-- Rounding directions, by FCSR.RM (R93). -/
inductive Rnd where
  | even | zero | down | up | away
deriving DecidableEq, Repr

def rndOf (n : Nat) : Rnd := match n with | 0 => .even | 1 => .zero | 2 => .down | 3 => .up | _ => .away

/-- A binary format: exponent and fraction bits. -/
structure Fmt where
  eb : Nat
  mb : Nat
deriving DecidableEq, Repr

def binary16 : Fmt := ⟨5, 10⟩
def bfloat16 : Fmt := ⟨8, 7⟩
def binary32 : Fmt := ⟨8, 23⟩
def binary64 : Fmt := ⟨11, 52⟩

def Fmt.width (t : Fmt) : Nat := 1 + t.eb + t.mb
/-- The encoding of +infinity, the greatest finite value, the sign bit, the canonical NaN. -/
def Fmt.inf (t : Fmt) : Nat := (2 ^ t.eb - 1) * 2 ^ t.mb
def Fmt.sgn (t : Fmt) (s : Bool) : Nat := b2n s * 2 ^ (t.eb + t.mb)
def Fmt.nan (t : Fmt) : Nat := t.inf + 2 ^ (t.mb - 1)
/-- The least exponent of a normal number. -/
def Fmt.emin (t : Fmt) : Int := 2 - 2 ^ (t.eb - 1)

/-- What an encoding stands for: a NaN, an infinity, or (−1)^s · m · 2^e. -/
inductive FVal where
  | nan (signalling : Bool)
  | inf (s : Bool)
  | fin (s : Bool) (m : Nat) (e : Int)
deriving DecidableEq, Repr

def Fmt.signOf (t : Fmt) (x : Nat) : Bool := x.testBit (t.eb + t.mb)

def Fmt.val (t : Fmt) (x : Nat) : FVal :=
  let ex := x / 2 ^ t.mb % 2 ^ t.eb
  let fr := x % 2 ^ t.mb
  let s := t.signOf x
  if ex = 2 ^ t.eb - 1 then (if fr = 0 then .inf s else .nan (decide (fr < 2 ^ (t.mb - 1))))
  else if ex = 0 then .fin s fr (t.emin - t.mb)
  else .fin s (2 ^ t.mb + fr) (t.emin - t.mb + (ex - 1 : Nat))

def FVal.isSnan : FVal → Bool | .nan true => true | _ => false
def FVal.isNan : FVal → Bool | .nan _ => true | _ => false

/-! ### Rounding -/

/-- Whether dropping the low `k` bits of m rounds away from zero. -/
def roundsUp (r : Rnd) (s : Bool) (m k : Nat) : Bool :=
  let rem := m % 2 ^ k
  let half := 2 ^ k / 2
  match r with
  | .even => decide (half < rem) || (rem == half && decide (0 < rem) && (m / 2 ^ k).testBit 0)
  | .zero => false
  | .down => s && decide (0 < rem)
  | .up => !s && decide (0 < rem)
  | .away => decide (half ≤ rem) && decide (0 < rem)

/-- m · 2^e in units of 2^q: the integer it rounds to, and whether that is inexact. -/
def roundTo (r : Rnd) (s : Bool) (m : Nat) (e q : Int) : Nat × Bool :=
  if q ≤ e then (m * 2 ^ (e - q).toNat, false)
  else
    let k := (q - e).toNat
    (m / 2 ^ k + b2n (roundsUp r s m k), m % 2 ^ k != 0)

/-- A value too large for the format (IEEE 754-2019 7.4). -/
def overflowTo (t : Fmt) (r : Rnd) (s : Bool) : Nat :=
  let toInf := match r with | .even | .away => true | .zero => false | .down => s | .up => !s
  t.sgn s + (if toInf then t.inf else t.inf - 1)

/-- (−1)^s · m · 2^e rounded to a format: the encoding and the flags; tininess is detected after rounding (R92). -/
def roundVal (t : Fmt) (r : Rnd) (s : Bool) (m : Nat) (e : Int) : Nat × FFlags :=
  if m = 0 then (t.sgn s, 0)
  else
    let top := e + m.log2
    let q := max top t.emin - t.mb
    let (n, nx) := roundTo r s m e q
    let enc := (q - (t.emin - t.mb)).toNat * 2 ^ t.mb + n
    if t.inf ≤ enc then (overflowTo t r s, flagOF ||| flagNX)
    else
      let tiny := decide (top < t.emin) &&
        !(decide (top = t.emin - 1) && (roundTo r s m e (top - t.mb)).1 == 2 ^ (t.mb + 1))
      (t.sgn s + enc, (if nx then flagNX else 0) ||| (if nx && tiny then flagUF else 0))

/-- The sign of an exact zero sum of terms of opposite signs (IEEE 754-2019 6.3). -/
def zeroSign (r : Rnd) : Bool := r == .down

/-- The exact sum of two finite values: numerator and exponent, with sign. -/
def addExact (s1 : Bool) (m1 : Nat) (e1 : Int) (s2 : Bool) (m2 : Nat) (e2 : Int) : Int × Int :=
  let e := min e1 e2
  let v := fun (s : Bool) (m : Nat) (f : Int) => (if s then -1 else 1) * ((m * 2 ^ (f - e).toNat : Nat) : Int)
  (v s1 m1 e1 + v s2 m2 e2, e)

/-- A signed exact value rounded; `zs` is the sign when it is zero. -/
def roundInt (t : Fmt) (r : Rnd) (zs : Bool) (v : Int) (e : Int) : Nat × FFlags :=
  if v = 0 then (t.sgn zs, 0) else roundVal t r (decide (v < 0)) v.natAbs e

/-- Flags joined over lanes. -/
def joinFlags (l : List FFlags) : FFlags := l.foldl (· ||| ·) 0

/-- Flags of an instruction: ORed into FCSR.FLAGS; FP_TRAP when one of them is enabled (R94). -/
def raiseFlags (c : Nat) (fl : FFlags) : Act Unit := fun s =>
  let k := s.core c
  let s1 := if fl = 0 then s else s.setCore c (k.ws Sys.fcsr false (k.rs Sys.fcsr ||| fl.zeroExtend 64))
  if getF (k.rs Sys.fcsr) G.fcsr.TEN &&& fl.toNat ≠ 0 then (.error { code := 0x14 }, s1) else (.ok (), s1)

/-- The rounding direction in force. -/
def Core.rnd (k : Core) : Rnd := rndOf (k.sf Sys.fcsr false G.fcsr.RM)

end Sys2Proof.Machine
end

