-- ==== Sys2Proof/Machine/Fp.lean ====
section
/-! DEFINITION. Floating-point operations on one lane (R92, R95, R96): encodings in, encoding and flags out. -/

namespace Sys2Proof.Machine

abbrev FRes := Nat × FFlags

/-- The canonical NaN, invalid if any operand is a signalling NaN. -/
def nanOf (t : Fmt) (l : List FVal) : FRes := (t.nan, if l.any FVal.isSnan then flagNV else 0)
def invalid (t : Fmt) : FRes := (t.nan, flagNV)

def fpAdd (t : Fmt) (r : Rnd) (x y : Nat) : FRes :=
  match t.val x, t.val y with
  | .nan a, b => nanOf t [.nan a, b]
  | a, .nan b => nanOf t [a, .nan b]
  | .inf a, .inf b => if a = b then (t.sgn a + t.inf, 0) else invalid t
  | .inf a, _ => (t.sgn a + t.inf, 0)
  | _, .inf b => (t.sgn b + t.inf, 0)
  | .fin s1 m1 e1, .fin s2 m2 e2 =>
    let v := addExact s1 m1 e1 s2 m2 e2
    roundInt t r (if m1 = 0 ∧ m2 = 0 ∧ s1 = s2 then s1 else zeroSign r) v.1 v.2

/-- The encoding with its sign inverted. This one, the absolute value and the sign copy change the sign of a NaN and keep its
other bits, as R95 words them: the canonical NaN of R92 is taken to be for arithmetic results (log entry 101). -/
def fpNeg (t : Fmt) (x : Nat) : Nat := x ^^^ 2 ^ (t.eb + t.mb)
def fpAbs (t : Fmt) (x : Nat) : Nat := x % 2 ^ (t.eb + t.mb)
def fpSgnj (t : Fmt) (x y : Nat) : Nat := fpAbs t x + t.sgn (t.signOf y)
def fpSub (t : Fmt) (r : Rnd) (x y : Nat) : FRes :=
  match t.val y with | .nan b => nanOf t [t.val x, .nan b] | _ => fpAdd t r x (fpNeg t y)

def fpMul (t : Fmt) (r : Rnd) (x y : Nat) : FRes :=
  let s := t.signOf x != t.signOf y
  match t.val x, t.val y with
  | .nan a, b => nanOf t [.nan a, b]
  | a, .nan b => nanOf t [a, .nan b]
  | .inf _, .fin _ m _ => if m = 0 then invalid t else (t.sgn s + t.inf, 0)
  | .fin _ m _, .inf _ => if m = 0 then invalid t else (t.sgn s + t.inf, 0)
  | .inf _, .inf _ => (t.sgn s + t.inf, 0)
  | .fin _ m1 e1, .fin _ m2 e2 => roundVal t r s (m1 * m2) (e1 + e2)

/-- A quotient with three bits below the fraction and a sticky bit. -/
def fpDiv (t : Fmt) (r : Rnd) (x y : Nat) : FRes :=
  let s := t.signOf x != t.signOf y
  match t.val x, t.val y with
  | .nan a, b => nanOf t [.nan a, b]
  | a, .nan b => nanOf t [a, .nan b]
  | .inf _, .inf _ => invalid t
  | .inf _, .fin _ _ _ => (t.sgn s + t.inf, 0)
  | .fin _ _ _, .inf _ => (t.sgn s, 0)
  | .fin _ m1 e1, .fin _ m2 e2 =>
    if m2 = 0 then (if m1 = 0 then invalid t else (t.sgn s + t.inf, flagDZ))
    else
      let k := 2 * t.mb + 6
      let n := m1 * 2 ^ k
      roundVal t r s (2 * (n / m2) + b2n (n % m2 != 0)) (e1 - e2 - k - 1)

/-- The integer square root, by bits from the top. -/
def isqrt (n : Nat) : Nat → Nat → Nat
  | 0, a => a
  | b + 1, a => isqrt n b (if (a + 2 ^ b) * (a + 2 ^ b) ≤ n then a + 2 ^ b else a)

def fpSqrt (t : Fmt) (r : Rnd) (x : Nat) : FRes :=
  match t.val x with
  | .nan a => nanOf t [.nan a]
  | .inf s => if s then invalid t else (t.inf, 0)
  | .fin s m e =>
    if m = 0 then (t.sgn s, 0)
    else if s then invalid t
    else
      let odd := e % 2 = 1
      let m := if odd then 2 * m else m
      let e := if odd then e - 1 else e
      let k := t.mb + 4
      let n := m * 2 ^ (2 * k)
      let q := isqrt n (2 * t.mb + 8) 0
      roundVal t r false (2 * q + b2n (q * q != n)) (e / 2 - k - 1)

/-- Order of two values that are not NaN: less, equal. -/
def FVal.lt : FVal → FVal → Bool
  | .inf a, .inf b => a && !b
  | .inf a, .fin _ _ _ => a
  | .fin _ _ _, .inf b => !b
  | .fin s1 m1 e1, .fin s2 m2 e2 => decide ((addExact s1 m1 e1 (!s2) m2 e2).1 < 0)
  | _, _ => false
def FVal.same : FVal → FVal → Bool
  | .inf a, .inf b => a == b
  | .fin s1 m1 e1, .fin s2 m2 e2 => (addExact s1 m1 e1 (!s2) m2 e2).1 == 0
  | _, _ => false

/-- minimumNumber and maximumNumber, with −0 below +0. -/
def fpMin (t : Fmt) (x y : Nat) : FRes :=
  let a := t.val x; let b := t.val y
  let fl : FFlags := if a.isSnan || b.isSnan then flagNV else 0
  if a.isNan && b.isNan then (t.nan, fl)
  else if a.isNan then (y, fl)
  else if b.isNan then (x, fl)
  else (if a.lt b || (a.same b && t.signOf x) then x else y, fl)
def fpMax (t : Fmt) (x y : Nat) : FRes :=
  let a := t.val x; let b := t.val y
  let fl : FFlags := if a.isSnan || b.isSnan then flagNV else 0
  if a.isNan && b.isNan then (t.nan, fl)
  else if a.isNan then (y, fl)
  else if b.isNan then (x, fl)
  else (if b.lt a || (a.same b && t.signOf y) then x else y, fl)

/-- Compares: invalid on any NaN for < and ≤, on a signalling one for =. -/
def fpEq (t : Fmt) (x y : Nat) : Bool × FFlags :=
  let a := t.val x; let b := t.val y
  (a.same b, if a.isSnan || b.isSnan then flagNV else 0)
def fpLt (t : Fmt) (x y : Nat) : Bool × FFlags :=
  let a := t.val x; let b := t.val y
  (a.lt b, if a.isNan || b.isNan then flagNV else 0)
def fpLe (t : Fmt) (x y : Nat) : Bool × FFlags :=
  let a := t.val x; let b := t.val y
  (a.lt b || a.same b, if a.isNan || b.isNan then flagNV else 0)

/-- x · y + z rounded once; `np` negates the product, `nz` the addend. -/
def fpFma (t : Fmt) (r : Rnd) (np nz : Bool) (x y z : Nat) : FRes :=
  let sp := (t.signOf x != t.signOf y) != np
  let bad : FVal → FVal → Bool := fun a b => match a, b with
    | .inf _, .fin _ m _ => m == 0
    | .fin _ m _, .inf _ => m == 0
    | _, _ => false
  let a := t.val x; let b := t.val y; let c := t.val z
  if bad a b then
    (t.nan, if c.isNan && !c.isSnan then (if Config.fmaNanInvalid then flagNV else 0) else flagNV)
  else if a.isNan || b.isNan || c.isNan then nanOf t [a, b, c]
  else
    let isInf : FVal → Bool := fun v => match v with | .inf _ => true | _ => false
    let sc := t.signOf z != nz
    if isInf a || isInf b then (if isInf c && sc != sp then invalid t else (t.sgn sp + t.inf, 0))
    else match a, b, c with
      | .fin _ m1 e1, .fin _ m2 e2, .fin _ m3 e3 =>
        let v := addExact sp (m1 * m2) (e1 + e2) sc m3 e3
        roundInt t r (if m1 * m2 = 0 ∧ m3 = 0 ∧ sp = sc then sp else zeroSign r) v.1 v.2
      | _, _, _ => (t.sgn sc + t.inf, 0)

/-- The value of a term of an exact sum: none for infinities, which are kept by sign. -/
def termOf (np : Bool) (a b : FVal) (s : Bool) : FVal :=
  match a, b with
  | .fin _ m1 e1, .fin _ m2 e2 => .fin (s != np) (m1 * m2) (e1 + e2)
  | .inf _, .fin _ m _ => if m = 0 then .nan true else .inf s
  | .fin _ m _, .inf _ => if m = 0 then .nan true else .inf s
  | .inf _, .inf _ => .inf s
  | x, y => if x.isSnan || y.isSnan then .nan true else .nan false

/-- Two exact finite values summed, as one. -/
def FVal.plus : FVal → FVal → FVal
  | .fin s1 m1 e1, .fin s2 m2 e2 =>
    let v := addExact s1 m1 e1 s2 m2 e2
    if v.1 = 0 then .fin (s1 && s2) 0 0 else .fin (decide (v.1 < 0)) v.1.natAbs v.2
  | .inf a, .inf b => if a = b then .inf a else .nan true
  | .inf a, .fin _ _ _ => .inf a
  | .fin _ _ _, .inf b => .inf b
  | x, y => if x.isSnan || y.isSnan then .nan true else .nan false

/-- A value encoded, rounded to nearest even. -/
def FVal.enc (t : Fmt) (r : Rnd) : FVal → FRes
  | .nan s => (t.nan, if s then flagNV else 0)
  | .inf s => (t.sgn s + t.inf, 0)
  | .fin s m e => roundVal t r s m e

/-- One lane of VBDOT: z + a·c + b·d, rounded once to nearest even. Whether a quiet NaN beside an invalid product or a
difference of infinities still signals invalid is the model's choice (log entry 102). -/
def bdot (z x y : Nat) : FRes :=
  let v := fun (n : Nat) => bfloat16.val n
  let p := fun (i j : Nat) => termOf false (v i) (v j) (bfloat16.signOf i != bfloat16.signOf j)
  (((binary32.val z).plus (p (x % 65536) (y % 65536))).plus (p (x / 65536) (y / 65536))).enc binary32 .even

/-- A conversion between formats. -/
def fpCvt (a b : Fmt) (r : Rnd) (x : Nat) : FRes := (a.val x).enc b r

/-- A conversion to a signed integer of `n` bits, toward zero, saturating (R96). -/
def fpToInt (t : Fmt) (n x : Nat) : FRes :=
  let hi := 2 ^ (n - 1) - 1
  let lo := 2 ^ (n - 1)
  match t.val x with
  | .nan _ => (hi, flagNV)
  | .inf s => (if s then lo else hi, flagNV)
  | .fin s m e =>
    let (q, nx) := roundTo .zero s m e 0
    let fl : FFlags := if nx && Config.toIntInexact then flagNX else 0
    if s then (if lo < q then (lo, flagNV) else ((2 ^ n - q) % 2 ^ n, fl))
    else if hi < q then (hi, flagNV) else (q, fl)

/-- A signed integer of `n` bits converted to a format. -/
def intToFp (t : Fmt) (r : Rnd) (n x : Nat) : FRes :=
  let v := toSigned n x
  roundInt t r false v 0

end Sys2Proof.Machine
end

