-- ==== Sys2Proof/Machine/Vector.lean ====
section
/-! DEFINITION. Vector integer and permute instructions (R97, R98), vector and scalar floating point (R95), fused
multiply-add, conversions and moves (R95, R96). -/

namespace Sys2Proof.Machine

/-! ### Vector integer -/

/-- A lane operation on numbers of b bits. -/
def State.vint (s : State) (x : Issue) (w : BitVec 2) (vd vs1 vs2 : BitVec 5) (f : Nat → Nat → Nat → Nat) : State :=
  let b := laneBits w
  s.run x {} (plain fun _ k =>
    k.wv vd (ofLanes b (laneCount w) fun i => f b (lane b (k.rv vs1) i) (lane b (k.rv vs2) i)))

def execVadd (x : Issue) (w : BitVec 2) (vd vs1 vs2 : BitVec 5) (s : State) : Host.Outcome State Fault Refusal :=
  .next (s.vint x w vd vs1 vs2 (fun _ a c => a + c))
def execVsub (x : Issue) (w : BitVec 2) (vd vs1 vs2 : BitVec 5) (s : State) : Host.Outcome State Fault Refusal :=
  .next (s.vint x w vd vs1 vs2 (fun b a c => a + 2 ^ b - c))
def execVmul (x : Issue) (w : BitVec 2) (vd vs1 vs2 : BitVec 5) (s : State) : Host.Outcome State Fault Refusal :=
  .next (s.vint x w vd vs1 vs2 (fun _ a c => a * c))
def execVand (x : Issue) (w : BitVec 2) (vd vs1 vs2 : BitVec 5) (s : State) : Host.Outcome State Fault Refusal :=
  .next (s.vint x w vd vs1 vs2 (fun _ a c => a &&& c))
def execVor (x : Issue) (w : BitVec 2) (vd vs1 vs2 : BitVec 5) (s : State) : Host.Outcome State Fault Refusal :=
  .next (s.vint x w vd vs1 vs2 (fun _ a c => a ||| c))
def execVxor (x : Issue) (w : BitVec 2) (vd vs1 vs2 : BitVec 5) (s : State) : Host.Outcome State Fault Refusal :=
  .next (s.vint x w vd vs1 vs2 (fun _ a c => a ^^^ c))
def execVsll (x : Issue) (w : BitVec 2) (vd vs1 vs2 : BitVec 5) (s : State) : Host.Outcome State Fault Refusal :=
  .next (s.vint x w vd vs1 vs2 (fun b a c => a * 2 ^ (c % b)))
def execVsrl (x : Issue) (w : BitVec 2) (vd vs1 vs2 : BitVec 5) (s : State) : Host.Outcome State Fault Refusal :=
  .next (s.vint x w vd vs1 vs2 (fun b a c => a / 2 ^ (c % b)))
def execVsra (x : Issue) (w : BitVec 2) (vd vs1 vs2 : BitVec 5) (s : State) : Host.Outcome State Fault Refusal :=
  .next (s.vint x w vd vs1 vs2 (fun b a c => ofSigned b (toSigned b a / 2 ^ (c % b))))
def execVmin (x : Issue) (w : BitVec 2) (vd vs1 vs2 : BitVec 5) (s : State) : Host.Outcome State Fault Refusal :=
  .next (s.vint x w vd vs1 vs2 (fun b a c => if toSigned b a < toSigned b c then a else c))
def execVminu (x : Issue) (w : BitVec 2) (vd vs1 vs2 : BitVec 5) (s : State) : Host.Outcome State Fault Refusal :=
  .next (s.vint x w vd vs1 vs2 (fun _ a c => min a c))
def execVmax (x : Issue) (w : BitVec 2) (vd vs1 vs2 : BitVec 5) (s : State) : Host.Outcome State Fault Refusal :=
  .next (s.vint x w vd vs1 vs2 (fun b a c => if toSigned b a < toSigned b c then c else a))
def execVmaxu (x : Issue) (w : BitVec 2) (vd vs1 vs2 : BitVec 5) (s : State) : Host.Outcome State Fault Refusal :=
  .next (s.vint x w vd vs1 vs2 (fun _ a c => max a c))
def execVcmpeq (x : Issue) (w : BitVec 2) (vd vs1 vs2 : BitVec 5) (s : State) : Host.Outcome State Fault Refusal :=
  .next (s.vint x w vd vs1 vs2 (fun b a c => maskLane b (a == c)))
def execVcmplt (x : Issue) (w : BitVec 2) (vd vs1 vs2 : BitVec 5) (s : State) : Host.Outcome State Fault Refusal :=
  .next (s.vint x w vd vs1 vs2 (fun b a c => maskLane b (decide (toSigned b a < toSigned b c))))
def execVcmpltu (x : Issue) (w : BitVec 2) (vd vs1 vs2 : BitVec 5) (s : State) : Host.Outcome State Fault Refusal :=
  .next (s.vint x w vd vs1 vs2 (fun b a c => maskLane b (decide (a < c))))

/-! ### Permute -/

def execVsel (x : Issue) (vd vs1 vs2 vs3 : BitVec 5) (s : State) : Host.Outcome State Fault Refusal :=
  .next (s.run x {} (plain fun _ k => k.wv vd ((k.rv vs1 &&& k.rv vs3) ||| (k.rv vs2 &&& ~~~(k.rv vs3)))))

def execVpermb (x : Issue) (vd vs1 vs2 : BitVec 5) (s : State) : Host.Outcome State Fault Refusal :=
  .next (s.run x {} (plain fun _ k => k.wv vd (ofLanes 8 32 fun i =>
    let j := lane 8 (k.rv vs2) i
    if 128 ≤ j then 0 else lane 8 (k.rv vs1) (j % 32))))

def execVbcast (x : Issue) (w : BitVec 2) (vd vs1 : BitVec 5) (s : State) : Host.Outcome State Fault Refusal :=
  .next (s.run x {} (plain fun _ k => k.wv vd (ofLanes (laneBits w) (laneCount w) fun _ => (k.rg vs1).toNat)))

/-- A body, or ILLEGAL_INSTR where the encoding is not defined. -/
def ifDefined (ok : Bool) (body : Nat → Act Done) (c : Nat) : Act Done := if ok then body c else .fail illegal

def execVins (x : Issue) (w : BitVec 2) (vd vs1 n : BitVec 5) (s : State) : Host.Outcome State Fault Refusal :=
  let b := laneBits w
  .next (s.run x {} (ifDefined (decide (n.toNat < laneCount w)) (plain fun _ k =>
    k.wv vd (ofLanes b (laneCount w) fun i => if i = n.toNat then (k.rg vs1).toNat else lane b (k.rv vd) i))))

def execVext (x : Issue) (w : BitVec 2) (vd vs1 n : BitVec 5) (s : State) : Host.Outcome State Fault Refusal :=
  .next (s.run x {} (ifDefined (decide (n.toNat < laneCount w)) (plain fun _ k =>
    k.wg vd (dw (lane (laneBits w) (k.rv vs1) n.toNat)))))

def execVredadd (x : Issue) (w : BitVec 2) (vd vs1 : BitVec 5) (s : State) : Host.Outcome State Fault Refusal :=
  .next (s.run x {} (plain fun _ k =>
    k.wg vd (dw ((List.range (laneCount w)).foldl (fun a i => a + lane (laneBits w) (k.rv vs1) i) 0))))

/-! ### Floating point on every lane, or on lane 0 -/

/-- The format that w names: 0b10 binary32, 0b11 binary64; other values are not defined (R95). -/
def fmtOf (w : BitVec 2) : Fmt := if w = 2 then binary32 else binary64
def fpW (w : BitVec 2) : Bool := w == 2 || w == 3

/-- Results in lanes of b bits with their flags raised; `put` writes the result where no flag traps. -/
def fpDone (c : Nat) (l : List FRes) (put : Core → List Nat → Core) : Act Done :=
  (raiseFlags c (joinFlags (l.map fun r => r.2))).bind fun _ =>
    plain (fun _ k => put k (l.map fun r => r.1)) c

/-- Every lane of vd from the lanes of its sources and of vd itself. -/
def vfp (w : BitVec 2) (vd : BitVec 5) (f : Fmt → Core → Nat → FRes) (c : Nat) : Act Done :=
  ifDefined (fpW w) (fun c => .with fun s =>
    let b := laneBits w
    fpDone c ((List.range (laneCount w)).map (f (fmtOf w) (s.core c)))
      fun k l => k.wv vd (ofLanes b (laneCount w) fun i => l.getD i 0)) c

/-- Lane 0 of a register in a format. -/
def Core.f0 (k : Core) (t : Fmt) (r : BitVec 5) : Nat := lane t.width (k.rv r) 0

/-- Lane 0 of vd, higher bits zero (R71). -/
def sfp (w : BitVec 2) (vd : BitVec 5) (f : Fmt → Core → FRes) (c : Nat) : Act Done :=
  ifDefined (fpW w) (fun c => .with fun s =>
    fpDone c [f (fmtOf w) (s.core c)] fun k l => k.wv vd (lane0 (laneBits w) (l.getD 0 0))) c

def State.vfp2 (s : State) (x : Issue) (w : BitVec 2) (vd vs1 vs2 : BitVec 5) (f : Fmt → Rnd → Nat → Nat → FRes) : State :=
  let b := laneBits w
  s.run x {} (vfp w vd fun t k i => f t k.rnd (lane b (k.rv vs1) i) (lane b (k.rv vs2) i))
def State.sfp2 (s : State) (x : Issue) (w : BitVec 2) (vd vs1 vs2 : BitVec 5) (f : Fmt → Rnd → Nat → Nat → FRes) : State :=
  s.run x {} (sfp w vd fun t k => f t k.rnd (k.f0 t vs1) (k.f0 t vs2))

/-- A compare as a lane mask. -/
def maskRes (f : Fmt → Nat → Nat → Bool × FFlags) (t : Fmt) (_ : Rnd) (a b : Nat) : FRes :=
  let p := f t a b; (maskLane t.width p.1, p.2)
/-- A scalar compare writes g[vd] with 1 or 0. -/
def State.sfpCmp (s : State) (x : Issue) (w : BitVec 2) (vd vs1 vs2 : BitVec 5) (f : Fmt → Nat → Nat → Bool × FFlags) :
    State :=
  s.run x {} (ifDefined (fpW w) fun c => .with fun s =>
    let k := s.core c
    let p := f (fmtOf w) (k.f0 (fmtOf w) vs1) (k.f0 (fmtOf w) vs2)
    fpDone c [(b2n p.1, p.2)] fun k l => k.wg vd (dw (l.getD 0 0)))

/-! ### VFP and SFP -/

def execVfadd (x : Issue) (w : BitVec 2) (vd vs1 vs2 : BitVec 5) (s : State) : Host.Outcome State Fault Refusal :=
  .next (s.vfp2 x w vd vs1 vs2 (fpAdd))
def execSfpAdd (x : Issue) (w : BitVec 2) (vd vs1 vs2 : BitVec 5) (s : State) : Host.Outcome State Fault Refusal :=
  .next (s.sfp2 x w vd vs1 vs2 (fpAdd))
def execVfsub (x : Issue) (w : BitVec 2) (vd vs1 vs2 : BitVec 5) (s : State) : Host.Outcome State Fault Refusal :=
  .next (s.vfp2 x w vd vs1 vs2 (fpSub))
def execSfpSub (x : Issue) (w : BitVec 2) (vd vs1 vs2 : BitVec 5) (s : State) : Host.Outcome State Fault Refusal :=
  .next (s.sfp2 x w vd vs1 vs2 (fpSub))
def execVfmul (x : Issue) (w : BitVec 2) (vd vs1 vs2 : BitVec 5) (s : State) : Host.Outcome State Fault Refusal :=
  .next (s.vfp2 x w vd vs1 vs2 (fpMul))
def execSfpMul (x : Issue) (w : BitVec 2) (vd vs1 vs2 : BitVec 5) (s : State) : Host.Outcome State Fault Refusal :=
  .next (s.sfp2 x w vd vs1 vs2 (fpMul))
def execVfdiv (x : Issue) (w : BitVec 2) (vd vs1 vs2 : BitVec 5) (s : State) : Host.Outcome State Fault Refusal :=
  .next (s.vfp2 x w vd vs1 vs2 (fpDiv))
def execSfpDiv (x : Issue) (w : BitVec 2) (vd vs1 vs2 : BitVec 5) (s : State) : Host.Outcome State Fault Refusal :=
  .next (s.sfp2 x w vd vs1 vs2 (fpDiv))
def execVfmin (x : Issue) (w : BitVec 2) (vd vs1 vs2 : BitVec 5) (s : State) : Host.Outcome State Fault Refusal :=
  .next (s.vfp2 x w vd vs1 vs2 (fun t _ => fpMin t))
def execSfpMin (x : Issue) (w : BitVec 2) (vd vs1 vs2 : BitVec 5) (s : State) : Host.Outcome State Fault Refusal :=
  .next (s.sfp2 x w vd vs1 vs2 (fun t _ => fpMin t))
def execVfmax (x : Issue) (w : BitVec 2) (vd vs1 vs2 : BitVec 5) (s : State) : Host.Outcome State Fault Refusal :=
  .next (s.vfp2 x w vd vs1 vs2 (fun t _ => fpMax t))
def execSfpMax (x : Issue) (w : BitVec 2) (vd vs1 vs2 : BitVec 5) (s : State) : Host.Outcome State Fault Refusal :=
  .next (s.sfp2 x w vd vs1 vs2 (fun t _ => fpMax t))
def execVfsgnj (x : Issue) (w : BitVec 2) (vd vs1 vs2 : BitVec 5) (s : State) : Host.Outcome State Fault Refusal :=
  .next (s.vfp2 x w vd vs1 vs2 (fun t _ a b => (fpSgnj t a b, 0)))
def execSfpSgnj (x : Issue) (w : BitVec 2) (vd vs1 vs2 : BitVec 5) (s : State) : Host.Outcome State Fault Refusal :=
  .next (s.sfp2 x w vd vs1 vs2 (fun t _ a b => (fpSgnj t a b, 0)))
def execVfsqrt (x : Issue) (w : BitVec 2) (vd vs1 : BitVec 5) (s : State) : Host.Outcome State Fault Refusal :=
  .next (s.vfp2 x w vd vs1 0 (fun t r a _ => fpSqrt t r a))
def execSfpSqrt (x : Issue) (w : BitVec 2) (vd vs1 : BitVec 5) (s : State) : Host.Outcome State Fault Refusal :=
  .next (s.sfp2 x w vd vs1 0 (fun t r a _ => fpSqrt t r a))
def execVfabs (x : Issue) (w : BitVec 2) (vd vs1 : BitVec 5) (s : State) : Host.Outcome State Fault Refusal :=
  .next (s.vfp2 x w vd vs1 0 (fun t _ a _ => (fpAbs t a, 0)))
def execSfpAbs (x : Issue) (w : BitVec 2) (vd vs1 : BitVec 5) (s : State) : Host.Outcome State Fault Refusal :=
  .next (s.sfp2 x w vd vs1 0 (fun t _ a _ => (fpAbs t a, 0)))
def execVfneg (x : Issue) (w : BitVec 2) (vd vs1 : BitVec 5) (s : State) : Host.Outcome State Fault Refusal :=
  .next (s.vfp2 x w vd vs1 0 (fun t _ a _ => (fpNeg t a, 0)))
def execSfpNeg (x : Issue) (w : BitVec 2) (vd vs1 : BitVec 5) (s : State) : Host.Outcome State Fault Refusal :=
  .next (s.sfp2 x w vd vs1 0 (fun t _ a _ => (fpNeg t a, 0)))
def execVfcmpeq (x : Issue) (w : BitVec 2) (vd vs1 vs2 : BitVec 5) (s : State) : Host.Outcome State Fault Refusal :=
  .next (s.vfp2 x w vd vs1 vs2 (maskRes fpEq))
def execSfpCmpeq (x : Issue) (w : BitVec 2) (vd vs1 vs2 : BitVec 5) (s : State) : Host.Outcome State Fault Refusal :=
  .next (s.sfpCmp x w vd vs1 vs2 fpEq)
def execVfcmplt (x : Issue) (w : BitVec 2) (vd vs1 vs2 : BitVec 5) (s : State) : Host.Outcome State Fault Refusal :=
  .next (s.vfp2 x w vd vs1 vs2 (maskRes fpLt))
def execSfpCmplt (x : Issue) (w : BitVec 2) (vd vs1 vs2 : BitVec 5) (s : State) : Host.Outcome State Fault Refusal :=
  .next (s.sfpCmp x w vd vs1 vs2 fpLt)
def execVfcmple (x : Issue) (w : BitVec 2) (vd vs1 vs2 : BitVec 5) (s : State) : Host.Outcome State Fault Refusal :=
  .next (s.vfp2 x w vd vs1 vs2 (maskRes fpLe))
def execSfpCmple (x : Issue) (w : BitVec 2) (vd vs1 vs2 : BitVec 5) (s : State) : Host.Outcome State Fault Refusal :=
  .next (s.sfpCmp x w vd vs1 vs2 fpLe)

/-- VBDOT: w must be 0b10. -/
def execVbdot (x : Issue) (w : BitVec 2) (vd vs1 vs2 : BitVec 5) (s : State) : Host.Outcome State Fault Refusal :=
  .next (s.run x {} (ifDefined (w == 2) (vfp 2 vd fun _ k i =>
    bdot (lane 32 (k.rv vd) i) (lane 32 (k.rv vs1) i) (lane 32 (k.rv vs2) i))))

/-! ### FMA -/

def State.fmaV (s : State) (x : Issue) (w : BitVec 2) (vd vs1 vs2 vs3 : BitVec 5) (np nz : Bool) : State :=
  let b := laneBits w
  s.run x {} (vfp w vd fun t k i => fpFma t k.rnd np nz (lane b (k.rv vs1) i) (lane b (k.rv vs2) i) (lane b (k.rv vs3) i))
def State.fmaS (s : State) (x : Issue) (w : BitVec 2) (vd vs1 vs2 vs3 : BitVec 5) (np nz : Bool) : State :=
  s.run x {} (sfp w vd fun t k => fpFma t k.rnd np nz (k.f0 t vs1) (k.f0 t vs2) (k.f0 t vs3))

def execVfmadd (x : Issue) (w : BitVec 2) (vd vs1 vs2 vs3 : BitVec 5) (s : State) : Host.Outcome State Fault Refusal :=
  .next (s.fmaV x w vd vs1 vs2 vs3 false false)
def execFmadd (x : Issue) (w : BitVec 2) (vd vs1 vs2 vs3 : BitVec 5) (s : State) : Host.Outcome State Fault Refusal :=
  .next (s.fmaS x w vd vs1 vs2 vs3 false false)
def execVfmsub (x : Issue) (w : BitVec 2) (vd vs1 vs2 vs3 : BitVec 5) (s : State) : Host.Outcome State Fault Refusal :=
  .next (s.fmaV x w vd vs1 vs2 vs3 false true)
def execFmsub (x : Issue) (w : BitVec 2) (vd vs1 vs2 vs3 : BitVec 5) (s : State) : Host.Outcome State Fault Refusal :=
  .next (s.fmaS x w vd vs1 vs2 vs3 false true)
def execVfnmadd (x : Issue) (w : BitVec 2) (vd vs1 vs2 vs3 : BitVec 5) (s : State) : Host.Outcome State Fault Refusal :=
  .next (s.fmaV x w vd vs1 vs2 vs3 true true)
def execFnmadd (x : Issue) (w : BitVec 2) (vd vs1 vs2 vs3 : BitVec 5) (s : State) : Host.Outcome State Fault Refusal :=
  .next (s.fmaS x w vd vs1 vs2 vs3 true true)
def execVfnmsub (x : Issue) (w : BitVec 2) (vd vs1 vs2 vs3 : BitVec 5) (s : State) : Host.Outcome State Fault Refusal :=
  .next (s.fmaV x w vd vs1 vs2 vs3 true false)
def execFnmsub (x : Issue) (w : BitVec 2) (vd vs1 vs2 vs3 : BitVec 5) (s : State) : Host.Outcome State Fault Refusal :=
  .next (s.fmaS x w vd vs1 vs2 vs3 true false)

/-! ### Conversions and moves -/

/-- Lane 0 converted from one format to another. -/
def State.cvt0 (s : State) (x : Issue) (vd vs1 : BitVec 5) (a b : Fmt) : State :=
  s.run x {} fun c => .with fun s =>
    let k := s.core c
    fpDone c [fpCvt a b k.rnd (k.f0 a vs1)] fun k l => k.wv vd (lane0 b.width (l.getD 0 0))

/-- Eight lanes, from lanes of `wa` bits to lanes of `wb` bits; higher bits of vd are zero. -/
def State.cvt8 (s : State) (x : Issue) (vd vs1 : BitVec 5) (wa wb : Nat) (f : Rnd → Nat → FRes) : State :=
  s.run x {} fun c => .with fun s =>
    let k := s.core c
    fpDone c ((List.range 8).map fun i => f k.rnd (lane wa (k.rv vs1) i))
      fun k l => k.wv vd (ofLanes wb 8 fun i => l.getD i 0)

/-- Lane 0 to a general register as a signed 64-bit integer, and back. -/
def State.cvtToG (s : State) (x : Issue) (vd vs1 : BitVec 5) (t : Fmt) : State :=
  s.run x {} fun c => .with fun s =>
    fpDone c [fpToInt t 64 ((s.core c).f0 t vs1)] fun k l => k.wg vd (dw (l.getD 0 0))
def State.cvtFromG (s : State) (x : Issue) (vd vs1 : BitVec 5) (t : Fmt) : State :=
  s.run x {} fun c => .with fun s =>
    let k := s.core c
    fpDone c [intToFp t k.rnd 64 (k.rg vs1).toNat] fun k l => k.wv vd (lane0 t.width (l.getD 0 0))

def execFcvtDS (x : Issue) (vd vs1 : BitVec 5) (s : State) : Host.Outcome State Fault Refusal :=
  .next (s.cvt0 x vd vs1 binary32 binary64)
def execFcvtSD (x : Issue) (vd vs1 : BitVec 5) (s : State) : Host.Outcome State Fault Refusal :=
  .next (s.cvt0 x vd vs1 binary64 binary32)
def execFcvtSH (x : Issue) (vd vs1 : BitVec 5) (s : State) : Host.Outcome State Fault Refusal :=
  .next (s.cvt8 x vd vs1 16 32 (fpCvt binary16 binary32))
def execFcvtHS (x : Issue) (vd vs1 : BitVec 5) (s : State) : Host.Outcome State Fault Refusal :=
  .next (s.cvt8 x vd vs1 32 16 (fpCvt binary32 binary16))
def execFcvtSBf (x : Issue) (vd vs1 : BitVec 5) (s : State) : Host.Outcome State Fault Refusal :=
  .next (s.cvt8 x vd vs1 16 32 (fpCvt bfloat16 binary32))
def execFcvtBfS (x : Issue) (vd vs1 : BitVec 5) (s : State) : Host.Outcome State Fault Refusal :=
  .next (s.cvt8 x vd vs1 32 16 (fpCvt binary32 bfloat16))
def execFcvtGS (x : Issue) (vd vs1 : BitVec 5) (s : State) : Host.Outcome State Fault Refusal :=
  .next (s.cvtToG x vd vs1 binary32)
def execFcvtGD (x : Issue) (vd vs1 : BitVec 5) (s : State) : Host.Outcome State Fault Refusal :=
  .next (s.cvtToG x vd vs1 binary64)
def execFcvtSG (x : Issue) (vd vs1 : BitVec 5) (s : State) : Host.Outcome State Fault Refusal :=
  .next (s.cvtFromG x vd vs1 binary32)
def execFcvtDG (x : Issue) (vd vs1 : BitVec 5) (s : State) : Host.Outcome State Fault Refusal :=
  .next (s.cvtFromG x vd vs1 binary64)
def execVfcvtSW (x : Issue) (vd vs1 : BitVec 5) (s : State) : Host.Outcome State Fault Refusal :=
  .next (s.cvt8 x vd vs1 32 32 (fun r => intToFp binary32 r 32))
def execVfcvtWS (x : Issue) (vd vs1 : BitVec 5) (s : State) : Host.Outcome State Fault Refusal :=
  .next (s.cvt8 x vd vs1 32 32 (fun _ => fpToInt binary32 32))
def execFmvGV (x : Issue) (vd vs1 : BitVec 5) (s : State) : Host.Outcome State Fault Refusal :=
  .next (s.run x {} (plain fun _ k => k.wg vd (dw (lane 64 (k.rv vs1) 0))))
def execFmvVG (x : Issue) (vd vs1 : BitVec 5) (s : State) : Host.Outcome State Fault Refusal :=
  .next (s.run x {} (plain fun _ k => k.wv vd (lane0 64 (k.rg vs1).toNat)))

end Sys2Proof.Machine
end

