-- ==== Sys2Proof/Machine/Dispatch.lean ====
section
/-! DEFINITION. The meaning of every command: one arm for each row of the opcode table. -/

namespace Sys2Proof.Machine

/-- The effect of a command on everything but the queue of waiting commands. -/
def exec (i : Instr) (s : State) : Host.Outcome State Fault Refusal :=
  match i with
  | .pwrokRise rcvrLow testHigh => Sys2Proof.Machine.execPwrokRise rcvrLow testHigh s
  | .pwrokFall => Sys2Proof.Machine.execPwrokFall s
  | .supplyOutOfRange rail => Sys2Proof.Machine.execSupplyOutOfRange rail s
  | .warmRstLRequest => Sys2Proof.Machine.execWarmRstLRequest s
  | .warmResetDrainDeadline => Sys2Proof.Machine.execWarmResetDrainDeadline s
  | .fuseLoad => Sys2Proof.Machine.execFuseLoad s
  | .flashDiscovery octal => Sys2Proof.Machine.execFlashDiscovery octal s
  | .imageSelection => Sys2Proof.Machine.execImageSelection s
  | .imageApply applied => Sys2Proof.Machine.execImageApply applied s
  | .firmwareSelection => Sys2Proof.Machine.execFirmwareSelection s
  | .secStart => Sys2Proof.Machine.execSecStart s
  | .memoryTraining dimms cacheBad untrained cxl => Sys2Proof.Machine.execMemoryTraining dimms cacheBad untrained cxl s
  | .firmwareReserveSetup => Sys2Proof.Machine.execFirmwareReserveSetup s
  | .bootCoreRelease => Sys2Proof.Machine.execBootCoreRelease s
  | .recoveryImageReceived firmware tftp image => Sys2Proof.Machine.execRecoveryImageReceived firmware tftp image s
  | .imageUpdateTimeout => Sys2Proof.Machine.execImageUpdateTimeout s
  | .mboxCollide mb => Sys2Proof.Machine.execMboxCollide mb s
  | .mboxUnknownCode mb => Sys2Proof.Machine.execMboxUnknownCode mb s
  | .getInfo mb => Sys2Proof.Machine.execGetInfo mb s
  | .getBootstat mb => Sys2Proof.Machine.execGetBootstat mb s
  | .imageBegin mb flashOk => Sys2Proof.Machine.execImageBegin mb flashOk s
  | .imageChunk mb flashOk => Sys2Proof.Machine.execImageChunk mb flashOk s
  | .imageEnd mb flashOk => Sys2Proof.Machine.execImageEnd mb flashOk s
  | .reset mb => Sys2Proof.Machine.execReset mb s
  | .coreRelease mb => Sys2Proof.Machine.execCoreRelease mb s
  | .setPower mb => Sys2Proof.Machine.execSetPower mb s
  | .telemetryRead mb => Sys2Proof.Machine.execTelemetryRead mb s
  | .errlogRead mb => Sys2Proof.Machine.execErrlogRead mb s
  | .getSignet mb => Sys2Proof.Machine.execGetSignet mb s
  | .svnCommit mb => Sys2Proof.Machine.execSvnCommit mb s
  | .keyRevoke mb => Sys2Proof.Machine.execKeyRevoke mb s
  | .keyProgram mb => Sys2Proof.Machine.execKeyProgram mb s
  | .twRestart mb => Sys2Proof.Machine.execTwRestart mb s
  | .illegalInstr x word => Sys2Proof.Machine.execIllegalInstr x word s
  | .add x rd rs1 rs2 => Sys2Proof.Machine.execAdd x rd rs1 rs2 s
  | .sub x rd rs1 rs2 => Sys2Proof.Machine.execSub x rd rs1 rs2 s
  | .and x rd rs1 rs2 => Sys2Proof.Machine.execAnd x rd rs1 rs2 s
  | .or x rd rs1 rs2 => Sys2Proof.Machine.execOr x rd rs1 rs2 s
  | .xor x rd rs1 rs2 => Sys2Proof.Machine.execXor x rd rs1 rs2 s
  | .andn x rd rs1 rs2 => Sys2Proof.Machine.execAndn x rd rs1 rs2 s
  | .sll x rd rs1 rs2 => Sys2Proof.Machine.execSll x rd rs1 rs2 s
  | .srl x rd rs1 rs2 => Sys2Proof.Machine.execSrl x rd rs1 rs2 s
  | .sra x rd rs1 rs2 => Sys2Proof.Machine.execSra x rd rs1 rs2 s
  | .ror x rd rs1 rs2 => Sys2Proof.Machine.execRor x rd rs1 rs2 s
  | .slt x rd rs1 rs2 => Sys2Proof.Machine.execSlt x rd rs1 rs2 s
  | .sltu x rd rs1 rs2 => Sys2Proof.Machine.execSltu x rd rs1 rs2 s
  | .seq x rd rs1 rs2 => Sys2Proof.Machine.execSeq x rd rs1 rs2 s
  | .sne x rd rs1 rs2 => Sys2Proof.Machine.execSne x rd rs1 rs2 s
  | .min x rd rs1 rs2 => Sys2Proof.Machine.execMin x rd rs1 rs2 s
  | .max x rd rs1 rs2 => Sys2Proof.Machine.execMax x rd rs1 rs2 s
  | .minu x rd rs1 rs2 => Sys2Proof.Machine.execMinu x rd rs1 rs2 s
  | .maxu x rd rs1 rs2 => Sys2Proof.Machine.execMaxu x rd rs1 rs2 s
  | .clz x rd rs1 => Sys2Proof.Machine.execClz x rd rs1 s
  | .ctz x rd rs1 => Sys2Proof.Machine.execCtz x rd rs1 s
  | .popc x rd rs1 => Sys2Proof.Machine.execPopc x rd rs1 s
  | .bswap x rd rs1 => Sys2Proof.Machine.execBswap x rd rs1 s
  | .mul x rd rs1 rs2 => Sys2Proof.Machine.execMul x rd rs1 rs2 s
  | .mulh x rd rs1 rs2 => Sys2Proof.Machine.execMulh x rd rs1 rs2 s
  | .mulhu x rd rs1 rs2 => Sys2Proof.Machine.execMulhu x rd rs1 rs2 s
  | .mulhsu x rd rs1 rs2 => Sys2Proof.Machine.execMulhsu x rd rs1 rs2 s
  | .div x rd rs1 rs2 => Sys2Proof.Machine.execDiv x rd rs1 rs2 s
  | .divu x rd rs1 rs2 => Sys2Proof.Machine.execDivu x rd rs1 rs2 s
  | .rem x rd rs1 rs2 => Sys2Proof.Machine.execRem x rd rs1 rs2 s
  | .remu x rd rs1 rs2 => Sys2Proof.Machine.execRemu x rd rs1 rs2 s
  | .addi x rd rs1 imm => Sys2Proof.Machine.execAddi x rd rs1 imm s
  | .andi x rd rs1 imm => Sys2Proof.Machine.execAndi x rd rs1 imm s
  | .ori x rd rs1 imm => Sys2Proof.Machine.execOri x rd rs1 imm s
  | .xori x rd rs1 imm => Sys2Proof.Machine.execXori x rd rs1 imm s
  | .slti x rd rs1 imm => Sys2Proof.Machine.execSlti x rd rs1 imm s
  | .sltiu x rd rs1 imm => Sys2Proof.Machine.execSltiu x rd rs1 imm s
  | .lui x rd imm => Sys2Proof.Machine.execLui x rd imm s
  | .auipc x rd imm => Sys2Proof.Machine.execAuipc x rd imm s
  | .movk x rd k imm => Sys2Proof.Machine.execMovk x rd k imm s
  | .slli x rd rs1 sh => Sys2Proof.Machine.execSlli x rd rs1 sh s
  | .srli x rd rs1 sh => Sys2Proof.Machine.execSrli x rd rs1 sh s
  | .srai x rd rs1 sh => Sys2Proof.Machine.execSrai x rd rs1 sh s
  | .rori x rd rs1 sh => Sys2Proof.Machine.execRori x rd rs1 sh s
  | .beq x rs1 rs2 off => Sys2Proof.Machine.execBeq x rs1 rs2 off s
  | .bne x rs1 rs2 off => Sys2Proof.Machine.execBne x rs1 rs2 off s
  | .blt x rs1 rs2 off => Sys2Proof.Machine.execBlt x rs1 rs2 off s
  | .bge x rs1 rs2 off => Sys2Proof.Machine.execBge x rs1 rs2 off s
  | .bltu x rs1 rs2 off => Sys2Proof.Machine.execBltu x rs1 rs2 off s
  | .bgeu x rs1 rs2 off => Sys2Proof.Machine.execBgeu x rs1 rs2 off s
  | .j x off => Sys2Proof.Machine.execJ x off s
  | .jal x off => Sys2Proof.Machine.execJal x off s
  | .jalr x rd rs1 imm => Sys2Proof.Machine.execJalr x rd rs1 imm s
  | .lb x rt rb off => Sys2Proof.Machine.execLb x rt rb off s
  | .lbu x rt rb off => Sys2Proof.Machine.execLbu x rt rb off s
  | .lh x rt rb off => Sys2Proof.Machine.execLh x rt rb off s
  | .lhu x rt rb off => Sys2Proof.Machine.execLhu x rt rb off s
  | .lw x rt rb off => Sys2Proof.Machine.execLw x rt rb off s
  | .lwu x rt rb off => Sys2Proof.Machine.execLwu x rt rb off s
  | .ld x rt rb off => Sys2Proof.Machine.execLd x rt rb off s
  | .lv x rt rb off => Sys2Proof.Machine.execLv x rt rb off s
  | .lab x rt rb off => Sys2Proof.Machine.execLab x rt rb off s
  | .lah x rt rb off => Sys2Proof.Machine.execLah x rt rb off s
  | .law x rt rb off => Sys2Proof.Machine.execLaw x rt rb off s
  | .lad x rt rb off => Sys2Proof.Machine.execLad x rt rb off s
  | .flw x rt rb off => Sys2Proof.Machine.execFlw x rt rb off s
  | .fld x rt rb off => Sys2Proof.Machine.execFld x rt rb off s
  | .sb x rt rb off => Sys2Proof.Machine.execSb x rt rb off s
  | .sh x rt rb off => Sys2Proof.Machine.execSh x rt rb off s
  | .sw x rt rb off => Sys2Proof.Machine.execSw x rt rb off s
  | .sd x rt rb off => Sys2Proof.Machine.execSd x rt rb off s
  | .sv x rt rb off => Sys2Proof.Machine.execSv x rt rb off s
  | .srb x rt rb off => Sys2Proof.Machine.execSrb x rt rb off s
  | .srh x rt rb off => Sys2Proof.Machine.execSrh x rt rb off s
  | .srw x rt rb off => Sys2Proof.Machine.execSrw x rt rb off s
  | .srd x rt rb off => Sys2Proof.Machine.execSrd x rt rb off s
  | .fsw x rt rb off => Sys2Proof.Machine.execFsw x rt rb off s
  | .fsd x rt rb off => Sys2Proof.Machine.execFsd x rt rb off s
  | .swap x rd rs1 rs2 ord size8 => Sys2Proof.Machine.execSwap x rd rs1 rs2 ord size8 s
  | .aadd x rd rs1 rs2 ord size8 => Sys2Proof.Machine.execAadd x rd rs1 rs2 ord size8 s
  | .aand x rd rs1 rs2 ord size8 => Sys2Proof.Machine.execAand x rd rs1 rs2 ord size8 s
  | .aor x rd rs1 rs2 ord size8 => Sys2Proof.Machine.execAor x rd rs1 rs2 ord size8 s
  | .axor x rd rs1 rs2 ord size8 => Sys2Proof.Machine.execAxor x rd rs1 rs2 ord size8 s
  | .asmin x rd rs1 rs2 ord size8 => Sys2Proof.Machine.execAsmin x rd rs1 rs2 ord size8 s
  | .asmax x rd rs1 rs2 ord size8 => Sys2Proof.Machine.execAsmax x rd rs1 rs2 ord size8 s
  | .aumin x rd rs1 rs2 ord size8 => Sys2Proof.Machine.execAumin x rd rs1 rs2 ord size8 s
  | .aumax x rd rs1 rs2 ord size8 => Sys2Proof.Machine.execAumax x rd rs1 rs2 ord size8 s
  | .cas x rd rs1 rs2 ord size8 => Sys2Proof.Machine.execCas x rd rs1 rs2 ord size8 s
  | .casp x rd rs1 rs2 ord size8 => Sys2Proof.Machine.execCasp x rd rs1 rs2 ord size8 s
  | .vfadd x w vd vs1 vs2 => Sys2Proof.Machine.execVfadd x w vd vs1 vs2 s
  | .vfsub x w vd vs1 vs2 => Sys2Proof.Machine.execVfsub x w vd vs1 vs2 s
  | .vfmul x w vd vs1 vs2 => Sys2Proof.Machine.execVfmul x w vd vs1 vs2 s
  | .vfdiv x w vd vs1 vs2 => Sys2Proof.Machine.execVfdiv x w vd vs1 vs2 s
  | .vfsqrt x w vd vs1 => Sys2Proof.Machine.execVfsqrt x w vd vs1 s
  | .vfmin x w vd vs1 vs2 => Sys2Proof.Machine.execVfmin x w vd vs1 vs2 s
  | .vfmax x w vd vs1 vs2 => Sys2Proof.Machine.execVfmax x w vd vs1 vs2 s
  | .vfcmpeq x w vd vs1 vs2 => Sys2Proof.Machine.execVfcmpeq x w vd vs1 vs2 s
  | .vfcmplt x w vd vs1 vs2 => Sys2Proof.Machine.execVfcmplt x w vd vs1 vs2 s
  | .vfcmple x w vd vs1 vs2 => Sys2Proof.Machine.execVfcmple x w vd vs1 vs2 s
  | .vfabs x w vd vs1 => Sys2Proof.Machine.execVfabs x w vd vs1 s
  | .vfneg x w vd vs1 => Sys2Proof.Machine.execVfneg x w vd vs1 s
  | .vfsgnj x w vd vs1 vs2 => Sys2Proof.Machine.execVfsgnj x w vd vs1 vs2 s
  | .vbdot x w vd vs1 vs2 => Sys2Proof.Machine.execVbdot x w vd vs1 vs2 s
  | .sfpAdd x w vd vs1 vs2 => Sys2Proof.Machine.execSfpAdd x w vd vs1 vs2 s
  | .sfpSub x w vd vs1 vs2 => Sys2Proof.Machine.execSfpSub x w vd vs1 vs2 s
  | .sfpMul x w vd vs1 vs2 => Sys2Proof.Machine.execSfpMul x w vd vs1 vs2 s
  | .sfpDiv x w vd vs1 vs2 => Sys2Proof.Machine.execSfpDiv x w vd vs1 vs2 s
  | .sfpSqrt x w vd vs1 => Sys2Proof.Machine.execSfpSqrt x w vd vs1 s
  | .sfpMin x w vd vs1 vs2 => Sys2Proof.Machine.execSfpMin x w vd vs1 vs2 s
  | .sfpMax x w vd vs1 vs2 => Sys2Proof.Machine.execSfpMax x w vd vs1 vs2 s
  | .sfpCmpeq x w vd vs1 vs2 => Sys2Proof.Machine.execSfpCmpeq x w vd vs1 vs2 s
  | .sfpCmplt x w vd vs1 vs2 => Sys2Proof.Machine.execSfpCmplt x w vd vs1 vs2 s
  | .sfpCmple x w vd vs1 vs2 => Sys2Proof.Machine.execSfpCmple x w vd vs1 vs2 s
  | .sfpAbs x w vd vs1 => Sys2Proof.Machine.execSfpAbs x w vd vs1 s
  | .sfpNeg x w vd vs1 => Sys2Proof.Machine.execSfpNeg x w vd vs1 s
  | .sfpSgnj x w vd vs1 vs2 => Sys2Proof.Machine.execSfpSgnj x w vd vs1 vs2 s
  | .vfmadd x w vd vs1 vs2 vs3 => Sys2Proof.Machine.execVfmadd x w vd vs1 vs2 vs3 s
  | .vfmsub x w vd vs1 vs2 vs3 => Sys2Proof.Machine.execVfmsub x w vd vs1 vs2 vs3 s
  | .vfnmadd x w vd vs1 vs2 vs3 => Sys2Proof.Machine.execVfnmadd x w vd vs1 vs2 vs3 s
  | .vfnmsub x w vd vs1 vs2 vs3 => Sys2Proof.Machine.execVfnmsub x w vd vs1 vs2 vs3 s
  | .fmadd x w vd vs1 vs2 vs3 => Sys2Proof.Machine.execFmadd x w vd vs1 vs2 vs3 s
  | .fmsub x w vd vs1 vs2 vs3 => Sys2Proof.Machine.execFmsub x w vd vs1 vs2 vs3 s
  | .fnmadd x w vd vs1 vs2 vs3 => Sys2Proof.Machine.execFnmadd x w vd vs1 vs2 vs3 s
  | .fnmsub x w vd vs1 vs2 vs3 => Sys2Proof.Machine.execFnmsub x w vd vs1 vs2 vs3 s
  | .fcvtDS x vd vs1 => Sys2Proof.Machine.execFcvtDS x vd vs1 s
  | .fcvtSD x vd vs1 => Sys2Proof.Machine.execFcvtSD x vd vs1 s
  | .fcvtSH x vd vs1 => Sys2Proof.Machine.execFcvtSH x vd vs1 s
  | .fcvtHS x vd vs1 => Sys2Proof.Machine.execFcvtHS x vd vs1 s
  | .fcvtSBf x vd vs1 => Sys2Proof.Machine.execFcvtSBf x vd vs1 s
  | .fcvtBfS x vd vs1 => Sys2Proof.Machine.execFcvtBfS x vd vs1 s
  | .fcvtGS x vd vs1 => Sys2Proof.Machine.execFcvtGS x vd vs1 s
  | .fcvtGD x vd vs1 => Sys2Proof.Machine.execFcvtGD x vd vs1 s
  | .fcvtSG x vd vs1 => Sys2Proof.Machine.execFcvtSG x vd vs1 s
  | .fcvtDG x vd vs1 => Sys2Proof.Machine.execFcvtDG x vd vs1 s
  | .vfcvtSW x vd vs1 => Sys2Proof.Machine.execVfcvtSW x vd vs1 s
  | .vfcvtWS x vd vs1 => Sys2Proof.Machine.execVfcvtWS x vd vs1 s
  | .fmvGV x vd vs1 => Sys2Proof.Machine.execFmvGV x vd vs1 s
  | .fmvVG x vd vs1 => Sys2Proof.Machine.execFmvVG x vd vs1 s
  | .vadd x w vd vs1 vs2 => Sys2Proof.Machine.execVadd x w vd vs1 vs2 s
  | .vsub x w vd vs1 vs2 => Sys2Proof.Machine.execVsub x w vd vs1 vs2 s
  | .vmul x w vd vs1 vs2 => Sys2Proof.Machine.execVmul x w vd vs1 vs2 s
  | .vand x w vd vs1 vs2 => Sys2Proof.Machine.execVand x w vd vs1 vs2 s
  | .vor x w vd vs1 vs2 => Sys2Proof.Machine.execVor x w vd vs1 vs2 s
  | .vxor x w vd vs1 vs2 => Sys2Proof.Machine.execVxor x w vd vs1 vs2 s
  | .vsll x w vd vs1 vs2 => Sys2Proof.Machine.execVsll x w vd vs1 vs2 s
  | .vsrl x w vd vs1 vs2 => Sys2Proof.Machine.execVsrl x w vd vs1 vs2 s
  | .vsra x w vd vs1 vs2 => Sys2Proof.Machine.execVsra x w vd vs1 vs2 s
  | .vmin x w vd vs1 vs2 => Sys2Proof.Machine.execVmin x w vd vs1 vs2 s
  | .vminu x w vd vs1 vs2 => Sys2Proof.Machine.execVminu x w vd vs1 vs2 s
  | .vmax x w vd vs1 vs2 => Sys2Proof.Machine.execVmax x w vd vs1 vs2 s
  | .vmaxu x w vd vs1 vs2 => Sys2Proof.Machine.execVmaxu x w vd vs1 vs2 s
  | .vcmpeq x w vd vs1 vs2 => Sys2Proof.Machine.execVcmpeq x w vd vs1 vs2 s
  | .vcmplt x w vd vs1 vs2 => Sys2Proof.Machine.execVcmplt x w vd vs1 vs2 s
  | .vcmpltu x w vd vs1 vs2 => Sys2Proof.Machine.execVcmpltu x w vd vs1 vs2 s
  | .vsel x vd vs1 vs2 vs3 => Sys2Proof.Machine.execVsel x vd vs1 vs2 vs3 s
  | .vpermb x vd vs1 vs2 => Sys2Proof.Machine.execVpermb x vd vs1 vs2 s
  | .vbcast x w vd vs1 => Sys2Proof.Machine.execVbcast x w vd vs1 s
  | .vins x w vd vs1 n => Sys2Proof.Machine.execVins x w vd vs1 n s
  | .vext x w vd vs1 n => Sys2Proof.Machine.execVext x w vd vs1 n s
  | .vredadd x w vd vs1 => Sys2Proof.Machine.execVredadd x w vd vs1 s
  | .sysrd x rd num => Sys2Proof.Machine.execSysrd x rd num s
  | .syswr x num rs1 => Sys2Proof.Machine.execSyswr x num rs1 s
  | .pdtWrite x rs1 => Sys2Proof.Machine.execPdtWrite x rs1 s
  | .mattrWrite x s2 rs1 => Sys2Proof.Machine.execMattrWrite x s2 rs1 s
  | .spanRegisterWrite x s2 n part rs1 => Sys2Proof.Machine.execSpanRegisterWrite x s2 n part rs1 s
  | .timerRegisterWrite x lvl ctl rs1 => Sys2Proof.Machine.execTimerRegisterWrite x lvl ctl rs1 s
  | .ieoiWrite x lvl rs1 => Sys2Proof.Machine.execIeoiWrite x lvl rs1 s
  | .vcpuEnable x rs1 => Sys2Proof.Machine.execVcpuEnable x rs1 s
  | .vcpuWriteback x rs1 => Sys2Proof.Machine.execVcpuWriteback x rs1 s
  | .fenceL x => Sys2Proof.Machine.execFenceL x s
  | .fenceS x => Sys2Proof.Machine.execFenceS x s
  | .fenceLs x => Sys2Proof.Machine.execFenceLs x s
  | .fenceI x => Sys2Proof.Machine.execFenceI x s
  | .cmoCleanVa x rs1 => Sys2Proof.Machine.execCmoCleanVa x rs1 s
  | .cmoInvVa x rs1 => Sys2Proof.Machine.execCmoInvVa x rs1 s
  | .cmoClinvVa x rs1 => Sys2Proof.Machine.execCmoClinvVa x rs1 s
  | .cmoCleanSw x rs1 => Sys2Proof.Machine.execCmoCleanSw x rs1 s
  | .cmoInvSw x rs1 => Sys2Proof.Machine.execCmoInvSw x rs1 s
  | .cmoClinvSw x rs1 => Sys2Proof.Machine.execCmoClinvSw x rs1 s
  | .cmoPreload x rd rs1 => Sys2Proof.Machine.execCmoPreload x rd rs1 s
  | .tinvVa x rs1 rs2 => Sys2Proof.Machine.execTinvVa x rs1 rs2 s
  | .tinvAsid x rs1 => Sys2Proof.Machine.execTinvAsid x rs1 s
  | .tinvVmid x rs1 => Sys2Proof.Machine.execTinvVmid x rs1 s
  | .tinvIpa x rs1 rs2 => Sys2Proof.Machine.execTinvIpa x rs1 rs2 s
  | .tinvAll x => Sys2Proof.Machine.execTinvAll x s
  | .tsync x => Sys2Proof.Machine.execTsync x s
  | .predFlush x => Sys2Proof.Machine.execPredFlush x s
  | .predBar x => Sys2Proof.Machine.execPredBar x s
  | .predUnbar x => Sys2Proof.Machine.execPredUnbar x s
  | .scall x => Sys2Proof.Machine.execScall x s
  | .hcall x => Sys2Proof.Machine.execHcall x s
  | .tcall x => Sys2Proof.Machine.execTcall x s
  | .eret x => Sys2Proof.Machine.execEret x s
  | .wfi x => Sys2Proof.Machine.execWfi x s
  | .wfq x => Sys2Proof.Machine.execWfq x s
  | .break x => Sys2Proof.Machine.execBreak x s
  | .lkenter x rd rs1 => Sys2Proof.Machine.execLkenter x rd rs1 s
  | .lkexit x => Sys2Proof.Machine.execLkexit x s
  | .lkreport x rd rs1 rs2 => Sys2Proof.Machine.execLkreport x rd rs1 rs2 s
  | .qput x rd rs1 rs2 => Sys2Proof.Machine.execQput x rd rs1 rs2 s
  | .qputm x rd rs1 rs2 n => Sys2Proof.Machine.execQputm x rd rs1 rs2 n s
  | .qget x rd rs1 bad => Sys2Proof.Machine.execQget x rd rs1 bad s
  | .doorbell x rd rs1 => Sys2Proof.Machine.execDoorbell x rd rs1 s
  | .interruptAccept core late => Sys2Proof.Machine.execInterruptAccept core late s
  | .l2PortEscalation core => Sys2Proof.Machine.execL2PortEscalation core s
  | .l2portPfDrop core => Sys2Proof.Machine.execL2portPfDrop core s
  | .l2Prefetch core line => Sys2Proof.Machine.execL2Prefetch core line s
  | .pmcOverflow core n => Sys2Proof.Machine.execPmcOverflow core n s
  | .mergeBufferWriteout core ini => Sys2Proof.Machine.execMergeBufferWriteout core ini s
  | .committedStoreFailure core ini status => Sys2Proof.Machine.execCommittedStoreFailure core ini status s
  | .pageWalk core va acc => Sys2Proof.Machine.execPageWalk core va acc s
  | .adMarkUpdate core va acc => Sys2Proof.Machine.execAdMarkUpdate core va acc s
  | .spanMarkUpdate core va acc => Sys2Proof.Machine.execSpanMarkUpdate core va acc s
  | .dirtyLogSet core va => Sys2Proof.Machine.execDirtyLogSet core va s
  | .rdShared h pa instr err => Sys2Proof.Machine.execRdShared h pa instr err s
  | .rdUnique h pa => Sys2Proof.Machine.execRdUnique h pa s
  | .rdNc h pa count => Sys2Proof.Machine.execRdNc h pa count s
  | .wrLine h pa data victim => Sys2Proof.Machine.execWrLine h pa data victim s
  | .wrPartial h pa data mask => Sys2Proof.Machine.execWrPartial h pa data mask s
  | .victimClean h pa err => Sys2Proof.Machine.execVictimClean h pa err s
  | .atomic h pa op form operand compare => Sys2Proof.Machine.execAtomic h pa op form operand compare s
  | .msg h handle words more part1 => Sys2Proof.Machine.execMsg h handle words more part1 s
  | .qread h handle bad => Sys2Proof.Machine.execQread h handle bad s
  | .int path world vec prio lvl => Sys2Proof.Machine.execInt path world vec prio lvl s
  | .doorbellPacket h mask aux => Sys2Proof.Machine.execDoorbellPacket h mask aux s
  | .cmoClean h pa => Sys2Proof.Machine.execCmoClean h pa s
  | .cmoInv h pa => Sys2Proof.Machine.execCmoInv h pa s
  | .cmoClinv h pa => Sys2Proof.Machine.execCmoClinv h pa s
  | .preload h pa => Sys2Proof.Machine.execPreload h pa s
  | .snpShared core pa => Sys2Proof.Machine.execSnpShared core pa s
  | .snpInv core pa => Sys2Proof.Machine.execSnpInv core pa s
  | .rspData ini tag gen latency granted dpoison => Sys2Proof.Machine.execRspData ini tag gen latency granted dpoison s
  | .rspAck ini tag gen latency code => Sys2Proof.Machine.execRspAck ini tag gen latency code s
  | .rspErr ini tag gen latency status => Sys2Proof.Machine.execRspErr ini tag gen latency status s
  | .wakePause ini tag gen => Sys2Proof.Machine.execWakePause ini tag gen s
  | .wakeResume ini tag gen => Sys2Proof.Machine.execWakeResume ini tag gen s
  | .badCmdReceived stop port h cmd => Sys2Proof.Machine.execBadCmdReceived stop port h cmd s
  | .noAgentAnswer stop port h cmd pa => Sys2Proof.Machine.execNoAgentAnswer stop port h cmd pa s
  | .flitCrcMismatch l lseq => Sys2Proof.Machine.execFlitCrcMismatch l lseq s
  | .linkRetry l lseq failed => Sys2Proof.Machine.execLinkRetry l lseq failed s
  | .ageStep stop q => Sys2Proof.Machine.execAgeStep stop q s
  | .transactionTimeout ini tag performed => Sys2Proof.Machine.execTransactionTimeout ini tag performed s
  | .tagQuarantineRelease ini tag => Sys2Proof.Machine.execTagQuarantineRelease ini tag s
  | .snoopTimeout core pa => Sys2Proof.Machine.execSnoopTimeout core pa s
  | .routerWakeHold dom h what => Sys2Proof.Machine.execRouterWakeHold dom h what s
  | .wakeLimitExpiry dom => Sys2Proof.Machine.execWakeLimitExpiry dom s
  | .statWindowEnd => Sys2Proof.Machine.execStatWindowEnd s
  | .statSnap r => Sys2Proof.Machine.execStatSnap r s
  | .wayPowerRequest r n ways => Sys2Proof.Machine.execWayPowerRequest r n ways s
  | .wayPowerChangeDone n => Sys2Proof.Machine.execWayPowerChangeDone n s
  | .l3LockWrite r n ways => Sys2Proof.Machine.execL3LockWrite r n ways s
  | .wayDisable l3 idx way => Sys2Proof.Machine.execWayDisable l3 idx way s
  | .wayErrorWindowEnd l3 idx => Sys2Proof.Machine.execWayErrorWindowEnd l3 idx s
  | .arrayInitDone a => Sys2Proof.Machine.execArrayInitDone a s
  | .lkCreate core => Sys2Proof.Machine.execLkCreate core s
  | .lkAddRange core => Sys2Proof.Machine.execLkAddRange core s
  | .lkInit core => Sys2Proof.Machine.execLkInit core s
  | .lkDestroy core => Sys2Proof.Machine.execLkDestroy core s
  | .locketScrubDone l => Sys2Proof.Machine.execLocketScrubDone l s
  | .lkStatus core => Sys2Proof.Machine.execLkStatus core s
  | .lkAssign core => Sys2Proof.Machine.execLkAssign core s
  | .hallmarkReportComplete l slot => Sys2Proof.Machine.execHallmarkReportComplete l slot s
  | .ownershipInvalidation first last => Sys2Proof.Machine.execOwnershipInvalidation first last s
  | .keypartWrite r value => Sys2Proof.Machine.execKeypartWrite r value s
  | .generate r keyid => Sys2Proof.Machine.execGenerate r keyid s
  | .keyGenerateComplete => Sys2Proof.Machine.execKeyGenerateComplete s
  | .twrangeWrite r k hi value => Sys2Proof.Machine.execTwrangeWrite r k hi value s
  | .twdogKick r => Sys2Proof.Machine.execTwdogKick r s
  | .availWrite r v => Sys2Proof.Machine.execAvailWrite r v s
  | .trustedWatchdogExpiry => Sys2Proof.Machine.execTrustedWatchdogExpiry s
  | .trustedRestart own => Sys2Proof.Machine.execTrustedRestart own s
  | .extest => Sys2Proof.Machine.execExtest s
  | .idcode => Sys2Proof.Machine.execIdcode s
  | .samplePreload => Sys2Proof.Machine.execSamplePreload s
  | .clamp => Sys2Proof.Machine.execClamp s
  | .highz => Sys2Proof.Machine.execHighz s
  | .bypass => Sys2Proof.Machine.execBypass s
  | .debugHalt core => Sys2Proof.Machine.execDebugHalt core s
  | .internalScanEntry => Sys2Proof.Machine.execInternalScanEntry s
  | .debugMemoryAccess pa write => Sys2Proof.Machine.execDebugMemoryAccess pa write s
  | .msi p rid data => Sys2Proof.Machine.execMsi p rid data s
  | .virtualInterruptDelivery src vec => Sys2Proof.Machine.execVirtualInterruptDelivery src vec s
  | .routingEntryWrite r src hi value => Sys2Proof.Machine.execRoutingEntryWrite r src hi value s
  | .coreTimerDue core timer => Sys2Proof.Machine.execCoreTimerDue core timer s
  | .gatherAck r k => Sys2Proof.Machine.execGatherAck r k s
  | .qcfgWrite r t k value => Sys2Proof.Machine.execQcfgWrite r t k value s
  | .reassemblyTimeout t buf => Sys2Proof.Machine.execReassemblyTimeout t buf s
  | .claimBreak t k => Sys2Proof.Machine.execClaimBreak t k s
  | .aperturePut p via handle words poisoned => Sys2Proof.Machine.execAperturePut p via handle words poisoned s
  | .apertureGet p via handle bad => Sys2Proof.Machine.execApertureGet p via handle bad s
  | .dmChannelEnable r d c sq => Sys2Proof.Machine.execDmChannelEnable r d c sq s
  | .dmChannelDisable r d c => Sys2Proof.Machine.execDmChannelDisable r d c s
  | .dmChannelResume r d c => Sys2Proof.Machine.execDmChannelResume r d c s
  | .dmTinv r d => Sys2Proof.Machine.execDmTinv r d s
  | .copy d c bad => Sys2Proof.Machine.execCopy d c bad s
  | .fill d c bad => Sys2Proof.Machine.execFill d c bad s
  | .zero d c bad => Sys2Proof.Machine.execZero d c bad s
  | .crc32c d c bad => Sys2Proof.Machine.execCrc32c d c bad s
  | .rekey d c bad => Sys2Proof.Machine.execRekey d c bad s
  | .descriptorComplete d c => Sys2Proof.Machine.execDescriptorComplete d c s
  | .completionRetry d c => Sys2Proof.Machine.execCompletionRetry d c s
  | .patrolScrubRead n found => Sys2Proof.Machine.execPatrolScrubRead n found s
  | .mcRefresh n => Sys2Proof.Machine.execMcRefresh n s
  | .dimmTemperatureChange n slot celsius => Sys2Proof.Machine.execDimmTemperatureChange n slot celsius s
  | .softPpr n row spare => Sys2Proof.Machine.execSoftPpr n row spare s
  | .rankCopyStart n rank => Sys2Proof.Machine.execRankCopyStart n rank s
  | .rankCopyDone n => Sys2Proof.Machine.execRankCopyDone n s
  | .mirrorChannelFail n => Sys2Proof.Machine.execMirrorChannelFail n s
  | .mirrorRebuildDone n => Sys2Proof.Machine.execMirrorRebuildDone n s
  | .inboundRequest p rp t => Sys2Proof.Machine.execInboundRequest p rp t s
  | .atsTranslationRequest p rp rid addr write => Sys2Proof.Machine.execAtsTranslationRequest p rp rid addr write s
  | .invRid p => Sys2Proof.Machine.execInvRid p s
  | .invRange p => Sys2Proof.Machine.execInvRange p s
  | .invAll p => Sys2Proof.Machine.execInvAll p s
  | .atsInv p => Sys2Proof.Machine.execAtsInv p s
  | .atsInvTimeout p => Sys2Proof.Machine.execAtsInvTimeout p s
  | .wait p => Sys2Proof.Machine.execWait p s
  | .icqUnknownOp p => Sys2Proof.Machine.execIcqUnknownOp p s
  | .icqSkip r p => Sys2Proof.Machine.execIcqSkip r p s
  | .completionTimeout p rp ini tag => Sys2Proof.Machine.execCompletionTimeout p rp ini tag s
  | .l0pIdleExpiry p rp => Sys2Proof.Machine.execL0pIdleExpiry p rp s
  | .l1IdleExpiry p rp => Sys2Proof.Machine.execL1IdleExpiry p rp s
  | .linkActivityWake p => Sys2Proof.Machine.execLinkActivityWake p s
  | .surpriseLinkDown p rp => Sys2Proof.Machine.execSurpriseLinkDown p rp s
  | .rootPortUncorrectable p rp => Sys2Proof.Machine.execRootPortUncorrectable p rp s
  | .errFatal p rp => Sys2Proof.Machine.execErrFatal p rp s
  | .linkDisable p rp => Sys2Proof.Machine.execLinkDisable p rp s
  | .force r p rp => Sys2Proof.Machine.execForce r p rp s
  | .release r p rp trigger => Sys2Proof.Machine.execRelease r p rp trigger s
  | .linkUp p rp => Sys2Proof.Machine.execLinkUp p rp s
  | .epMsixSend r p func vec => Sys2Proof.Machine.execEpMsixSend r p func vec s
  | .bar2Access p func off len write => Sys2Proof.Machine.execBar2Access p func off len write s
  | .expansionRomRead p off len => Sys2Proof.Machine.execExpansionRomRead p off len s
  | .hostApertureRequest h pa write => Sys2Proof.Machine.execHostApertureRequest h pa write s
  | .flrStart p func => Sys2Proof.Machine.execFlrStart p func s
  | .flrDone p func => Sys2Proof.Machine.execFlrDone p func s
  | .perstAssert p => Sys2Proof.Machine.execPerstAssert p s
  | .perstDeassert p => Sys2Proof.Machine.execPerstDeassert p s
  | .linkDown p => Sys2Proof.Machine.execLinkDown p s
  | .bmeClear p func => Sys2Proof.Machine.execBmeClear p func s
  | .numvfChange p num => Sys2Proof.Machine.execNumvfChange p num s
  | .candleWrite r k value => Sys2Proof.Machine.execCandleWrite r k value s
  | .candleFree r k => Sys2Proof.Machine.execCandleFree r k s
  | .callocRead r => Sys2Proof.Machine.execCallocRead r s
  | .nop r cls idx => Sys2Proof.Machine.execNop r cls idx s
  | .up r cls idx => Sys2Proof.Machine.execUp r cls idx s
  | .retain r cls idx => Sys2Proof.Machine.execRetain r cls idx s
  | .down r cls idx => Sys2Proof.Machine.execDown r cls idx s
  | .legacyBusyTimeout => Sys2Proof.Machine.execLegacyBusyTimeout s
  | .hysteresisExpiry dom => Sys2Proof.Machine.execHysteresisExpiry dom s
  | .powerEntryStart dom => Sys2Proof.Machine.execPowerEntryStart dom s
  | .powerEntryCommit dom => Sys2Proof.Machine.execPowerEntryCommit dom s
  | .powerWakeStart dom src => Sys2Proof.Machine.execPowerWakeStart dom src s
  | .powerWakeComplete dom restoreOk => Sys2Proof.Machine.execPowerWakeComplete dom restoreOk s
  | .gpioInputChange pin level window => Sys2Proof.Machine.execGpioInputChange pin level window s
  | .rtPpsEdge frac => Sys2Proof.Machine.execRtPpsEdge frac s
  | .ptpSync sync => Sys2Proof.Machine.execPtpSync sync s
  | .rtuLoad r value => Sys2Proof.Machine.execRtuLoad r value s
  | .holdoverEntry => Sys2Proof.Machine.execHoldoverEntry s
  | .syncOutPulse => Sys2Proof.Machine.execSyncOutPulse s
  | .power k => Sys2Proof.Machine.execPower k s
  | .powerWidthEnd dom => Sys2Proof.Machine.execPowerWidthEnd dom s
  | .freq k => Sys2Proof.Machine.execFreq k s
  | .refresh k => Sys2Proof.Machine.execRefresh k s
  | .refreshWindowEnd n => Sys2Proof.Machine.execRefreshWindowEnd n s
  | .scrub k => Sys2Proof.Machine.execScrub k s
  | .snapshot k => Sys2Proof.Machine.execSnapshot k s
  | .routeInt k => Sys2Proof.Machine.execRouteInt k s
  | .coreInt k => Sys2Proof.Machine.execCoreInt k s
  | .pkgPower k => Sys2Proof.Machine.execPkgPower k s
  | .sdUpdate demand power => Sys2Proof.Machine.execSdUpdate demand power s
  | .fatalSequence => Sys2Proof.Machine.execFatalSequence s
  | .thermalSample edge idx centi => Sys2Proof.Machine.execThermalSample edge idx centi s
  | .thermalStep => Sys2Proof.Machine.execThermalStep s
  | .droopEvent cl => Sys2Proof.Machine.execDroopEvent cl s
  | .droopWindowEnd => Sys2Proof.Machine.execDroopWindowEnd s
  | .iftGo r tile part => Sys2Proof.Machine.execIftGo r tile part s
  | .iftAutoTest => Sys2Proof.Machine.execIftAutoTest s
  | .iftComplete fail0 fail1 failUncore => Sys2Proof.Machine.execIftComplete fail0 fail1 failUncore s
  | .fenceRequest r tileKind unfence index => Sys2Proof.Machine.execFenceRequest r tileKind unfence index s
  | .retire r tile => Sys2Proof.Machine.execRetire r tile s
  | .sliceRetireDone => Sys2Proof.Machine.execSliceRetireDone s
  | .logEntryWrite => Sys2Proof.Machine.execLogEntryWrite s
  | .correctedSummary b => Sys2Proof.Machine.execCorrectedSummary b s
  | .registerWrite r off eight value => Sys2Proof.Machine.execRegisterWrite r off eight value s
  | .scrubWindowEnd n => Sys2Proof.Machine.execScrubWindowEnd n s
  | .softPprComplete n => Sys2Proof.Machine.execSoftPprComplete n s
  | .twinCoreStopsResponding core => Sys2Proof.Machine.execTwinCoreStopsResponding core s
  | .droopRecovery cl => Sys2Proof.Machine.execDroopRecovery cl s
  | .rootPortPerstRelease p rp => Sys2Proof.Machine.execRootPortPerstRelease p rp s
  | .ringOscillatorCount tile count => Sys2Proof.Machine.execRingOscillatorCount tile count s
  | .invalidateCompletion p => Sys2Proof.Machine.execInvalidateCompletion p s
  | .inBandInterruptEnable en => Sys2Proof.Machine.execInBandInterruptEnable en s
  | .freqSupplyChange k => Sys2Proof.Machine.execFreqSupplyChange k s

end Sys2Proof.Machine
end

