-- ==== Sys2Proof/Machine/Idle.lean ====
section
/-! DEFINITION. What the block does while no command waits (log entry 1): one CD1 cycle of rack time (R410), firings that
have no action (R420), and an owed error notice (R431, log entry 12). -/

namespace Sys2Proof.Machine

/-- The notice owed longest is sent. -/
def State.payNotice (s : State) : State :=
  match s.ras.owed with
  | [] => s
  | k :: l => State.notice { s with ras := { s.ras with owed := l } } k

/-- One idle step. Without PWROK, or after a thermal trip, nothing runs. -/
def State.idle (s : State) : State :=
  if s.boot.pins.pwrok && !s.boot.pins.thermTrip then s.rtTick.llNoAction.payNotice else s

end Sys2Proof.Machine
end

