-- ==== Sys2Proof/Machine/Encoding.lean ====
section
/-! DEFINITION. Instruction words (R72-R76, R82-R106): the word of an instruction, and the instruction that a word
spells. A core fetches words; the commands of the queue carry their operands, so the step itself decodes nothing. -/

namespace Sys2Proof.Machine

/-! ### The word of an instruction -/

/-- The word of an instruction, with how it is issued. Rows that name what a SYSWR of a certain register does have the
word of SYSWR; commands that are no instruction have none. -/
def instrWord : Instr → Option (Issue × Word)
  | .illegalInstr x word => some (x, word)
  | .add x rd rs1 rs2 => some (x, wordA 0x01 rd rs1 rs2 0x00)
  | .sub x rd rs1 rs2 => some (x, wordA 0x01 rd rs1 rs2 0x01)
  | .and x rd rs1 rs2 => some (x, wordA 0x01 rd rs1 rs2 0x02)
  | .or x rd rs1 rs2 => some (x, wordA 0x01 rd rs1 rs2 0x03)
  | .xor x rd rs1 rs2 => some (x, wordA 0x01 rd rs1 rs2 0x04)
  | .andn x rd rs1 rs2 => some (x, wordA 0x01 rd rs1 rs2 0x05)
  | .sll x rd rs1 rs2 => some (x, wordA 0x01 rd rs1 rs2 0x08)
  | .srl x rd rs1 rs2 => some (x, wordA 0x01 rd rs1 rs2 0x09)
  | .sra x rd rs1 rs2 => some (x, wordA 0x01 rd rs1 rs2 0x0A)
  | .ror x rd rs1 rs2 => some (x, wordA 0x01 rd rs1 rs2 0x0B)
  | .slt x rd rs1 rs2 => some (x, wordA 0x01 rd rs1 rs2 0x10)
  | .sltu x rd rs1 rs2 => some (x, wordA 0x01 rd rs1 rs2 0x11)
  | .seq x rd rs1 rs2 => some (x, wordA 0x01 rd rs1 rs2 0x12)
  | .sne x rd rs1 rs2 => some (x, wordA 0x01 rd rs1 rs2 0x13)
  | .min x rd rs1 rs2 => some (x, wordA 0x01 rd rs1 rs2 0x18)
  | .max x rd rs1 rs2 => some (x, wordA 0x01 rd rs1 rs2 0x19)
  | .minu x rd rs1 rs2 => some (x, wordA 0x01 rd rs1 rs2 0x1A)
  | .maxu x rd rs1 rs2 => some (x, wordA 0x01 rd rs1 rs2 0x1B)
  | .clz x rd rs1 => some (x, wordA 0x01 rd rs1 0 0x20)
  | .ctz x rd rs1 => some (x, wordA 0x01 rd rs1 0 0x21)
  | .popc x rd rs1 => some (x, wordA 0x01 rd rs1 0 0x22)
  | .bswap x rd rs1 => some (x, wordA 0x01 rd rs1 0 0x23)
  | .mul x rd rs1 rs2 => some (x, wordA 0x02 rd rs1 rs2 0x00)
  | .mulh x rd rs1 rs2 => some (x, wordA 0x02 rd rs1 rs2 0x01)
  | .mulhu x rd rs1 rs2 => some (x, wordA 0x02 rd rs1 rs2 0x02)
  | .mulhsu x rd rs1 rs2 => some (x, wordA 0x02 rd rs1 rs2 0x03)
  | .div x rd rs1 rs2 => some (x, wordA 0x02 rd rs1 rs2 0x08)
  | .divu x rd rs1 rs2 => some (x, wordA 0x02 rd rs1 rs2 0x09)
  | .rem x rd rs1 rs2 => some (x, wordA 0x02 rd rs1 rs2 0x0A)
  | .remu x rd rs1 rs2 => some (x, wordA 0x02 rd rs1 rs2 0x0B)
  | .addi x rd rs1 imm => some (x, wordI 0x03 rd rs1 imm)
  | .andi x rd rs1 imm => some (x, wordI 0x04 rd rs1 imm)
  | .ori x rd rs1 imm => some (x, wordI 0x05 rd rs1 imm)
  | .xori x rd rs1 imm => some (x, wordI 0x06 rd rs1 imm)
  | .slti x rd rs1 imm => some (x, wordI 0x07 rd rs1 imm)
  | .sltiu x rd rs1 imm => some (x, wordI 0x08 rd rs1 imm)
  | .lui x rd imm => some (x, wordI 0x0A rd 0 imm)
  | .auipc x rd imm => some (x, wordI 0x0B rd 0 imm)
  | .movk x rd k imm => some (x, wordI 0x0C rd (k.zeroExtend 5) imm)
  | .slli x rd rs1 sh => some (x, wordI 0x09 rd rs1 (BitVec.ofNat 16 (0 + sh.toNat)))
  | .srli x rd rs1 sh => some (x, wordI 0x09 rd rs1 (BitVec.ofNat 16 (64 + sh.toNat)))
  | .srai x rd rs1 sh => some (x, wordI 0x09 rd rs1 (BitVec.ofNat 16 (128 + sh.toNat)))
  | .rori x rd rs1 sh => some (x, wordI 0x09 rd rs1 (BitVec.ofNat 16 (192 + sh.toNat)))
  | .beq x rs1 rs2 off => some (x, wordI 0x10 rs1 rs2 off)
  | .bne x rs1 rs2 off => some (x, wordI 0x11 rs1 rs2 off)
  | .blt x rs1 rs2 off => some (x, wordI 0x12 rs1 rs2 off)
  | .bge x rs1 rs2 off => some (x, wordI 0x13 rs1 rs2 off)
  | .bltu x rs1 rs2 off => some (x, wordI 0x14 rs1 rs2 off)
  | .bgeu x rs1 rs2 off => some (x, wordI 0x15 rs1 rs2 off)
  | .j x off => some (x, wordJ 0x0E off)
  | .jal x off => some (x, wordJ 0x0F off)
  | .jalr x rd rs1 imm => some (x, wordI 0x0D rd rs1 imm)
  | .lb x rt rb off => some (x, wordM 0x18 rt rb 0 off)
  | .lbu x rt rb off => some (x, wordM 0x18 rt rb 1 off)
  | .lh x rt rb off => some (x, wordM 0x18 rt rb 2 off)
  | .lhu x rt rb off => some (x, wordM 0x18 rt rb 3 off)
  | .lw x rt rb off => some (x, wordM 0x18 rt rb 4 off)
  | .lwu x rt rb off => some (x, wordM 0x18 rt rb 5 off)
  | .ld x rt rb off => some (x, wordM 0x18 rt rb 6 off)
  | .lv x rt rb off => some (x, wordM 0x18 rt rb 7 off)
  | .lab x rt rb off => some (x, wordM 0x18 rt rb 8 off)
  | .lah x rt rb off => some (x, wordM 0x18 rt rb 9 off)
  | .law x rt rb off => some (x, wordM 0x18 rt rb 10 off)
  | .lad x rt rb off => some (x, wordM 0x18 rt rb 11 off)
  | .flw x rt rb off => some (x, wordM 0x18 rt rb 12 off)
  | .fld x rt rb off => some (x, wordM 0x18 rt rb 13 off)
  | .sb x rt rb off => some (x, wordM 0x19 rt rb 0 off)
  | .sh x rt rb off => some (x, wordM 0x19 rt rb 2 off)
  | .sw x rt rb off => some (x, wordM 0x19 rt rb 4 off)
  | .sd x rt rb off => some (x, wordM 0x19 rt rb 6 off)
  | .sv x rt rb off => some (x, wordM 0x19 rt rb 7 off)
  | .srb x rt rb off => some (x, wordM 0x19 rt rb 8 off)
  | .srh x rt rb off => some (x, wordM 0x19 rt rb 9 off)
  | .srw x rt rb off => some (x, wordM 0x19 rt rb 10 off)
  | .srd x rt rb off => some (x, wordM 0x19 rt rb 11 off)
  | .fsw x rt rb off => some (x, wordM 0x19 rt rb 12 off)
  | .fsd x rt rb off => some (x, wordM 0x19 rt rb 13 off)
  | .swap x rd rs1 rs2 ord size8 => some (x, wordA 0x1A rd rs1 rs2 (ord.toNat * 2 ^ 9 + b2n size8 * 2 ^ 8 + 0))
  | .aadd x rd rs1 rs2 ord size8 => some (x, wordA 0x1A rd rs1 rs2 (ord.toNat * 2 ^ 9 + b2n size8 * 2 ^ 8 + 1))
  | .aand x rd rs1 rs2 ord size8 => some (x, wordA 0x1A rd rs1 rs2 (ord.toNat * 2 ^ 9 + b2n size8 * 2 ^ 8 + 2))
  | .aor x rd rs1 rs2 ord size8 => some (x, wordA 0x1A rd rs1 rs2 (ord.toNat * 2 ^ 9 + b2n size8 * 2 ^ 8 + 3))
  | .axor x rd rs1 rs2 ord size8 => some (x, wordA 0x1A rd rs1 rs2 (ord.toNat * 2 ^ 9 + b2n size8 * 2 ^ 8 + 4))
  | .asmin x rd rs1 rs2 ord size8 => some (x, wordA 0x1A rd rs1 rs2 (ord.toNat * 2 ^ 9 + b2n size8 * 2 ^ 8 + 5))
  | .asmax x rd rs1 rs2 ord size8 => some (x, wordA 0x1A rd rs1 rs2 (ord.toNat * 2 ^ 9 + b2n size8 * 2 ^ 8 + 6))
  | .aumin x rd rs1 rs2 ord size8 => some (x, wordA 0x1A rd rs1 rs2 (ord.toNat * 2 ^ 9 + b2n size8 * 2 ^ 8 + 7))
  | .aumax x rd rs1 rs2 ord size8 => some (x, wordA 0x1A rd rs1 rs2 (ord.toNat * 2 ^ 9 + b2n size8 * 2 ^ 8 + 8))
  | .cas x rd rs1 rs2 ord size8 => some (x, wordA 0x1A rd rs1 rs2 (ord.toNat * 2 ^ 9 + b2n size8 * 2 ^ 8 + 9))
  | .casp x rd rs1 rs2 ord size8 => some (x, wordA 0x1A rd rs1 rs2 (ord.toNat * 2 ^ 9 + b2n size8 * 2 ^ 8 + 10))
  | .vfadd x w vd vs1 vs2 => some (x, wordV 0x21 vd vs1 vs2 0 w 0)
  | .vfsub x w vd vs1 vs2 => some (x, wordV 0x21 vd vs1 vs2 0 w 1)
  | .vfmul x w vd vs1 vs2 => some (x, wordV 0x21 vd vs1 vs2 0 w 2)
  | .vfdiv x w vd vs1 vs2 => some (x, wordV 0x21 vd vs1 vs2 0 w 3)
  | .vfsqrt x w vd vs1 => some (x, wordV 0x21 vd vs1 0 0 w 4)
  | .vfmin x w vd vs1 vs2 => some (x, wordV 0x21 vd vs1 vs2 0 w 5)
  | .vfmax x w vd vs1 vs2 => some (x, wordV 0x21 vd vs1 vs2 0 w 6)
  | .vfcmpeq x w vd vs1 vs2 => some (x, wordV 0x21 vd vs1 vs2 0 w 7)
  | .vfcmplt x w vd vs1 vs2 => some (x, wordV 0x21 vd vs1 vs2 0 w 8)
  | .vfcmple x w vd vs1 vs2 => some (x, wordV 0x21 vd vs1 vs2 0 w 9)
  | .vfabs x w vd vs1 => some (x, wordV 0x21 vd vs1 0 0 w 10)
  | .vfneg x w vd vs1 => some (x, wordV 0x21 vd vs1 0 0 w 11)
  | .vfsgnj x w vd vs1 vs2 => some (x, wordV 0x21 vd vs1 vs2 0 w 12)
  | .vbdot x w vd vs1 vs2 => some (x, wordV 0x21 vd vs1 vs2 0 w 13)
  | .sfpAdd x w vd vs1 vs2 => some (x, wordV 0x22 vd vs1 vs2 0 w 0)
  | .sfpSub x w vd vs1 vs2 => some (x, wordV 0x22 vd vs1 vs2 0 w 1)
  | .sfpMul x w vd vs1 vs2 => some (x, wordV 0x22 vd vs1 vs2 0 w 2)
  | .sfpDiv x w vd vs1 vs2 => some (x, wordV 0x22 vd vs1 vs2 0 w 3)
  | .sfpSqrt x w vd vs1 => some (x, wordV 0x22 vd vs1 0 0 w 4)
  | .sfpMin x w vd vs1 vs2 => some (x, wordV 0x22 vd vs1 vs2 0 w 5)
  | .sfpMax x w vd vs1 vs2 => some (x, wordV 0x22 vd vs1 vs2 0 w 6)
  | .sfpCmpeq x w vd vs1 vs2 => some (x, wordV 0x22 vd vs1 vs2 0 w 7)
  | .sfpCmplt x w vd vs1 vs2 => some (x, wordV 0x22 vd vs1 vs2 0 w 8)
  | .sfpCmple x w vd vs1 vs2 => some (x, wordV 0x22 vd vs1 vs2 0 w 9)
  | .sfpAbs x w vd vs1 => some (x, wordV 0x22 vd vs1 0 0 w 10)
  | .sfpNeg x w vd vs1 => some (x, wordV 0x22 vd vs1 0 0 w 11)
  | .sfpSgnj x w vd vs1 vs2 => some (x, wordV 0x22 vd vs1 vs2 0 w 12)
  | .vfmadd x w vd vs1 vs2 vs3 => some (x, wordV 0x23 vd vs1 vs2 vs3 w 0)
  | .vfmsub x w vd vs1 vs2 vs3 => some (x, wordV 0x23 vd vs1 vs2 vs3 w 1)
  | .vfnmadd x w vd vs1 vs2 vs3 => some (x, wordV 0x23 vd vs1 vs2 vs3 w 2)
  | .vfnmsub x w vd vs1 vs2 vs3 => some (x, wordV 0x23 vd vs1 vs2 vs3 w 3)
  | .fmadd x w vd vs1 vs2 vs3 => some (x, wordV 0x23 vd vs1 vs2 vs3 w 4)
  | .fmsub x w vd vs1 vs2 vs3 => some (x, wordV 0x23 vd vs1 vs2 vs3 w 5)
  | .fnmadd x w vd vs1 vs2 vs3 => some (x, wordV 0x23 vd vs1 vs2 vs3 w 6)
  | .fnmsub x w vd vs1 vs2 vs3 => some (x, wordV 0x23 vd vs1 vs2 vs3 w 7)
  | .fcvtDS x vd vs1 => some (x, wordCvt vd vs1 0)
  | .fcvtSD x vd vs1 => some (x, wordCvt vd vs1 1)
  | .fcvtSH x vd vs1 => some (x, wordCvt vd vs1 2)
  | .fcvtHS x vd vs1 => some (x, wordCvt vd vs1 3)
  | .fcvtSBf x vd vs1 => some (x, wordCvt vd vs1 4)
  | .fcvtBfS x vd vs1 => some (x, wordCvt vd vs1 5)
  | .fcvtGS x vd vs1 => some (x, wordCvt vd vs1 6)
  | .fcvtGD x vd vs1 => some (x, wordCvt vd vs1 7)
  | .fcvtSG x vd vs1 => some (x, wordCvt vd vs1 8)
  | .fcvtDG x vd vs1 => some (x, wordCvt vd vs1 9)
  | .vfcvtSW x vd vs1 => some (x, wordCvt vd vs1 10)
  | .vfcvtWS x vd vs1 => some (x, wordCvt vd vs1 11)
  | .fmvGV x vd vs1 => some (x, wordCvt vd vs1 12)
  | .fmvVG x vd vs1 => some (x, wordCvt vd vs1 13)
  | .vadd x w vd vs1 vs2 => some (x, wordV 0x20 vd vs1 vs2 0 w 0)
  | .vsub x w vd vs1 vs2 => some (x, wordV 0x20 vd vs1 vs2 0 w 1)
  | .vmul x w vd vs1 vs2 => some (x, wordV 0x20 vd vs1 vs2 0 w 2)
  | .vand x w vd vs1 vs2 => some (x, wordV 0x20 vd vs1 vs2 0 w 3)
  | .vor x w vd vs1 vs2 => some (x, wordV 0x20 vd vs1 vs2 0 w 4)
  | .vxor x w vd vs1 vs2 => some (x, wordV 0x20 vd vs1 vs2 0 w 5)
  | .vsll x w vd vs1 vs2 => some (x, wordV 0x20 vd vs1 vs2 0 w 6)
  | .vsrl x w vd vs1 vs2 => some (x, wordV 0x20 vd vs1 vs2 0 w 7)
  | .vsra x w vd vs1 vs2 => some (x, wordV 0x20 vd vs1 vs2 0 w 8)
  | .vmin x w vd vs1 vs2 => some (x, wordV 0x20 vd vs1 vs2 0 w 9)
  | .vminu x w vd vs1 vs2 => some (x, wordV 0x20 vd vs1 vs2 0 w 10)
  | .vmax x w vd vs1 vs2 => some (x, wordV 0x20 vd vs1 vs2 0 w 11)
  | .vmaxu x w vd vs1 vs2 => some (x, wordV 0x20 vd vs1 vs2 0 w 12)
  | .vcmpeq x w vd vs1 vs2 => some (x, wordV 0x20 vd vs1 vs2 0 w 13)
  | .vcmplt x w vd vs1 vs2 => some (x, wordV 0x20 vd vs1 vs2 0 w 14)
  | .vcmpltu x w vd vs1 vs2 => some (x, wordV 0x20 vd vs1 vs2 0 w 15)
  | .vsel x vd vs1 vs2 vs3 => some (x, wordV 0x25 vd vs1 vs2 vs3 0 0)
  | .vpermb x vd vs1 vs2 => some (x, wordV 0x25 vd vs1 vs2 0 0 1)
  | .vbcast x w vd vs1 => some (x, wordV 0x25 vd vs1 0 0 w 2)
  | .vins x w vd vs1 n => some (x, wordV 0x25 vd vs1 n 0 w 3)
  | .vext x w vd vs1 n => some (x, wordV 0x25 vd vs1 n 0 w 4)
  | .vredadd x w vd vs1 => some (x, wordV 0x25 vd vs1 0 0 w 5)
  | .sysrd x rd num => some (x, wordI 0x1C rd 0 num)
  | .syswr x num rs1 => some (x, wordI 0x1D 0 rs1 num)
  | .fenceL x => some (x, wordA 0x1B 0 0 0 0x00)
  | .fenceS x => some (x, wordA 0x1B 0 0 0 0x01)
  | .fenceLs x => some (x, wordA 0x1B 0 0 0 0x02)
  | .fenceI x => some (x, wordA 0x1B 0 0 0 0x03)
  | .cmoCleanVa x rs1 => some (x, wordA 0x1B 0 rs1 0 0x10)
  | .cmoInvVa x rs1 => some (x, wordA 0x1B 0 rs1 0 0x11)
  | .cmoClinvVa x rs1 => some (x, wordA 0x1B 0 rs1 0 0x12)
  | .cmoCleanSw x rs1 => some (x, wordA 0x1B 0 rs1 0 0x14)
  | .cmoInvSw x rs1 => some (x, wordA 0x1B 0 rs1 0 0x15)
  | .cmoClinvSw x rs1 => some (x, wordA 0x1B 0 rs1 0 0x16)
  | .cmoPreload x rd rs1 => some (x, wordA 0x1B rd rs1 0 0x18)
  | .tinvVa x rs1 rs2 => some (x, wordA 0x1B 0 rs1 rs2 0x20)
  | .tinvAsid x rs1 => some (x, wordA 0x1B 0 rs1 0 0x21)
  | .tinvVmid x rs1 => some (x, wordA 0x1B 0 rs1 0 0x22)
  | .tinvIpa x rs1 rs2 => some (x, wordA 0x1B 0 rs1 rs2 0x23)
  | .tinvAll x => some (x, wordA 0x1B 0 0 0 0x24)
  | .tsync x => some (x, wordA 0x1B 0 0 0 0x25)
  | .predFlush x => some (x, wordA 0x1B 0 0 0 0x30)
  | .predBar x => some (x, wordA 0x1B 0 0 0 0x31)
  | .predUnbar x => some (x, wordA 0x1B 0 0 0 0x32)
  | .scall x => some (x, wordA 0x1E 0 0 0 0)
  | .hcall x => some (x, wordA 0x1E 0 0 0 1)
  | .tcall x => some (x, wordA 0x1E 0 0 0 2)
  | .eret x => some (x, wordA 0x1E 0 0 0 3)
  | .wfi x => some (x, wordA 0x1E 0 0 0 4)
  | .wfq x => some (x, wordA 0x1E 0 0 0 5)
  | .break x => some (x, wordA 0x1E 0 0 0 6)
  | .lkenter x rd rs1 => some (x, wordA 0x16 rd rs1 0 0)
  | .lkexit x => some (x, wordA 0x16 0 0 0 1)
  | .lkreport x rd rs1 rs2 => some (x, wordA 0x16 rd rs1 rs2 2)
  | .qput x rd rs1 rs2 => some (x, wordA 0x1F rd rs1 rs2 0)
  | .qputm x rd rs1 rs2 n => some (x, wordA 0x1F rd rs1 rs2 (n.toNat * 2 ^ 5 + 1))
  | .qget x rd rs1 false => some (x, wordA 0x1F rd rs1 0 2)
  | .doorbell x rd rs1 => some (x, wordA 0x1F rd rs1 0 3)
  | _ => none

/-! ### Fields of a word (R72) -/

def fMaj (w : Word) : Nat := w.toNat / 2 ^ 26
def fA (w : Word) : BitVec 5 := BitVec.ofNat 5 (w.toNat / 2 ^ 21)
def fB (w : Word) : BitVec 5 := BitVec.ofNat 5 (w.toNat / 2 ^ 16)
def fC (w : Word) : BitVec 5 := BitVec.ofNat 5 (w.toNat / 2 ^ 11)
def fD (w : Word) : BitVec 5 := BitVec.ofNat 5 (w.toNat / 2 ^ 6)
def fFn (w : Word) : Nat := w.toNat % 2 ^ 11
def fImm (w : Word) : BitVec 16 := BitVec.ofNat 16 w.toNat
def fMf (w : Word) : Nat := w.toNat / 2 ^ 12 % 16
def fOff12 (w : Word) : BitVec 12 := BitVec.ofNat 12 w.toNat
def fOff26 (w : Word) : BitVec 26 := BitVec.ofNat 26 w.toNat
def fW (w : Word) : BitVec 2 := BitVec.ofNat 2 (w.toNat / 2 ^ 4)

/-! ### The instruction that a word spells, by major opcode -/

/-- ALU. -/
def speltAlu (x : Issue) (w : Word)  : Instr :=
  match fFn w with
  | 0 => .add x (fA w) (fB w) (fC w)
  | 1 => .sub x (fA w) (fB w) (fC w)
  | 2 => .and x (fA w) (fB w) (fC w)
  | 3 => .or x (fA w) (fB w) (fC w)
  | 4 => .xor x (fA w) (fB w) (fC w)
  | 5 => .andn x (fA w) (fB w) (fC w)
  | 8 => .sll x (fA w) (fB w) (fC w)
  | 9 => .srl x (fA w) (fB w) (fC w)
  | 10 => .sra x (fA w) (fB w) (fC w)
  | 11 => .ror x (fA w) (fB w) (fC w)
  | 0x10 => .slt x (fA w) (fB w) (fC w)
  | 0x11 => .sltu x (fA w) (fB w) (fC w)
  | 0x12 => .seq x (fA w) (fB w) (fC w)
  | 0x13 => .sne x (fA w) (fB w) (fC w)
  | 0x18 => .min x (fA w) (fB w) (fC w)
  | 0x19 => .max x (fA w) (fB w) (fC w)
  | 0x1a => .minu x (fA w) (fB w) (fC w)
  | 0x1b => .maxu x (fA w) (fB w) (fC w)
  | 0x20 => .clz x (fA w) (fB w)
  | 0x21 => .ctz x (fA w) (fB w)
  | 0x22 => .popc x (fA w) (fB w)
  | 0x23 => .bswap x (fA w) (fB w)
  | _ => .illegalInstr x w

/-- MULDIV. -/
def speltMuldiv (x : Issue) (w : Word)  : Instr :=
  match fFn w with
  | 0 => .mul x (fA w) (fB w) (fC w)
  | 1 => .mulh x (fA w) (fB w) (fC w)
  | 2 => .mulhu x (fA w) (fB w) (fC w)
  | 3 => .mulhsu x (fA w) (fB w) (fC w)
  | 8 => .div x (fA w) (fB w) (fC w)
  | 9 => .divu x (fA w) (fB w) (fC w)
  | 10 => .rem x (fA w) (fB w) (fC w)
  | 11 => .remu x (fA w) (fB w) (fC w)
  | _ => .illegalInstr x w

/-- SHIFTI (R84). -/
def speltShift (x : Issue) (w : Word)  : Instr :=
  match w.toNat / 2 ^ 6 % 4 with
  | 0 => .slli x (fA w) (fB w) (BitVec.ofNat 6 w.toNat)
  | 1 => .srli x (fA w) (fB w) (BitVec.ofNat 6 w.toNat)
  | 2 => .srai x (fA w) (fB w) (BitVec.ofNat 6 w.toNat)
  | 3 => .rori x (fA w) (fB w) (BitVec.ofNat 6 w.toNat)
  | _ => .illegalInstr x w

/-- LOAD (R88). -/
def speltLoad (x : Issue) (w : Word)  : Instr :=
  match fMf w with
  | 0 => .lb x (fA w) (fB w) (fOff12 w)
  | 1 => .lbu x (fA w) (fB w) (fOff12 w)
  | 2 => .lh x (fA w) (fB w) (fOff12 w)
  | 3 => .lhu x (fA w) (fB w) (fOff12 w)
  | 4 => .lw x (fA w) (fB w) (fOff12 w)
  | 5 => .lwu x (fA w) (fB w) (fOff12 w)
  | 6 => .ld x (fA w) (fB w) (fOff12 w)
  | 7 => .lv x (fA w) (fB w) (fOff12 w)
  | 8 => .lab x (fA w) (fB w) (fOff12 w)
  | 9 => .lah x (fA w) (fB w) (fOff12 w)
  | 10 => .law x (fA w) (fB w) (fOff12 w)
  | 11 => .lad x (fA w) (fB w) (fOff12 w)
  | 12 => .flw x (fA w) (fB w) (fOff12 w)
  | 13 => .fld x (fA w) (fB w) (fOff12 w)
  | _ => .illegalInstr x w

/-- STORE (R88). -/
def speltStore (x : Issue) (w : Word)  : Instr :=
  match fMf w with
  | 0 => .sb x (fA w) (fB w) (fOff12 w)
  | 2 => .sh x (fA w) (fB w) (fOff12 w)
  | 4 => .sw x (fA w) (fB w) (fOff12 w)
  | 6 => .sd x (fA w) (fB w) (fOff12 w)
  | 7 => .sv x (fA w) (fB w) (fOff12 w)
  | 8 => .srb x (fA w) (fB w) (fOff12 w)
  | 9 => .srh x (fA w) (fB w) (fOff12 w)
  | 10 => .srw x (fA w) (fB w) (fOff12 w)
  | 11 => .srd x (fA w) (fB w) (fOff12 w)
  | 12 => .fsw x (fA w) (fB w) (fOff12 w)
  | 13 => .fsd x (fA w) (fB w) (fOff12 w)
  | _ => .illegalInstr x w

/-- ATOMIC (R90). -/
def speltAtomic (x : Issue) (w : Word)  : Instr :=
  match w.toNat % 2 ^ 4 with
  | 0 => .swap x (fA w) (fB w) (fC w) (BitVec.ofNat 2 (w.toNat / 2 ^ 9)) (w.toNat.testBit 8)
  | 1 => .aadd x (fA w) (fB w) (fC w) (BitVec.ofNat 2 (w.toNat / 2 ^ 9)) (w.toNat.testBit 8)
  | 2 => .aand x (fA w) (fB w) (fC w) (BitVec.ofNat 2 (w.toNat / 2 ^ 9)) (w.toNat.testBit 8)
  | 3 => .aor x (fA w) (fB w) (fC w) (BitVec.ofNat 2 (w.toNat / 2 ^ 9)) (w.toNat.testBit 8)
  | 4 => .axor x (fA w) (fB w) (fC w) (BitVec.ofNat 2 (w.toNat / 2 ^ 9)) (w.toNat.testBit 8)
  | 5 => .asmin x (fA w) (fB w) (fC w) (BitVec.ofNat 2 (w.toNat / 2 ^ 9)) (w.toNat.testBit 8)
  | 6 => .asmax x (fA w) (fB w) (fC w) (BitVec.ofNat 2 (w.toNat / 2 ^ 9)) (w.toNat.testBit 8)
  | 7 => .aumin x (fA w) (fB w) (fC w) (BitVec.ofNat 2 (w.toNat / 2 ^ 9)) (w.toNat.testBit 8)
  | 8 => .aumax x (fA w) (fB w) (fC w) (BitVec.ofNat 2 (w.toNat / 2 ^ 9)) (w.toNat.testBit 8)
  | 9 => .cas x (fA w) (fB w) (fC w) (BitVec.ofNat 2 (w.toNat / 2 ^ 9)) (w.toNat.testBit 8)
  | 10 => .casp x (fA w) (fB w) (fC w) (BitVec.ofNat 2 (w.toNat / 2 ^ 9)) (w.toNat.testBit 8)
  | _ => .illegalInstr x w

/-- MISC (R100). -/
def speltMisc (x : Issue) (w : Word)  : Instr :=
  match fFn w with
  | 0 => .fenceL x
  | 1 => .fenceS x
  | 2 => .fenceLs x
  | 3 => .fenceI x
  | 0x10 => .cmoCleanVa x (fB w)
  | 0x11 => .cmoInvVa x (fB w)
  | 0x12 => .cmoClinvVa x (fB w)
  | 0x14 => .cmoCleanSw x (fB w)
  | 0x15 => .cmoInvSw x (fB w)
  | 0x16 => .cmoClinvSw x (fB w)
  | 0x18 => .cmoPreload x (fA w) (fB w)
  | 0x20 => .tinvVa x (fB w) (fC w)
  | 0x21 => .tinvAsid x (fB w)
  | 0x22 => .tinvVmid x (fB w)
  | 0x23 => .tinvIpa x (fB w) (fC w)
  | 0x24 => .tinvAll x
  | 0x25 => .tsync x
  | 0x30 => .predFlush x
  | 0x31 => .predBar x
  | 0x32 => .predUnbar x
  | _ => .illegalInstr x w

/-- CTRL (R102). -/
def speltCtrl (x : Issue) (w : Word)  : Instr :=
  match fFn w with
  | 0 => .scall x
  | 1 => .hcall x
  | 2 => .tcall x
  | 3 => .eret x
  | 4 => .wfi x
  | 5 => .wfq x
  | 6 => .break x
  | _ => .illegalInstr x w

/-- LOCKET (R104). -/
def speltLocket (x : Issue) (w : Word)  : Instr :=
  match fFn w with
  | 0 => .lkenter x (fA w) (fB w)
  | 1 => .lkexit x
  | 2 => .lkreport x (fA w) (fB w) (fC w)
  | _ => .illegalInstr x w

/-- QUEUE (R106). -/
def speltQueue (x : Issue) (w : Word)  : Instr :=
  match w.toNat % 2 ^ 5 with
  | 0 => .qput x (fA w) (fB w) (fC w)
  | 1 => .qputm x (fA w) (fB w) (fC w) (BitVec.ofNat 6 (w.toNat / 2 ^ 5))
  | 2 => .qget x (fA w) (fB w) false
  | 3 => .doorbell x (fA w) (fB w)
  | _ => .illegalInstr x w

/-- VINT (R97). -/
def speltVint (x : Issue) (w : Word)  : Instr :=
  match w.toNat % 2 ^ 4 with
  | 0 => .vadd x (fW w) (fA w) (fB w) (fC w)
  | 1 => .vsub x (fW w) (fA w) (fB w) (fC w)
  | 2 => .vmul x (fW w) (fA w) (fB w) (fC w)
  | 3 => .vand x (fW w) (fA w) (fB w) (fC w)
  | 4 => .vor x (fW w) (fA w) (fB w) (fC w)
  | 5 => .vxor x (fW w) (fA w) (fB w) (fC w)
  | 6 => .vsll x (fW w) (fA w) (fB w) (fC w)
  | 7 => .vsrl x (fW w) (fA w) (fB w) (fC w)
  | 8 => .vsra x (fW w) (fA w) (fB w) (fC w)
  | 9 => .vmin x (fW w) (fA w) (fB w) (fC w)
  | 10 => .vminu x (fW w) (fA w) (fB w) (fC w)
  | 11 => .vmax x (fW w) (fA w) (fB w) (fC w)
  | 12 => .vmaxu x (fW w) (fA w) (fB w) (fC w)
  | 13 => .vcmpeq x (fW w) (fA w) (fB w) (fC w)
  | 14 => .vcmplt x (fW w) (fA w) (fB w) (fC w)
  | 15 => .vcmpltu x (fW w) (fA w) (fB w) (fC w)
  | _ => .illegalInstr x w

/-- VFP (R95). -/
def speltVfp (x : Issue) (w : Word)  : Instr :=
  match w.toNat % 2 ^ 4 with
  | 0 => .vfadd x (fW w) (fA w) (fB w) (fC w)
  | 1 => .vfsub x (fW w) (fA w) (fB w) (fC w)
  | 2 => .vfmul x (fW w) (fA w) (fB w) (fC w)
  | 3 => .vfdiv x (fW w) (fA w) (fB w) (fC w)
  | 4 => .vfsqrt x (fW w) (fA w) (fB w)
  | 5 => .vfmin x (fW w) (fA w) (fB w) (fC w)
  | 6 => .vfmax x (fW w) (fA w) (fB w) (fC w)
  | 7 => .vfcmpeq x (fW w) (fA w) (fB w) (fC w)
  | 8 => .vfcmplt x (fW w) (fA w) (fB w) (fC w)
  | 9 => .vfcmple x (fW w) (fA w) (fB w) (fC w)
  | 10 => .vfabs x (fW w) (fA w) (fB w)
  | 11 => .vfneg x (fW w) (fA w) (fB w)
  | 12 => .vfsgnj x (fW w) (fA w) (fB w) (fC w)
  | 13 => .vbdot x (fW w) (fA w) (fB w) (fC w)
  | _ => .illegalInstr x w

/-- SFP (R95). -/
def speltSfp (x : Issue) (w : Word)  : Instr :=
  match w.toNat % 2 ^ 4 with
  | 0 => .sfpAdd x (fW w) (fA w) (fB w) (fC w)
  | 1 => .sfpSub x (fW w) (fA w) (fB w) (fC w)
  | 2 => .sfpMul x (fW w) (fA w) (fB w) (fC w)
  | 3 => .sfpDiv x (fW w) (fA w) (fB w) (fC w)
  | 4 => .sfpSqrt x (fW w) (fA w) (fB w)
  | 5 => .sfpMin x (fW w) (fA w) (fB w) (fC w)
  | 6 => .sfpMax x (fW w) (fA w) (fB w) (fC w)
  | 7 => .sfpCmpeq x (fW w) (fA w) (fB w) (fC w)
  | 8 => .sfpCmplt x (fW w) (fA w) (fB w) (fC w)
  | 9 => .sfpCmple x (fW w) (fA w) (fB w) (fC w)
  | 10 => .sfpAbs x (fW w) (fA w) (fB w)
  | 11 => .sfpNeg x (fW w) (fA w) (fB w)
  | 12 => .sfpSgnj x (fW w) (fA w) (fB w) (fC w)
  | _ => .illegalInstr x w

/-- FMA (R95). -/
def speltFma (x : Issue) (w : Word)  : Instr :=
  match w.toNat % 2 ^ 4 with
  | 0 => .vfmadd x (fW w) (fA w) (fB w) (fC w) (fD w)
  | 1 => .vfmsub x (fW w) (fA w) (fB w) (fC w) (fD w)
  | 2 => .vfnmadd x (fW w) (fA w) (fB w) (fC w) (fD w)
  | 3 => .vfnmsub x (fW w) (fA w) (fB w) (fC w) (fD w)
  | 4 => .fmadd x (fW w) (fA w) (fB w) (fC w) (fD w)
  | 5 => .fmsub x (fW w) (fA w) (fB w) (fC w) (fD w)
  | 6 => .fnmadd x (fW w) (fA w) (fB w) (fC w) (fD w)
  | 7 => .fnmsub x (fW w) (fA w) (fB w) (fC w) (fD w)
  | _ => .illegalInstr x w

/-- VCVT (R74, R95). -/
def speltCvt (x : Issue) (w : Word)  : Instr :=
  match w.toNat % 2 ^ 6 with
  | 0 => .fcvtDS x (fA w) (fB w)
  | 1 => .fcvtSD x (fA w) (fB w)
  | 2 => .fcvtSH x (fA w) (fB w)
  | 3 => .fcvtHS x (fA w) (fB w)
  | 4 => .fcvtSBf x (fA w) (fB w)
  | 5 => .fcvtBfS x (fA w) (fB w)
  | 6 => .fcvtGS x (fA w) (fB w)
  | 7 => .fcvtGD x (fA w) (fB w)
  | 8 => .fcvtSG x (fA w) (fB w)
  | 9 => .fcvtDG x (fA w) (fB w)
  | 10 => .vfcvtSW x (fA w) (fB w)
  | 11 => .vfcvtWS x (fA w) (fB w)
  | 12 => .fmvGV x (fA w) (fB w)
  | 13 => .fmvVG x (fA w) (fB w)
  | _ => .illegalInstr x w

/-- VPERM (R97). -/
def speltPerm (x : Issue) (w : Word)  : Instr :=
  match w.toNat % 2 ^ 4 with
  | 0 => .vsel x (fA w) (fB w) (fC w) (fD w)
  | 1 => .vpermb x (fA w) (fB w) (fC w)
  | 2 => .vbcast x (fW w) (fA w) (fB w)
  | 3 => .vins x (fW w) (fA w) (fB w) (fC w)
  | 4 => .vext x (fW w) (fA w) (fB w) (fC w)
  | 5 => .vredadd x (fW w) (fA w) (fB w)
  | _ => .illegalInstr x w

/-- The instruction that a word spells (R76): ILLEGAL_INSTR where the word is not defined (R75). -/
def spelt (x : Issue) (w : Word) : Instr :=
  if !definedWord w then .illegalInstr x w
  else match fMaj w with
  | 0x01 => speltAlu x w
  | 0x02 => speltMuldiv x w
  | 0x03 => .addi x (fA w) (fB w) (fImm w)
  | 0x04 => .andi x (fA w) (fB w) (fImm w)
  | 0x05 => .ori x (fA w) (fB w) (fImm w)
  | 0x06 => .xori x (fA w) (fB w) (fImm w)
  | 0x07 => .slti x (fA w) (fB w) (fImm w)
  | 0x08 => .sltiu x (fA w) (fB w) (fImm w)
  | 0x09 => speltShift x w
  | 0x0A => .lui x (fA w) (fImm w)
  | 0x0B => .auipc x (fA w) (fImm w)
  | 0x0C => .movk x (fA w) ((fB w).truncate 2) (fImm w)
  | 0x0D => .jalr x (fA w) (fB w) (fImm w)
  | 0x0E => .j x (fOff26 w)
  | 0x0F => .jal x (fOff26 w)
  | 0x10 => .beq x (fA w) (fB w) (fImm w)
  | 0x11 => .bne x (fA w) (fB w) (fImm w)
  | 0x12 => .blt x (fA w) (fB w) (fImm w)
  | 0x13 => .bge x (fA w) (fB w) (fImm w)
  | 0x14 => .bltu x (fA w) (fB w) (fImm w)
  | 0x15 => .bgeu x (fA w) (fB w) (fImm w)
  | 0x16 => speltLocket x w
  | 0x18 => speltLoad x w
  | 0x19 => speltStore x w
  | 0x1A => speltAtomic x w
  | 0x1B => speltMisc x w
  | 0x1C => .sysrd x (fA w) (fImm w)
  | 0x1D => .syswr x (fImm w) (fB w)
  | 0x1E => speltCtrl x w
  | 0x1F => speltQueue x w
  | 0x20 => speltVint x w
  | 0x21 => speltVfp x w
  | 0x22 => speltSfp x w
  | 0x23 => speltFma x w
  | 0x24 => speltCvt x w
  | 0x25 => speltPerm x w
  | _ => .illegalInstr x w

end Sys2Proof.Machine
end

