-- ==== Sys2Proof/WellFormed.lean ====
section
/-! DEFINITION. Which commands are well formed: operands that the spec gives the command's form. An instruction is
well formed when its word is a defined encoding (R75). -/

namespace Sys2Proof

open Sys2Proof.Machine

/-- The widths of floating point: 0b10 and 0b11 (R95). -/
def fpWidth (w : BitVec 2) : Bool := w == 2 || w == 3

/-- A message packet: 1 to 32 words, and not both parts of one message at once (R328, R329). -/
def packetOk (n : Nat) (more part1 : Bool) : Bool := decide (1 ≤ n) && decide (n ≤ 32) && !(more && part1)

/-- The operand forms that the types of the operands do not settle. -/
def Instr.wf : Instr → Bool
  | .illegalInstr _ w => !definedWord w
  | .cas _ _ _ _ _ size8 => size8
  | .casp _ rd _ rs2 _ size8 => size8 && rd.toNat % 2 == 0 && rs2.toNat % 2 == 0
  | .vfadd _ w _ _ _ | .vfsub _ w _ _ _ | .vfmul _ w _ _ _ | .vfdiv _ w _ _ _ | .vfmin _ w _ _ _ | .vfmax _ w _ _ _
  | .vfcmpeq _ w _ _ _ | .vfcmplt _ w _ _ _ | .vfcmple _ w _ _ _ | .vfsgnj _ w _ _ _
  | .sfpAdd _ w _ _ _ | .sfpSub _ w _ _ _ | .sfpMul _ w _ _ _ | .sfpDiv _ w _ _ _ | .sfpMin _ w _ _ _ | .sfpMax _ w _ _ _
  | .sfpCmpeq _ w _ _ _ | .sfpCmplt _ w _ _ _ | .sfpCmple _ w _ _ _ | .sfpSgnj _ w _ _ _
  | .vfsqrt _ w _ _ | .vfabs _ w _ _ | .vfneg _ w _ _ | .sfpSqrt _ w _ _ | .sfpAbs _ w _ _ | .sfpNeg _ w _ _
  | .vfmadd _ w _ _ _ _ | .vfmsub _ w _ _ _ _ | .vfnmadd _ w _ _ _ _ | .vfnmsub _ w _ _ _ _
  | .fmadd _ w _ _ _ _ | .fmsub _ w _ _ _ _ | .fnmadd _ w _ _ _ _ | .fnmsub _ w _ _ _ _ => fpWidth w
  | .vbdot _ w _ _ _ => w == 2
  | .vins _ w _ _ n | .vext _ w _ _ n => decide (n.toNat < laneCount w)
  | .spanRegisterWrite _ s2 n _ _ => !s2 || decide (n.toNat < 8)
  | .msg _ _ ws more part1 => packetOk ws.length more part1
  | .aperturePut _ _ _ ws _ => packetOk ws.length false false
  | .atomic _ pa op form _ _ =>
    decide (op.toNat ≤ 10) && (op != 9 || form.size8) && pa.toNat % (if op = 10 then 16 else if form.size8 then 8 else 4) == 0
  | _ => true

end Sys2Proof
end

