-- ==== Sys2Proof/Safety.lean ====
section
/-! DEFINITION. What counts as a safe run, and the terms in which the statements speak of a command that completes. -/

namespace Sys2Proof

open Sys2Proof.Machine

abbrev Result := Host.Outcome State Fault Refusal

/-- A run of `k` steps that ends in a next state: no command stopped the block. -/
def SafeRun (k : Nat) (s : Machine.State) : Prop := ∃ t, core.run k s = .next t

/-- A command answers a next state, and that state has a property. -/
def Answers (o : Result) (p : State → Prop) : Prop := ∃ t, o = .next t ∧ p t

/-! ### Instructions -/

/-- The core that issues an instruction. -/
abbrev Issue.c (x : Issue) : Nat := x.core.toNat

/-- An instruction issued in `s` goes ahead: its core can run, its checks pass (R142-R145) and the fetch of its word
raises nothing (R137). `s1` is the state with what came before it, the checks and the fetch left behind. -/
def Begins (s : State) (x : Issue) (s1 : State) : Prop :=
  s.canRun x.c = true ∧
  ∃ s0 line, (s.opened x).checked x.c x.checks = (none, s0) ∧ fetch x.c x s0 = (.ok line, s1)

/-- No interrupt is offered to the core at the boundary before the instruction (R305): an exception of the instruction is
taken. `s0` is the state after the checks, to which the marks of the instruction go back (`State.unmarked`). -/
def Quiet (s : State) (x : Issue) (s0 : State) : Prop :=
  (s.opened x).checked x.c x.checks = (none, s0) ∧ s0.accept x.c = none

/-! ### The chip -/

/-- No error stands unmet in DRAM on a line (R353), and no CXL device may report poison for it (R365). -/
def CleanDram (s : State) (line : Nat) : Prop :=
  (∀ n, s.m.latent.find (n, line) = none) ∧ ∀ k, s.member (64 * line) = some k → k < 16

/-- A register access that its serving agent performs (R469, R470): it comes from no Data Mover and from no locket, the
serving agent exists, and the mesh has a way to it (R247, R266). -/
def Served (q : Req) (r : Reg) (s : State) : Prop :=
  (∀ d, q.agent ≠ .dm d) ∧ q.locket = 0 ∧ s.agentless r = false ∧
  s.pathErr (agentStop q.agent) (regStop r) (regDom r) = none

/-- A mailbox command that the Steward serves (R57, R60, R62): GO is set with its code, it is the mailbox's turn, and its
mailbox is listed for it. -/
def MailWaits (m : Fin 5) (code : Nat) (s : State) : Prop :=
  s.mbServes m code = true ∧ mbListed code m.val s.boot.cfg.nwReset = true

/-- A request is issued and reaches its destination port at once (R253-R266): its initiator may send it, its tag is free, no
packet stands in its way, and every router, link and domain on its way takes it. `p` is the packet; in `s1` its transaction
is open and its flits have crossed the links. -/
def Reaches (h : Hdr) (pa : BitVec 52) (a : Ask) (p : HeldPacket) (s s1 : State) : Prop :=
  s.requestOf h pa a = some p ∧ ∃ s0, s.openReq p = some s0 ∧ (s0.mesh.held.any fun q => q.stands p) = false ∧
    let s2 := if p.init < 256 ∨ p.pkt.dport ≠ 2 ∨ s0.physDevice p.pkt.addr.toNat then s0
              else s0.ownSeen p.pkt.src (p.pkt.addr.toNat / 4096)
    (s2.way (s2.queueFull p) s2.mesh.held s2.mesh.held p).2 = .arrives ∧
    s1 = s2.cross p.pkt p.vc (p.legs.filterMap (·.1))

/-- The request is served there: an agent stands at the port, the command is meant for it, a slice has its arrays (R21, R240,
R251). `s2` has the half TIME of a request that the home holds to memory (R259). -/
def ServedAt (p : HeldPacket) (s1 s2 : State) : Prop :=
  s1.forArrays p = false ∧ s1.noPort p.pkt.dst p.pkt.dport.toNat = false ∧
  cmdFits p.pkt.dst p.pkt.dport.toNat p.pkt.cmd.toNat = true ∧
  (lineOnly p.pkt.cmd.toNat = true → s1.physDevice p.pkt.addr.toNat = false) ∧
  s2 = if s1.asksMemory p then s1.onTxn p.key fun t => { t with inner := some (t.time / 2) } else s1

/-- A request for a line of Normal memory that its home serves; memory answers it, where it is asked (R247, R252, R266). -/
def AtHome (h : Hdr) (pa : BitVec 52) (a : Ask) (p : HeldPacket) (s s2 : State) : Prop :=
  s2.physDevice p.pkt.addr.toNat = false ∧ s2.memErr (p.pkt.addr.toNat / 64) (s2.asksMemory p) = none ∧ ∃ s1, Reaches h pa a p s s1 ∧ ServedAt p s1 s2

/-- The mesh has a way from a core to the SEC (R247, R266). -/
def ToSec (c : Nat) (s : State) : Prop := s.pathErr (tileStop (c / 2)) secStop domSec = none

/-- A core serves a locket call (R285): it runs trusted code that a TCALL with this function entered, trusted services are
available, and the isolation mode has lockets. -/
def Serves (c code : Nat) (w : WorldRet) (s : State) : Prop :=
  s.svcCall c code = some w ∧ s.avail = true ∧ s.iso ≠ .hv

/-- A service returns to its caller (R285, R296): g1 is its status, g2 on its results, the other registers are the
caller's. `s1` is the chip after the service's own effect; nothing else changes. That the command both performs the
service and returns is the model's choice (log entry 15). -/
def ReturnsTo (c : Nat) (w : WorldRet) (st : DWord) (res : List DWord) (s1 : State) (o : Result) : Prop :=
  Answers o fun t =>
    let q := t.core c
    q.run = .running ∧ q.world = false ∧ q.lvl = w.lvl ∧ q.pc = w.pc ∧ q.ie = w.ie ∧ q.wret = none ∧ q.lk = none ∧
    q.rg 1 = st ∧ (∀ i, i < res.length → q.rg (BitVec.ofNat 5 (i + 2)) = res.getD i 0) ∧
    (∀ r : BitVec 5, res.length + 2 ≤ r.toNat → q.rg r = w.g.getD r 0) ∧ q.v = w.v ∧
    (∀ d, d ≠ c → t.core d = s1.core d) ∧ t = { s1 with cores := t.cores, ucores := t.ucores }

/-! ### Cores -/

/-- The system registers that performance counting moves (R146, R147). -/
def counterReg (num : Nat) : Bool := (decide (0x60 ≤ num) && decide (num ≤ 0x69)) || num == Sys.pmovf

/-- What an instruction that goes on at the next one leaves in its core: level, world, IE, locket, what is in service,
and every system register but the counters and those that `but` names. -/
def KeptCore (but : Nat → Bool) (p q : Core) : Prop :=
  q.lvl = p.lvl ∧ q.world = p.world ∧ q.ie = p.ie ∧ q.lk = p.lk ∧ q.wret = p.wret ∧ q.barred = p.barred ∧
  q.serv = p.serv ∧ q.vcpu = p.vcpu ∧ q.mchecks = p.mchecks ∧
  ∀ num w, counterReg num = false → but num = false → q.rs num w = p.rs num w

/-- What an instruction leaves outside its core: everything but the counts of merged and of discarded interrupts, which a
counter overflow may raise (R147, R297, R303), the model's counter of free values, and its core with that core's loop buffer
and the events met. All of memory is among what is left. -/
def KeptChip (c : Nat) (s t : State) : Prop :=
  t = { s with cores := t.cores, ucores := t.ucores, csr := t.csr, free := t.free
               sec := { s.sec with discarded := t.sec.discarded } } ∧
  (∀ d, d ≠ c → t.core d = s.core d ∧ t.ucore d = s.ucore d) ∧
  t.ucore c = { s.ucore c with loop := (t.ucore c).loop, seen := (t.ucore c).seen } ∧
  ∀ r, (∀ n, r ≠ .liuMerged n) → t.reg r = s.reg r

/-- g[rd] takes a value, or nothing is written where rd is g0 (R67); execution goes on at `pc`. Every other register is
as it was in `s1`, and so is the chip outside the core. -/
def WritesG (x : Issue) (s1 : State) (rd : BitVec 5) (w pc : DWord) (o : Result) : Prop :=
  Answers o fun t =>
    (t.core x.c).pc = pc ∧
    (∀ r, (t.core x.c).rg r = if r = rd ∧ rd ≠ 0 then w else (s1.core x.c).rg r) ∧
    (∀ r, (t.core x.c).rv r = (s1.core x.c).rv r) ∧
    KeptCore (fun _ => false) (s1.core x.c) (t.core x.c) ∧ KeptChip x.c s1 t

/-- v[vd] takes a value and SYS.FCSR becomes `fcsr` (R94). -/
def WritesV (x : Issue) (s1 : State) (vd : BitVec 5) (v : VWord) (fcsr : DWord) (o : Result) : Prop :=
  Answers o fun t =>
    (t.core x.c).pc = (s1.core x.c).pc + 4 ∧
    (∀ r, (t.core x.c).rv r = if r = vd then v else (s1.core x.c).rv r) ∧
    (∀ r, (t.core x.c).rg r = (s1.core x.c).rg r) ∧
    (t.core x.c).rs Sys.fcsr = fcsr ∧
    KeptCore (fun n => n == Sys.fcsr) (s1.core x.c) (t.core x.c) ∧ KeptChip x.c s1 t

/-- No general, vector or system register changes; execution goes on at `pc`. -/
def WritesNone (x : Issue) (s1 : State) (pc : DWord) (o : Result) : Prop :=
  Answers o fun t =>
    (t.core x.c).pc = pc ∧
    (∀ r, (t.core x.c).rg r = (s1.core x.c).rg r) ∧
    (∀ r, (t.core x.c).rv r = (s1.core x.c).rv r) ∧
    KeptCore (fun _ => false) (s1.core x.c) (t.core x.c) ∧ KeptChip x.c s1 t

/-- An exception of an instruction is taken (R272, R273): from `s1`, whose core is then at no locket, the core enters
level `lvl` of `world` with cause `code`. ECAUSE, EPC, EADDR and ESTATE of that level say what happened, IE is 0, pc is the
handler's address; every other register but the performance counters keeps its value, and so does the chip outside the core;
only a counter's overflow makes an interrupt pending (R147). -/
def Takes (x : Issue) (s1 : State) (lvl : Nat) (world : Bool) (code : Nat) (eaddr : DWord) (off : Nat) (o : Result) : Prop :=
  Answers o fun t =>
    let k := s1.core x.c
    let q := t.core x.c
    let b := bankOf lvl world
    q.lvl = lvl ∧ q.world = world ∧ q.ie = false ∧ q.run = .running ∧ q.lk = none ∧ q.barred = false ∧
    q.rs (Sys.ecauseAt lvl) b = dw code ∧ q.rs (Sys.epcAt lvl) b = k.pc ∧ q.rs (Sys.eaddrAt lvl) b = eaddr ∧
    q.rs (Sys.estateAt lvl) b = dw (k.lvl + 4 * b2n k.world + 8 * b2n k.ie) ∧
    q.pc = k.rs (Sys.vbaseAt lvl) b + dw off ∧
    (∀ r, q.rg r = k.rg r) ∧ (∀ r, q.rv r = k.rv r) ∧ q.serv = k.serv ∧ q.vcpu = k.vcpu ∧
    (k.sflag Sys.pmctl false G.pmctl.OVF_IE = false → q.pend = k.pend) ∧
    (∀ num w, counterReg num = false → ¬(w = b ∧ (num = Sys.ecauseAt lvl ∨ num = Sys.epcAt lvl ∨ num = Sys.eaddrAt lvl ∨ num = Sys.estateAt lvl)) →
      q.rs num w = k.rs num w) ∧
    KeptChip x.c s1 t

/-- The level at which an exception is taken that no rule sends to L2 or L3 (R275). -/
def trapLevel (k : Core) : Nat := if k.world then (if k.lvl = 3 then 3 else 1) else max k.lvl 1

/-- Such an exception: taken in the world of the core, at offset 0 where the level stays the same, else at 0x100 (R273). -/
def Traps (x : Issue) (s1 : State) (code : Nat) (eaddr : DWord) (o : Result) : Prop :=
  let k := s1.core x.c
  Takes x s1 (trapLevel k) k.world code eaddr (if trapLevel k = k.lvl then 0 else 0x100) o

end Sys2Proof
end

