-- ==== Sys2Proof/Certificates/Slice0/Obligations.lean ====
section
/-! DEFINITION. The statements for the provers. An instruction statement speaks of `s1`, the state in which the checks and
the fetch of the instruction have left the chip (`Begins`), and says what it writes and that all else is as in `s1`; one
of an exception speaks of `s1.unmarked x.c s0`, in which the marks that the fetch set are taken back (R79). -/

open Sys2Proof Sys2Proof.Machine

/-! ### The block -/

/-- A step takes the command at the front of the queue and runs it with the rest of the queue waiting. -/
def Obligations.StepTakesFront : Prop :=
  ∀ (c : Instr) (rest : List Instr) (s : State), s.pending = c :: rest → step s = exec c { s with pending := rest }

/-- No command stops the block: every command, whatever its operands, completes from every state, and a run of any length
from any state ends in a next state. An idle step without PWROK, or after a thermal trip, changes nothing (log entry 1, the
model's choice). -/
def Obligations.EveryRunGoesOn : Prop :=
  (∀ (i : Instr) (s : State), ∃ t, exec i s = .next t) ∧
  (∀ (k : Nat) (s : State), SafeRun k s) ∧
  (∀ s : State, s.pending = [] → (s.boot.pins.pwrok = false ∨ s.boot.pins.thermTrip = true) → step s = .next s)

/-! ### Instruction words -/

/-- R72-R76, R82-R106: the word of a well-formed instruction spells that instruction, with every operand. -/
def Obligations.WordsSpellTheirInstruction : Prop :=
  ∀ (i : Instr) (x : Issue) (w : Word), instrWord i = some (x, w) → i.wf = true → spelt x w = i

/-- R75: a word spells ILLEGAL_INSTR exactly where it is no defined encoding; a defined one spells an instruction of
the tables. -/
def Obligations.UndefinedWordsAreIllegal : Prop :=
  ∀ (x y : Issue) (w v : Word), (definedWord w = false → spelt x w = .illegalInstr x w) ∧
    (definedWord w = true → spelt x w ≠ .illegalInstr y v)

/-! ### Reset and memory -/

/-- R30, R31, R393, R411, R497: the block in power-on reset: no command waits, PWROK is low, every core is held, the
domains of the Steward and of rack time are ON and no other, rack time is 0, no queue, locket, cached line or open
transaction is there, and every other register has its reset value. -/
def Obligations.ResetState : Prop :=
  let s := State.reset
  s.pending = [] ∧ s.boot.pins.pwrok = false ∧ (∀ c, (s.core c).run = .held) ∧
  s.dstate 415 = 3 ∧ s.dstate 416 = 3 ∧ (∀ n, n < 415 → s.dstate n = 0) ∧ s.now = 0 ∧
  s.qs.q = [] ∧ s.sec.lockets = [] ∧ s.coh.priv = [] ∧ s.coh.l3 = [] ∧ s.mesh.txns = [] ∧
  (∀ r, r ≠ .dom 415 → r ≠ .dom 416 → s.reg r = r.reset) ∧
  Memory.wf s.m.mem = true ∧ cellsOk 0xFF s.boot.flash = true

/-- Memory and the flash keep their canonical form over every step: addresses strictly rising, and no cell that holds
what an unlisted address reads as. -/
def Obligations.MemoryStaysCanonical : Prop :=
  ∀ s t : State, Memory.wf s.m.mem = true → cellsOk 0xFF s.boot.flash = true → step s = .next t →
    Memory.wf t.m.mem = true ∧ cellsOk 0xFF t.boot.flash = true

/-! ### Instructions of the integer majors -/

/-- R82, the ALU table: rd takes the result, and nothing else of the core or the chip changes but pc and the counts.
-/
def Obligations.AluResults : Prop :=
  ∀ (x : Issue) (rd r1 r2 : BitVec 5) (s s1 : State), Begins s x s1 →
    let a := (s1.core x.c).rg r1
    let b := (s1.core x.c).rg r2
    let n := b.toNat % 64
    let W := fun (i : Instr) (w : DWord) => WritesG x s1 rd w ((s1.core x.c).pc + 4) (exec i s)
    W (.add x rd r1 r2) (a + b) ∧ W (.sub x rd r1 r2) (a - b) ∧
    W (.and x rd r1 r2) (a &&& b) ∧ W (.or x rd r1 r2) (a ||| b) ∧ W (.xor x rd r1 r2) (a ^^^ b) ∧
    W (.andn x rd r1 r2) (a &&& ~~~b) ∧
    W (.sll x rd r1 r2) (a <<< n) ∧ W (.srl x rd r1 r2) (a >>> n) ∧ W (.sra x rd r1 r2) (a.sshiftRight n) ∧
    W (.ror x rd r1 r2) ((a >>> n) ||| (a <<< ((64 - n) % 64))) ∧
    W (.slt x rd r1 r2) (if a.toInt < b.toInt then 1 else 0) ∧ W (.sltu x rd r1 r2) (if a.toNat < b.toNat then 1 else 0) ∧
    W (.seq x rd r1 r2) (if a = b then 1 else 0) ∧ W (.sne x rd r1 r2) (if a = b then 0 else 1) ∧
    W (.min x rd r1 r2) (BitVec.ofInt 64 (min a.toInt b.toInt)) ∧
    W (.max x rd r1 r2) (BitVec.ofInt 64 (max a.toInt b.toInt)) ∧
    W (.minu x rd r1 r2) (dw (min a.toNat b.toNat)) ∧ W (.maxu x rd r1 r2) (dw (max a.toNat b.toNat)) ∧
    (∃ n, W (.clz x rd r1) (dw n) ∧ n ≤ 64 ∧ (∀ i, i < n → a.getLsbD (63 - i) = false) ∧
      (n < 64 → a.getLsbD (63 - n) = true)) ∧
    (∃ n, W (.ctz x rd r1) (dw n) ∧ n ≤ 64 ∧ (∀ i, i < n → a.getLsbD i = false) ∧ (n < 64 → a.getLsbD n = true)) ∧
    W (.popc x rd r1) (dw ((List.range 64).countP fun i => a.getLsbD i)) ∧
    ∃ w, W (.bswap x rd r1) w ∧ ∀ i, i < 8 → w.extractLsb' (8 * i) 8 = a.extractLsb' (56 - 8 * i) 8

/-- R82 and R83, the MULDIV table: a zero divisor does not trap. -/
def Obligations.MulDivResults : Prop :=
  ∀ (x : Issue) (rd r1 r2 : BitVec 5) (s s1 : State), Begins s x s1 →
    let a := (s1.core x.c).rg r1
    let b := (s1.core x.c).rg r2
    let W := fun (i : Instr) (w : DWord) => WritesG x s1 rd w ((s1.core x.c).pc + 4) (exec i s)
    W (.mul x rd r1 r2) (dw (a.toNat * b.toNat)) ∧
    W (.mulh x rd r1 r2) (BitVec.ofInt 64 (a.toInt * b.toInt / 2 ^ 64)) ∧
    W (.mulhu x rd r1 r2) (dw (a.toNat * b.toNat / 2 ^ 64)) ∧
    W (.mulhsu x rd r1 r2) (BitVec.ofInt 64 (a.toInt * (b.toNat : Int) / 2 ^ 64)) ∧
    W (.div x rd r1 r2) (if b = 0 then BitVec.ofInt 64 (-1) else BitVec.ofInt 64 (a.toInt.tdiv b.toInt)) ∧
    W (.divu x rd r1 r2) (if b = 0 then 0xFFFFFFFFFFFFFFFF#64 else dw (a.toNat / b.toNat)) ∧
    W (.rem x rd r1 r2) (if b = 0 then a else BitVec.ofInt 64 (a.toInt.tmod b.toInt)) ∧
    W (.remu x rd r1 r2) (if b = 0 then a else dw (a.toNat % b.toNat))

/-- The immediate table after R83, and R84. -/
def Obligations.ImmediateResults : Prop :=
  ∀ (x : Issue) (rd r1 : BitVec 5) (imm : BitVec 16) (k : BitVec 2) (sh : BitVec 6) (s s1 : State), Begins s x s1 →
    let q := s1.core x.c
    let a := q.rg r1
    let n := sh.toNat
    let W := fun (i : Instr) (w : DWord) => WritesG x s1 rd w (q.pc + 4) (exec i s)
    W (.addi x rd r1 imm) (a + imm.signExtend 64) ∧
    W (.andi x rd r1 imm) (a &&& imm.zeroExtend 64) ∧ W (.ori x rd r1 imm) (a ||| imm.zeroExtend 64) ∧
    W (.xori x rd r1 imm) (a ^^^ imm.zeroExtend 64) ∧
    W (.slti x rd r1 imm) (if a.toInt < imm.toInt then 1 else 0) ∧
    W (.sltiu x rd r1 imm) (if a.toNat < (imm.signExtend 64).toNat then 1 else 0) ∧
    W (.lui x rd imm) (BitVec.ofInt 64 (imm.toInt * 2 ^ 16)) ∧
    W (.auipc x rd imm) (q.pc + BitVec.ofInt 64 (imm.toInt * 2 ^ 16)) ∧
    W (.slli x rd r1 sh) (a <<< n) ∧ W (.srli x rd r1 sh) (a >>> n) ∧ W (.srai x rd r1 sh) (a.sshiftRight n) ∧
    W (.rori x rd r1 sh) ((a >>> n) ||| (a <<< ((64 - n) % 64))) ∧
    ∃ w, W (.movk x rd k imm) w ∧
      ∀ i, i < 64 → w.getLsbD i = if 16 * k.toNat ≤ i ∧ i < 16 * k.toNat + 16 then imm.getLsbD (i - 16 * k.toNat)
                                  else (q.rg rd).getLsbD i

/-- R85 and R73: a compare-and-branch writes no register; pc is the target where the condition holds, else pc + 4.
Only the branch predictor learns: `s2` is `s1` but for that. -/
def Obligations.BranchResults : Prop :=
  ∀ (x : Issue) (r1 r2 : BitVec 5) (off : BitVec 16) (s s1 : State), Begins s x s1 →
    let q := s1.core x.c
    let a := q.rg r1
    let b := q.rg r2
    let W := fun (i : Instr) (p : Bool) =>
      ∃ s2, WritesNone x s2 (if p then q.pc + BitVec.ofInt 64 (4 * off.toInt) else q.pc + 4) (exec i s) ∧
        s2 = { s1 with ucores := s2.ucores }
    W (.beq x r1 r2 off) (decide (a = b)) ∧ W (.bne x r1 r2 off) (decide (a ≠ b)) ∧
    W (.blt x r1 r2 off) (decide (a.toInt < b.toInt)) ∧ W (.bge x r1 r2 off) (decide (b.toInt ≤ a.toInt)) ∧
    W (.bltu x r1 r2 off) (decide (a.toNat < b.toNat)) ∧ W (.bgeu x r1 r2 off) (decide (b.toNat ≤ a.toNat))

/-- R86: the jumps; rd and pc are computed from the values before the instruction. R86: when target[1:0] is not 0,
JALR raises ALIGN with EADDR holding the target, and changes neither rd nor pc but by the entry (R273). -/
def Obligations.JumpResults : Prop :=
  (∀ (x : Issue) (rd r1 : BitVec 5) (imm : BitVec 16) (off : BitVec 26) (s s1 : State), Begins s x s1 →
      let q := s1.core x.c
      let t := q.pc + BitVec.ofInt 64 (4 * off.toInt)
      let u := q.rg r1 + imm.signExtend 64
      (∃ s2, WritesNone x s2 t (exec (.j x off) s) ∧ s2 = { s1 with ucores := s2.ucores }) ∧
      (∃ s2, WritesG x s2 31 (q.pc + 4) t (exec (.jal x off) s) ∧ s2 = { s1 with ucores := s2.ucores }) ∧
      (u.toNat % 4 = 0 →
        ∃ s2, WritesG x s2 rd (q.pc + 4) u (exec (.jalr x rd r1 imm) s) ∧ s2 = { s1 with ucores := s2.ucores })) ∧
  (∀ (x : Issue) (rd r1 : BitVec 5) (imm : BitVec 16) (s s0 s1 : State), Begins s x s1 → Quiet s x s0 →
      let u := (s1.core x.c).rg r1 + imm.signExtend 64
      u.toNat % 4 ≠ 0 → (s1.core x.c).lk = none → Traps x (s1.unmarked x.c s0) 0x03 u (exec (.jalr x rd r1 imm) s))

/-! ### Loads, stores, atomics -/

/-- R88, R89, R71: the bytes that the load of the address brings enter rt; acquire forms need an aligned address. `s2`
is the state after the load. -/
def Obligations.LoadResults : Prop :=
  ∀ (x : Issue) (rt rb : BitVec 5) (off : BitVec 12) (s s1 s2 : State) (v : Nat), Begins s x s1 →
    let va := (s1.core x.c).rg rb + off.signExtend 64
    let pc := (s2.core x.c).pc + 4
    let G := fun (n : Nat) (i : Instr) (w : DWord) => load x.c x va n s1 = (.ok v, s2) → WritesG x s2 rt w pc (exec i s)
    let V := fun (n : Nat) (i : Instr) => load x.c x va n s1 = (.ok v, s2) →
      WritesV x s2 rt (BitVec.ofNat 256 v) ((s2.core x.c).rs Sys.fcsr) (exec i s)
    (v < 256 → G 1 (.lb x rt rb off) ((BitVec.ofNat 8 v).signExtend 64)) ∧ G 1 (.lbu x rt rb off) (dw v) ∧
    (v < 2 ^ 16 → G 2 (.lh x rt rb off) ((BitVec.ofNat 16 v).signExtend 64)) ∧ G 2 (.lhu x rt rb off) (dw v) ∧
    (v < 2 ^ 32 → G 4 (.lw x rt rb off) ((BitVec.ofNat 32 v).signExtend 64)) ∧ G 4 (.lwu x rt rb off) (dw v) ∧
    G 8 (.ld x rt rb off) (dw v) ∧ V 32 (.lv x rt rb off) ∧ V 4 (.flw x rt rb off) ∧ V 8 (.fld x rt rb off) ∧
    G 1 (.lab x rt rb off) (dw v) ∧
    (va.toNat % 2 = 0 → G 2 (.lah x rt rb off) (dw v)) ∧ (va.toNat % 4 = 0 → G 4 (.law x rt rb off) (dw v)) ∧
    (va.toNat % 8 = 0 → G 8 (.lad x rt rb off) (dw v))

/-- R10, R155, R216: a read of one part of an access in Normal memory, with no store of the core waiting, no error on the
way, no poison and no array or DRAM error, answers the bytes that memory holds, lowest address first, under the key they were
last written with (a copy of the core's own counts under the copy's key); memory keeps every byte. -/
def Obligations.ReadAnswersMemory : Prop :=
  ∀ (c : Nat) (x : Issue) (a : Fx) (t : Tr) (n : Nat) (s : State),
    s.physDevice t.pa = false → (s.ucore c).mbuf = [] → (s.ucore c).gath = none →
    s.coreErr c (t.pa / 64) (t.mtype == 3 && s.hasLine c (t.pa / 64)) = none →
    s.cutOff (t.pa / 64) = false → CleanDram s (t.pa / 64) → s.m.poisonedIn t.pa n = false → x.arr = .none → 0 < n →
    s.m.keyOk (t.pa / 64) (if t.mtype = 3 then s.keyAt c (t.pa / 64) t.key else t.key) = true →
      ∃ s2, readPart c x a t n s = (.ok (leNat (cellRead 0 s.m.mem t.pa n)), s2) ∧ s2.m.mem = s.m.mem

/-- R88, R89: a store gives the low bytes of rt to the store of the address and writes no register; release forms need
an aligned address. `s2` is the state after that store. -/
def Obligations.StoreResults : Prop :=
  ∀ (x : Issue) (rt rb : BitVec 5) (off : BitVec 12) (s s1 s2 : State), Begins s x s1 →
    let q := s1.core x.c
    let va := q.rg rb + off.signExtend 64
    let S := fun (n v : Nat) (rel : Bool) (i : Instr) => store x.c x va n (v % 256 ^ n) rel s1 = (.ok (), s2) →
      WritesNone x s2 (q.pc + 4) (exec i s)
    let g := (q.rg rt).toNat
    let v := (q.rv rt).toNat
    S 1 g false (.sb x rt rb off) ∧ S 2 g false (.sh x rt rb off) ∧ S 4 g false (.sw x rt rb off) ∧
    S 8 g false (.sd x rt rb off) ∧ S 32 v false (.sv x rt rb off) ∧ S 4 v false (.fsw x rt rb off) ∧
    S 8 v false (.fsd x rt rb off) ∧ S 1 g true (.srb x rt rb off) ∧
    (va.toNat % 2 = 0 → S 2 g true (.srh x rt rb off)) ∧ (va.toNat % 4 = 0 → S 4 g true (.srw x rt rb off)) ∧
    (va.toNat % 8 = 0 → S 8 g true (.srd x rt rb off))

/-- R89, R91: a load-acquire, store-release or atomic of an address not aligned to its size raises ALIGN with the
address in EADDR, and makes no access. R79, R175: a load or store whose access raises an exception other than a machine
check changes no memory: no byte that it, or a mark of its translation or of its fetch, would have changed. -/
def Obligations.MisalignedTraps : Prop :=
  (∀ (x : Issue) (rt rb rs : BitVec 5) (off : BitVec 12) (ord : BitVec 2) (size8 : Bool) (s s0 s1 : State),
      Begins s x s1 → Quiet s x s0 → (s1.core x.c).lk = none →
      let va := (s1.core x.c).rg rb + off.signExtend 64
      let ad := (s1.core x.c).rg rb
      let n := if size8 then 8 else 4
      let T := fun (n : Nat) (a : DWord) (i : Instr) => a.toNat % n ≠ 0 → Traps x (s1.unmarked x.c s0) 0x03 a (exec i s)
      T 2 va (.lah x rt rb off) ∧ T 4 va (.law x rt rb off) ∧ T 8 va (.lad x rt rb off) ∧
      T 2 va (.srh x rt rb off) ∧ T 4 va (.srw x rt rb off) ∧ T 8 va (.srd x rt rb off) ∧
      T n ad (.swap x rt rb rs ord size8) ∧ T n ad (.aadd x rt rb rs ord size8) ∧ T n ad (.aand x rt rb rs ord size8) ∧
      T n ad (.aor x rt rb rs ord size8) ∧ T n ad (.axor x rt rb rs ord size8) ∧ T n ad (.asmin x rt rb rs ord size8) ∧
      T n ad (.asmax x rt rb rs ord size8) ∧ T n ad (.aumin x rt rb rs ord size8) ∧ T n ad (.aumax x rt rb rs ord size8) ∧
      T 8 ad (.cas x rt rb rs ord true) ∧ (rt.toNat % 2 = 0 → rs.toNat % 2 = 0 → T 16 ad (.casp x rt rb rs ord true))) ∧
  (∀ (x : Issue) (rt rb : BitVec 5) (off : BitVec 12) (s s0 s1 s2 : State) (e : Exc),
    Begins s x s1 → Quiet s x s0 → (s2.core x.c).lk = none → e.code ≠ 0x16 →
    let va := (s1.core x.c).rg rb + off.signExtend 64
    let v := ((s1.core x.c).rg rt).toNat
    let K := fun (i : Instr) => Answers (exec i s) fun t => t.m.mem = s0.m.mem
    (load x.c x va 4 s1 = (.error e, s2) → K (.lw x rt rb off) ∧ K (.lwu x rt rb off) ∧ K (.flw x rt rb off)) ∧
    (load x.c x va 8 s1 = (.error e, s2) → K (.ld x rt rb off) ∧ K (.fld x rt rb off)) ∧
    (load x.c x va 32 s1 = (.error e, s2) → K (.lv x rt rb off)) ∧
    (store x.c x va 4 (v % 256 ^ 4) false s1 = (.error e, s2) → K (.sw x rt rb off)) ∧
    (store x.c x va 8 (v % 256 ^ 8) false s1 = (.error e, s2) → K (.sd x rt rb off)))

/-- R90: what each atomic makes of the old value, and that rd receives the old value. The read-modify-write at the
address finds `old` and leaves the state `s2`. A failed comparison of CAS or CASP writes nothing. -/
def Obligations.AtomicResults : Prop :=
  ∀ (x : Issue) (rd r1 r2 : BitVec 5) (ord : BitVec 2) (size8 : Bool) (s s1 s2 : State) (old : Nat), Begins s x s1 →
    let q := s1.core x.c
    let va := q.rg r1
    let n := if size8 then 8 else 4
    let b := (q.rg r2).toNat % 256 ^ n
    let z := fun (v : Nat) => toSigned (8 * n) v
    let pc := q.pc + 4
    let A := fun (n : Nat) (i : Instr) (f : Nat → Option Nat) => va.toNat % n = 0 →
      atomicOp x.c x va n (ord.getLsbD 1) f s1 = (.ok old, s2) → WritesG x s2 rd (dw old) pc (exec i s)
    let B := fun (i : Instr) (f : Nat → Nat) => A n i fun o => some (f o)
    B (.swap x rd r1 r2 ord size8) (fun _ => b) ∧ B (.aadd x rd r1 r2 ord size8) (fun o => (o + b) % 2 ^ (8 * n)) ∧
    B (.aand x rd r1 r2 ord size8) (fun o => o &&& b) ∧ B (.aor x rd r1 r2 ord size8) (fun o => o ||| b) ∧
    B (.axor x rd r1 r2 ord size8) (fun o => o ^^^ b) ∧
    B (.asmin x rd r1 r2 ord size8) (fun o => if z o < z b then o else b) ∧
    B (.asmax x rd r1 r2 ord size8) (fun o => if z o < z b then b else o) ∧
    B (.aumin x rd r1 r2 ord size8) (fun o => min o b) ∧ B (.aumax x rd r1 r2 ord size8) (fun o => max o b) ∧
    A 8 (.cas x rd r1 r2 ord true) (fun o => if o = (q.rg rd).toNat then some (q.rg r2).toNat else none) ∧
    (rd.toNat % 2 = 0 → r2.toNat % 2 = 0 → va.toNat % 16 = 0 →
      atomicOp x.c x va 16 (ord.getLsbD 1)
        (fun o => if o = (q.rg rd).toNat + (q.rg (rd + 1)).toNat * 2 ^ 64
                  then some ((q.rg r2).toNat + (q.rg (r2 + 1)).toNat * 2 ^ 64) else none) s1 = (.ok old, s2) →
      Answers (exec (.casp x rd r1 r2 ord true) s) fun t =>
        (t.core x.c).pc = pc ∧
        (∀ r, (t.core x.c).rg r = if r = 0 then 0 else if r = rd + 1 then dw (old / 2 ^ 64) else if r = rd then dw old
                                  else (s2.core x.c).rg r) ∧
        (∀ r, (t.core x.c).rv r = (s2.core x.c).rv r) ∧
        KeptCore (fun _ => false) (s2.core x.c) (t.core x.c) ∧ KeptChip x.c s2 t)

/-- R90, R91: the read-modify-write of a translated address of Normal memory, aligned to its size, with no store of the core
waiting, nothing wrong on the way, and no copy of the core's under another key: it finds the bytes that memory holds, and
memory then holds the new value there and every other byte as before; where the comparison fails, every byte as before. -/
def Obligations.AtomicWritesMemory : Prop :=
  ∀ (c : Nat) (x : Issue) (va : DWord) (n : Nat) (rel : Bool) (f : Nat → Option Nat) (s s' : State) (t : Tr),
    translate c (fxOf va va n true true) s = (.ok t, s') → t.marks = [] → 2 ≤ t.mtype → (s'.ucore c).mbuf = [] →
    (s'.ucore c).gath = none → s'.coreErr c (t.pa / 64) (t.mtype == 3 && s'.hasUnique c (t.pa / 64)) (t.mtype != 3) = none →
    s'.cxlClasped (64 * (t.pa / 64)) = false → CleanDram s' (t.pa / 64) → s'.m.poisonedIn t.pa n = false → x.arr = .none →
    s'.keyAt c (t.pa / 64) t.key = t.key → s'.m.keyOk (t.pa / 64) t.key = true → Memory.wf s'.m.mem = true →
    t.pa % 64 + n ≤ 64 →
      let old := leNat (cellRead 0 s'.m.mem t.pa n)
      ∃ s2, atomicOp c x va n rel f s = (.ok old, s2) ∧
        ∀ a, memGet s2.m.mem a =
          match f old with
          | some v => if t.pa ≤ a ∧ a < t.pa + n then BitVec.ofNat 8 (v / 256 ^ (a - t.pa)) else memGet s'.m.mem a
          | none => memGet s'.m.mem a

/-! ### Vector and floating-point instructions -/

/-- R97: lane by lane, with wrap-around; a shift uses the low bits of the vs2 lane; a compare makes a lane of ones or
zeros. -/
def Obligations.VectorIntegerResults : Prop :=
  ∀ (x : Issue) (w : BitVec 2) (vd vs1 vs2 : BitVec 5) (s s1 : State), Begins s x s1 →
    let k := s1.core x.c
    let b := 8 * 2 ^ w.toNat
    let z := fun (p : Nat) => (BitVec.ofNat b p).toInt
    let V := fun (i : Instr) (f : Nat → Nat → Nat) => ∃ v, WritesV x s1 vd v (k.rs Sys.fcsr) (exec i s) ∧
      ∀ j, j < 256 / b → lane b v j = f (lane b (k.rv vs1) j) (lane b (k.rv vs2) j)
    let C := fun (i : Instr) (f : Nat → Nat → Bool) => V i fun p q => if f p q then 2 ^ b - 1 else 0
    V (.vadd x w vd vs1 vs2) (fun p q => (p + q) % 2 ^ b) ∧ V (.vsub x w vd vs1 vs2) (fun p q => (p + 2 ^ b - q) % 2 ^ b) ∧
    V (.vmul x w vd vs1 vs2) (fun p q => p * q % 2 ^ b) ∧ V (.vand x w vd vs1 vs2) (fun p q => p &&& q) ∧
    V (.vor x w vd vs1 vs2) (fun p q => p ||| q) ∧ V (.vxor x w vd vs1 vs2) (fun p q => p ^^^ q) ∧
    V (.vsll x w vd vs1 vs2) (fun p q => p * 2 ^ (q % b) % 2 ^ b) ∧ V (.vsrl x w vd vs1 vs2) (fun p q => p / 2 ^ (q % b)) ∧
    V (.vsra x w vd vs1 vs2) (fun p q => ((z p / 2 ^ (q % b)) % 2 ^ b).toNat) ∧
    V (.vmin x w vd vs1 vs2) (fun p q => if z p < z q then p else q) ∧ V (.vminu x w vd vs1 vs2) (fun p q => min p q) ∧
    V (.vmax x w vd vs1 vs2) (fun p q => if z p < z q then q else p) ∧ V (.vmaxu x w vd vs1 vs2) (fun p q => max p q) ∧
    C (.vcmpeq x w vd vs1 vs2) (fun p q => decide (p = q)) ∧ C (.vcmplt x w vd vs1 vs2) (fun p q => decide (z p < z q)) ∧
    C (.vcmpltu x w vd vs1 vs2) (fun p q => decide (p < q))

/-- The permute table and R98. -/
def Obligations.PermuteResults : Prop :=
  ∀ (x : Issue) (w : BitVec 2) (vd vs1 vs2 vs3 n : BitVec 5) (s s1 : State), Begins s x s1 →
    let k := s1.core x.c
    let b := 8 * 2 ^ w.toNat
    let L := 256 / b
    let V := fun (i : Instr) (b : Nat) (f : Nat → Nat) => ∃ v, WritesV x s1 vd v (k.rs Sys.fcsr) (exec i s) ∧
      ∀ j, j < 256 / b → lane b v j = f j
    let G := fun (i : Instr) (m : DWord) => WritesG x s1 vd m (k.pc + 4) (exec i s)
    (∃ v, WritesV x s1 vd v (k.rs Sys.fcsr) (exec (.vsel x vd vs1 vs2 vs3) s) ∧
      ∀ j, v.getLsbD j = if (k.rv vs3).getLsbD j then (k.rv vs1).getLsbD j else (k.rv vs2).getLsbD j) ∧
    V (.vpermb x vd vs1 vs2) 8 (fun j => if (lane 8 (k.rv vs2) j).testBit 7 then 0
      else lane 8 (k.rv vs1) (lane 8 (k.rv vs2) j % 32)) ∧
    V (.vbcast x w vd vs1) b (fun _ => (k.rg vs1).toNat % 2 ^ b) ∧
    (n.toNat < L → V (.vins x w vd vs1 n) b (fun j => if j = n.toNat then (k.rg vs1).toNat % 2 ^ b else lane b (k.rv vd) j)) ∧
    (n.toNat < L → G (.vext x w vd vs1 n) (dw (lane b (k.rv vs1) n.toNat))) ∧
    G (.vredadd x w vd vs1) (dw ((List.range L).map (lane b (k.rv vs1))).sum)

/-- R98: a lane index at or past the lane count raises ILLEGAL_INSTR. R95: other values of w raise ILLEGAL_INSTR. -/
def Obligations.OperandTraps : Prop :=
  (∀ (x : Issue) (w : BitVec 2) (vd vs1 n : BitVec 5) (s s0 s1 : State), Begins s x s1 → Quiet s x s0 →
      (s1.core x.c).lk = none → 256 / (8 * 2 ^ w.toNat) ≤ n.toNat →
        Traps x (s1.unmarked x.c s0) 0x01 0 (exec (.vins x w vd vs1 n) s) ∧
        Traps x (s1.unmarked x.c s0) 0x01 0 (exec (.vext x w vd vs1 n) s)) ∧
  (∀ (x : Issue) (w : BitVec 2) (vd vs1 vs2 vs3 : BitVec 5) (s s0 s1 : State), Begins s x s1 → Quiet s x s0 →
      (s1.core x.c).lk = none → w.toNat < 2 →
      let T := fun (i : Instr) => Traps x (s1.unmarked x.c s0) 0x01 0 (exec i s)
      T (.vfadd x w vd vs1 vs2) ∧ T (.vfsub x w vd vs1 vs2) ∧ T (.vfmul x w vd vs1 vs2) ∧ T (.vfdiv x w vd vs1 vs2) ∧
      T (.vfsqrt x w vd vs1) ∧ T (.vfcmpeq x w vd vs1 vs2) ∧ T (.sfpAdd x w vd vs1 vs2) ∧ T (.sfpMul x w vd vs1 vs2) ∧
      T (.sfpCmplt x w vd vs1 vs2) ∧ T (.vfmadd x w vd vs1 vs2 vs3) ∧ T (.fmadd x w vd vs1 vs2 vs3))

/-- R94, R95: w names binary32 or binary64; every lane of vd takes the operation's result on that lane of the sources
(for VBDOT and FMA: of vd or vs3 too), rounded with FCSR.RM, and the flags of all lanes are ORed into FCSR.FLAGS,
where none of them has its TEN bit set. -/
def Obligations.VectorFloatResults : Prop :=
  ∀ (x : Issue) (w : BitVec 2) (vd vs1 vs2 vs3 : BitVec 5) (s s1 : State), Begins s x s1 → 2 ≤ w.toNat →
    let k := s1.core x.c
    let t := if w.toNat = 2 then binary32 else binary64
    let b := t.width
    let fcsr := k.rs Sys.fcsr
    let r := rndOf (getF fcsr G.fcsr.RM)
    let a := fun j => lane b (k.rv vs1) j
    let c := fun j => lane b (k.rv vs2) j
    let d := fun j => lane b (k.rv vs3) j
    let V := fun (i : Instr) (f : Nat → FRes) =>
      let fl := joinFlags ((List.range (256 / b)).map fun j => (f j).2)
      getF fcsr G.fcsr.TEN &&& fl.toNat = 0 →
        ∃ v, WritesV x s1 vd v (fcsr ||| fl.zeroExtend 64) (exec i s) ∧ ∀ j, j < 256 / b → lane b v j = (f j).1 % 2 ^ b
    let M := fun (p : Bool) => if p then 2 ^ b - 1 else 0
    V (.vfadd x w vd vs1 vs2) (fun j => fpAdd t r (a j) (c j)) ∧ V (.vfsub x w vd vs1 vs2) (fun j => fpSub t r (a j) (c j)) ∧
    V (.vfmul x w vd vs1 vs2) (fun j => fpMul t r (a j) (c j)) ∧ V (.vfdiv x w vd vs1 vs2) (fun j => fpDiv t r (a j) (c j)) ∧
    V (.vfsqrt x w vd vs1) (fun j => fpSqrt t r (a j)) ∧
    V (.vfmin x w vd vs1 vs2) (fun j => fpMin t (a j) (c j)) ∧ V (.vfmax x w vd vs1 vs2) (fun j => fpMax t (a j) (c j)) ∧
    V (.vfcmpeq x w vd vs1 vs2) (fun j => (M (fpEq t (a j) (c j)).1, (fpEq t (a j) (c j)).2)) ∧
    V (.vfcmplt x w vd vs1 vs2) (fun j => (M (fpLt t (a j) (c j)).1, (fpLt t (a j) (c j)).2)) ∧
    V (.vfcmple x w vd vs1 vs2) (fun j => (M (fpLe t (a j) (c j)).1, (fpLe t (a j) (c j)).2)) ∧
    V (.vfabs x w vd vs1) (fun j => (a j % 2 ^ (b - 1), 0)) ∧
    V (.vfneg x w vd vs1) (fun j => (a j ^^^ 2 ^ (b - 1), 0)) ∧
    V (.vfsgnj x w vd vs1 vs2) (fun j => (a j % 2 ^ (b - 1) + c j / 2 ^ (b - 1) * 2 ^ (b - 1), 0)) ∧
    V (.vfmadd x w vd vs1 vs2 vs3) (fun j => fpFma t r false false (a j) (c j) (d j)) ∧
    V (.vfmsub x w vd vs1 vs2 vs3) (fun j => fpFma t r false true (a j) (c j) (d j)) ∧
    V (.vfnmadd x w vd vs1 vs2 vs3) (fun j => fpFma t r true true (a j) (c j) (d j)) ∧
    V (.vfnmsub x w vd vs1 vs2 vs3) (fun j => fpFma t r true false (a j) (c j) (d j)) ∧
    (w.toNat = 2 → V (.vbdot x w vd vs1 vs2) (fun j => bdot (lane b (k.rv vd) j) (a j) (c j)))

/-- R95, R71: SFP works on lane 0 and zeroes the higher bits of vd; a compare writes g[vd] with 1 or 0. -/
def Obligations.ScalarFloatResults : Prop :=
  ∀ (x : Issue) (w : BitVec 2) (vd vs1 vs2 vs3 : BitVec 5) (s s1 : State), Begins s x s1 → 2 ≤ w.toNat →
    let k := s1.core x.c
    let t := if w.toNat = 2 then binary32 else binary64
    let b := t.width
    let fcsr := k.rs Sys.fcsr
    let r := rndOf (getF fcsr G.fcsr.RM)
    let a := lane b (k.rv vs1) 0
    let c := lane b (k.rv vs2) 0
    let d := lane b (k.rv vs3) 0
    let S := fun (i : Instr) (p : FRes) => getF fcsr G.fcsr.TEN &&& p.2.toNat = 0 →
      WritesV x s1 vd (BitVec.ofNat 256 (p.1 % 2 ^ b)) (fcsr ||| p.2.zeroExtend 64) (exec i s)
    let C := fun (i : Instr) (p : Bool × FFlags) => getF fcsr G.fcsr.TEN &&& p.2.toNat = 0 →
      Answers (exec i s) fun u =>
        (u.core x.c).pc = k.pc + 4 ∧
        (∀ q, (u.core x.c).rg q = if q = vd ∧ vd ≠ 0 then dw (if p.1 then 1 else 0) else k.rg q) ∧
        (∀ q, (u.core x.c).rv q = k.rv q) ∧ (u.core x.c).rs Sys.fcsr = fcsr ||| p.2.zeroExtend 64 ∧
        KeptCore (fun n => n == Sys.fcsr) k (u.core x.c) ∧ KeptChip x.c s1 u
    S (.sfpAdd x w vd vs1 vs2) (fpAdd t r a c) ∧ S (.sfpSub x w vd vs1 vs2) (fpSub t r a c) ∧
    S (.sfpMul x w vd vs1 vs2) (fpMul t r a c) ∧ S (.sfpDiv x w vd vs1 vs2) (fpDiv t r a c) ∧
    S (.sfpSqrt x w vd vs1) (fpSqrt t r a) ∧ S (.sfpMin x w vd vs1 vs2) (fpMin t a c) ∧
    S (.sfpMax x w vd vs1 vs2) (fpMax t a c) ∧ S (.sfpAbs x w vd vs1) (a % 2 ^ (b - 1), 0) ∧
    S (.sfpNeg x w vd vs1) (a ^^^ 2 ^ (b - 1), 0) ∧
    S (.sfpSgnj x w vd vs1 vs2) (a % 2 ^ (b - 1) + c / 2 ^ (b - 1) * 2 ^ (b - 1), 0) ∧
    C (.sfpCmpeq x w vd vs1 vs2) (fpEq t a c) ∧ C (.sfpCmplt x w vd vs1 vs2) (fpLt t a c) ∧
    C (.sfpCmple x w vd vs1 vs2) (fpLe t a c) ∧
    S (.fmadd x w vd vs1 vs2 vs3) (fpFma t r false false a c d) ∧ S (.fmsub x w vd vs1 vs2 vs3) (fpFma t r false true a c d) ∧
    S (.fnmadd x w vd vs1 vs2 vs3) (fpFma t r true true a c d) ∧ S (.fnmsub x w vd vs1 vs2 vs3) (fpFma t r true false a c d)

/-- R95, R96: conversions and moves; the eight-lane forms zero the higher bits of vd. -/
def Obligations.ConversionResults : Prop :=
  ∀ (x : Issue) (vd vs1 : BitVec 5) (s s1 : State), Begins s x s1 →
    let k := s1.core x.c
    let fcsr := k.rs Sys.fcsr
    let r := rndOf (getF fcsr G.fcsr.RM)
    let a := fun (b j : Nat) => lane b (k.rv vs1) j
    let S := fun (b : Nat) (i : Instr) (p : FRes) => getF fcsr G.fcsr.TEN &&& p.2.toNat = 0 →
      WritesV x s1 vd (BitVec.ofNat 256 (p.1 % 2 ^ b)) (fcsr ||| p.2.zeroExtend 64) (exec i s)
    let V := fun (b : Nat) (i : Instr) (f : Nat → FRes) =>
      let fl := joinFlags ((List.range 8).map fun j => (f j).2)
      getF fcsr G.fcsr.TEN &&& fl.toNat = 0 →
        ∃ v, WritesV x s1 vd v (fcsr ||| fl.zeroExtend 64) (exec i s) ∧
          ∀ j, j < 256 / b → lane b v j = if j < 8 then (f j).1 % 2 ^ b else 0
    let G := fun (i : Instr) (p : FRes) => getF fcsr G.fcsr.TEN &&& p.2.toNat = 0 →
      Answers (exec i s) fun u =>
        (u.core x.c).pc = k.pc + 4 ∧
        (∀ q, (u.core x.c).rg q = if q = vd ∧ vd ≠ 0 then dw p.1 else k.rg q) ∧
        (∀ q, (u.core x.c).rv q = k.rv q) ∧ (u.core x.c).rs Sys.fcsr = fcsr ||| p.2.zeroExtend 64 ∧
        KeptCore (fun n => n == Sys.fcsr) k (u.core x.c) ∧ KeptChip x.c s1 u
    S 64 (.fcvtDS x vd vs1) (fpCvt binary32 binary64 r (a 32 0)) ∧
    S 32 (.fcvtSD x vd vs1) (fpCvt binary64 binary32 r (a 64 0)) ∧
    V 32 (.fcvtSH x vd vs1) (fun j => fpCvt binary16 binary32 r (a 16 j)) ∧
    V 16 (.fcvtHS x vd vs1) (fun j => fpCvt binary32 binary16 r (a 32 j)) ∧
    V 32 (.fcvtSBf x vd vs1) (fun j => fpCvt bfloat16 binary32 r (a 16 j)) ∧
    V 16 (.fcvtBfS x vd vs1) (fun j => fpCvt binary32 bfloat16 r (a 32 j)) ∧
    G (.fcvtGS x vd vs1) (fpToInt binary32 64 (a 32 0)) ∧ G (.fcvtGD x vd vs1) (fpToInt binary64 64 (a 64 0)) ∧
    S 32 (.fcvtSG x vd vs1) (intToFp binary32 r 64 (k.rg vs1).toNat) ∧
    S 64 (.fcvtDG x vd vs1) (intToFp binary64 r 64 (k.rg vs1).toNat) ∧
    V 32 (.vfcvtSW x vd vs1) (fun j => intToFp binary32 r 32 (a 32 j)) ∧
    V 32 (.vfcvtWS x vd vs1) (fun j => fpToInt binary32 32 (a 32 j)) ∧
    WritesG x s1 vd (dw (a 64 0)) (k.pc + 4) (exec (.fmvGV x vd vs1) s) ∧
    WritesV x s1 vd (BitVec.ofNat 256 (k.rg vs1).toNat) fcsr (exec (.fmvVG x vd vs1) s)

/-- R94, R79: where a raised flag has its TEN bit set, the flags are ORed into FCSR.FLAGS, no other register is
written, and FP_TRAP is taken. Stated for the arithmetic of two sources. -/
def Obligations.FloatTraps : Prop :=
  ∀ (x : Issue) (w : BitVec 2) (vd vs1 vs2 : BitVec 5) (s s0 s1 : State), Begins s x s1 → Quiet s x s0 →
    (s1.core x.c).lk = none → 2 ≤ w.toNat →
    let k := s1.core x.c
    let t := if w.toNat = 2 then binary32 else binary64
    let b := t.width
    let fcsr := k.rs Sys.fcsr
    let r := rndOf (getF fcsr G.fcsr.RM)
    let a := fun j => lane b (k.rv vs1) j
    let c := fun j => lane b (k.rv vs2) j
    let T := fun (n : Nat) (i : Instr) (f : Nat → FRes) =>
      let fl := joinFlags ((List.range n).map fun j => (f j).2)
      getF fcsr G.fcsr.TEN &&& fl.toNat ≠ 0 →
        Traps x ((s1.setCore x.c (k.ws Sys.fcsr false (fcsr ||| fl.zeroExtend 64))).unmarked x.c s0) 0x14 0 (exec i s)
    T (256 / b) (.vfadd x w vd vs1 vs2) (fun j => fpAdd t r (a j) (c j)) ∧ T 1 (.sfpAdd x w vd vs1 vs2) (fun j => fpAdd t r (a j) (c j)) ∧
    T (256 / b) (.vfsub x w vd vs1 vs2) (fun j => fpSub t r (a j) (c j)) ∧ T 1 (.sfpSub x w vd vs1 vs2) (fun j => fpSub t r (a j) (c j)) ∧
    T (256 / b) (.vfmul x w vd vs1 vs2) (fun j => fpMul t r (a j) (c j)) ∧ T 1 (.sfpMul x w vd vs1 vs2) (fun j => fpMul t r (a j) (c j)) ∧
    T (256 / b) (.vfdiv x w vd vs1 vs2) (fun j => fpDiv t r (a j) (c j)) ∧ T 1 (.sfpDiv x w vd vs1 vs2) (fun j => fpDiv t r (a j) (c j))

/-- R92: a result that is a NaN is the canonical NaN, whatever the sign and payload of the operands. IEEE 754-2019
rounding, which R92 names: a value m · 2^e rounded to a multiple n of a coarser unit 2^q is less than one unit away,
at most half a unit where the direction is to nearest, and lies on the side that a directed rounding names. -/
def Obligations.FloatResultRules : Prop :=
  (∀ (t : Fmt) (r : Rnd) (np nz : Bool) (x y z : Nat), t = binary32 ∨ t = binary64 →
      let C := fun (p : FRes) => (t.val p.1).isNan = true → p.1 = t.nan
      C (fpAdd t r x y) ∧ C (fpSub t r x y) ∧ C (fpMul t r x y) ∧ C (fpDiv t r x y) ∧ C (fpSqrt t r x) ∧
      C (fpFma t r np nz x y z)) ∧
  (∀ (r : Rnd) (s : Bool) (m : Nat) (e q : Int), e < q →
      let u := 2 ^ (q - e).toNat
      let n := (roundTo r s m e q).1
      (m < n * u + u ∧ n * u < m + u) ∧ ((roundTo r s m e q).2 = true ↔ n * u ≠ m) ∧
      (r = .even ∨ r = .away → 2 * m ≤ 2 * (n * u) + u ∧ 2 * (n * u) ≤ 2 * m + u) ∧
      (r = .even → 2 * m = 2 * (n * u) + u ∨ 2 * (n * u) = 2 * m + u → n % 2 = 0) ∧
      (r = .zero → n * u ≤ m) ∧ (r = .down → if s then m ≤ n * u else n * u ≤ m) ∧
      (r = .up → if s then n * u ≤ m else m ≤ n * u))

/-! ### System registers -/

/-- R99, R119: SYSRD of a number that names a register, at a level that may read it, where the hypervisor traps
nothing: rd takes SYS.TIME, SYS.STATUS as the core is, 0 for IEOI, and for a register that no rule computes the copy
of the executing world. -/
def Obligations.SystemRegisterReads : Prop :=
  ∀ (x : Issue) (rd : BitVec 5) (num : BitVec 16) (s s1 : State), Begins s x s1 →
    let k := s1.core x.c
    let n := num.toNat
    Sys.named n = true → (n / 2 ^ 14 = 2 → s1.iso ≠ .lk) → s1.sysAllowed x.c n false = true → s1.sysTrapped x.c n false = false →
      ∃ w, WritesG x s1 rd w (k.pc + 4) (exec (.sysrd x rd num) s) ∧
        (n = Sys.time → w = s1.rtu.cnt) ∧
        (n = Sys.status → w = dw (k.lvl + 4 * b2n k.world + 8 * b2n k.ie + 16 * b2n k.lk.isSome)) ∧
        (n % 2 ^ 14 = 9 → 1 ≤ n / 2 ^ 14 → w = 0) ∧
        ((n < 0x4000 ∧ n ≠ Sys.time) ∨ n = Sys.htrap ∨ n = Sys.s2ctl ∨ n = Sys.pmctl → w = k.rs n false) ∧
        (n = 0x4004 ∨ n = 0x4006 ∨ n = Sys.mattr ∨ n = Sys.tctl ∨ (0x4100 ≤ n ∧ n ≤ 0x413F) → w = k.rs n k.world)

/-- R99: an access below the level of bits [15:14] raises PRIV_INSTR, a number that names no register ILLEGAL_INSTR.
R77, R100, R102: at L0 these raise PRIV_INSTR; TINV.VMID and TINV.IPA at L1 too, and ILLEGAL_INSTR in ISO.MODE = LK
(R101). -/
def Obligations.PrivilegeTraps : Prop :=
  (∀ (x : Issue) (r : BitVec 5) (num : BitVec 16) (s s0 s1 : State), Begins s x s1 → Quiet s x s0 → (s1.core x.c).lk = none →
      let t := s1.unmarked x.c s0
      let n := num.toNat
      (Sys.named n = false ∨ (n / 2 ^ 14 = 2 ∧ s1.iso = .lk) →
        Traps x t 0x01 0 (exec (.sysrd x r num) s) ∧ Traps x t 0x01 0 (exec (.syswr x num r) s)) ∧
      (Sys.named n = true → (n / 2 ^ 14 = 2 → s1.iso ≠ .lk) → (s1.core x.c).lvl < n / 2 ^ 14 →
        Traps x t 0x02 0 (exec (.sysrd x r num) s) ∧ Traps x t 0x02 0 (exec (.syswr x num r) s))) ∧
  (∀ (x : Issue) (rd rs1 rs2 : BitVec 5) (s s0 s1 : State), Begins s x s1 → Quiet s x s0 → (s1.core x.c).lk = none →
      let t := s1.unmarked x.c s0
      let P := fun (i : Instr) => Traps x t 0x02 0 (exec i s)
      ((s1.core x.c).lvl = 0 →
        P (.cmoInvVa x rs1) ∧ P (.cmoClinvVa x rs1) ∧ P (.cmoCleanSw x rs1) ∧ P (.cmoInvSw x rs1) ∧ P (.cmoClinvSw x rs1) ∧
        P (.cmoPreload x rd rs1) ∧ P (.tinvVa x rs1 rs2) ∧ P (.tinvAsid x rs1) ∧ P (.tinvAll x) ∧ P (.tsync x) ∧
        P (.predFlush x) ∧ P (.tcall x) ∧ P (.eret x) ∧ P (.wfi x) ∧ P (.doorbell x rd rs1)) ∧
      ((s1.core x.c).lvl ≤ 1 → s1.iso ≠ .lk → P (.tinvVmid x rs1) ∧ P (.tinvIpa x rs1 rs2)) ∧
      (s1.iso = .lk → Traps x t 0x01 0 (exec (.tinvVmid x rs1) s) ∧ Traps x t 0x01 0 (exec (.tinvIpa x rs1 rs2) s)))

/-- R99, R11, R13: SYSWR of a register but SYS.VCPU, at a level that may write it, where the hypervisor traps nothing,
has the effect of a write of its value and goes on; the rows that name their register are such a SYSWR. What the write
of a system register does: STATUS sets IE, IEOI ends the service of a vector (R306, R312), and a register that no rule
treats apart takes its writable fields in the copy of the executing world; nothing else of the core changes. R11, R13:
a write through a field table changes no bit outside its fields that are writable, and a trusted-only field keeps its
value in the normal world. -/
def Obligations.SystemRegisterWrites : Prop :=
  (∀ (x : Issue) (rs1 : BitVec 5) (s s1 : State), Begins s x s1 →
      let k := s1.core x.c
      let W := fun (n : Nat) (i : Instr) =>
        Sys.named n = true → (n / 2 ^ 14 = 2 → s1.iso ≠ .lk) → s1.sysAllowed x.c n true = true → s1.sysTrapped x.c n true = false →
          WritesNone x (s1.sysWrite x.c n (k.rg rs1)) (k.pc + 4) (exec i s)
      (∀ num : BitVec 16, num.toNat ≠ Sys.vcpu → W num.toNat (.syswr x num rs1)) ∧
      W Sys.pdt (.pdtWrite x rs1) ∧ W Sys.mattr (.mattrWrite x false rs1) ∧ W Sys.s2mattr (.mattrWrite x true rs1) ∧
      (∀ (s2 : Bool) (n : BitVec 4) (part : BitVec 2),
        W ((if s2 then 0x8100 else 0x4100) + 4 * n.toNat + part.toNat) (.spanRegisterWrite x s2 n part rs1)) ∧
      (∀ (l : Fin 3) (ctl : Bool),
        W (if ctl then Sys.tmrctlAt (l.val + 1) else Sys.tmrcmpAt (l.val + 1)) (.timerRegisterWrite x l ctl rs1)) ∧
      (∀ l : Fin 3, W (Sys.ieoiAt (l.val + 1)) (.ieoiWrite x l rs1))) ∧
  (∀ (s : State) (c : Nat) (v : DWord),
      let k := s.core c
      (s.sysWrite c Sys.status v).core c = { k with ie := v.getLsbD 3 } ∧
      (k.vcpuOn = false → (s.sysWrite c (Sys.ieoiAt 1) v).core c =
        { k with serv := k.serv.filter fun b =>
            !((if b.tmr = 0 then b.lvl else b.tmr) == 1 && b.world == k.world && b.vec == v.toNat % 512) }) ∧
      (∀ n, n = Sys.fcsr ∨ n = Sys.htrap ∨ n = Sys.s2ctl ∨ n = Sys.mtctl →
        (s.sysWrite c n v).core c = k.ws n false (writeFields ((Sys.fields n).getD []) k.world (BitVec.allOnes 64) (k.rs n false) v)) ∧
      (∀ n, n = Sys.vbaseAt 1 ∨ n = Sys.epcAt 1 ∨ n = Sys.mattr ∨ n = Sys.tctl ∨ n = Sys.pdt →
        (s.sysWrite c n v).core c = k.ws n k.world (writeFields ((Sys.fields n).getD []) k.world (BitVec.allOnes 64) (k.rs n k.world) v))) ∧
  (∀ (fs : List Field) (trusted : Bool) (mask old new : DWord) (i : Nat),
      (∀ f ∈ fs, f.acc = .ro ∨ f.acc = .wo ∨ f.acc = .rwo ∨ (f.acc = .rwt ∧ trusted = false) ∨ (maskF f.at_ &&& mask).getLsbD i = false) →
        (writeFields fs trusted mask old new).getLsbD i = old.getLsbD i)

/-- R314, R316: SYSWR of SYS.VCPU at L2 or above. Setting EN loads the notice vector and the classes in service from
the record; clearing it writes the pending bits back; a write that leaves EN and ADDR does neither. -/
def Obligations.VcpuWrites : Prop :=
  ∀ (x : Issue) (rs1 : BitVec 5) (s s1 : State), Begins s x s1 →
    let k := s1.core x.c
    let old := k.rs Sys.vcpu false
    let new := writeFields ((Sys.fields Sys.vcpu).getD []) k.world (BitVec.allOnes 64) old (k.rg rs1)
    let on := fun (w : DWord) => getF w G.vcpu.EN = 1
    let put := fun (s : State) => s.onCore x.c fun k => k.ws Sys.vcpu false new
    let A := fun (t : State) (i : Instr) => WritesNone x t ((t.core x.c).pc + 4) (exec i s)
    s1.iso ≠ .lk → 2 ≤ k.lvl → s1.vcpuDenied old = false → s1.vcpuDenied new = false →
      ∀ i : Instr, i = .vcpuEnable x rs1 ∨ i = .vcpuWriteback x rs1 ∨ i = .syswr x 0x8034 rs1 →
        (¬on old → ¬on new → A (put s1) i) ∧
        (on old → on new → getF old G.vcpu.ADDR = getF new G.vcpu.ADDR → A (put s1) i) ∧
        (¬on old → on new → A ((put s1).vcpuLoad x.c) i) ∧ (on old → ¬on new → A (put (s1.vcpuBack x.c)) i) ∧
        (on old → on new → getF old G.vcpu.ADDR ≠ getF new G.vcpu.ADDR → A ((put (s1.vcpuBack x.c)).vcpuLoad x.c) i)

/-! ### Barriers, caches, translation, prediction -/

/-- R165, R166, R168, R170, R171, R139: FENCE.L only ends gathering; FENCE.S, FENCE.LS and FENCE.I perform every store of
the core that waits: the merge buffer's, oldest first, and the gathered write. R121, R122: PRED.FLUSH empties the predictor of the executing world; PRED.BAR and
PRED.UNBAR bar prediction and allow it. -/
def Obligations.FencesAndPrediction : Prop :=
  (∀ (x : Issue) (s s1 : State), Begins s x s1 →
      let c := x.c
      let pc := (s1.core c).pc + 4
      let s2 := ((s1.ucore c).mbuf.foldl (fun s e => s.performStore c e) (s1.onUcore c fun u => { u with mbuf := [] })).flushGath c
      WritesNone x (s1.flushGath c) pc (exec (.fenceL x) s) ∧ WritesNone x s2 pc (exec (.fenceS x) s) ∧
      WritesNone x s2 pc (exec (.fenceLs x) s) ∧ WritesNone x s2 pc (exec (.fenceI x) s)) ∧
  (∀ (x : Issue) (s s1 : State), Begins s x s1 →
      let k := s1.core x.c
      (1 ≤ k.lvl → s1.traps x.c G.htrap.TPRED = false →
        WritesNone x (s1.onUcore x.c fun u => { u with pred := u.pred.flush k.world }) (k.pc + 4) (exec (.predFlush x) s)) ∧
      WritesNone x (s1.setCore x.c { k with barred := true }) (k.pc + 4) (exec (.predBar x) s) ∧
      WritesNone x (s1.setCore x.c { k with barred := false }) (k.pc + 4) (exec (.predUnbar x) s))

/-- R169, R172: a buffered store that is performed puts its bytes in memory and leaves every other byte, where nothing
is wrong on the way to the line and the core holds no copy of it under another key; memory keeps its canonical form. R218,
R220: so does a write of a line by any other agent that the ownership check and the key rule let through. -/
def Obligations.PerformedStoreWritesMemory : Prop :=
  (∀ (c : Nat) (e : MbEntry) (s : State), s.coreErr c e.line (e.mtype == 3 && s.hasUnique c e.line) (e.mtype != 3) = none →
    (e.mtype = 3 ∨ s.cxlClasped (64 * e.line) = false) → Memory.wf s.m.mem = true →
    s.keyAt c e.line e.key = e.key → s.m.keyOk e.line e.key = true → CleanDram s e.line →
      Memory.wf (s.performStore c e).m.mem = true ∧
      (∀ i, i < 64 → memGet (s.performStore c e).m.mem (64 * e.line + i) =
        if e.mask.getLsbD i then e.data.extractLsb' (8 * i) 8 else memGet s.m.mem (64 * e.line + i)) ∧
      ∀ a, a < 64 * e.line ∨ 64 * e.line + 64 ≤ a → memGet (s.performStore c e).m.mem a = memGet s.m.mem a) ∧
  ∀ (sec : Bool) (src : Stop) (id : Ident) (line key : Nat) (mask : BitVec 64) (data : Line) (poison : Bool) (s t : State),
    s.agentWriteLine sec src id line key mask data poison = .ok t → s.cxlClasped (64 * line) = false → Memory.wf s.m.mem = true →
    (∀ k, s.agentKey sec id line key = some k → s.m.keyOk line k = true) → CleanDram s line →
      Memory.wf t.m.mem = true ∧
      (∀ i, i < 64 → memGet t.m.mem (64 * line + i) =
        if mask.getLsbD i then data.extractLsb' (8 * i) 8 else memGet s.m.mem (64 * line + i)) ∧
      ∀ a, a < 64 * line ∨ 64 * line + 64 ≤ a → memGet t.m.mem a = memGet s.m.mem a

/-- R231, R232: maintenance by address of a line of Normal memory, translated without marks, where nothing is wrong on
the way: the stores of the core to the line are performed, then every cache of the chip is maintained. A Device type
does nothing. R233: the set and way forms, at L1 or above and untrapped, act on the line that the operand picks; below
L3 CMO.INV.SW is CMO.CLINV.SW. R235: CMO.PRELOAD answers 3 for a line that is not Normal-WB; else it does the preload
and answers its status. -/
def Obligations.CacheMaintenance : Prop :=
  (∀ (x : Issue) (rs1 : BitVec 5) (s s1 s2 : State) (t : Tr), Begins s x s1 →
      let k := s1.core x.c
      let va := k.rg rs1
      let line := t.pa / 64
      let M := fun (i : Instr) (lvl : Nat) (wr : Bool) (o : Cmo) => lvl ≤ k.lvl →
        translate x.c (cmoFx va wr) s1 = (.ok t, s2) →
          (t.mtype ≤ 1 ∨ s2.physDevice t.pa = true → WritesNone x s2 ((s2.core x.c).pc + 4) (exec i s)) ∧
          (let s3 := (s2.drainLine x.c line).grant x.c false
           2 ≤ t.mtype → s2.physDevice t.pa = false → s3.coreErr x.c line false = none →
            WritesNone x (((s3.wakePath line).statCore x.c 0).cmoLine o line t.key) ((s2.core x.c).pc + 4) (exec i s))
      M (.cmoCleanVa x rs1) 0 false .clean ∧ M (.cmoInvVa x rs1) 1 true .inv ∧ M (.cmoClinvVa x rs1) 1 true .clinv) ∧
  (∀ (x : Issue) (rs1 : BitVec 5) (s s1 : State), Begins s x s1 → 1 ≤ (s1.core x.c).lvl →
      s1.traps x.c G.htrap.TSW = false →
      let k := s1.core x.c
      let w := (k.rg rs1).toNat
      let M := fun (i : Instr) (o : Cmo) =>
        let s2 := match w % 8 with
          | 0 => s1.swL1d x.c o (w / 2 ^ 16 % 2 ^ 11) (w / 2 ^ 4 % 16)
          | 1 => s1.swL1i x.c (w / 2 ^ 16 % 2 ^ 11) (w / 2 ^ 4 % 16)
          | 2 => s1.swL2 x.c o (w / 2 ^ 16 % 2 ^ 11) (w / 2 ^ 4 % 16)
          | 3 => s1.swL3 (x.c / 2) o (w / 2 ^ 16 % 2 ^ 11) (w / 2 ^ 4 % 16)
          | _ => s1
        WritesNone x s2 (k.pc + 4) (exec i s)
      M (.cmoCleanSw x rs1) .clean ∧ M (.cmoClinvSw x rs1) .clinv ∧ M (.cmoInvSw x rs1) (if k.lvl < 3 then .clinv else .inv)) ∧
  (∀ (x : Issue) (rd rs1 : BitVec 5) (s s1 s2 : State) (t : Tr), Begins s x s1 → 1 ≤ (s1.core x.c).lvl →
      translate x.c (cmoFx ((s1.core x.c).rg rs1) false) s1 = (.ok t, s2) →
      let line := t.pa / 64
      let s3 := (s2.drainLine x.c line).grant x.c false
      let p := ((s3.wakePath line).statCore x.c 0).preload line t.key
      (t.mtype ≠ 3 ∨ s2.physDevice t.pa = true → WritesG x s2 rd 3 ((s2.core x.c).pc + 4) (exec (.cmoPreload x rd rs1) s)) ∧
      (t.mtype = 3 → s2.physDevice t.pa = false → s3.coreErr x.c line false = none →
        WritesG x p.2 rd (dw p.1) ((s2.core x.c).pc + 4) (exec (.cmoPreload x rd rs1) s)))

/-- R231: after CLINV no private hierarchy and no L3 slice holds the line and the directory does not list it, and a
clean or a clean-and-invalidate leaves every byte that readers see; after CLEAN memory holds what readers see. -/
def Obligations.MaintainedLine : Prop :=
  ∀ (s : State) (line key : Nat),
    (s.cmoLine .clinv line key).m.mem = s.m.mem ∧ (s.cmoLine .clean line key).m.mem = s.m.mem ∧
    (s.cmoLine .clinv line key).coh.l3.find line = none ∧ (s.cmoLine .clinv line key).coh.dir.find line = none ∧
    (s.cmoLine .clinv line key).m.stale.find line = none ∧ (s.cmoLine .clean line key).m.stale.find line = none

/-- R203, R206: what each TINV leaves in the TLB of its core; TSYNC leaves all of it. No other core changes. -/
def Obligations.TlbInvalidation : Prop :=
  ∀ (x : Issue) (rs1 rs2 : BitVec 5) (s s1 : State), Begins s x s1 →
    let k := s1.core x.c
    let vm := s1.tagVmid k
    let a := k.rg rs1
    let b := (k.rg rs2).toNat % 2 ^ 16
    let T := fun (i : Instr) (f : UCore → UCore) (keep : TlbEntry → Bool) =>
      WritesNone x (s1.onUcore x.c f) (k.pc + 4) (exec i s) ∧ (f (s1.ucore x.c)).tlb = (s1.ucore x.c).tlb.filter keep
    1 ≤ k.lvl →
      T (.tinvVa x rs1 rs2) (·.tinvVa k.world vm a.toNat b) (fun e => e.s2only || e.world != k.world || e.vmid != vm ||
        (!e.glob && e.asid != b) || e.vpage >>> (e.bits - 12) != a.toNat >>> e.bits) ∧
      T (.tinvAsid x rs1) (·.tinvAsid k.world vm (a.toNat % 2 ^ 16)) (fun e => e.s2only || e.world != k.world || e.vmid != vm ||
        e.glob || e.asid != a.toNat % 2 ^ 16) ∧
      (k.lvl = 1 → T (.tinvAll x) (·.tinvAll1 k.world vm) fun e => e.world != k.world || e.vmid != vm) ∧
      (2 ≤ k.lvl → T (.tinvAll x) (·.tinvAll2 (k.lvl == 3)) fun e => k.lvl != 3 && e.world) ∧
      T (.tsync x) id (fun _ => true) ∧
      (2 ≤ k.lvl → s1.iso ≠ .lk →
        T (.tinvVmid x rs1) (·.tinvVmid (a.toNat % 2 ^ 16)) (fun e => e.world || e.vmid != a.toNat % 2 ^ 16) ∧
        T (.tinvIpa x rs1 rs2) (·.tinvIpa a.toNat b) fun e => e.world || e.vmid != b ||
          (e.s2only && e.vpage >>> (e.bits - 12) != a.toNat >>> e.bits))

/-! ### Control transfer -/

/-- R102, R103, R273, R275: the calls, BREAK and a word that is no defined encoding take their exception, with SYS.EPC
at their own address: SCALL, BREAK and ILLEGAL_INSTR at the core's own level, L1 at least; HCALL at L2; TCALL at L3 of
the trusted world, or, from the normal world while trusted services are unavailable, g1 := −16 (R297). -/
def Obligations.CallResults : Prop :=
  ∀ (x : Issue) (word : BitVec 32) (s s1 : State), Begins s x s1 → (s1.core x.c).lk = none → (s1.core x.c).lvl ≤ 3 →
    let k := s1.core x.c
    (∀ s0, Quiet s x s0 → let u := s1.unmarked x.c s0
      Traps x u 0x10 0 (exec (.scall x) s) ∧ Traps x u 0x13 0 (exec (.break x) s) ∧
      (definedWord word = false → Traps x u 0x01 0 (exec (.illegalInstr x word) s)) ∧
      (1 ≤ k.lvl → k.lvl ≤ 2 → k.world = false → s1.iso ≠ .lk →
        Takes x u 2 false 0x11 0 (if k.lvl = 2 then 0 else 0x100) (exec (.hcall x) s)) ∧
      (1 ≤ k.lvl → s1.traps x.c G.htrap.TTCALL = false → (k.world = true ∨ s1.avail = true) →
        Takes x u 3 true 0x12 0 (if k.lvl = 3 ∧ k.world = true then 0 else 0x100) (exec (.tcall x) s))) ∧
    (1 ≤ k.lvl → s1.traps x.c G.htrap.TTCALL = false → k.world = false → s1.avail = false →
      WritesG x s1 1 (BitVec.ofInt 64 (-16)) (k.pc + 4) (exec (.tcall x) s))

/-- R274: ERET goes to EPC of its level with the level, world and IE that ESTATE saved; where it enters a guest of a
virtual CPU, the record is harvested first (R314). -/
def Obligations.EretResults : Prop :=
  ∀ (x : Issue) (s s1 : State), Begins s x s1 → 1 ≤ (s1.core x.c).lvl →
    let k := s1.core x.c
    let b := bankOf k.lvl k.world
    let w := k.rs (Sys.estateAt k.lvl) b
    let q := { k with pc := k.rs (Sys.epcAt k.lvl) b, lvl := w.toNat % 4, world := w.getLsbD 2, ie := w.getLsbD 3,
                      barred := false, wret := if w.getLsbD 2 then k.wret else none }
    let s2 := s1.setCore x.c q
    (w.toNat % 4 ≤ k.lvl ∧ (w.getLsbD 2 = k.world ∨ k.lvl = 3) ∧ ¬(w.toNat % 4 = 2 ∧ (w.getLsbD 2 = true ∨ s1.iso = .lk)) ∧
        ¬(w.toNat % 4 = 3 ∧ w.getLsbD 2 = false)) →
      (k.vcpuOn = false → WritesNone x s2 q.pc (exec (.eret x) s)) ∧
      (k.vcpuOn = true → WritesNone x (s2.resumed x.c (k.lvl == 2)) q.pc (exec (.eret x) s))

/-- R306, R335: WFI suspends the core unless an interrupt would end the wait at once; WFQ clears the queue latch of
its world and goes on where it is set, and else suspends the core likewise. Stated for a core whose counters do not
count, with no event waiting that they counted before: an overflow may end the wait again. -/
def Obligations.WaitResults : Prop :=
  ∀ (x : Issue) (s s0 s1 : State), (s.opened x).checked x.c x.checks = (none, s0) → (s0.core x.c).counts = false → Begins s x s1 →
    (∀ e ∈ (s1.ucore x.c).seen, e.counts = false) →
    let k := s1.core x.c
    let A := fun (i : Instr) (q : Core) => Answers (exec i s) fun t =>
      t.core x.c = { q with pc := k.pc + 4 } ∧ KeptChip x.c s1 t
    let idle := s1.anyDeliverable x.c = false ∧ k.virtOffered false = none
    (1 ≤ k.lvl → s1.traps x.c G.htrap.TWFI = false →
      (idle → A (.wfi x) { k with run := .wfi }) ∧ (¬idle → A (.wfi x) k)) ∧
    (k.world = false → k.latchN = true → A (.wfq x) { k with latchN := false }) ∧
    (k.world = true → k.latchT = true → A (.wfq x) { k with latchT := false }) ∧
    ((if k.world then k.latchT else k.latchN) = false →
      (idle → A (.wfq x) { k with run := .wfq }) ∧ (¬idle → A (.wfq x) k))

/-! ### Lockets, queues and doorbells from a core -/

/-- R289, R290: LKENTER of a READY locket bound to the caller, with a slot that is FRESH or SAVED, enters it with the
registers of the slot; LKEXIT resumes after that LKENTER with 0 in its rd, the other registers as the locket left
them. Stated while the core's counters do not count. R293: LKREPORT inside a locket answers −2 for a buffer that is
not aligned or not bound, −4 while a report of the slot is under way, and else queues the report and answers 0. Both ask the SEC,
which the mesh must reach (R247, R266). -/
def Obligations.LocketInstructions : Prop :=
  (∀ (x : Issue) (rd rs1 : BitVec 5) (s s0 s1 : State), (s.opened x).checked x.c x.checks = (none, s0) → (s0.core x.c).counts = false →
      Begins s x s1 → s1.iso ≠ .hv →
      let k := s1.core x.c
      let v := (k.rg rs1).toNat
      (∀ (l : Locket) (page : Nat) (bs : List Byte) (s2 : State), k.world = false → k.lvl = 0 → v < 2 ^ 20 →
          s1.sec.lockets.find (v % 2 ^ 12) = some l → l.st = 2 → l.vmid = (s1.ident x.c).vmid →
          l.slots[v / 2 ^ 12]? = some page →
          ToSec x.c s1 → (s1.wake domSec).agentRead true (tileStop (x.c / 2)) hypId l.key 26 page 0x600 = .ok (bs, false, s2) →
          wordAt bs 0 8 < 2 →
            let s3 := s2.slotWrite x.c l.key page (leBytes 8 2)
            let q := s3.core x.c
            Answers (exec (.lkenter x rd rs1) s) fun t =>
              (t.core x.c).lk = some ⟨v % 2 ^ 12, v / 2 ^ 12, q.pc, rd⟩ ∧
              (t.core x.c).pc = dw (wordAt bs 8 8 / 4 * 4) ∧
              (∀ i, 1 ≤ i → i < 32 → (t.core x.c).rg (BitVec.ofNat 5 i) = dw (wordAt bs (0x100 + 8 * (i - 1)) 8)) ∧
              (∀ i, i < 32 → (t.core x.c).rv (BitVec.ofNat 5 i) = BitVec.ofNat 256 (wordAt bs (0x200 + 32 * i) 32)) ∧
              KeptChip x.c s3 t) ∧
      (∀ y : LkCtx, k.lk = some y →
        let s2 := match s1.slotPage y.id y.slot with
          | some (p, key) => s1.slotWrite x.c key p (leBytes 8 0)
          | none => s1
        Answers (exec (.lkexit x) s) fun t =>
          (t.core x.c).lk = none ∧ (t.core x.c).pc = y.enter + 4 ∧
          (∀ r, (t.core x.c).rg r = if r = y.rd ∧ y.rd ≠ 0 then 0 else (s2.core x.c).rg r) ∧
          (∀ r, (t.core x.c).rv r = (s2.core x.c).rv r) ∧ KeptChip x.c s2 t)) ∧
  (∀ (x : Issue) (rd rs1 rs2 : BitVec 5) (s s1 : State) (y : LkCtx) (l : Locket), Begins s x s1 → s1.iso ≠ .hv →
      let k := s1.core x.c
      let buf := (k.rg rs1).toNat
      let bad := buf % 4096 ≠ 0 ∨ l.bind buf = none ∨ l.bind (buf + 4096) = none
      let busy := ∃ r ∈ s1.sec.reports, r.locket = y.id ∧ r.slot = y.slot
      k.lk = some y → s1.sec.lockets.find y.id = some l →
        (bad → WritesG x s1 rd (BitVec.ofInt 64 (-2)) (k.pc + 4) (exec (.lkreport x rd rs1 rs2) s)) ∧
        (¬bad → busy → WritesG x s1 rd (BitVec.ofInt 64 (-4)) (k.pc + 4) (exec (.lkreport x rd rs1 rs2) s)) ∧
        (∀ s2 s3 s4 w, ¬bad → ¬busy → touchWrite x.c (k.rg rs1) s1 = (.ok (), s2) →
          touchWrite x.c (k.rg rs1 + 4096) s2 = (.ok (), s3) → loadWords x.c x (k.rg rs2) 8 s3 = (.ok w, s4) →
          ToSec x.c s4 →
            WritesG x { s4.wake domSec with
                sec := { s4.sec with reports := s4.sec.reports ++ [⟨y.id, y.slot, buf, BitVec.ofNat 512 w⟩] } }
              rd 0 ((s4.core x.c).pc + 4) (exec (.lkreport x rd rs1 rs2) s)))

/-- R106, R327, R330, R331: QPUT and QPUTM answer 0 for a message that the station takes, −13 where the queue is full
and −4 where no reassembly buffer is free; QGET answers the word that the station gives. R317, R318: DOORBELL answers
−2 or −3 for a descriptor it may not send, and else what the STW stop answers: for a descriptor that names one core, 1, with
one interrupt sent there and the count loaded where the descriptor says so, or −4 where a count is under way. -/
def Obligations.QueuesAndDoorbells : Prop :=
  (∀ (x : Issue) (rd rs1 rs2 : BitVec 5) (n : BitVec 6) (bad : Bool) (s s1 : State), Begins s x s1 →
      let k := s1.core x.c
      let h : Word := (k.rg rs1).truncate 32
      let code := fun (e : Nat) => if e = 0 then (0 : DWord) else if e = 1 then BitVec.ofInt 64 (-13) else BitVec.ofInt 64 (-4)
      let P := fun (i : Instr) (s2 : State) (ws : List (BitVec 56)) => ∀ s3 e s4,
        let last := ws.length - (if 32 < ws.length then 32 else 0)
        (if 32 < ws.length then (s2.drain x.c).statCore x.c 8 else s2.drain x.c).coreStation x.c (hStation h) 0x08 ((last + 3) / 4)
          = (none, s3) →
        s3.qSend x.c (s3.ident x.c) h ws = (e, s4) → e ≤ 2 →
          WritesG x s4 rd (code e) ((s4.core x.c).pc + 4) (exec i s)
      P (.qput x rd rs1 rs2) s1 [(k.rg rs2).truncate 56] ∧
      (∀ s2 ws, (k.rg rs2).toNat % 8 = 0 → loadPayloads x.c x (k.rg rs2) (n.toNat + 1) s1 = (.ok ws, s2) →
        P (.qputm x rd rs1 rs2 n) s2 ws) ∧
      (∀ s2 w s3, s1.coreStation x.c (hStation h) 0x09 1 = (none, s2) →
        s2.qGet x.c (s2.ident x.c) h bad = (.ok w, s3) →
          WritesG x s3 rd w ((s3.core x.c).pc + 4) (exec (.qget x rd rs1 bad) s))) ∧
  (∀ (x : Issue) (rd rs1 : BitVec 5) (s s1 s2 : State) (d : Nat), Begins s x s1 → 1 ≤ (s1.core x.c).lvl →
      let va := (s1.core x.c).rg rs1
      va.toNat % 64 = 0 → loadWords x.c x va 8 s1 = (.ok d, s2) →
        (∀ w, s2.bellOf x.c d = .inl w → WritesG x s2 rd w ((s2.core x.c).pc + 4) (exec (.doorbell x rd rs1) s)) ∧
        (∀ b, s2.bellOf x.c d = .inr b → s2.unitErr x.c 0x0B = none → s2.pathErr (tileStop (x.c / 2)) stwStop 416 = none →
          let r := (s2.statCore x.c 1).bell b
          WritesG x r.2 rd r.1 ((r.2.core x.c).pc + 4) (exec (.doorbell x rd rs1) s))) ∧
  ∀ (b : Bell) (s : State) (c : Nat), c < 256 → (∀ j, j < 256 → b.mask.getLsbD j = decide (j = c)) → s.bellSkips c = false →
    s.bellBad b = false →
      let int := fun (s : State) => s.sendInt stwStop c b.world b.vec b.prio b.lvl
      (b.counter = none → s.bell b = (1, int s)) ∧
      ∀ i, let g := Reg.gather (ix 64 i)
        b.counter = some i → s.flag g F.gather.WORLD = b.world →
          (b.load = true → s.fld g F.gather.COUNT = 0 → s.bell b = (1, int (s.setFld g F.gather.COUNT 1))) ∧
          (b.load = true → s.fld g F.gather.COUNT ≠ 0 → s.bell b = (BitVec.ofInt 64 (-4), s)) ∧
          (b.load = false → s.bell b = (1, int s))

/-! ### A core's events between instructions -/

/-- R304, R273: an interrupt accepted at L1 of the normal world outside a locket: it is in service and no longer
pending, ECAUSE names its vector, and pc is the handler's address. Stated while the core's counters do not count, with no event waiting that they counted
before. -/
def Obligations.InterruptAccepted : Prop :=
  ∀ (core : BitVec 8) (s : State) (b : IntBit), s.canRun core.toNat = true → s.offered core.toNat = some b →
    (∀ v, (s.core core.toNat).virtOffered = some v → b.yields v = false) →
    (s.core core.toNat).counts = false → (∀ e ∈ (s.ucore core.toNat).seen, e.counts = false) → (s.core core.toNat).lk = none → b.world = false → b.lvl = 1 →
    (s.core core.toNat).world = false → b.vec < 512 →
    let k := s.core core.toNat
    Answers (exec (.interruptAccept core []) s) fun t =>
      let q := t.core core.toNat
      q.lvl = 1 ∧ q.world = false ∧ q.ie = false ∧ b ∈ q.serv ∧
      (∀ d ∈ q.pend, ¬(d.world = false ∧ d.vec = b.vec ∧ d.tmr = b.tmr)) ∧
      q.rs (Sys.ecauseAt 1) false = dw (0x17 + b.vec * 2 ^ 16) ∧ q.rs (Sys.epcAt 1) false = k.pc ∧
      q.pc = k.rs (Sys.vbaseAt 1) false + dw (0x1000 + 8 * b.vec) ∧ (∀ r, q.rg r = k.rg r) ∧ (∀ r, q.rv r = k.rv r) ∧
      KeptChip core.toNat s t

/-- R146-R148: a counter at its greatest value that counts once more, a programmable one with an event selected at the
core's level, reads 0, its PMOVF bit is set, and, where
PMCTL.OVF_IE is 0, nothing else of the chip outside the core changes. -/
def Obligations.CounterOverflow : Prop :=
  ∀ (core : BitVec 8) (n : Fin 10) (s : State), s.canRun core.toNat = true → (s.core core.toNat).counts = true →
    (s.core core.toNat).rs (0x60 + n.val) = BitVec.allOnes 64 → (s.core core.toNat).sflag Sys.pmctl false G.pmctl.OVF_IE = false →
    (n.val < 8 → let w := (s.core core.toNat).rs (0x4058 + n.val)
      getF w G.pmevsel.EVENT ≠ 0 ∧ (getF w G.pmevsel.LVL).testBit (s.core core.toNat).lvl = true) →
    Answers (exec (.pmcOverflow core n) s) fun t =>
      (t.core core.toNat).rs (0x60 + n.val) = 0 ∧ ((t.core core.toNat).rs Sys.pmovf).getLsbD n.val = true ∧
      KeptCore (fun _ => false) (s.core core.toNat) (t.core core.toNat) ∧ KeptChip core.toNat s t

/-- R129-R132: an instruction-class request of the L2 port that is escalated has waited 32 cycles, and the prefetch that is
dropped no longer waits; each is counted, and nothing else happens. A prefetch of a line of the page that trained the
prefetcher reads the line under the identity and key of that access, while no instruction-class request waits. R169-R171:
an entry of the merge buffer that may leave is performed and gone from the buffer, and the place behind the last entry
names the gathered write; a store whose request ends in an error is not performed, and is recorded as the spec says
(R180). R140, R190, R196-R202: a speculative walk leaves what translation leaves behind and raises nothing; the mark rows
set the marks that the access needs. -/
def Obligations.CoreEvents : Prop :=
  (∀ (core : BitVec 8) (line : BitVec 6) (s : State),
      let c := core.toNat
      (s.isOn c = true → s.noCore c = false →
        exec (.l2PortEscalation core) s =
          .next ((s.onUcore c fun u => { u with port := { u.port with instr := 32 } }).pmEvents c (s.core c) [(0x43, 1)]) ∧
        exec (.l2portPfDrop core) s =
          .next ((s.onUcore c fun u => { u with port := { u.port with prefetch := 0 } }).pmEvents c (s.core c) [(0x44, 1)])) ∧
      (∀ p key id, s.canRun c = true → (s.ucore c).trained.getLast? = some (p, key, id) → (s.ucore c).port.instr = 0 →
        s.mayReach id p = true → s.settleKey id.world p key = some key →
        let l := 64 * p + line.toNat
        s.lineErr (tileStop (c / 2)) l = none →
        let s1 := (s.onUcore c fun u => { u with port := { u.port with prefetch := 0 } }).pmEvents c (s.core c) [(0x42, 1)]
        let s2 := s1.wakePath l
        exec (.l2Prefetch core line) s =
          .next (if s1.hasLine c l then s1 else (s2.withCs (s2.rdShared s2.cs c l key false)).statCore c 2)) ∧
      KeptChip c s (s.pmEvents c (s.core c) [(0x43, 1)])) ∧
  (∀ (core : BitVec 8) (i : Fin 8) (st_ : BitVec 8) (s : State) (e : MbEntry),
      let c := core.toNat
      (s.boot.resetting = none ∨ s.boot.draining = true) →
      ((s.ucore c).mbuf[i.val]? = some e → mayLeave (s.ucore c).mbuf i.val = true →
        let s1 := s.onUcore c fun u => { u with mbuf := u.mbuf.eraseIdx i.val }
        exec (.mergeBufferWriteout core i) s = .next (s1.performStore c e).afterDrain ∧
        exec (.committedStoreFailure core i st_) s = .next (s1.storeFailed c e st_.toNat).afterDrain ∧
        s1.m = s.m) ∧
      ((s.ucore c).mbuf.length = i.val → exec (.mergeBufferWriteout core i) s = .next (s.flushGath c).afterDrain)) ∧
  (∀ (core : BitVec 8) (va : BitVec 64) (acc : Acc) (s : State), s.canRun core.toNat = true →
      let c := core.toNat
      exec (.pageWalk core va acc) s = .next (translate c (accFx va acc true) s).2 ∧
      (∀ t s1 ok s2, translate c (accFx va acc false) s = (.ok t, s1) →
        (setMarks c (accFx va acc false) (acc == .write) (t.marks.filter fun m => m.leaf.span.isNone) s1 = (.ok ok, s2) →
          exec (.adMarkUpdate core va acc) s = .next s2) ∧
        (setMarks c (accFx va acc false) (acc == .write) (t.marks.filter fun m => m.leaf.span.isSome && !m.log) s1 = (.ok ok, s2) →
          exec (.spanMarkUpdate core va acc) s = .next s2)) ∧
      (∀ t s1 ok s2, translate c (accFx va .write false) s = (.ok t, s1) →
        setMarks c (accFx va .write false) true (t.marks.filter fun m => m.leaf.span.isSome) s1 = (.ok ok, s2) →
          exec (.dirtyLogSet core va) s = .next s2))

/-! ### Start-up, resets and the fatal sequence -/

/-- R34, R36-R39, R4, R49, R50: each phase of start-up, once the one before it is done, completes: it does what it holds and
makes the next one current. A bank that fails is marked and starts a cold reset from phase 3; without a valid image, or
where a strap asks for it, the Steward enters recovery with every port's link down; with no channel trained start-up
stops. PWR.SAVEBASE takes a write once in a reset (R11, R406). What phases 4, 7 and 8 do at large is `applyImage`, `trainMemory` and the places of the firmware reserve (R466). -/
def Obligations.StartUpPhases : Prop :=
  ∀ s : State,
    let R := fun (cause : Nat) (o : Result) => Answers o fun t =>
      t.flag .stwBootstat F.stwBootstat.RCVR = true ∧ t.fld .stwBootstat F.stwBootstat.CAUSE = cause ∧ t.phase = s.phase ∧
      (∀ p r, t.flag (.clasp p r) F.clasp.LINKUP = false) ∧ t.cores = s.cores ∧ t.m = s.m
    let C := fun (o : Result) (failed : State → Bool) => Answers o fun t =>
      t.phase = 3 ∧ t.boot.resetting = some .cold ∧ failed t = true ∧ t.cores = []
    (∀ lo hi, s.boot.pins.pwrok = false → Answers (exec (.pwrokRise lo hi) s) fun t =>
      t.boot.pins.pwrok = true ∧ t.phase = 1 ∧ t.boot.resetting = some .powerOn ∧
      t.flag .stwBootstat F.stwBootstat.STRAP_TEST = hi ∧ t.flag .stwBootstat F.stwBootstat.STRAP_RCVR = !lo ∧
      t.log.powerOns = s.log.powerOns + 1 ∧ (∀ r, r ≠ .stwBootstat → t.reg r = s.reg r) ∧
      t = { s with boot := { s.boot with pins := { s.boot.pins with pwrok := true }, resetting := some .powerOn }
                   log := { s.log with powerOns := s.log.powerOns + 1 }, csr := t.csr }) ∧
    (s.inPhase 1 = true → Answers (exec .fuseLoad s) fun t =>
      t.phase = 2 ∧ t.reg .stwDevid = (if s.boot.fuses.engineering then 0x92561021 else 0x92561010) ∧
      (∀ r, r ≠ .stwDevid → r ≠ .stwBootstat → t.reg r = s.reg r) ∧ t = { s with csr := t.csr }) ∧
    (∀ o, s.inPhase 2 = true → Answers (exec (.flashDiscovery o) s) fun t =>
      t.phase = 3 ∧ (∀ r, r ≠ .stwBootstat → t.reg r = s.reg r) ∧
      t = { s with boot := { s.boot with octal := o }, csr := t.csr }) ∧
    (s.inPhase 3 = true →
      (let test := s.boot.resetting = some .powerOn ∧ s.flag .stwBootstat F.stwBootstat.STRAP_TEST = true
       let strap := s.boot.resetting = some .powerOn ∧ s.flag .stwBootstat F.stwBootstat.STRAP_RCVR = false
       (test → R 4 (exec .imageSelection s)) ∧ (¬test → strap → R 3 (exec .imageSelection s)) ∧
       (¬test → ¬strap → s.pickBank .cfg (s.bankOk .cfg) = none → R 1 (exec .imageSelection s)) ∧
       (∀ b, ¬test → ¬strap → s.pickBank .cfg (s.bankOk .cfg) = some b → Answers (exec .imageSelection s) fun t =>
         t.phase = 4 ∧ t.boot.cfgSel = b ∧ t.flag .stwBootstat F.stwBootstat.CFG_BANK = b ∧
         t = { s with boot := { s.boot with cfgSel := b }, csr := t.csr }))) ∧
    (s.inPhase 4 = true →
      (Answers (exec (.imageApply true) s) fun t => t = s.applyImage.setPhase 5 ∧ t.phase = 5 ∧
        t.boot.cfg = s.cfgOf s.boot.cfgSel ∧ t.ras.pkg = (s.cfgOf s.boot.cfgSel).power) ∧
      C (exec (.imageApply false) s) fun t => if s.boot.cfgSel then t.boot.cfgFailed.2 else t.boot.cfgFailed.1) ∧
    (s.inPhase 5 = true →
      (s.pickBank .fw (s.bankOk .fw) = none → R 2 (exec .firmwareSelection s)) ∧
      (∀ b, s.pickBank .fw (s.bankOk .fw) = some b →
        (s.componentOk b 0x8101 = true → Answers (exec .firmwareSelection s) fun t =>
          t.phase = 6 ∧ t.boot.fwSel = b ∧ t.flag .stwBootstat F.stwBootstat.FW_BANK = b ∧ t.m = s.m ∧ t.cores = s.cores) ∧
        (s.componentOk b 0x8101 = false →
          C (exec .firmwareSelection s) fun t => if b then t.boot.fwFailed.2 else t.boot.fwFailed.1))) ∧
    (s.inPhase 6 = true → Answers (exec .secStart s) fun t =>
      t.phase = (if s.boot.resetting = some .warm then 8 else 7) ∧
      t.boot.measures = ([0x8101, 0x8102, 0x8103, 0x8104].map fun c =>
        BitVec.ofNat 384 (beNat ((s.component s.boot.fwSel c).drop 24))) ∧
      t = { s with boot := { s.boot with measures := t.boot.measures }, csr := t.csr }) ∧
    (∀ ds bad un cxl, s.inPhase 7 = true →
      let good := (trainable ds).filter fun d => !un.getLsbD d.mc.toNat
      Answers (exec (.memoryTraining ds bad un cxl) s) fun t => t = s.trainMemory ds bad un cxl ∧ t.m.mem = s.m.mem ∧
        (good = [] → t.flag .stwBootstat F.stwBootstat.FAIL = true ∧ t.fld .stwBootstat F.stwBootstat.CAUSE = 5 ∧
          t.phase = 7 ∧ t.m = s.m) ∧
        (good ≠ [] → t.phase = 8 ∧
          (∀ e ∈ t.m.dram, e.base % 2 ^ 30 = 0 ∧ 0x100000000 ≤ e.base) ∧
          t.m.fr = some (match t.m.dram.getLast? with | some e => e.base + e.size - 0x10000000 | none => 0))) ∧
    (∀ fr, s.inPhase 8 = true → s.m.fr = some fr → Answers (exec .firmwareReserveSetup s) fun t =>
      ([0x8102, 0x8103, 0x8104].all (s.componentOk s.boot.fwSel) = true →
        t.phase = 9 ∧ (s.boot.saveSet = true → t.reg .savebase = s.reg .savebase) ∧
        (s.boot.saveSet = false → t.fld .savebase F.savebase.ADDR = (fr + 0xFC00000) / 2 ^ 22 % 2 ^ 30) ∧
        t.sec.pages = [((fr + 0xC000000) / 4096, (fr + 0xFC00000) / 4096 - 1), ((fr + 0xFC00000) / 4096, (fr + 0x10000000) / 4096 - 1)] ∧
        t.flag (.twrangeLo 0) F.twrangeLo.V = true) ∧
      ([0x8102, 0x8103, 0x8104].all (s.componentOk s.boot.fwSel) = false →
        t.phase = 3 ∧ t.boot.resetting = some .cold ∧ (if s.boot.fwSel then t.boot.fwFailed.2 else t.boot.fwFailed.1) = true)) ∧
    (s.inPhase 9 = true →
      (∀ c, s.bootCore = some c → Answers (exec .bootCoreRelease s) fun t =>
        t.boot.resetting = none ∧ t.phase = 10 ∧ (t.core c).run = .running ∧ (t.core c).pc = dw s.boot.twEntry ∧ (t.core c).lvl = 3 ∧
        (t.core c).world = true ∧ (∀ d, d ≠ c → t.core d = s.core d) ∧ t.m = s.m ∧
        ∀ p ∈ [0, 4], s.role p = .endpoint → (t.port p).ep.winOpen = true) ∧
      (s.bootCore = none → Answers (exec .bootCoreRelease s) fun t =>
        t.boot.resetting = none ∧ t.phase = 10 ∧ t.cores = s.cores ∧ t.m = s.m))

/-- R465: interleave sets are placed in order, each on a multiple of 1 GiB (2^30), and no two of them share an
address. -/
def Obligations.SetsPlacedApart : Prop :=
  ∀ (base : Nat) (l : List (Nat × List Nat)), base % 2 ^ 30 = 0 →
    let p := placeSets base l
    p.length = l.length ∧ (∀ m ∈ p, m.base % 2 ^ 30 = 0 ∧ base ≤ m.base) ∧
      p.Pairwise fun a b => a.base + a.size ≤ b.base

/-- R30, R31, R33, R182, R434, R483: what starts a reset, and what the reset leaves: the cores, their caches and stores, queues,
channels, lockets and transactions are gone and every key is new; a power-on reset gives every register its reset value and
stops rack time at 0; a cold one keeps rack time and goes back to phase 3; a warm one keeps memory, error records, rack
time, training, the image and what endpoint hosts have configured, and goes back to phase 6. A request during an equal or
broader reset is recorded and discarded. A warm reset asked for where start-up has stopped is performed as a cold one (log
entry 22, the model's choice). R50, R53, R51: an image received in recovery is discarded or written to the bank that R50
names, from which a cold reset starts; an update that times out leaves its bank erased and the rest of the flash. -/
def Obligations.ResetEffects : Prop :=
  (∀ s : State,
      let Gone := fun (t : State) =>
        t.cores = [] ∧ t.ucores = [] ∧ t.qs.q = [] ∧ t.dm.chans = [] ∧ t.sec.lockets = [] ∧ t.mesh.txns = [] ∧
        t.coh.priv = [] ∧ t.coh.l3 = [] ∧ t.m.epoch = s.m.epoch + 1 ∧ t.m.keyGen = [] ∧ t.boot.update = none ∧
        t.boot.fuses = s.boot.fuses ∧ t.pending = s.pending
      let PowerOn := fun (t : State) => Gone t ∧ t.boot.pins.pwrok = false ∧ t.now = 0 ∧
        (∀ c ∈ t.m.mem, 0x100000000000 ≤ c.1) ∧ t.log.entries = s.log.entries ∧
        ∀ r, r ≠ .dom 415 → r ≠ .dom 416 → r ≠ .stwDevid → t.reg r = r.reset
      let Cold := fun (t : State) => Gone t ∧ t.boot.resetting = some .cold ∧ t.phase = 3 ∧
        (∀ c ∈ t.m.mem, 0x100000000000 ≤ c.1) ∧ t.now = s.now ∧ t.reg .rtuLoad = s.reg .rtuLoad ∧
        t.reg .stwDevid = s.reg .stwDevid ∧ ∀ b i, t.reg (.ebStat b i) = (Reg.ebStat b i).reset
      let Warm := fun (t : State) => Gone t ∧ t.boot.resetting = some .warm ∧ t.boot.draining = false ∧ t.phase = 6 ∧
        t.m.mem = s.m.mem ∧ t.now = s.now ∧ t.reg .rtuLoad = s.reg .rtuLoad ∧ t.reg .stwDevid = s.reg .stwDevid ∧
        (∀ b i, t.reg (.ebStat b i) = s.reg (.ebStat b i)) ∧ t.boot.cfg = s.boot.cfg ∧ t.boot.fwSel = s.boot.fwSel ∧
        (∀ n, (t.mcAt n).trained = (s.mcAt n).trained) ∧
        ∀ p, s.role p = .endpoint → (t.port p).ep = { (s.port p).ep with winOpen := false }
      Answers (exec .pwrokFall s) PowerOn ∧ (∀ r, Answers (exec (.supplyOutOfRange r) s) PowerOn) ∧
      (s.boot.pins.pwrok = true → s.boot.pins.thermTrip = false →
        (s.stoppedBoot = true → Answers (exec .warmRstLRequest s) Cold) ∧
        (s.boot.resetting = none → s.stoppedBoot = false →
          (s.drained = true → Answers (exec .warmRstLRequest s) Warm) ∧
          (s.drained = false → Answers (exec .warmRstLRequest s) fun t =>
            t.boot.resetting = some .warm ∧ t.boot.draining = true ∧ t.cores = s.cores ∧ t.ucores = s.ucores ∧
            t.m = s.m ∧ t.csr = s.csr ∧ ∀ p, (t.port p).ep.winOpen = false)) ∧
        (s.boot.resetting ≠ none → s.stoppedBoot = false → Answers (exec .warmRstLRequest s) fun t => t = { s with log := t.log } ∧
          (s.log.queue.length < 4096 → t.log.queue.length = s.log.queue.length + 1))) ∧
      (s.boot.draining = true → Answers (exec .warmResetDrainDeadline s) Warm) ∧
      (s.boot.draining = false → exec .warmResetDrainDeadline s = .next s) ∧
      (s.sec.fatal = 1 →
        let v := (s.stopCores.claspAll).stopChans
        let w := (v.toLog 0x0001 3 false v.sec.fatalRec).logFlush
        exec .fatalSequence s = .next (if w.fld .fatalctl F.fatalctl.ACT = 1 then { w with sec := { w.sec with fatal := 2 } }
          else State.requestReset { w with sec := { w.sec with fatal := 0 } } .cold 2))) ∧
  (∀ (s : State) (fw : Bool) (tftp : Option NetFrame) (img : List Byte),
      let k := if fw then Img.fw else Img.cfg
      let strap := 3 ≤ s.fld .stwBootstat F.stwBootstat.CAUSE
      (s.boot.pins.pwrok = true → s.flag .stwBootstat F.stwBootstat.RCVR = true →
        (∀ f, tftp = some f → ∃ n, s.recoveryNet = some n ∧ f.vlan.toNat = n.vlan ∧ f.dest = n.linkLocal) →
        (s.recoveryBank k = none → exec (.recoveryImageReceived fw tftp img) s = .next s) ∧
        ∀ b mustNew, s.recoveryBank k = some (b, mustNew) →
          let w := (s.eraseFlash (k.base b) k.size).program (k.base b) (img.take k.size)
          let good := w.valid k b = true ∧ img.length ≤ k.size ∧ (mustNew = true → newer (w.seqOf k b) (s.seqOf k (!b)) = true)
          (¬good → exec (.recoveryImageReceived fw tftp img) s = .next s) ∧
          (good → s.boot.update = none → Answers (exec (.recoveryImageReceived fw tftp img) s) fun t =>
            t.phase = 3 ∧ t.boot.resetting = some .cold ∧ t.cores = [] ∧ t.boot.flash = w.boot.flash)) ∧
      (s.bankOk k false = false → s.bankOk k true = false → s.recoveryBank k = some (false, false)) ∧
      (∀ b, s.bankOk k b = false → s.bankOk k (!b) = true → s.recoveryBank k = if strap then some (b, false) else none) ∧
      (∀ b, s.bankOk k false = true → s.bankOk k true = true → s.pickBank k (s.bankOk k) = some b →
        s.recoveryBank k = if strap then some (!b, true) else none) ∧
      (∀ u, s.boot.update = some u → Answers (exec .imageUpdateTimeout s) fun t =>
        t.boot.update = none ∧
        (let k := if u.region = 0 then Img.cfg else Img.fw
         ∀ a, k.base u.bank ≤ a → a < k.base u.bank + k.size → t.flash a 1 = [0xFF]) ∧
        (let k := if u.region = 0 then Img.cfg else Img.fw
         ∀ a, a < k.base u.bank ∨ k.base u.bank + k.size ≤ a → t.flash a 1 = s.flash a 1) ∧
        t = { s with boot := { s.boot with flash := t.boot.flash, update := none } }) ∧
      (s.boot.update = none → exec .imageUpdateTimeout s = .next s))

/-! ### The Steward's mailboxes -/

/-- R56-R66, R45, R449: what each command does, then its completion: results and status put into the mailbox, GO
cleared, DONE set. The summaries of GET_INFO and GET_BOOTSTAT and the status of an unreadable chunk are the model's
(log entry 36). -/
def Obligations.MailboxCommands : Prop :=
  ∀ (m : Fin 5) (s : State),
    let a := s.mbArg m
    (MailWaits m 0x01 s → ∃ mib, exec (.getInfo m) s = .next (s.mbDone m stOk
      [s.reg .stwDevid, Config.coreSummary ((List.range 256).filter fun c => !s.noCore c), mib])) ∧
    (MailWaits m 0x02 s → ∃ w, exec (.getBootstat m) s = .next (s.mbDone m stOk [s.reg .stwBootstat, w])) ∧
    (MailWaits m 0x03 s → a 0 ≤ 1 → (m.val = 0 → a 0 = 0) →
      let k := imgOf (a 0)
      (∀ u f, s.boot.update = some u → u.mb ≠ m.val → exec (.imageBegin m f) s = .next (s.mbDone m stBusy [])) ∧
      (s.boot.update = none →
        (∀ f, s.updateBank k = none → exec (.imageBegin m f) s = .next (s.mbDone m stDenied [])) ∧
        ∀ b, s.updateBank k = some b →
          s.selected k ≠ some b ∧
          (let e := s.eraseFlash (k.base b) k.size
           exec (.imageBegin m true) s =
             .next (State.mbDone { e with boot := { e.boot with update := some ⟨m.val, a 0, b⟩ } } m stOk [dw (b2n b)]) ∧
           exec (.imageBegin m false) s = .next (e.mbDone m stFlash [])))) ∧
    (∀ u f, MailWaits m 0x04 s → s.boot.update = some u → u.mb = m.val → s.selected (imgOf u.region) = some u.bank →
      exec (.imageChunk m f) s = .next (s.mbDone m stBankActive [])) ∧
    (∀ u bs s1, MailWaits m 0x04 s → s.boot.update = some u → u.mb = m.val → s.selected (imgOf u.region) ≠ some u.bank →
      s.chunk m = .ok (bs, s1) → a 0 + bs.length ≤ (imgOf u.region).size →
      exec (.imageChunk m true) s = .next ((s1.program ((imgOf u.region).base u.bank + a 0) bs).mbDone m stOk []) ∧
      exec (.imageChunk m false) s = .next (s1.dropUpdate.mbDone m stFlash [])) ∧
    (∀ u, MailWaits m 0x05 s → s.boot.update = some u → u.mb = m.val →
      let k := imgOf u.region
      let old := s.pickBank k fun b => b != u.bank && s.bankOk k b
      let fresh := ∀ b, old = some b → newer (s.seqOf k u.bank) (s.seqOf k b) = true
      (s.flag .stwBootstat F.stwBootstat.RCVR = false → s.selected k ≠ some u.bank) →
      exec (.imageEnd m false) s = .next (s.dropUpdate.mbDone m stFlash []) ∧
      (s.valid k u.bank = false → exec (.imageEnd m true) s = .next (s.dropUpdate.mbDone m stVerify [])) ∧
      (s.valid k u.bank = true → ¬fresh → exec (.imageEnd m true) s = .next (s.dropUpdate.mbDone m stStale [])) ∧
      (s.valid k u.bank = true → fresh →
        let clear := fun (p : Bool × Bool) => if u.bank then (p.1, false) else (false, p.2)
        let s1 := State.mbDone { s with boot := { s.boot with
          update := none, cfgFailed := if u.region = 0 then clear s.boot.cfgFailed else s.boot.cfgFailed
          fwFailed := if u.region = 0 then s.boot.fwFailed else clear s.boot.fwFailed } } m stOk [dw (s.seqOf k u.bank)]
        exec (.imageEnd m true) s = .next (if s.flag .stwBootstat F.stwBootstat.RCVR then s1.coldReset 4 else s1))) ∧
    (MailWaits m 0x06 s → a 0 ≤ 1 →
      exec (.reset m) s = .next ((s.mbDone m stOk []).requestReset (if a 0 = 1 then .cold else .warm) 1)) ∧
    (MailWaits m 0x07 s → a 0 < 256 → a 1 % 4 = 0 →
      exec (.coreRelease m) s = .next (
        if 6 < s.phase ∧ s.stoppedBoot = false ∧ s.noCore (a 0) = false ∧ (s.core (a 0)).run = .held
        then (s.release (a 0) (dw (a 1))).mbDone m stOk [] else s.mbDone m stDenied [])) ∧
    (MailWaits m 0x08 s → exec (.setPower m) s = .next (if 380 ≤ a 0 ∧ a 0 ≤ 700 then
        State.mbDone { s with ras := { s.ras with pkg := a 0 } } m stOk [] else s.mbDone m stBadarg [])) ∧
    (MailWaits m 0x09 s → a 0 ≤ 6 →
      exec (.telemetryRead m) s = .next (s.mbDone m stOk ((List.range 8).map fun k => s.telemetry (a 0) (a 1 + k)))) ∧
    (∀ e, MailWaits m 0x0A s → (s.log.entries.filter fun e => m.val != 0 || !e.trusted).reverse[a 0]? = some e →
      exec (.errlogRead m) s = .next (s.mbDone m stOk e.words)) ∧
    (MailWaits m 0x0B s → 3 ≤ a 0 → exec (.getSignet m) s = .next (s.mbDone m stBadarg [])) ∧
    (MailWaits m 0x0B s → a 0 < 3 → ∃ r, r.length = 8 ∧
      r.head? = some (dw (Config.certificateLen s.boot.fuses.engineering s.boot.measures (a 0))) ∧
      exec (.getSignet m) s = .next (s.mbDone m stOk r)) ∧
    (MailWaits m 0x0C s → exec (.svnCommit m) s = .next (if s.boot.fwSvn < s.boot.cfgSvn then s.mbDone m stDenied []
      else State.mbDone { s with boot := { s.boot with fuses :=
        { s.boot.fuses with svnFuses := s.boot.fuses.svnFuses ||| BitVec.ofNat 64 (2 ^ s.boot.cfgSvn - 1) } } } m stOk [])) ∧
    (MailWaits m 0x0D s → 1 ≤ a 0 → a 0 ≤ 4 → a 0 ≠ s.boot.cfgSlot → a 0 ≠ s.boot.fwSlot →
      s.boot.fuses.revoked.contains (a 0) = false →
      exec (.keyRevoke m) s = .next (State.mbDone { s with boot := { s.boot with fuses :=
        { s.boot.fuses with revoked := s.boot.fuses.revoked ++ [a 0] } } } m stOk [])) ∧
    (MailWaits m 0x0E s → 1 ≤ a 0 → a 0 ≤ 4 →
      (s.boot.fuses.ownerHash.find (a 0) ≠ none → exec (.keyProgram m) s = .next (s.mbDone m stDenied [])) ∧
      (s.boot.fuses.ownerHash.find (a 0) = none → ∃ h : BitVec 384,
        (∀ i, i < 48 → h.extractLsb' (8 * (47 - i)) 8 = (s.reg (.mbArg m (ix 8 (1 + i / 8)))).extractLsb' (8 * (i % 8)) 8) ∧
        exec (.keyProgram m) s = .next (State.mbDone { s with boot := { s.boot with fuses :=
          { s.boot.fuses with ownerHash := s.boot.fuses.ownerHash.set (a 0) h } } } m stOk []))) ∧
    (MailWaits m 0x0F s →
      let s1 := if s.avail then s.servicesLost else s
      exec (.twRestart m) s = .next ((State.setFld { s1 with sec := { s1.sec with autoReload := false } } .twstate
        F.twstate.RESTARTING 1).mbDone m stOk [])) ∧
    (s.fld (.mbCmd m) F.mbCmd.CODE = 0 ∨ 0x0F < s.fld (.mbCmd m) F.mbCmd.CODE →
      s.mbServes m (s.fld (.mbCmd m) F.mbCmd.CODE) = true → exec (.mboxUnknownCode m) s = .next (s.mbDone m stBadcmd [])) ∧
    (s.flag (.mbCmd m) F.mbCmd.GO = true → exec (.mboxCollide m) s = .next (s.setFld (.mbSts m) F.mbSts.COLLIDE 1)) ∧
    (∀ en, exec (.inBandInterruptEnable en) s = .next { s with boot := { s.boot with ibiEn := en } }) ∧
    ∀ st res, st < 2 ^ 16 → s.flag (.mbCmd m) F.mbCmd.IRQ_EN = false →
      let t := s.mbDone m st res
      t.fld (.mbSts m) F.mbSts.STATUS = st ∧ t.fld (.mbSts m) F.mbSts.TAG = s.fld (.mbCmd m) F.mbCmd.TAG ∧
      t.flag (.mbSts m) F.mbSts.DONE = true ∧ t.flag (.mbCmd m) F.mbCmd.GO = false ∧
      (∀ k : Fin 8, t.reg (.mbRes m k) = res.getD k.val 0) ∧ t = { s with csr := t.csr, boot := { s.boot with mbLast := m } }

/-! ### Mesh packets -/

/-- R218-R231, R248-R252: a request whose packet reaches its target is performed there and answered: at the home slice a line
request has the effect of its command on the caches, the directory and memory (a core that reads a line then holds it, after
RD_UNIQUE as its owner); an address outside memory is read or written
at the agent it names; queue packets act on their queue, a doorbell packet on the STW stop, an interrupt packet on its
core. `p` is the packet, with its address, key and DPOISON; `s2` the state in which the target serves it. -/
def Obligations.MeshRequests : Prop :=
  ∀ (h : Hdr) (pa : BitVec 52) (p : HeldPacket) (s s2 : State),
    let c := p.init
    let k := p.pkt.key.toNat
    let at_ := p.pkt.addr.toNat
    let line := at_ / 64
    let s3 := s2.wake (s2.memStop (64 * line)).2
    let D := fun (a : Answer) (u : State) => Host.Outcome.next (u.answer p p.pkt.dst a)
    let H := fun (q : Ask) => AtHome h pa q p s s2
    let V := fun (q : Ask) => ∃ s1, Reaches h pa q p s s1 ∧ ServedAt p s1 s2
    let mine := if s3.hasLine c line then s3 else s3.cutIn line
    (∀ instr e, H (.rdShared instr e) →
      let u := mine.sliceErr e line k
      let v := u.withCs (u.rdShared u.cs c line k instr)
      exec (.rdShared h pa instr e) s = D (v.lineAnswer c line k) v ∧ (v.coh.priv.find (c, line)).isSome = true) ∧
    (H .rdUnique →
      let v := mine.withCs (mine.rdUnique mine.cs c line k)
      exec (.rdUnique h pa) s = D (v.lineAnswer c line k) v ∧ (CleanDram s3 line → v.m.mem = s3.m.mem) ∧
        (∃ q, v.coh.priv.find (c, line) = some q ∧ (q.st = .e ∨ q.st = .m)) ∧
        ∃ d, v.coh.dir.find line = some d ∧ d.owner = some c ∧ d.sharers = []) ∧
    (∀ n, H (.rdNc n) → s3.cutOff line = false →
      let u := s3.memIn line
      exec (.rdNc h pa n) s = D (.data 3 (u.linePoison line) (lineFlits (u.m.under line k))) (u.withCs (u.rdNc u.cs line k))) ∧
    (∀ n v bad s4, V (.rdNc n) → s2.physDevice at_ = true →
      s2.devAccess p.req_ 0x03 at_ (if n = 0 then 64 else min 64 n.toNat) none = (.ok (v, bad), s4) →
      exec (.rdNc h pa n) s = D (.data 3 (if bad then 3 else 0) (placed at_ v)) (s4.outOpen p false)) ∧
    (∀ d m, H (.wrPartial d m) → s3.cxlClasped (64 * line) = false →
      exec (.wrPartial h pa d m) s = D (.ack 0) (s3.writeNc line k m d (p.pkt.dpoison.truncate 2) false)) ∧
    (∀ d m o n r s4, V (.wrPartial d m) → s2.physDevice at_ = true → region at_ = .ccs → maskRuns m = [(o, n)] →
      s2.devAccess p.req_ 0x05 (at_ + o) n (some (d.toNat / 2 ^ (8 * o) % 256 ^ n)) = (.ok r, s4) →
      exec (.wrPartial h pa d m) s = D (.ack 0) s4) ∧
    (∀ d, H (.wrLine d) → s3.cxlClasped (64 * line) = false →
      exec (.wrLine h pa d false) s = D (.ack 0) (s3.writeNc line k (BitVec.allOnes 64) d (p.pkt.dpoison.truncate 2) true)) ∧
    (∀ d, V (.victim true .none) →
      exec (.wrLine h pa d true) s = D (.ack 0) (s2.withCs (s2.victim s2.cs c line true k))) ∧
    (∀ e, V (.victim false e) →
      let u := s2.sliceErr e line k
      exec (.victimClean h pa e) s = D (.ack 0) (u.withCs (u.victim u.cs c line false k))) ∧
    (∀ op o sz v x, H (.atomic op o sz v x) →
      let n := if op = 10 then 16 else if sz then 8 else 4
      let f := fun old => (atomicNew op.toNat n old (v.toNat % 256 ^ n) (x.toNat % 256 ^ n)).getD old
      ∀ old bad s4, s3.atomicHome k at_ n f = (old, bad, s4) →
        exec (.atomic h pa op ⟨o, sz⟩ v x) s =
          D (.data 3 (if bad.getLsbD (at_ % 64 / 32) then 1 else 0) [BitVec.ofNat 256 old]) s4) ∧
    (H .cmoClean → exec (.cmoClean h pa) s = D (.ack 0) (s3.cmoLine .clean line k)) ∧
    (H .cmoInv → exec (.cmoInv h pa) s = D (.ack 0) (s3.cmoLine .inv line k)) ∧
    (H .cmoClinv → exec (.cmoClinv h pa) s = D (.ack 0) (s3.cmoLine .clinv line k)) ∧
    (H .preload → exec (.preload h pa) s = D (.ack (BitVec.ofNat 32 (s3.preload line k).1)) (s3.preload line k).2) ∧
    (∀ hd ws s1, Reaches h 0 (.msg hd ws false false) p s s1 → ServedAt p s1 s2 →
      let t := hStation hd
      let q := s2.queue t (hIndex hd)
      let cfg := s2.reg (.qcfg (ix 128 t) (ix 512 (hIndex hd)))
      s2.qCheck (s2.srcPort c hd) ⟨p.pkt.world, p.pkt.vmid.toNat, p.pkt.locket.toNat⟩ hd true = 0 →
      q.words.length + ws.length ≤ 2 ^ getF cfg F.qcfg.CAP → getF cfg F.qcfg.KIND = 0 → getF cfg F.qcfg.NMODE = 0 →
      exec (.msg h hd ws false false) s = D (.ack 0) (s2.setQueue t (hIndex hd) { q with words := q.words ++ tagWords ws })) ∧
    (∀ hd w r s1, Reaches h 0 (.qread hd false) p s s1 → ServedAt p s1 s2 →
      let t := hStation hd
      let src := s2.srcPort c hd
      s2.qCheck src ⟨p.pkt.world, p.pkt.vmid.toNat, p.pkt.locket.toNat⟩ hd false = 0 → s2.queue t (hIndex hd) = ⟨w :: r, none⟩ →
      exec (.qread h hd false) s = D (.data 3 0 [w.zeroExtend 256])
        (s2.setQueue t (hIndex hd) ⟨r, if w.toNat / 2 ^ 56 = 1 then some src else none⟩)) ∧
    (∀ mask aux s1, Reaches h 0 (.doorbell mask aux) p s s1 → ServedAt p s1 s2 → ∃ a,
      exec (.doorbellPacket h mask aux) s = D (.ack a) (s2.bell (bellAux mask p.pkt.world aux)).2) ∧
    ∀ (src : Stop) (core : BitVec 8) (world : Bool) (vec : BitVec 9) (prio : BitVec 4) (lvl : BitVec 2),
      let d := core.toNat
      let x := intPacket src d world vec.toNat prio.toNat lvl.toNat
      let s1 := s.statSent src world
      let w := s1.way false s1.mesh.held s1.mesh.held x
      s.noCore d = false → w.2 = .arrives → vec ≠ 2 → prio ≠ 0 → s.levelOk world lvl.toNat = true → s.sec.discard = false →
      (s.core d).vcpuOn = false → ((s.core d).pend.any fun b => b.world == world && b.vec == vec.toNat) = false →
      (s.core d).run = .running →
      exec (.int ⟨src, core⟩ world vec prio lvl) s = .next ((s1.cross x.pkt x.vc (x.crossed w.1)).setCore d { s.core d with
        pend := (s.core d).pend ++ [⟨world, vec.toNat, lvl.toNat, prio.toNat, 0⟩] })

/-- R246, R247, R249-R252, R255, R260-R268: a response completes the transaction that it was given for, one that is late is
counted and releases a quarantined tag; an expiry quarantines the tag; snoops leave the core's copy as R220 says; packets
that are not meant for their port are answered and recorded; links replay or fail in both directions; the packet at the
head of a buffer ages; a packet held for a domain stands in its buffer, paused, until a wake or the limit; and windows of
the statistics end. -/
def Obligations.MeshTransactions : Prop :=
  ∀ (i : Fin 272) (tag : BitVec 12) (g : BitVec 4) (lat : BitVec 32) (s : State),
    let key := tagKey i tag
    let late := s.count .lateCnt F.lateCnt.COUNT
    (∀ t, s.mesh.txns.find key = some t → t.pkt.gen = g → t.quarantined = false →
      let P := fun (u : State) => u.mesh.txns.find key = none ∧ (∀ j, j ≠ key → u.mesh.txns.find j = s.mesh.txns.find j) ∧
        u.m = s.m ∧ u.cores = s.cores ∧ u.csr = s.csr
      (∀ x dp fs, t.answer = some (.data x dp fs) → Answers (exec (.rspData i tag g lat x dp) s) P) ∧
      (∀ aux, t.answer = some (.ack aux) → Answers (exec (.rspAck i tag g lat (aux.truncate 8)) s) P) ∧
      (∀ e : BitVec 8, t.answer = some (.err e.toNat) → t.posted i.val = false →
        Answers (exec (.rspErr i tag g lat e) s) fun u => P u ∧ u.mesh.errs = if i.val < 256 ∧ t.esc then s.mesh.errs
          else s.mesh.errs ++ [(i.val, t.pkt.cmd.toNat, t.pkt.addr.toNat / 64, e.toNat)]) ∧
      (∀ e : BitVec 8, t.answer = some (.err e.toNat) → t.posted i.val = true →
        Answers (exec (.rspErr i tag g lat e) s) fun u => u.mesh.txns.find key = none ∧ u.mesh.errs = s.mesh.errs) ∧
      exec (.wakePause i tag g) s = .next (s.setTxn key { t with paused := true }) ∧
      exec (.wakeResume i tag g) s = .next (s.setTxn key { t with paused := false }) ∧
      (∀ b, t.paused = false → ∃ (ev : Event) (s2 : State), ev.cls = 0x14 ∧ ev.bank = initBank i.val ∧ ev.sev = 2 ∧
        ev.addr = some (t.pkt.key.toNat, t.pkt.addr.toNat) ∧
        (∃ t', s2.mesh.txns.find key = some t' ∧ t'.quarantined = true ∧ t'.pkt = t.pkt) ∧
        (b = false → ∀ p ∈ s2.mesh.held, p.isReq = true → p.key ≠ key) ∧
        exec (.transactionTimeout i tag b) s = .next (s2.logErr ev).flow)) ∧
    (s.mesh.txns.find key = none →
      (∀ x y, exec (.rspData i tag g lat x y) s = .next late) ∧ (∀ x, exec (.rspAck i tag g lat x) s = .next late) ∧
      (∀ x, exec (.rspErr i tag g lat x) s = .next late)) ∧
    (∀ t, s.mesh.txns.find key = some t → t.quarantined = true →
      (t.pkt.gen = g → ∀ x, Answers (exec (.rspAck i tag g lat x) s) fun u => u.mesh.txns.find key = none ∧
        u.fld .lateCnt F.lateCnt.COUNT = late.fld .lateCnt F.lateCnt.COUNT) ∧
      exec (.tagQuarantineRelease i tag) s =
        .next { s with mesh := { s.mesh with txns := s.mesh.txns.erase key } }) ∧
    (∀ (core : BitVec 8) (pa : BitVec 52) p d,
      let line := pa.toNat / 64
      let k := (core.toNat, line)
      s.coh.priv.find k = some p → s.coh.dir.find line = some d → d.holders.contains core.toNat = true →
      s.mesh.snoops.find k = none → s.noCore core.toNat = false →
      let s1 := s.snoopOpened core.toNat line d
      let arrives := fun inv => (s1.way false s1.mesh.held s1.mesh.held (s1.snoopPacket core.toNat line d.key inv)).2 = .arrives
      (arrives true → Answers (exec (.snpInv core pa) s) fun u => u.coh.priv.find k = none ∧ u.m.mem = s.m.mem ∧ u.cores = s.cores) ∧
      (arrives false → Answers (exec (.snpShared core pa) s) fun u => u.m.mem = s.m.mem ∧ u.cores = s.cores ∧
        u.coh.priv.find k = some { p with st := match p.st with | .m => .o | .e => .s | x => x })) ∧
    (∀ (core : BitVec 8) (pa : BitVec 52) d x,
      let line := pa.toNat / 64
      let k := (core.toNat, line)
      s.mesh.snoops.find k = some x → x.paused = false → s.coh.dir.find line = some d →
      ∃ (ev : Event) (s2 : State), ev.cls = 0x15 ∧ ev.bank = s.home line ∧ ev.sev = 2 ∧ s2.coh.priv.find k = none ∧
        s2.coh.wbuf.find k = none ∧ s2.mesh.snoops.find k = none ∧ exec (.snoopTimeout core pa) s = .next (s2.logErr ev).flow) ∧
    (∀ st (port : BitVec 2) h (cmd : BitVec 8) (pa : BitVec 52) s1,
      (let p := s.toPort st port h cmd 0
       let ev : Event := { bank := agentBank st, cls := 0x13, sev := 2, src := port.toNat, info := cmd.toNat }
       cmdFits st port.toNat cmd.toNat = false → s.noPort st port.toNat = false →
        (cmd = 0x0A → exec (.badCmdReceived st port h cmd) s = .next (s.logErr ev)) ∧
        (cmd ≠ 0x0A → s.openReq p = some s1 →
          exec (.badCmdReceived st port h cmd) s = .next ((s1.logErr ev).answer p st (.err 0x07)))) ∧
      (let p := s.toPort st port h cmd pa
       let N := fun (u : State) => u.noAgent st port.toNat cmd.toNat (some (h.key.toNat, pa.toNat))
       s.noPort st port.toNat = true →
        (cmd = 0x0A → exec (.noAgentAnswer st port h cmd pa) s = .next (N s)) ∧
        (cmd ≠ 0x0A → s.openReq p = some s1 → exec (.noAgentAnswer st port h cmd pa) s = .next ((N s1).answer p st (.err 0x02))))) ∧
    (∀ (l : LinkId) (n : BitVec 8),
      let back := linkBack l
      (s.mesh.failed.contains l = false → s.mesh.retry.find l = none → (s.mesh.links.getD l Link.fresh).expects n = true →
        Answers (exec (.flitCrcMismatch l n) s) fun u => u.mesh.retry.find l = some (n, 0) ∧
          ((u.mesh.links.find back).bind (·.idle)) = some (idleFlit (s.mesh.links.getD back Link.fresh).next n true) ∧
          u = { s with mesh := { s.mesh with retry := u.mesh.retry, links := u.mesh.links } }) ∧
      ∀ j, s.mesh.retry.find l = some (n, j) →
        (∃ (ev : Event) (u : State), ev.cls = 0x10 ∧ ev.sev = 0 ∧ u.mesh.retry.find l = none ∧ u.mesh.failed = s.mesh.failed ∧
          ((u.mesh.links.find back).bind (·.idle)) = none ∧ exec (.linkRetry l n false) s = .next (u.logErr ev).flow) ∧
        (j + 1 < 8 → exec (.linkRetry l n true) s =
          .next (State.flow { s with mesh := { s.mesh with retry := s.mesh.retry.set l (n, j + 1) } })) ∧
        (8 ≤ j + 1 → ∃ (ev : Event) (u : State), ev.cls = 0x11 ∧ ev.sev = 3 ∧ u.mesh.retry.find l = none ∧
          u.mesh.retry.find back = none ∧ l ∈ u.mesh.failed ∧ back ∈ u.mesh.failed ∧
          (∀ d ∈ u.mesh.failed, d ∈ s.mesh.failed ∨ d = l ∨ d = back) ∧ exec (.linkRetry l n true) s = .next (u.logErr ev).flow)) ∧
    (∀ (b : BufId) (pre post : List HeldPacket) (p : HeldPacket), s.mesh.held = pre ++ p :: post → (∀ q ∈ pre, q.at_ ≠ some b) →
      p.at_ = some b → exec (.ageStep b.stop ⟨b.side, b.vc⟩) s = .next { s with mesh := { s.mesh with held :=
        pre ++ { p with pkt := { p.pkt with age := if p.pkt.age = 15 then 15 else p.pkt.age + 1 } } :: post } }) ∧
    (∀ (dom : Fin 417) h cmd pa (b : BufId), s.awake dom.val = false → s.mesh.wakeFail.contains dom.val = false →
      let K := fun (p : HeldPacket) (u : State) =>
        u.mesh.held = s.mesh.held ++ [{ p with at_ := some b, wake := true }] ∧ dom.val ∈ u.pwr.wakeReq ∧
        u.cores = s.cores ∧ u.m = s.m
      (∀ x : HeldInt, s.noCore x.core.toNat = false →
        let p := intPacket (hdrSrc h) x.core.toNat x.world x.vec.toNat x.prio.toNat x.lvl.toNat
        p.holdAt dom.val = some b → Answers (exec (.routerWakeHold dom h ⟨cmd, pa, some x⟩) s) (K p)) ∧
      (∀ s1, let p := s.announced dom.val h cmd pa
        p.holdAt dom.val = some b → s.openReq p = some s1 → s.rspDown b.stop p.pkt.src = false →
        Answers (exec (.routerWakeHold dom h ⟨cmd, pa, none⟩) s) fun u => K p u ∧
          ∃ t, u.mesh.txns.find p.key = some t ∧ t.paused = true)) ∧
    (∀ dom : Fin 417, s.isOn dom.val = false → s.mesh.wakeFail.contains dom.val = false → dom.val ∈ s.pwr.wakeReq →
      exec (.wakeLimitExpiry dom) s = .next ((State.logErr { s with mesh := { s.mesh with
        wakeFail := s.mesh.wakeFail ++ [dom.val] } }
        { bank := meshBank (domStop dom.val), cls := 0x16, sev := 2, src := dom.val }).flow true)) ∧
    let Ends := fun (u : State) => u.mesh.live = [] ∧
      (∀ j : Fin 272, u.reg (.statReq j) = dw (s.liveCt j.val 0) ∧ u.reg (.statBytes j) = dw (s.liveCt j.val 1) ∧
        u.reg (.statMax j) = dw (s.liveCt j.val 10) ∧ u.reg (.statTmo j) = dw (s.liveCt j.val 11) ∧
        ∀ b : Fin 8, u.reg (.statHist j b) = dw (s.liveCt j.val (2 + b.val))) ∧
      u.fld .statSeq F.statSeq.SEQ = (s.fld .statSeq F.statSeq.SEQ + 1) % 2 ^ 32 ∧ u.m = s.m ∧ u.cores = s.cores
    (s.fld .statCtl F.statCtl.WINDOW ≠ 0 → Answers (exec .statWindowEnd s) Ends) ∧
    ∀ r, Served r .statCtl s → Answers (exec (.statSnap r) s) Ends

/-! ### L3 slices and the security engine -/

/-- R234, R237, R238, R240, R242, R447: power, locks and failures of ways, the arrays' initialisation, and the
retirement of a slice. -/
def Obligations.L3SliceCommands : Prop :=
  ∀ (r : Req) (n : BitVec 7) (ways : BitVec 8) (s : State),
    let i := ix 128 n.toNat
    let s1 := s.wake (domTile n.toNat)
    (Served r (.l3Waypwr i) s →
      (anyBelow 8 fun k => ways.toNat.testBit k && !(s.fld (.l3Waypwr i) F.l3Waypwr.OFF).testBit k && s1.l3Locked n.toNat (8 + k)) = false →
      8 ≤ s1.l3Usable n.toNat ways.toNat → Answers (exec (.wayPowerRequest r n ways) s) fun t =>
        t.fld (.l3Waypwr i) F.l3Waypwr.REQ = ways.toNat ∧
        t.fld (.l3Waypwr i) F.l3Waypwr.OFF = s.fld (.l3Waypwr i) F.l3Waypwr.OFF ∧ t.m = s.m ∧ t.coh.l3 = s.coh.l3) ∧
    (∀ w, 8 ≤ w → w < 16 → s.coh.wayBusy.find n.toNat = some w → Answers (exec (.wayPowerChangeDone n) s) fun t =>
      (∀ k, k < 8 → (t.fld (.l3Waypwr i) F.l3Waypwr.OFF).testBit k =
        (if k = w - 8 then s.fld (.l3Waypwr i) F.l3Waypwr.REQ else s.fld (.l3Waypwr i) F.l3Waypwr.OFF).testBit k) ∧
      ((s.fld (.l3Waypwr i) F.l3Waypwr.OFF).testBit (w - 8) = false → ∀ p ∈ t.coh.l3, p.2.way = w → t.home p.1 ≠ n.toNat) ∧
      t.m.mem = s.m.mem ∧ t.cores = s.cores) ∧
    (∀ l : BitVec 12, Served r (.l3Lock i) s →
      (s.fld (.l3Waypwr i) F.l3Waypwr.OFF = 0 → s.fld (.l3Waypwr i) F.l3Waypwr.REQ = 0 → s.coh.wayBusy.find n.toNat = none →
        exec (.l3LockWrite r n l) s = .next (s1.setReg (.l3Lock i) (dw l.toNat))) ∧
      ∀ k, k < 4 → l.getLsbD (8 + k) = true →
        ((s.fld (.l3Waypwr i) F.l3Waypwr.OFF).testBit k = true ∨ (s.fld (.l3Waypwr i) F.l3Waypwr.REQ).testBit k = true) →
        Answers (exec (.l3LockWrite r n l) s) fun t =>
          (t.fld (.l3Waypwr i) F.l3Waypwr.OFF).testBit k = false ∧ (t.fld (.l3Waypwr i) F.l3Waypwr.REQ).testBit k = false ∧
          t.fld (.l3Waypwr i) F.l3Waypwr.STATUS = 2 ∧ t.reg (.l3Lock i) = dw l.toNat) ∧
    (∀ w : BitVec 4, 0 < s.fld .l3Thresh F.l3Thresh.COUNT → s.fld .l3Thresh F.l3Thresh.COUNT ≤ s.wayErrs true n.toNat w.toNat →
      s.l3Dis n.toNat w.toNat = false →
      (let off := s.fld (.l3Waypwr i) F.l3Waypwr.OFF ||| s.fld (.l3Waypwr i) F.l3Waypwr.REQ
       8 < s.l3Usable n.toNat off ∨ (8 ≤ w.toNat ∧ off.testBit (w.toNat - 8) = true)) →
      ∃ s2 : State, exec (.wayDisable true (n.zeroExtend 8) w) s =
          .next (s2.logErr { bank := n.toNat, cls := 0x07, sev := 0, src := w.toNat }) ∧
        s2.fld (.l3Stat i) F.l3Stat.WAY_DIS = s.fld (.l3Stat i) F.l3Stat.WAY_DIS ||| 2 ^ w.toNat ∧
        s2.l3Locked n.toNat w.toNat = false ∧ s2.m.mem = s.m.mem) ∧
    (∀ (c : BitVec 8) (w : BitVec 4), w.toNat < 8 → 0 < s.fld .l2Thresh F.l2Thresh.COUNT →
      s.fld .l2Thresh F.l2Thresh.COUNT ≤ s.wayErrs false c.toNat w.toNat → s.l2Dis c.toNat w.toNat = false →
      4 < s.l2Usable c.toNat → ∃ s2 : State, exec (.wayDisable false c w) s =
          .next (s2.logErr { bank := c.toNat / 2, cls := 0x07, sev := 0, src := w.toNat }) ∧
        s2.fld (.l2Stat (ix 256 c.toNat)) F.l2Stat.WAY_DIS = s.fld (.l2Stat (ix 256 c.toNat)) F.l2Stat.WAY_DIS ||| 2 ^ w.toNat ∧
        s2.m.mem = s.m.mem) ∧
    (∀ c : BitVec 8, Answers (exec (.wayErrorWindowEnd false c) s) fun t =>
      (∀ w, t.wayErrs false c.toNat w = 0) ∧ (∀ w j, t.wayErrs true j w = s.wayErrs true j w) ∧
      t = { s with coh := { s.coh with wayErr := t.coh.wayErr } }) ∧
    (∀ c : BitVec 8, exec (.arrayInitDone (.l1i c)) s = .next (s.setFld (.l2Stat (ix 256 c.toNat)) F.l2Stat.L1I_INIT_DONE 1) ∧
      exec (.arrayInitDone (.l1d c)) s = .next (s.setFld (.l2Stat (ix 256 c.toNat)) F.l2Stat.L1D_INIT_DONE 1) ∧
      exec (.arrayInitDone (.l2 c)) s = .next (s.setFld (.l2Stat (ix 256 c.toNat)) F.l2Stat.L2_INIT_DONE 1)) ∧
    exec (.arrayInitDone (.l3 n)) s = .next ((s.setFld (.l3Stat i) F.l3Stat.INIT_DONE 1).serveQueue n.toNat).flow ∧
    exec (.arrayInitDone (.dir n)) s = .next ((s.setFld (.l3Stat i) F.l3Stat.DIR_INIT_DONE 1).serveQueue n.toNat).flow ∧
    (Served r .retireReg s → r.world = false → exec (.retire r n) s = .next (s.wake (regDom .retireReg))) ∧
    (let s2 := (s.wake (regDom .retireReg)).setFld .retireReg F.retireReg.TILE n.toNat
     Served r .retireReg s → r.world = true → s.coh.retiring = none → s2.retireRefused n.toNat = false →
      exec (.retire r n) s = .next ({ s2 with coh := { s2.coh with retiring := some n.toNat } }.setFld .retireReg
        F.retireReg.STATUS 1)) ∧
    (∀ t, s.coh.retiring = some t →
      (s.inFlight t = true → exec .sliceRetireDone s = .next s) ∧
      (s.inFlight t = false → (s.retireDone t).mesh.held = [] →
        exec .sliceRetireDone s = .next ((s.retireDone t).setFld .retireReg F.retireReg.STATUS 0)))

/-- R285-R289, R293: the services on lockets, the scrub that ends one, and a finished report. -/
def Obligations.LocketServices : Prop :=
  ∀ (core : BitVec 8) (w : WorldRet) (s : State),
    let c := core.toNat
    let id := arg w 2
    let Mine := fun (l : Locket) =>
      0 < id ∧ id < 4096 ∧ s.sec.lockets.find id = some l ∧ l.vmid = s.callerVmid c w
    (∀ i k, Serves c 0x0100 w s → w.lvl ≠ 2 →
      (0 < i ∧ i < 4096 ∧ s.sec.lockets.find i = none ∧ ∀ j, 0 < j → j < i → s.sec.lockets.find j ≠ none) →
      (let free := fun k => s.fld .keypart F.keypart.NWMAX < k ∧ ∀ p ∈ s.sec.lockets, p.2.key ≠ k
       free k ∧ k < s.fld .keypart F.keypart.TWBASE ∧ ∀ j, j < k → ¬free j) →
      ReturnsTo c w 0 [dw i] ((s.freshKey k).setLocket i
        { st := 1, vmid := s.callerVmid c w, key := k, ranges := [], slots := [],
          meas := extend 0 (1 :: leBytes 2 (s.callerVmid c w)), devs := [], caller := none }) (exec (.lkCreate core) s)) ∧
    (∀ l p ks s1, Serves c 0x0101 w s → Mine l → l.st = 1 → arg w 7 = 0 → addArgsOk (arg w 3) (arg w 4) (arg w 5) (arg w 6) 0 = true →
      s.callerRange c w (arg w 3) (arg w 5) = (some (p, ks), s1) →
      let r : LkRange := { pbase := p, vbase := arg w 4, pages := arg w 5, r := (arg w 6).testBit 0, w := (arg w 6).testBit 1,
                           x := (arg w 6).testBit 2, thread := (arg w 6).testBit 3 }
      l.ranges.length < 64 → (r.thread = true → l.slots.length + r.pages ≤ 256) →
      s1.freeNormal (p / 4096) (p / 4096 + r.pages) = true →
      (∀ q ∈ l.ranges, overlaps r.vbase (r.vbase + 4096 * r.pages) q.vbase (q.vbase + 4096 * q.pages) = false) →
      ReturnsTo c w 0 [] (s1.addRange id l r (arg w 6) none) (exec (.lkAddRange core) s)) ∧
    (∀ l, Serves c 0x0102 w s → Mine l → l.st = 1 → ReturnsTo c w 0 []
      (s.setLocket id { l with st := 2, meas := extend l.meas (3 :: leBytes 2 l.slots.length) }) (exec (.lkInit core) s)) ∧
    (∀ l, Serves c 0x0103 w s → Mine l → l.st = 1 ∨ l.st = 2 →
      ReturnsTo c w (if s.threadsRunning l = 0 then 0 else neg 4) []
        (if s.threadsRunning l = 0 then s.setLocket id { l with st := 3, caller := some (c, w.lvl, false) } else s)
        (exec (.lkDestroy core) s)) ∧
    (∀ l, Serves c 0x0104 w s → Mine l → 1 ≤ l.st → l.st ≤ 3 → ReturnsTo c w 0
      [dw l.st, dw (l.ranges.foldl (fun n r => n + r.pages) 0), dw (s.threadsRunning l)] s (exec (.lkStatus core) s)) ∧
    (∀ l, Serves c 0x0105 w s → Mine l → l.st = 1 ∨ l.st = 2 → arg w 3 = 0 → arg w 4 < 64 →
      ReturnsTo c w 0 [] (s.chanAssign (arg w 4) l.vmid id) (exec (.lkAssign core) s)) ∧
    (s.svcCall c 0x0100 = some w → s.avail = false → ReturnsTo c w (neg 16) [] s (exec (.lkCreate core) s)) ∧
    (∀ (l : BitVec 12) k, s.sec.lockets.find l.toNat = some k → k.st = 3 → ∃ s2 : State,
      s2.sec.lockets.find l.toNat = none ∧ (∀ j, j ≠ l.toNat → s2.sec.lockets.find j = s.sec.lockets.find j) ∧
      exec (.locketScrubDone l) s = .next (match k.caller with
        | some (d, lvl, world) => s2.sendInt secStop d world 5 8 lvl
        | none => s2)) ∧
    ∀ (l : BitVec 12) (slot : BitVec 8) q k, q ∈ s.sec.reports → q.locket = l.toNat → q.slot = slot.toNat →
      s.sec.lockets.find l.toNat = some k → Answers (exec (.hallmarkReportComplete l slot) s) fun t =>
        t.sec.serial = s.sec.serial + 1 ∧ (∀ p ∈ t.sec.reports, ¬(p.locket = l.toNat ∧ p.slot = slot.toNat)) ∧
        t.cores = s.cores

/-- R281-R284, R295-R301, R457: key IDs, ownership, the trusted world's watchdog and restart, the test port and the
engineering part's debug port. -/
def Obligations.SecurityCommands : Prop :=
  ∀ (r : Req) (s : State),
    let up := fun (q : Reg) => s.wake (regDom q)
    let engineering := s.boot.fuses.engineering = true
    -- What the loss of trusted services leaves (R297).
    let Lost := fun (t : State) => t.avail = false ∧ t.sec.discard = true ∧ (t.sec.discarded : Nat) ≥ s.sec.discarded ∧
      (∀ i, i < 32 → t.flag (.llCtl (ix 512 (480 + i))) F.llCtl.V = false) ∧
      (∀ (d : Fin 2) (c : Fin 32), s.flag (.dmAttr d c) F.dmAttr.WORLD = true → t.flag (.dmCtl d c) F.dmCtl.EN = false) ∧
      (∀ c w, (s.core c).world = true → (s.core c).wret = some w → (t.core c).world = false ∧ (t.core c).pc = w.pc ∧
        (t.core c).lvl = w.lvl ∧ (t.core c).run = .running ∧ (t.core c).rg 1 = if w.byCall then neg 16 else w.g.getD 1 0) ∧
      (∀ c, (s.core c).world = true → (s.core c).wret = none → (s.core c).run ≠ .held → (t.core c).run = .evicted) ∧
      (s.boot.cfg.twRestart = true → s.sec.autoRestarts < 3 → t.flag .twstate F.twstate.RESTARTING = true)
    -- What a test-port instruction leaves, `tp` in effect and `cells` in the boundary cells (R300).
    let Port := fun (tp : TapInstr) (cells : BitVec 24 × BitVec 24) (o : Result) => Answers o fun t =>
      t.boot = { s.boot with tap := tp, cells := cells } ∧ t = { s with boot := t.boot, pwr := t.pwr, free := t.free }
    (∀ a b : BitVec 40, Answers (exec (.ownershipInvalidation a b) s) fun t =>
      (∀ c, s.isOn c = true → (∀ p ∈ (t.ucore c).own, p.2 < a.toNat ∨ b.toNat < p.1) ∧
        ∀ e ∈ (t.ucore c).mbuf, e.line / 64 < a.toNat ∨ b.toNat < e.line / 64) ∧
      (∀ c g, s.isOn c = true → (t.ucore c).gath = some g → g.block / 64 < a.toNat ∨ b.toNat < g.block / 64) ∧
      ((∀ c, (s.ucore c).mbuf = [] ∧ (s.ucore c).gath = none) → t.m = s.m ∧ t.cores = s.cores)) ∧
    (∀ v : BitVec 32, Served r .keypart s →
      let w := writeFields Reg.keypart.fields r.world 0xFFFFFFFF#64 (s.reg .keypart) (v.zeroExtend 64)
      exec (.keypartWrite r v) s = .next (if s.anyLocket = true ∨ getF w F.keypart.TWBASE ≤ getF w F.keypart.NWMAX + 1
        then up .keypart else (up .keypart).setReg .keypart w)) ∧
    (∀ k : BitVec 12, Served r .keycmd s → s.flag .keycmd F.keycmd.GO = false →
      let ok := if r.world then s.fld .keypart F.keypart.TWBASE ≤ k.toNat
        else s.manager r = true ∧ 1 ≤ k.toNat ∧ k.toNat ≤ s.fld .keypart F.keypart.NWMAX
      (ok → Answers (exec (.generate r k) s) fun t =>
        t.sec.keyBusy = some k.toNat ∧ t.sec.keyTrusted = r.world ∧ t.fld .keycmd F.keycmd.STATUS = 1 ∧
        t.flag .keycmd F.keycmd.GO = true ∧ t.m = s.m) ∧
      (¬ok → exec (.generate r k) s = .next ((up .keycmd).setFld .keycmd F.keycmd.STATUS 2))) ∧
    (∀ k, s.sec.keyBusy = some k → Answers (exec .keyGenerateComplete s) fun t =>
      t.sec.keyBusy = none ∧ t.fld .keycmd F.keycmd.STATUS = 0 ∧ t.flag .keycmd F.keycmd.GO = false ∧
      t.m.keyGen.getD k 0 = s.m.keyGen.getD k 0 + 1 ∧ (∀ j, j ≠ k → t.m.keyGen.getD j 0 = s.m.keyGen.getD j 0) ∧
      (∀ p ∈ t.coh.wbuf, p.2.2 ≠ k) ∧ t.cores = s.cores) ∧
    (∀ (k : BitVec 4) hi v, Served r (.twrangeLo (ix 16 k.toNat)) s →
      let lo := Reg.twrangeLo (ix 16 k.toNat)
      let hr := Reg.twrangeHi (ix 16 k.toNat)
      let w := fun (q : Reg) => writeFields q.fields true (BitVec.allOnes 64) (s.reg q) v
      let nl := if hi then s.reg lo else w lo
      let nh := if hi then w hr else s.reg hr
      let held := getF nl F.twrangeLo.V = 1 ∧ s.heldPages (getF nl F.twrangeLo.BASE) (getF nh F.twrangeHi.LAST) = true
      (r.world = false → exec (.twrangeWrite r k hi v) s = .next (up lo)) ∧
      (r.world = true → held → exec (.twrangeWrite r k hi v) s = .next ((up lo).setFld lo F.twrangeLo.REFUSED 1)) ∧
      (r.world = true → ¬held → Answers (exec (.twrangeWrite r k hi v) s) fun t =>
        t.reg lo = setF nl F.twrangeLo.REFUSED 0 ∧ t.reg hr = nh)) ∧
    (Served r .twdog s → r.world = true →
      exec (.twdogKick r) s = .next { up .twdog with sec := { s.sec with kicked := s.rtu.cnt } }) ∧
    (Served r .twstate s → r.world = true → Answers (exec (.availWrite r true) s) fun t =>
      t.avail = true ∧ t.cores = s.cores ∧ t.m = s.m) ∧
    (Served r .twstate s → r.world = true → s.avail = true → Answers (exec (.availWrite r false) s) Lost) ∧
    (s.avail = true → Answers (exec .trustedWatchdogExpiry s) Lost) ∧
    (∀ fr c, s.m.fr = some fr → s.flag .twstate F.twstate.RESTARTING = true → s.componentOk s.boot.fwSel 0x8103 = true →
      s.restartCore = some c → (s.core c).lk = none → Answers (exec (.trustedRestart false) s) fun t =>
        t.flag .twstate F.twstate.RESTARTING = false ∧ (t.core c).pc = dw s.boot.twEntry ∧ (t.core c).lvl = 3 ∧
        (t.core c).world = true ∧ (t.core c).run = .running ∧ t.sec.discard = false ∧ ∀ d, d ≠ c → t.core d = s.core d) ∧
    -- The Steward's own decision to restart: the model's reading (log entry 99).
    (∀ fr, s.m.fr = some fr → s.flag .twstate F.twstate.RESTARTING = false → s.sec.autoRestarts < 3 →
      Answers (exec (.trustedRestart true) s) fun t =>
        t.avail = false ∧ t.flag .twstate F.twstate.RESTARTING = false ∧ t.sec.autoRestarts = s.sec.autoRestarts + 1) ∧
    (s.coresHeld = true →
      Port .extest s.boot.cells (exec .extest s) ∧ Port .clamp s.boot.cells (exec .clamp s) ∧
      Port .highz s.boot.cells (exec .highz s)) ∧
    (s.coresHeld = false → ∀ i, i = Instr.extest ∨ i = Instr.clamp ∨ i = Instr.highz →
      ∃ u : State, Port .sample s.boot.cells (.next u) ∧ exec i s = .next (u.toLog 0x0003 0 false [])) ∧
    (s.coresHeld = true → ∀ p : Nat,
      let cell := if s.boot.cells.1.getLsbD p then some (s.boot.cells.2.getLsbD p) else none
      ((s.boot.tap = .extest ∨ s.boot.tap = .clamp) → s.pinDriven p = cell) ∧ (s.boot.tap = .highz → s.pinDriven p = none)) ∧
    Port .idcode s.boot.cells (exec .idcode s) ∧
    Answers (exec .samplePreload s) (fun t => ∃ cells, t.boot = { s.boot with tap := .sample, cells := cells } ∧
      t = { s with boot := t.boot, pwr := t.pwr, free := t.free }) ∧
    Port .bypass s.boot.cells (exec .bypass s) ∧
    (∀ ir : BitVec 8, ir.toNat ∉ [0x00, 0x01, 0x02, 0x04, 0x05] → tapDecode ir = .bypass) ∧
    (¬engineering → Port .bypass s.boot.cells (exec .internalScanEntry s)) ∧
    (engineering → Answers (exec .internalScanEntry s) fun t =>
      t.boot = { s.boot with tap := .scan } ∧ t.m.epoch = s.m.epoch + 1 ∧ t.m.keyGen = [] ∧ t.m.mem = s.m.mem ∧
      t.cores = s.cores) ∧
    (∀ c : BitVec 8, engineering → (s.core c.toNat).run = .running → (s.core c.toNat).lk = none →
      s.isOn (domCore c.toNat) = true → s.noCore c.toNat = false → Answers (exec (.debugHalt c) s) fun t =>
        (t.core c.toNat) = { s.core c.toNat with run := .halted } ∧ (∀ d, d ≠ c.toNat → t.core d = s.core d) ∧ t.m = s.m) ∧
    (∀ (pa : BitVec 52) s1, engineering → s.physDevice pa.toNat = false →
      (∀ v, s.agentWrite false stwStop ⟨true, 0xFFFF, 0⟩ 0 false 2 pa.toNat (leBytes 8 v.toNat) = .ok s1 →
        exec (.debugMemoryAccess pa (some v)) s = .next s1) ∧
      (∀ n b, s.agentNat false stwStop ⟨true, 0xFFFF, 0⟩ 0 pa.toNat 8 = .ok (n, b, s1) →
        exec (.debugMemoryAccess pa none) s = .next s1)) ∧
    ∀ (c : BitVec 8) (pa : BitVec 52) v, ¬engineering →
      exec (.debugHalt c) s = .next s ∧ exec (.debugMemoryAccess pa v) s = .next s

/-! ### Interrupt sources, queues and the Data Movers -/

/-- R303-R313, R319-R324, R329, R332, R336: message interrupts, routing entries, timers, gather counters, and what
configures, breaks and feeds a hardware queue. -/
def Obligations.InterruptAndQueueCommands : Prop :=
  ∀ (r : Req) (s : State),
    (∀ (p : BitVec 3) (rid : BitVec 16) (data : BitVec 32), s.role p.toNat = .root →
      let src : IntSrc := .io p (data.truncate 11)
      let lo := s.reg (srcRegs src).1
      (∀ j, 256 ≤ rid.toNat → s.busPort p.toNat (rid.toNat / 256) = some j → s.clasped p.toNat j = false) →
      (data.toNat < 2048 → getF lo F.ioIntLo.V = 1 → getF lo F.ioIntLo.RID = rid.toNat →
        exec (.msi p rid data) s = .next (s.raiseSrc src) ∧
        (getF lo F.ioIntLo.VIRT = 0 → s.raiseSrc src = s.sendInt (ioStop p.toNat) (getF lo F.ioIntLo.TARGET)
          (getF lo F.ioIntLo.WORLD == 1) (getF lo F.ioIntLo.VECTOR) (getF lo F.ioIntLo.PRIO) (getF lo F.ioIntLo.LEVEL))) ∧
      (getF lo F.ioIntLo.V = 0 → exec (.msi p rid data) s =
        .next (s.logErr { bank := 144 + p.toNat, cls := 0x32, sev := 0, src := rid.toNat }))) ∧
    (∀ src (v : BitVec 9), let lo := s.reg (srcRegs src).1
      getF lo F.stwIntLo.V = 1 → getF lo F.stwIntLo.VIRT = 1 → getF lo F.stwIntLo.VECTOR = v.toNat →
      exec (.virtualInterruptDelivery src v) s = .next (logged (s.virtDeliver src v.toNat)) ∧
      s.raiseSrc src = logged (s.virtDeliver src v.toNat) ∧
      -- the vector's bit set in the record and its class entered; no more where that class or a higher one is pending there
      let hi := s.reg (srcRegs src).2
      let pa := getF hi F.ioIntHi.RECORD * 128
      let key := getF hi F.ioIntHi.KEYID
      let n := v.toNat / 32
      ∀ o s1 top s2, s.agentAtomic false (srcStop src) stopId key (pa + 4 * n) 4 (fun o => o ||| 2 ^ (v.toNat % 32)) = .ok (o, false, s1) →
        s1.agentAtomic false (srcStop src) stopId key (pa + 0x40) 8 (fun o => max o n) = .ok (top, false, s2) → n ≤ top →
        exec (.virtualInterruptDelivery src v) s = .next s2) ∧
    (∀ src v, let rl := (srcRegs src).1
      let rh := (srcRegs src).2
      let s1 := s.wake (regDom rl)
      Served r rl s →
        (s.flag rl F.stwIntLo.WORLD = true → r.world = false → ∀ hi,
          exec (.routingEntryWrite r src hi v) s = .next (s1.setFld rh F.stwIntHi.DENIED 1)) ∧
        (s.flag rl F.stwIntLo.WORLD = false → s1.mayManage r = true →
          exec (.routingEntryWrite r src true v) s = .next (s1.writeReg rh r.world (BitVec.allOnes 64) v) ∧
          (let w := writeFields rl.fields r.world (BitVec.allOnes 64) (s.reg rl) v
           vecOk src (getF w F.stwIntLo.VECTOR) = true → s1.levelOk (getF w F.stwIntLo.WORLD == 1) (getF w F.stwIntLo.LEVEL) = true →
           exec (.routingEntryWrite r src false v) s = .next (s1.setReg rl w)))) ∧
    (∀ (core : BitVec 8) (t : Fin 4), let c := core.toNat
      let k := s.core c
      let m := timers.getD t.val (1, false)
      let u := s.reach (k.rs (Sys.tmrcmpAt m.1) (bankOf m.1 m.2))
      k.sflag (Sys.tmrctlAt m.1) (bankOf m.1 m.2) G.tmrctl.EN = true → s.noCore c = false →
        (s.awake (domCore c) = false → exec (.coreTimerDue core t) s = .next (u.wake (domCore c))) ∧
        (s.awake (domCore c) = true → k.run = .running → exec (.coreTimerDue core t) s = .next u)) ∧
    (∀ k : BitVec 6, let g := Reg.gather (ix 64 k.toNat)
      let n := s.fld g F.gather.COUNT
      Served r (.gack (ix 64 k.toNat)) s → s.flag g F.gather.WORLD = r.world → 0 < n → (n = 1 → s.flag g F.gather.ZIE = false) →
        exec (.gatherAck r k) s = .next ((s.wake (regDom (.gack (ix 64 k.toNat)))).setFld g F.gather.COUNT (n - 1))) ∧
    (∀ (t : BitVec 7) (k : BitVec 9) v, let q := Reg.qcfg (ix 128 t.toNat) (ix 512 k.toNat)
      let s1 := s.wake (domTile t.toNat)
      let w := s1.qcfgWord r t.toNat k.toNat (BitVec.allOnes 64) v
      Served r q s →
        (s1.mayConfigure r (s1.qOwner t.toNat k.toNat) = false → exec (.qcfgWrite r t k v) s = .next s1) ∧
        (s1.mayConfigure r (s1.qOwner t.toNat k.toNat) = true →
          (s.flag q F.qcfg.V = false → getF w F.qcfg.V = 1 →
            let e := s1.qRefused t.toNat k.toNat w
            exec (.qcfgWrite r t k v) s = .next ((s1.setReg q (setF w F.qcfg.V (b2n (e == 0)))).setFld
              (.qstat (ix 128 t.toNat) (ix 512 k.toNat)) F.qstat.CFGERR e)) ∧
          (s.flag q F.qcfg.V = true → getF w F.qcfg.V = 0 → Answers (exec (.qcfgWrite r t k v) s) fun u =>
            u.queue t.toNat k.toNat = ⟨[], none⟩ ∧ u.flag q F.qcfg.V = false ∧ u.fld q F.qcfg.CAP = s.fld q F.qcfg.CAP ∧
            u.fld q F.qcfg.BASE = s.fld q F.qcfg.BASE ∧ u.cores = s.cores ∧ u.m = s.m))) ∧
    (∀ (t : BitVec 7) (b : BitVec 2) p, s.qs.parts.find (t.toNat, b.toNat) = some p → ∃ ev : Event,
      ev.bank = t.toNat ∧ ev.cls = 0x40 ∧ ev.sev = 2 ∧ exec (.reassemblyTimeout t b) s =
        .next (State.logErr { s with qs := { s.qs with parts := s.qs.parts.erase (t.toNat, b.toNat) } } ev)) ∧
    (∀ (t : BitVec 7) (k : BitVec 9) src, let q := s.queue t.toNat k.toNat
      q.claim = some src → exec (.claimBreak t k) s = .next ((s.setQueue t.toNat k.toNat
        ⟨(q.words.dropWhile fun w => w.toNat / 2 ^ 56 == 1).drop 1, none⟩).count
          (.qstat (ix 128 t.toNat) (ix 512 k.toNat)) F.qstat.BROKEN)) ∧
    ∀ (p : BitVec 3) (rp : BitVec 2) (rid : BitVec 16) h x s1,
      s.isRp p.toNat rp.toNat = true → s.flag (rClasp p.toNat rp.toNat) F.clasp.LINKUP = true → s.clasped p.toNat rp.toNat = false →
      ((s.rpActive p.toNat rp.toNat).wake (domIo p.toNat)).ioCtx p.toNat rid.toNat = (.ok x, s1) →
        (∀ ws b, exec (.aperturePut p (.device rp rid) h ws b) s = .next (s1.apPut p.toNat x.x.id h ws b)) ∧
        (∀ b, exec (.apertureGet p (.device rp rid) h b) s = .next (s1.apGet p.toNat x.x.id h b)) ∧
        ∀ (ws : List (BitVec 64)) s2 s3, 1 ≤ ws.length → ws.length ≤ 32 →
          s1.ioStation p.toNat x.x.id (hStation h) 0x08 ((ws.length + 3) / 4) = (none, s2) →
          s2.qPut (portOfIo p.toNat) x.x.id h (ws.map fun w => w.truncate 56) false false = (0, s3) →
          s1.apPut p.toNat x.x.id h ws false = s3

/-- R338-R345: a channel enabled, disabled and resumed, its cached translations dropped, each descriptor performed (its
result in full where its bytes stand in one line of each side), and its completion, which is tried again while its queue is
full or busy and dropped on any other failure. -/
def Obligations.DataMoverCommands : Prop :=
  ∀ (r : Req) (d : Fin 2) (c : BitVec 5) (s : State),
    let ch := chanOf d c
    let q := Reg.dmCtl d (ix 32 c.toNat)
    let s1 := s.wake (domDm d.val)
    (Served r q s → s1.mayConfigure r (s1.chanOwner ch) = true →
      (∀ sq : BitVec 32, ∃ s2 : State, s2.fld q F.dmCtl.SQ = sq.toNat ∧ s2.flag q F.dmCtl.EN = true ∧ s2 = { s1 with csr := s2.csr } ∧
        (∀ k, k ≠ q → s2.reg k = s.reg k) ∧
        exec (.dmChannelEnable r d c sq) s = .next
          (if (s.flag q F.dmCtl.EN = true ∧ s.fld q F.dmCtl.SQ = sq.toNat) ∨ s2.sqOf ch ≠ none then s2
           else (s2.setFld q F.dmCtl.EN 0).setFld q F.dmCtl.ERR 1)) ∧
      exec (.dmChannelDisable r d c) s = .next (s1.setFld q F.dmCtl.EN 0) ∧
      Answers (exec (.dmChannelResume r d c) s) fun t => t.flag q F.dmCtl.HALTED = false ∧
        t.flag q F.dmCtl.EN = s.flag q F.dmCtl.EN ∧ t.dm = s.dm ∧ t.qs = s.qs ∧ t.m = s.m) ∧
    (Served r q s → s1.mayConfigure r (s1.chanOwner ch) = false → exec (.dmChannelDisable r d c) s = .next s1) ∧
    (Served r (.dmTinv d) s → exec (.dmTinv r d) s = .next { s1 with dm := { s.dm with tlb := s.dm.tlb.erase d.val } }) ∧
    (∀ o i t k, (o, i) ∈ [(DmOp.copy, Instr.copy d c false), (.fill, .fill d c false), (.zero, .zero d c false),
        (.crc, .crc32c d c false), (.rekey, .rekey d c false)] →
      let ws := headMessage (s.queue t k).words
      let s2 := (((s.wake (domTile t)).wake (domDm (ch / 32))).chanQread ch ws.length).setQueue t k
        ⟨dropMessage (s.queue t k).words, none⟩
      let n := dWord ws 3
      s.sqOf ch = some (t, k) → s.chanFree ch = true → s.fencedTile t = false →
      s.pathErr (dmStop (ch / 32)) (tileStop t) (domTile t) = none → (dFence ws = true → (s.chan ch).descs = []) →
      dOk o ws = true →
      let z := dmRun o ws ch n ⟨0, 0, BitVec.ofNat 32 (dWord ws 6)⟩ s2
      exec i s = .next ((z.2.setChan ch { z.2.chan ch with descs := (z.2.chan ch).descs ++
        [⟨ws, z.1.status, if o = .crc then z.1.crc.toNat else z.1.done⟩] }).chanHalt ch z.1.status)) ∧
    (∀ ws pat s2, let n := dWord ws 3
      let dst := dWord ws 2
      0 < n → dst % 64 + n ≤ 64 → s.chanCtx ch = none → s.physDevice dst = false → dWord ws 6 = pat →
      s.initErr (chanInit ch) dst n = none →
      s.agentWrite false (dmStop (ch / 32)) (s.chanOwner ch) (dWord ws 4 / 2 ^ 12) false 2 dst
        ((List.range n).map fun j => BitVec.ofNat 8 (pat / 256 ^ (j % 4))) = .ok s2 →
      ∃ crc, dmRun .fill ws ch n ⟨0, 0, BitVec.ofNat 32 pat⟩ s = (⟨0, n, crc⟩, s2.chanMade ch)) ∧
    (∀ o ws v crc u s2, let n := dWord ws 3
      let src := dWord ws 1
      let dst := dWord ws 2
      0 < n → (DmOp.reads o = true → src % 64 + n ≤ 64) → (DmOp.writes o = true → dst % 64 + n ≤ 64) → n ≤ 64 →
      (if DmOp.reads o then s.chanRead ch src n (dWord ws 4 % 2 ^ 12) = (.ok (v, false), u)
       else u = s ∧ v = if o = .fill then fillBytes (dWord ws 6) 0 n else 0) →
      (if DmOp.writes o then u.chanWrite ch dst n (dWord ws 4 / 2 ^ 12) (o == .rekey) v false = (none, s2) else s2 = u) →
      dmRun o ws ch n ⟨0, 0, crc⟩ s = (⟨0, n, crc32cFrom crc (leBytes n v)⟩, s2)) ∧
    (∀ h ws s2 e s3, s.unitErr (chanInit ch) 0x08 = none →
      let s1 := s.setChan ch { s.chan ch with retry := none }
      s1.stationErr (dmStop (ch / 32)) (hStation h) 0x08 = (none, s2) →
      (s2.statOf (chanInit ch) (s2.chanOwner ch) ((ws.length + 3) / 4)).qPut (portOfChan ch) (s2.chanOwner ch) h ws false false = (e, s3) →
      (e = 0 → s.chanSend ch h ws = s3) ∧
      (e = 1 ∨ e = 2 → s.chanSend ch h ws = s3.setChan ch { s3.chan ch with retry := some (h, ws) }) ∧
      (3 ≤ e → ∃ ev : Event, ev.cls = 0x41 ∧ ev.sev = 2 ∧ s.chanSend ch h ws = s3.logErr ev)) ∧
    (∀ x ds, s.chan ch = ⟨x :: ds, none⟩ →
      let s2 := s.setChan ch ⟨ds, none⟩
      exec (.descriptorComplete d c) s = .next (if x.status = 0 ∧ dQuiet x.words then s2
        else s2.chanSend ch (BitVec.ofNat 32 (dWord x.words 5))
          [BitVec.ofNat 56 (dTag x.words + x.status * 2 ^ 32 + ch * 2 ^ 40), BitVec.ofNat 56 x.result])) ∧
    ∀ h ws, (s.chan ch).retry = some (h, ws) → exec (.completionRetry d c) s = .next (s.chanSend ch h ws)

/-- R353-R362, R422: patrol reads, refresh, DIMM temperatures, soft repair, rank sparing and mirroring. -/
def Obligations.MemoryControllerCommands : Prop :=
  ∀ (n : BitVec 4) (s : State),
    let c := n.toNat
    let m := s.mcAt c
    let r := Reg.mcRas (ix 16 c)
    let on := fun (m' : McState) => { s with mc := s.mc.set c m' }
    (s.mcWorks c = true → 0 < m.usable → s.scrubWindowed c = false → (∀ l, s.m.latent.find (c, l) = none) →
      (m.patrol + 1 < m.lines → exec (.patrolScrubRead n .none) s = .next (on { m with patrol := m.patrol + 1 })) ∧
      (m.lines ≤ m.patrol + 1 → exec (.patrolScrubRead n .none) s =
        .next ((on { m with patrol := 0, passAt := s.rtu.cnt }).setFld r F.mcRas.PASSES (s.fld r F.mcRas.PASSES + 1)))) ∧
    (s.mcWorks c = true →
      let u := s.toGrid c
      let at_ := fun (m' : McState) => { u with mc := s.mc.set c m' }
      (m.refWin = false → m.postponed = 0 → exec (.mcRefresh n) s = .next u) ∧
      (m.refWin = false → 0 < m.postponed → exec (.mcRefresh n) s =
        .next (if u.due c then u else at_ { m with postponed := m.postponed - 1 })) ∧
      (m.refWin = true → m.postponed < 4 → exec (.mcRefresh n) s = .next (at_ { m with postponed := m.postponed + 1 })) ∧
      (m.refWin = true → 4 ≤ m.postponed → exec (.mcRefresh n) s =
        .next ((at_ { m with refWin := false }).toLog 0x000A 0 false [dw c, 3]))) ∧
    (∀ slot (t : BitVec 8), m.trained = true →
      let hot := max t.toNat (if slot then m.temp0 else m.temp1)
      let w := if 105 < hot ∨ (s.fld r F.mcRas.THROTTLE = 2 ∧ 100 < hot) then 2
        else if 95 < hot ∨ (1 ≤ s.fld r F.mcRas.THROTTLE ∧ 90 < hot) then 1 else 0
      let u := ((on (if slot then { m with temp1 := t.toNat } else { m with temp0 := t.toNat })).setFld r F.mcRas.HOTREF
        (if 85 < hot then 1 else 0)).setFld r F.mcRas.THROTTLE w
      exec (.dimmTemperatureChange n slot t) s = .next (if w = s.fld r F.mcRas.THROTTLE then u
        else u.logErr { bank := 128 + c, cls := 0x25, sev := 0, src := c })) ∧
    (∀ row, s.mcWorks c = true → s.memFlag 1 = true → m.ppr = none → s.pprThresh ≤ (m.rowErr.getD row []).length →
      exec (.softPpr n row true) s = .next (on { m with ppr := some row })) ∧
    (∀ row, m.ppr = some row → ∃ (ev : Event) (s2 : State), ev.cls = 0x23 ∧ ev.bank = 128 + c ∧ ev.sev = 0 ∧
      (s2.mcAt c).ppr = none ∧ s2.fld r F.mcRas.PPR_CNT = min (s.fld r F.mcRas.PPR_CNT + 1) 65535 ∧
      s2.log.pprPending = s.log.pprPending ++ [(c, row)] ∧ s2.m = s.m ∧
      exec (.softPprComplete n) s = .next ((s2.logErr ev).toLog 0x0008 0 false [dw c, 0, dw (rowWord row)])) ∧
    (∀ k : BitVec 3, s.mcWorks c = true → s.memFlag 0 = true → s.spareThresh ≤ (m.rankErr.getD k.toNat []).length →
      m.spared = none → m.copying = none → (s.mcAt (2 * (c / 2))).rebuild = false →
      exec (.rankCopyStart n k) s = .next (State.logErr ((on { m with copying := some k.toNat }).setFld r F.mcRas.COPYING 1)
        { bank := 128 + c, cls := 0x23, sev := 0, src := k.toNat })) ∧
    (∀ k, m.copying = some k → exec (.rankCopyDone n) s =
      .next (((on { m with copying := none, spared := some k, rankErr := m.rankErr.erase k }).setFld r F.mcRas.SPARED k).setFld r
        F.mcRas.COPYING (b2n (s.inPair c && (s.mcAt (2 * (c / 2))).rebuild)))) ∧
    (let e := 2 * (c / 2)
     let both := fun (u : State) (p : Place) (v : Nat) => (u.setFld (.mcRas (ix 16 e)) p v).setFld (.mcRas (ix 16 (e + 1))) p v
     (s.inPair c = true → m.trained = true → (s.mcAt e).mirrorFailed = none →
      exec (.mirrorChannelFail n) s = .next (State.logErr
        (both { s with mc := s.mc.set e { s.mcAt e with mirrorFailed := some (c % 2 == 1) } } F.mcRas.MIRR_DEGR 1)
        { bank := 128 + c, cls := 0x22, sev := 2, src := c })) ∧
     ((s.mcAt e).rebuild = true → ∃ (ev : Event) (u : State), ev.cls = 0x22 ∧ ev.sev = 0 ∧
        exec (.mirrorRebuildDone n) s = .next (u.logErr ev) ∧ (u.mcAt e).rebuild = false ∧ (u.mcAt e).mirrorFailed = none ∧
        ∀ d ∈ [e, e + 1], u.fld (.mcRas (ix 16 d)) F.mcRas.MIRR_DEGR = 0 ∧
          u.fld (.mcRas (ix 16 d)) F.mcRas.COPYING = b2n (s.mcAt d).copying.isSome)) ∧
    exec (.scrubWindowEnd n) s = .next (on { m with scrubWin := false }) ∧
    exec (.refreshWindowEnd n) s = .next (on { m with refWin := false })

/-! ### Expansion ports -/

/-- R373-R378, R371: an inbound request that reaches memory is performed there with the identity and key of its
context; a translation request is answered; the commands of the invalidation ring act and move HEAD. A request of the port whose completion does not come
ends in TIMEOUT, also where its answer was already on its way. -/
def Obligations.InboundAndInvalidation : Prop :=
  ∀ (p : BitVec 3) (rp : BitVec 2) (s : State),
    let q := p.toNat
    let r := rp.toNat
    let up := (s.rpActive q r).wake (domIo q)
    let hd := Reg.icqHead (ix 8 q)
    let next := fun (u : State) => u.fld hd F.icqHead.INDEX = (s.fld hd F.icqHead.INDEX + 1) % 256
    (∀ (t : Tlp) x s1 pa k s2, let a := t.addr.toNat
      let op := TlpBytes t.op
      s.isRp q r = true → s.flag (rClasp q r) F.clasp.LINKUP = true → s.clasped q r = false → tlpOk t = true → t.pasid = false →
      (t.translated = false → inMsi a = false ∧ inAperture a = false) → up.ioCtx q t.rid.toNat = (.ok x, s1) →
      s1.ioReach q x t.translated op.2.1 op.2.2 a = (.ok (pa, k), s2) →
      exec (.inboundRequest p rp t) s = .next (s2.tlpPerform q r x.x pa k t) ∧
      (∀ d s3, t.op = .write d → s2.initErr (264 + q) pa d.length = none → s2.agentWrite false x.x.src x.x.id k t.poison (linesOf d.length) pa d = .ok s3 →
        exec (.inboundRequest p rp t) s = .next s3) ∧
      (∀ n d s3, t.op = .read n → s2.initErr (264 + q) pa n.toNat = none →
        s2.agentRead false x.x.src x.x.id k (linesOf n.toNat) pa n.toNat = .ok (d, false, s3) →
        exec (.inboundRequest p rp t) s = .next s3) ∧
      (∀ e v old s3, let n := if e then 8 else 4
        s2.initErr (264 + q) pa n = none →
        (t.op = .fetchAdd e v → s2.agentAtomic false x.x.src x.x.id k pa n (fun o => (o + v.toNat) % 256 ^ n) = .ok (old, false, s3) →
          exec (.inboundRequest p rp t) s = .next s3) ∧
        (t.op = .swap e v → s2.agentAtomic false x.x.src x.x.id k pa n (fun _ => v.toNat % 256 ^ n) = .ok (old, false, s3) →
          exec (.inboundRequest p rp t) s = .next s3)) ∧
      (∀ l c v old s3, let n := 4 * 2 ^ l.val
        t.op = .cas l c v → s2.initErr (264 + q) pa n = none →
        s2.agentAtomic false x.x.src x.x.id k pa n (fun o => if o = c.toNat % 256 ^ n then v.toNat % 256 ^ n else o) = .ok (old, false, s3) →
        exec (.inboundRequest p rp t) s = .next s3)) ∧
    (∀ t, s.isRp q r = true → s.flag (rClasp q r) F.clasp.LINKUP = true → s.clasped q r = true → tlpOk t = true →
      exec (.inboundRequest p rp t) s = .next (s.count (rClasp q r) F.clasp.DROPPED)) ∧
    (∀ (rid : BitVec 16) (a : BitVec 52) wr x s1 y s2,
      s.isRp q r = true → s.flag (rClasp q r) F.clasp.LINKUP = true → s.clasped q r = false →
      inMsi a.toNat = false → inAperture a.toNat = false → up.ioCtx q rid.toNat = (.ok x, s1) → x.ats = true →
      ioGrant q x.x true wr a.toNat s1 = (.ok y, s2) → exec (.atsTranslationRequest p rp rid a wr) s = .next s2) ∧
    (∀ n s1, s.icqCmd q = some (n, s1) →
      (n % 2 ^ 8 = 1 → Answers (exec (.invRid p) s) fun u => next u ∧
        (∀ e ∈ (u.port q).iotlb, e.tag ≠ n / 2 ^ 16 % 2 ^ 16) ∧ (∀ e ∈ (u.port q).iowalk, e.tag ≠ n / 2 ^ 16 % 2 ^ 16) ∧
        (∀ e ∈ (s1.port q).iotlb, e.tag ≠ n / 2 ^ 16 % 2 ^ 16 → e ∈ (u.port q).iotlb)) ∧
      (n % 2 ^ 8 = 2 → Answers (exec (.invRange p) s) fun u => next u ∧
        let a := n / 2 ^ 64 / 4096 * 4096
        let z := a + 4096 * 2 ^ (n / 2 ^ 32 % 64)
        (∀ e ∈ (u.port q).iotlb, e.tag = n / 2 ^ 16 % 2 ^ 16 → z ≤ e.page * 2 ^ e.bits ∨ (e.page + 1) * 2 ^ e.bits ≤ a) ∧
        (∀ e ∈ (s1.port q).iotlb, e.tag ≠ n / 2 ^ 16 % 2 ^ 16 → e ∈ (u.port q).iotlb)) ∧
      (n % 2 ^ 8 = 3 → Answers (exec (.invAll p) s) fun u => next u ∧ (u.port q).iotlb = [] ∧ (u.port q).iowalk = []) ∧
      (n % 2 ^ 8 = 4 → Answers (exec (.atsInv p) s) fun u =>
        (u.port q).ats = some (n / 2 ^ 16 % 2 ^ 16) ∧ u.reg hd = s.reg hd) ∧
      (n % 2 ^ 8 = 5 → let pa := n / 2 ^ 64 % 2 ^ 52
        let s2 := s1.wake (domIo q)
        ∀ s3, s2.physDevice pa = false →
          s2.agentWrite false (ioStop q) ownIdent 0 false 2 pa (leBytes 4 (n / 2 ^ 32 % 2 ^ 32)) = .ok s3 →
          exec (.wait p) s = .next (s3.icqNext q)) ∧
      (n % 2 ^ 8 = 0 ∨ 5 < n % 2 ^ 8 → exec (.icqUnknownOp p) s =
        .next ((s1.wake (domIo q)).setFld (.icqStat (ix 8 q)) F.icqStat.BADOP 1))) ∧
    (∀ v, (s.port q).ats = some v →
      ((∀ j, s.busPort q (v / 256) = some j → s.clasped q j = false) →
        exec (.invalidateCompletion p) s = .next ((s.onPort q fun i => { i with ats := none }).icqNext q)) ∧
      (∀ j, s.busPort q (v / 256) = some j → s.clasped q j = true →
        exec (.invalidateCompletion p) s = .next (s.count (rClasp q j) F.clasp.DROPPED)) ∧
      (∀ j, s.busPort q (v / 256) = some j → exec (.atsInvTimeout p) s =
        .next (((s.claspEnter q j .atsTimeout false).onPort q fun i => { i with ats := none }).icqNext q))) ∧
    (∀ w : Req, let st := Reg.icqStat (ix 8 q)
      let s1 := s.wake (domIo q)
      Served w st s → s1.mayManage w = true → s.flag st F.icqStat.BADOP = true →
      exec (.icqSkip w p) s = .next ((s1.setFld st F.icqStat.BADOP 0).setFld hd F.icqHead.INDEX
        ((s.fld hd F.icqHead.INDEX + 1) % 256))) ∧
    ∀ (i : Fin 272) tag, (s.rp q r).open_.contains (tagKey i tag) = true →
      ∃ u : State, exec (.completionTimeout p rp i tag) s = .next (u.logErr { bank := 144 + q, cls := 0x30, sev := 0, src := r }) ∧
        (u.rp q r).open_ = (s.rp q r).open_.filter (· != tagKey i tag) ∧ u.csr = s.csr ∧ u.m = s.m ∧ u.cores = s.cores ∧
        (∀ t, s.mesh.txns.find (tagKey i tag) = some t →
          u.mesh.txns.find (tagKey i tag) = some { t with answer := t.answer.map fun _ => .err 0x04 }) ∧
        ∀ h ∈ u.mesh.held, h.key = tagKey i tag → ∀ a, h.rsp = some a → a = .err 0x04

/-- R372, R380, R381, R404, R490: a root port's link narrows, sleeps, comes up, goes down; each trigger clasps the
port, and a release opens it. -/
def Obligations.RootPortCommands : Prop :=
  ∀ (p : BitVec 3) (rp : BitVec 2) (s : State),
    let q := p.toNat
    let r := rp.toNat
    let c := rClasp q r
    let k := s.rp q r
    let Clasps := fun (o : Result) (reason : Nat) (f : State → State) => ∃ s2 : State,
      o = .next (f (s2.logErr { bank := 144 + q, cls := 0x31, sev := 2, src := r })) ∧
      s2.flag c F.clasp.CLASPED = true ∧ s2.fld c F.clasp.REASON = reason ∧ (s2.rp q r).open_ = [] ∧ (s2.rp q r).cut = true ∧
      s2.fld c F.clasp.DROPPED = min (s.fld c F.clasp.DROPPED + k.open_.length) 65535 ∧ s2.m = s.m ∧ s2.cores = s.cores
    s.isRp q r = true →
      (k.link = .l0 → k.open_ = [] → s.flag (.rpCtl (ix 8 q) (ix 4 r)) F.rpCtl.L0P_EN = true →
        exec (.l0pIdleExpiry p rp) s = .next (s.onRp q r fun k => { k with link := .l0p })) ∧
      (k.link = .l0 ∨ k.link = .l0p → k.open_ = [] → s.flag (.rpCtl (ix 8 q) (ix 4 r)) F.rpCtl.L1_EN = true →
        exec (.l1IdleExpiry p rp) s =
          .next (s.fresh.2.onRp q r fun k => { k with link := l1Kind (s.flag (.rpCtl (ix 8 q) (ix 4 r)) F.rpCtl.L12_EN) s.fresh.1 })) ∧
      (k.link.sleeps = true → (s.port q).rps.find r = some k → exec (.linkActivityWake p) s = .next (s.wake (domIo q))) ∧
      (4 < s.fld .stwBootstat F.stwBootstat.PHASE → s.flag .stwBootstat F.stwBootstat.RCVR = false →
        s.boot.pins.perstHigh.contains (q, r) = false →
        exec (.rootPortPerstRelease p rp) s = .next { s with boot := { s.boot with pins :=
          { s.boot.pins with perstHigh := s.boot.pins.perstHigh ++ [(q, r)] } } }) ∧
      (s.flag .stwBootstat F.stwBootstat.RCVR = true → exec (.linkUp p rp) s = .next s) ∧
      (k.link = .down → s.flag .stwBootstat F.stwBootstat.RCVR = false → s.boot.pins.perstHigh.contains (q, r) = true →
        let lanes := 16 / s.rootPorts q
        ∃ rate width, 1 ≤ rate ∧ rate ≤ s.rateCap q ∧ 1 ≤ width ∧ width ≤ lanes ∧
          let t := (s.fresh.2.onRp q r fun k => { k with link := .l0, rate := rate, width := width }).setFld c F.clasp.LINKUP 1
          let u := t.logErr { bank := 144 + q, cls := 0x30, sev := 0, src := r }
          (exec (.linkUp p rp) s = .next t ∨ exec (.linkUp p rp) s = .next u) ∧
          (width < lanes → exec (.linkUp p rp) s = .next u)) ∧
      (s.clasped q r = false →
        (k.link ≠ .down → Clasps (exec (.surpriseLinkDown p rp) s) 2 fun u => u.rpDown q r) ∧
        Clasps (exec (.rootPortUncorrectable p rp) s) 3 id ∧ Clasps (exec (.errFatal p rp) s) 4 id ∧
        Clasps (exec (.linkDisable p rp) s) 6 (fun u => u.rpDown q r) ∧
        ∀ w, Served w c s → Clasps (exec (.force w p rp) s) 6 id) ∧
      ∀ w, Served w c s →
        let s1 := s.wake (domIo q)
        (s.flag c F.clasp.LINKUP = true → exec (.release w p rp none) s =
          .next (((s1.setFld c F.clasp.CLASPED 0).setFld c F.clasp.STATUS 0).setFld c F.clasp.DROPPED 0)) ∧
        (s.flag c F.clasp.LINKUP = false → exec (.release w p rp none) s = .next (s1.setFld c F.clasp.STATUS 1)) ∧
        (∀ t, s.clasped q r = true → exec (.release w p rp (some t)) s =
          .next (let s2 := s1.setFld c F.clasp.REASON (claspCode t)
                 (if t = .software then s2 else s2.rpDown q r).setFld c F.clasp.STATUS 2))

/-- R382-R390, R458: host accesses through windows, the expansion ROM and the host aperture, interrupts sent to the
host, and the resets and link changes of an endpoint port with their reports. Whether the host masks a vector by the time a
message is sent is a free value (log entry 21). -/
def Obligations.EndpointCommands : Prop :=
  ∀ (p : BitVec 3) (s : State),
    let q := p.toNat
    let st := Reg.epStat (ix 8 q)
    let ep := (s.port q).ep
    (∀ r (f v : BitVec 5), Served r (.epMsix (ix 8 q)) s →
      let s1 := s.wake (domIo q)
      s1.mayManage r = true → s.role q = .endpoint → s.epActive q f.toNat = true → v.toNat < s.epVecs q f.toNat → s.sec.fatal = 0 →
      let t := (s1.hostMask q f.toNat v.toNat).epTraffic q
      let x := (f.toNat, v.toNat)
      let held := (t.port q).ep.msixMask.contains x
      (held = false → exec (.epMsixSend r p f v) s = .next (t.onEp q fun e => { e with msixSent := e.msixSent ++ [x] })) ∧
      (held = true → Answers (exec (.epMsixSend r p f v) s) fun u => x ∈ (u.port q).ep.msixPend ∧ u.m = s.m ∧ u.cores = s.cores)) ∧
    (∀ (f : BitVec 5) (o : BitVec 40) len d k s2,
      let s1 := (s.wake (domIo q)).epTraffic q
      let a := s.reg (.epWinA (ix 8 q) (ix 1024 k))
      let b := s.reg (.epWinB (ix 8 q) (ix 1024 k))
      let pa := getF a F.epWinA.TARGET * 4096 + (o.toNat - getF b F.epWinB.OFFSET * 512)
      s.hostOpen q f.toNat = true → o.toNat % 4096 + d.length ≤ 4096 → d.length ≤ 512 → o.toNat + d.length ≤ s.bar2Size q f.toNat →
      s1.winAt q f.toNat o.toNat = some k → getF a F.epWinA.W = 1 → getF a F.epWinA.TYPE = 0 → s.physDevice pa = false →
      s.initErr (264 + q) pa d.length = none →
      s1.agentWrite false (ioStop q) (s1.winIdent (s.reg (.epWinC (ix 8 q) (ix 1024 k)))) (getF a F.epWinA.KEYID) false
        (linesOf d.length) pa d = .ok s2 →
      exec (.bar2Access p f o len (some d)) s = .next s2) ∧
    (∀ (f : BitVec 5) (o : BitVec 40) len d, let s1 := (s.wake (domIo q)).epTraffic q
      s.hostOpen q f.toNat = true → o.toNat % 4096 + d.length ≤ 4096 → d.length ≤ 512 → o.toNat + d.length ≤ s.bar2Size q f.toNat →
      s1.winAt q f.toNat o.toNat = none →
      exec (.bar2Access p f o len (some d)) s = .next (s1.logErr { bank := 144 + q, cls := 0x32, sev := 0, src := f.toNat })) ∧
    (∀ (o : BitVec 20) (n : BitVec 10) x s2, let s1 := (s.wake (domIo q)).epTraffic q
      let pa := s.fld (.epRombase (ix 8 q)) F.epRombase.ADDR * 2 ^ 20 + o.toNat
      s.hostOpen q 0 = true → o.toNat + n.toNat ≤ 2 ^ 20 → s.physDevice pa = false →
      s1.agentRead false (ioStop q) ownIdent 0 (linesOf n.toNat) pa n.toNat = .ok (x, s2) →
      exec (.expansionRomRead p o n) s = .next s2.2) ∧
    (∀ h (pa : BitVec 52) k s1 s2, region pa.toNat = .host q → pa.toNat % 8 = 0 →
      Reaches h pa (.wrPartial 0 (byteMask (pa.toNat % 64) 8)) k s s1 → ServedAt k s1 s2 → s2.role q = .endpoint →
      s2.pathErr k.pkt.src (ioStop q) (domIo q) = none →
      (let w := s2.reg (.epOut (ix 8 q) (ix 64 (pa.toNat % 2 ^ 40 / 2 ^ 34)))
       getF w F.epOut.V = 1 ∧ s2.epActive q (getF w F.epOut.FUNC) = true ∧ s2.sec.fatal = 0) →
      exec (.hostApertureRequest h pa true) s = .next (((s2.wake (domIo q)).epTraffic q).answer k k.pkt.dst (.ack 0))) ∧
    (∀ f : BitVec 5, let n := f.toNat
      let mask : BitVec 32 := if n = 0 then BitVec.allOnes 32 else 1#32 <<< n
      (s.configurable q n = true → exec (.flrStart p f) s =
        .next (((s.endOut q mask).onEp q fun e => { e with resetting := e.resetting ||| mask }).epEvent q 1 n)) ∧
      (s.role q = .endpoint → ep.resetting.getLsbD n = true → (n = 0 ∨ ep.resetting.getLsbD 0 = false) →
        ∃ s2 : State, (s2.port q).ep.resetting = ep.resetting &&& ~~~mask ∧ (s2.port q).ep.bme = ep.bme &&& ~~~mask ∧ s2.m = s.m ∧ s2.cores = s.cores ∧
          (n = 0 → s2.fld st F.epStat.NUMVF = 0) ∧ exec (.flrDone p f) s = .next (s2.epEvent q 2 n)) ∧
      (s.configurable q n = true →
        exec (.bmeClear p f) s = .next ((s.bmeClear q (1#32 <<< n)).epEvent q 7 n))) ∧
    (∀ num : BitVec 5, s.configurable q 0 = true →
      exec (.numvfChange p num) s = .next ((s.setFld st F.epStat.NUMVF num.toNat).epEvent q 8 0)) ∧
    (s.role q = .endpoint →
      (s.flag st F.epStat.PERST = false →
        exec (.perstAssert p) s = .next (((s.setFld st F.epStat.PERST 1).epReset q).epEvent q 3 0)) ∧
      (s.flag st F.epStat.PERST = true →
        exec (.perstDeassert p) s = .next (((s.setFld st F.epStat.PERST 0).wake (domIo q)).epEvent q 4 0)) ∧
      (s.flag st F.epStat.LINKUP = true → exec (.linkDown p) s = .next ((s.epReset q).epEvent q 5 0)) ∧
      (s.flag st F.epStat.LINKUP = false → s.flag st F.epStat.PERST = false → 4 ≤ s.phase →
        s.flag .stwBootstat F.stwBootstat.RCVR = false →
        exec (.linkUp p 0) s = .next (((s.setFld st F.epStat.LINKUP 1).onEp q fun e => { e with link := .l0 }).epEvent q 6 0))) ∧
    (let t := s.epReset q
     t.flag st F.epStat.LINKUP = false ∧ (t.port q).ep.bme = 0 ∧ (t.port q).ep.resetting = BitVec.allOnes 32)

/-! ### Power -/

/-- R391-R408, R426, R454: candles, legacy commands, the entry of a domain and its commit, its wake and bring-up, and
the pins. -/
def Obligations.PowerCommands : Prop :=
  ∀ s : State,
    (∀ (q : Req) (k : BitVec 12) (v : BitVec 32),
      let r := Reg.candle (ix 4096 k.toNat)
      let w := writeFields r.fields true 0xFFFFFFFF (s.reg r) (v.zeroExtend 64)
      Served q r s →
      (3840 ≤ k.toNat → q.world = false →
        exec (.candleWrite q k v) s = .next (s.wake 416) ∧ exec (.candleFree q k) s = .next (s.wake 416)) ∧
      (k.toNat < 3840 ∨ q.world = true →
        (getF w F.candle.FREE = 0 →
          exec (.candleWrite q k v) s = .next (((s.wake 416).setReg r w).callUp (getF w F.candle.DOMAIN))) ∧
        Answers (exec (.candleFree q k) s) fun t =>
          t.fld r F.candle.ALLOC = 0 ∧ t.fld r F.candle.MIN = 0 ∧ t.fld r F.candle.FREE = 0 ∧
          t.fld r F.candle.DOMAIN = s.fld r F.candle.DOMAIN ∧ (∀ x, x ≠ r → t.reg x = s.reg x) ∧ t.m = s.m ∧ t.cores = s.cores)) ∧
    (∀ q : Req, Served q .calloc s →
      let free := fun k => s.fld (.candle (ix 4096 k)) F.candle.ALLOC = 0
      let lo := if q.world then 3840 else 0
      let hi := if q.world then 4096 else 3840
      (∀ k, lo ≤ k → k < hi → free k → (∀ j, lo ≤ j → j < k → ¬free j) → exec (.callocRead q) s =
        .next (((s.wake 416).setFld (.candle (ix 4096 k)) F.candle.ALLOC 1).setReg .calloc (dw k))) ∧
      ((∀ k, lo ≤ k → k < hi → ¬free k) → exec (.callocRead q) s = .next ((s.wake 416).setReg .calloc 0xFFFF))) ∧
    (∀ (q : Req) (cls : BitVec 4) (idx : BitVec 12), Served q .legacyCmd s →
      let cmd := fun c => (((s.wake 416).setFld .legacyCmd F.legacyCmd.CMD c).setFld .legacyCmd F.legacyCmd.CLASS cls.toNat).setFld
        .legacyCmd F.legacyCmd.INDEX idx.toNat
      let st := fun (u : State) v => u.setFld .legacyCmd F.legacyCmd.STATUS v
      let hold := fun (u : State) l => { u with pwr := { u.pwr with legacy := l } }
      (s.flag .legacyCmd F.legacyCmd.BUSY = true → exec (.up q cls idx) s = .next (st (s.wake 416) 4) ∧
        exec (.nop q cls idx) s = .next (st (s.wake 416) 4) ∧ exec (.retain q cls idx) s = .next (st (s.wake 416) 4) ∧
        exec (.down q cls idx) s = .next (st (s.wake 416) 4)) ∧
      (s.flag .legacyCmd F.legacyCmd.BUSY = false →
        (legacyTarget cls.toNat idx.toNat = none →
          exec (.nop q cls idx) s = .next (st (cmd 0) 2) ∧ exec (.up q cls idx) s = .next (st (cmd 1) 2)) ∧
        ∀ n, legacyTarget cls.toNat idx.toNat = some n →
          (q.world = false → s.twused n = true →
            exec (.down q cls idx) s = .next ((st (cmd 3) 3).toLog 0x000A 0 false [dw n, 3])) ∧
          (q.world = true ∨ s.twused n = false →
            exec (.nop q cls idx) s = .next (st (cmd 0) 0) ∧
            (s.dstate n = 3 → exec (.up q cls idx) s =
              .next ((st (hold (cmd 1) (some (n, 3))) 0).setFld .legacyCmd F.legacyCmd.BUSY 0)) ∧
            (s.dstate n < 3 → exec (.up q cls idx) s =
              .next (((st (hold (cmd 1) (some (n, 3))) 0).setFld .legacyCmd F.legacyCmd.BUSY 1).callUp n)) ∧
            (1 ≤ s.dstate n → exec (.retain q cls idx) s =
              .next ((st (hold (cmd 2) (some (n, 1))) 0).setFld .legacyCmd F.legacyCmd.BUSY 0)) ∧
            (∀ mn, s.pwr.legacy = some (n, mn) → exec (.down q cls idx) s = .next (st (hold (cmd 3) none) 0)) ∧
            (s.pwr.legacy = none → exec (.down q cls idx) s = .next (st (cmd 3) 0))))) ∧
    exec .legacyBusyTimeout s = .next (s.setFld .legacyCmd F.legacyCmd.BUSY 0) ∧
    (∀ d : Fin 417, let n := d.val
      (s.hold n = true → exec (.hysteresisExpiry d) s = .next s ∧
        exec (.powerEntryStart d) s =
          .next { s with pwr := { s.pwr with hystDone := s.pwr.hystDone.filter (· != n) } }) ∧
      (s.hold n = false → n ∉ s.pwr.hystDone →
        exec (.hysteresisExpiry d) s = .next { s with pwr := { s.pwr with hystDone := s.pwr.hystDone ++ [n] } }) ∧
      (s.hold n = false → s.pwr.entry.find n = none → n ∉ s.pwr.waking → s.target n < s.dstate n →
        Answers (exec (.powerEntryStart d) s) fun t =>
          (∀ m ∈ s.group n, t.pwr.entry.find m = some (s.target n, 1) ∧ t.dstate m = s.dstate m) ∧
          (∀ m, m ∉ s.group n → t.pwr.entry.find m = s.pwr.entry.find m) ∧
          (n < 256 → s.group n = [n] → (t.ucore n).mbuf = []) ∧
          (384 ≤ n → n < 400 → t.flag (.mcRas (ix 16 (n - 384))) F.mcRas.SELFREF = true)) ∧
      (∀ tgt step, s.pwr.entry.find n = some (tgt, step) → (∀ m ∈ s.group n, s.initOpen m = false) → s.mesh.held = [] →
        (s.inWindow n step = true ∨ (s.target n ≤ tgt ∧ ∀ m ∈ s.group n, m ∉ s.pwr.wakeReq)) → tgt < 3 →
        Answers (exec (.powerEntryCommit d) s) fun t =>
          ∀ m ∈ s.group n, t.dstate m = tgt ∧ t.pwr.entry.find m = none ∧ t.reg (rDom m) &&& 0xF000 = 0) ∧
      (∀ tgt step, s.pwr.entry.find n = some (tgt, step) → s.group n = [n] → s.mesh.held = [] →
        (s.initOpen n = true ∨ (s.inWindow n step = false ∧ (tgt < s.target n ∨ n ∈ s.pwr.wakeReq))) →
        Answers (exec (.powerEntryCommit d) s) fun t =>
          t.dstate n = s.dstate n ∧ t.pwr.entry.find n = none ∧
            t.fld (rDom n) F.dom.ABORTS = min (s.fld (rDom n) F.dom.ABORTS + 1) 255) ∧
      (∀ src, s.keptOff n = false → s.unstarted n = false → s.wakeSource n src = true → s.pwr.entry.find n = none → s.isOn n = false →
        n ∉ s.pwr.waking → s.mesh.held = [] → Answers (exec (.powerWakeStart d src) s) fun t =>
          (∀ m ∈ s.group n, m ∈ t.pwr.waking) ∧ t.csr = s.csr ∧ t.m = s.m ∧ t.cores = s.cores ∧
          (s.sdFlag 0 = true → t.rtu.g = s.rtu.g + Config.wakePower n ∧ t.rtu.debt = s.rtu.debt + Config.wakePower n) ∧
          (s.sdFlag 0 = false → t.rtu = s.rtu)) ∧
      (n ∈ s.pwr.waking → (384 ≤ n ∨ s.isOn 410 = true) → s.group n = [n] → s.mesh.held = [] → s.waiting (n - 256) = [] →
        (∀ ok, (s.restored n ok).1 = true →
          Answers (exec (.powerWakeComplete d ok) s) fun t =>
            t.dstate n = 3 ∧ n ∉ t.pwr.waking ∧ n ∉ t.pwr.wakeReq ∧ t.reg (rDom n) &&& 0xF000 = 0xF000 ∧ 
            (s.pwr.saved.find n = none → t.m = s.m) ∧ (∀ c, c ≠ n → t.core c = s.core c) ∧
            (∀ v, n < 256 → s.dstate n = 0 → s.pwr.saved.find n = some v → v.core.run = .running → t.core n = v.core)) ∧
        (n < 256 → s.dstate n = 0 → (s.pwr.saved.find n).isSome = true → exec (.powerWakeComplete d false) s =
          .next (((s.logErr { bank := n / 2, cls := 0x61, sev := 2, src := n }).fenceOff n 2).flow))) ∧
      (n ∈ s.rtu.widths → Answers (exec (.powerWidthEnd d) s) fun t =>
        t.flag (rDom n) F.dom.SCHED_V = false ∧ n ∉ t.rtu.widths ∧ (∀ x, x ≠ rDom n → t.reg x = s.reg x)) ∧
      (n ∉ s.rtu.widths → exec (.powerWidthEnd d) s = .next s)) ∧
    ∀ (p : Fin 24) (l w : Bool), Answers (exec (.gpioInputChange p l w) s) fun t =>
      (∀ j, j < 24 → t.boot.pins.gpio.getLsbD j = if j = p.val then l else s.boot.pins.gpio.getLsbD j) ∧
      t.csr = s.csr ∧ t.m = s.m ∧ t.cores = s.cores ∧ t.rtu = s.rtu ∧
      (let g := s.reg (.gpwake p)
       let n := getF g F.gpwake.DOMAIN
       s.fld .stwBootstat F.stwBootstat.PHASE < 4 → s.tapPin p.val = none → getF g F.gpwake.EN = 1 → s.gpioRank p.val = 4 → s.pwr.entry.find n = none →
       s.boot.pins.gpio.getLsbD p.val = !l → (getF g F.gpwake.MODE = if l then 0 else 1) →
       ∃ u : State, u = { s with boot := t.boot } ∧ t = u.wake n)

/-! ### Rack time and Steady Draw -/

/-- R413-R423, R425-R428: the firings of the Lamplighter's entries, the sources that discipline rack time, and the
updates of Steady Draw. A row that happens at an instant brings rack time to it (log entry 16, the model's choice). -/
def Obligations.RackTimeCommands : Prop :=
  ∀ s : State,
    (∀ (k : BitVec 9) (act : Nat) (i : Instr),
      (act, i) ∈ [(1, Instr.power k), (2, .freq k), (3, .refresh k), (4, .scrub k), (5, .snapshot k), (6, .routeInt k),
        (7, .coreInt k), (8, .pkgPower k)] →
      let n := k.toNat
      let r := rLl n
      let st := Reg.llStat (ix 512 n)
      let s1 := s.reach (s.reg (.llDue (ix 512 n)))
      let tgt := s.fld r F.llCtl.TARGET
      let arg := s.reg (.llArg (ix 512 n))
      (s.llV n = false ∨ s.fld r F.llCtl.ACTION ≠ act → exec i s = .next s) ∧
      (s.llV n = true → s.fld r F.llCtl.ACTION = act → n ∉ s.rtu.late → s.llFirst n act = false → exec i s = .next s) ∧
      (s.llV n = true → s.fld r F.llCtl.ACTION = act → n ∉ s.rtu.late → s.llFirst n act = true →
        (s.llSkips n act tgt arg = false →
          exec i s = .next (((s1.llAct n act tgt arg).countWrap st F.llStat.FIRED).llRearm n false)) ∧
        (s.llSkips n act tgt arg = true → s.llLowers act tgt arg.toNat = false →
          exec i s = .next ((s1.count st F.llStat.SKIPPED).llRearm n false)))) ∧
    (∀ (n tgt : Nat) (arg : DWord), let a := arg.toNat
      let t := fun act => s.llAct n act tgt arg
      let opens := decide (0 < a / 2 ^ 32)
      (tgt < 417 → (t 1).fld (rDom tgt) F.dom.SCHED = a % 4 ∧ (t 1).flag (rDom tgt) F.dom.SCHED_V = !a.testBit 2 ∧
        (∀ x, x ≠ rDom tgt → (t 1).reg x = s.reg x) ∧ (t 1).m = s.m ∧ (t 1).cores = s.cores) ∧
      t 2 = { s with rtu := { s.rtu with freq := s.rtu.freq.set tgt (a % 4096), ahead := s.rtu.ahead.erase tgt } } ∧
      (t 3).mcAt tgt = { s.mcAt tgt with refWin := opens } ∧ t 3 = { s with mc := (t 3).mc } ∧
      (t 4).mcAt tgt = { s.mcAt tgt with scrubWin := opens } ∧ t 4 = { s with mc := (t 4).mc } ∧
      (a.testBit 1 = true → (t 5).reg .rtuSnaptime = s.now ∧ (t 5).reg .rtuSnapseq = s.reg .rtuSnapseq + 1 ∧
        (t 5).rtu.snap = telemetryKeys.map fun k => (k, s.telemetry k.1 k.2)) ∧
      (a.testBit 0 = true → (t 5).mesh.live = []) ∧
      t 6 = s.raiseStw tgt ∧ t 7 = s.sendInt rtuStop tgt (decide (480 ≤ n)) 3 (a / 4 % 16) (a % 4) ∧
      t 8 = { s with ras := { s.ras with pkg := a % 65536 } }) ∧
    (∀ k late, let t := s.llRearm k late
      let per := 1000 * s.fld (rLl k) F.llCtl.PERIOD
      k < 512 → (per = 0 → t.llV k = false) ∧
      (per ≠ 0 → late = false → t.reg (.llDue (ix 512 k)) = dw ((s.reg (.llDue (ix 512 k))).toNat + per) ∧ t.llV k = s.llV k)) ∧
    (∀ k : BitVec 9, let n := k.toNat
      let cl := s.fld (rLl n) F.llCtl.TARGET
      let arg := s.reg (.llArg (ix 512 n))
      s.llV n = true → s.fld (rLl n) F.llCtl.ACTION = 2 → s.llSkips n 2 cl arg = false → s.rtu.freq.getD cl 3700 < arg.toNat % 4096 →
      ∃ step, step < 3 ∧ exec (.freqSupplyChange k) s =
        .next { s.fresh.2 with rtu := { s.rtu with ahead := s.rtu.ahead.set cl (arg.toNat % 4096, step) } }) ∧
    (∀ f : BitVec 30, f.toNat < 1000000000 → s.rtSource = 1 →
      let s1 := s.ppsSeen (s.ppsAt f.toNat)
      (s.ppsEarly (s.ppsAt f.toNat) = true → exec (.rtPpsEdge f) s = .next (s.reach (dw (s.ppsAt f.toNat)))) ∧
      (s.ppsEarly (s.ppsAt f.toNat) = false →
      (s.anchored = true → exec (.rtPpsEdge f) s = .next ((s1.setFld rSt F.rtuStatus.REF_OK 1).discipline
        (if f.toNat ≤ 500000000 then (f.toNat : Int) else (f.toNat : Int) - 1000000000))) ∧
      (∀ t, s.anchored = false → s.rtu.load = some t → exec (.rtPpsEdge f) s = .next (s1.anchor t)) ∧
      (s.anchored = false → s.rtu.load = none → exec (.rtPpsEdge f) s = .next s1))) ∧
    (∀ (udp : Bool) (domain : BitVec 8) (vlan : BitVec 12) (t : BitVec 64), s.rtSource = 2 →
      let s1 := { s.setFld rSt F.rtuStatus.PTP_OK 1 with rtu := { s.rtu with sync := some s.now } }
      (∀ n, netIf s.boot.cfg.net = some n → n.udp = udp → n.domain = domain.toNat → n.vlan = vlan.toNat →
        (s.anchored = true → exec (.ptpSync ⟨udp, domain, vlan, t⟩) s = .next (s1.discipline ((s.now.toNat : Int) - (t.toNat : Int)))) ∧
        (s.anchored = false → exec (.ptpSync ⟨udp, domain, vlan, t⟩) s = .next (s1.anchor t))) ∧
      (netIf s.boot.cfg.net = none → exec (.ptpSync ⟨udp, domain, vlan, t⟩) s = .next s)) ∧
    (∀ q v, Served q .rtuLoad s → let s1 := s.wake 415
      (q.world = false ∨ s.anchored = true → exec (.rtuLoad q v) s = .next s1) ∧
      (q.world = true → s.anchored = false → s.rtSource = 0 →
        exec (.rtuLoad q v) s = .next ((s1.setReg .rtuLoad v).anchor v)) ∧
      (q.world = true → s.anchored = false → s.rtSource = 1 → v.toNat % 1000000000 = 0 →
        Answers (exec (.rtuLoad q v) s) fun t => t.rtu.load = some v ∧ t.reg .rtuLoad = v ∧ t.now = s.now)) ∧
    (∀ t : DWord, (∀ k, k < 512 → s.llV k = false) →
      let u := s.anchor t
      u.now = t ∧ u.anchored = true ∧ u.fld rSt F.rtuStatus.STATE = (if s.rtSource = 0 then 2 else 1) ∧
      (∀ x, x ≠ rSt → u.reg x = s.reg x) ∧ u.m = s.m ∧ u.cores = s.cores) ∧
    (∀ off : Int, let u := s.discipline off
      (100 < off.natAbs → u.fld rSt F.rtuStatus.STATE = 1) ∧
      (off.natAbs ≤ 100 → 3 ≤ s.rtu.close ∨ s.fld rSt F.rtuStatus.STATE = 2 → u.fld rSt F.rtuStatus.STATE = 2) ∧
      (-(2 ^ 31) < off → off < 2 ^ 31 → (u.fld rSt F.rtuStatus.OFFSET : Int) = off % 2 ^ 32) ∧ u.now = s.now) ∧
    (s.anchored = true → s.rtSource = 1 ∨ s.rtSource = 2 → Answers (exec .holdoverEntry s) fun t =>
      t.fld rSt F.rtuStatus.STATE = 3 ∧ t.rtu.close = 0 ∧ t.now = s.now ∧ (∀ x, x ≠ rSt → t.reg x = s.reg x)) ∧
    (s.flag .rtuSyncout F.rtuSyncout.EN = true →
      let t := dw (nextIn s.now.toNat 1000000000 0)
      exec .syncOutPulse s =
        .next { s.reach t with boot := { s.boot with pins := { s.boot.pins with syncRise := some t } } }) ∧
    ∀ d p : BitVec 32, Answers (exec (.sdUpdate d p) s) fun t =>
      let cap := s.cap * sdUnit
      t.rtu.demand = d.toNat * 100000 ∧ t.rtu.power = p.toNat * 100000 ∧
      (s.now.toNat + 200 < 2 ^ 64 → t.now.toNat % 100 = 0) ∧
      (s.sdFlag 0 = false → t.rtu.g = cap ∧ t.rtu.f = 0 ∧ t.rtu.filler = 0 ∧ t.rtu.ballast = 0) ∧
      (s.sdFlag 0 = true → t.rtu.g ≤ cap ∧ t.rtu.f ≤ cap ∧ t.rtu.ballast ≤ s.sdField 0x14 1 * sdUnit ∧
        t.rtu.filler ≤ s.sdField 0x15 1 * sdUnit ∧ (s.rtu.g < d.toNat * 100000 → t.rtu.g ≤ s.rtu.g + s.sdField 2 2 * 10000) ∧
        (s.sdFlag 1 = false → t.rtu.f = 0) ∧ (s.sdFlag 2 = false → t.rtu.ballast = 0) ∧ (s.sdFlag 3 = false → t.rtu.filler = 0))

/-! ### Monitors, fences, the error log, register writes -/

/-- R430, R438-R449, R459, R11, R469-R471: thermal and droop monitors, in-field tests, fences, the error log, and a
register written over the Chip Control Space. -/
def Obligations.ReliabilityCommands : Prop :=
  ∀ s : State,
    (∀ (e : Bool) (i : BitVec 8) (c : BitVec 16),
      let s1 := { s with ras := { s.ras with
        read := s.ras.read.set (if e then (1, i.toNat % 32) else (0, i.toNat)) (BitVec.ofInt 64 c.toInt) } }
      (12000 ≤ c.toInt → Answers (exec (.thermalSample e i c) s) fun t =>
        t.boot.pins.thermTrip = true ∧ (∀ n, n < 416 → t.reg (rDom n) = (rDom n).reset) ∧ (∀ d, (t.core d).run = .held) ∧
        t.pwr.entry = [] ∧ t.pwr.waking = [] ∧ (s.sec.fatal = 0 → t.sec.fatal = 1) ∧ t.ras.read = s1.ras.read ∧ t.m = s.m) ∧
      (c.toInt < 100 * (s.fld .therm F.therm.THROTTLE : Int) → c.toInt < 100 * (s.fld .therm F.therm.ALERT : Int) → c.toInt < 12000 →
        s.ras.alert = false →
        Answers (exec (.thermalSample e i c) s) fun t => t.ras.read = s1.ras.read ∧ t.ras.alert = false ∧
          (∀ cl, s.ras.throttled.contains cl = false → t.ras.throttled.contains cl = false) ∧ t.csr = s.csr ∧ t.m = s.m ∧ t.cores = s.cores) ∧
      (let cl := clusterOf (i.toNat / 2)
       e = false → 100 * (s.fld .therm F.therm.THROTTLE : Int) ≤ c.toInt → c.toInt < 100 * (s.fld .therm F.therm.ALERT : Int) →
       c.toInt < 12000 → s.ras.alert = false → s.ras.throttled.contains cl = false →
       Answers (exec (.thermalSample e i c) s) fun t => t.ras.throttled.contains cl = true)) ∧
    (Answers (exec .thermalStep s) fun t =>
      (∀ cl, cl < 16 → t.ras.thermCeil.getD cl 3700 =
        (if s.ras.throttled.contains cl then max 800 (s.ras.thermCeil.getD cl 3700 - 100) else min 3700 (s.ras.thermCeil.getD cl 3700 + 100))) ∧
      (s.ras.alert = true → t.ras.tlim = s.ras.tlim.map (· - 10)) ∧ t = { s with ras := t.ras }) ∧
    (∀ cl : BitVec 4, let c := cl.toNat
      let Ev : Event := { bank := 160, cls := 0x51, sev := 0, src := c }
      (∃ s1 : State, s1.ras.droopCnt.getD c 0 = s.ras.droopCnt.getD c 0 + 1 ∧ c ∈ s1.ras.drooping ∧ s1 = { s with ras := s1.ras } ∧
        exec (.droopEvent cl) s = .next (s1.logErr Ev)) ∧
      Answers (exec (.droopRecovery cl) s) fun t => c ∉ t.ras.drooping ∧ t = { s with ras := t.ras }) ∧
    (Answers (exec .droopWindowEnd s) fun t =>
      t = { s with ras := t.ras } ∧ t.ras.droopCnt = [] ∧
      ∀ cl, cl < 16 → t.ras.read.getD (2, cl) 0 = dw (s.ras.droopCnt.getD cl 0) ∧
        t.ras.droopCeil.getD cl 3700 = (if s.fld .droop F.droop.COUNT < s.ras.droopCnt.getD cl 0
          then max 800 (s.ras.droopCeil.getD cl 3700 - 100) else min 3700 (s.ras.droopCeil.getD cl 3700 + 100))) ∧
    (∀ t n, exec (.ringOscillatorCount t n) s =
      .next { s with ras := { s.ras with read := s.ras.read.set (3, t.toNat) (n.zeroExtend 64) } }) ∧
    (∀ (q : Req) (tile : BitVec 7) (part : BitVec 2), Served q .iftCtl s →
      let r := Reg.iftCtl
      let t := tile.toNat
      let s1 := s.wake 416
      let s2 := (s1.setFld r F.iftCtl.PART part.toNat).setFld r F.iftCtl.TILE t
      (q.world = false → exec (.iftGo q tile part) s = .next s1) ∧
      (q.world = true → part ≠ 0 → s.ras.ift = none →
        (s.fencedTile t = true → exec (.iftGo q tile part) s = .next (s2.setFld r F.iftCtl.STATUS 4)) ∧
        (s.fencedTile t = false → s2.iftEligible t part.toNat = false →
          exec (.iftGo q tile part) s = .next (s2.setFld r F.iftCtl.STATUS 2)) ∧
        (s.fencedTile t = false → s2.iftEligible t part.toNat = true → Answers (exec (.iftGo q tile part) s) fun u =>
          u.ras.ift = some (t, part.toNat) ∧ u.fld r F.iftCtl.STATUS = 3))) ∧
    (s.flag .iftCtl F.iftCtl.AUTO = false → exec .iftAutoTest s = .next s) ∧
    (∀ t, s.flag .iftCtl F.iftCtl.AUTO = true → s.ras.ift = none → s.iftPick = some t →
      Answers (exec .iftAutoTest s) fun u => u.ras.ift = some (t, 1) ∧ u.fld .iftCtl F.iftCtl.STATUS = 3) ∧
    (∀ t part f0 f1 fu, s.ras.ift = some (t, part) → Answers (exec (.iftComplete f0 f1 fu) s) fun u =>
      u.ras.ift = none ∧
      ((f0 && part.testBit 0) || (f1 && part.testBit 0) || (fu && part.testBit 1) → u.fld .iftCtl F.iftCtl.STATUS = 1) ∧
      (f0 = false → f1 = false → fu = false → u.fld .iftCtl F.iftCtl.STATUS = 0 ∧ u.cores = s.cores ∧ u.m = s.m)) ∧
    (∀ (q : Req) (tk un : Bool) (i : BitVec 8), Served q .fenceReq s →
      let r := Reg.fenceReq
      let n := i.toNat
      let s1 := s.wake 416
      let s2 := ((s1.setFld r F.fenceReq.KIND (b2n tk)).setFld r F.fenceReq.UNFENCE (b2n un)).setFld r F.fenceReq.INDEX n
      (q.world = false → exec (.fenceRequest q tk un i) s = .next s1) ∧
      (q.world = true →
        (tk = true → 128 ≤ n → exec (.fenceRequest q tk un i) s = .next (s2.setFld r F.fenceReq.STATUS 3)) ∧
        (un = true → tk = false → exec (.fenceRequest q tk un i) s =
          .next (State.setFld (State.toLog { s2 with log := { s2.log with unfence := s2.log.unfence ++ [(false, n)] } } 0x0006 0 false
            [dw n, 2]) r F.fenceReq.STATUS 0)) ∧
        (un = false → tk = false → s2.coreOff n = false → exec (.fenceRequest q tk un i) s = .next (s2.setFld r F.fenceReq.STATUS 1)) ∧
        (un = false → tk = false → s2.coreOff n = true → s.fencedCore n = false → (∃ c ∈ s2.unfenced, c ≠ n) →
          s.twinCfg (n / 2) = false → Answers (exec (.fenceRequest q tk un i) s) fun t =>
            t.fld r F.fenceReq.STATUS = 0 ∧ t.fencedCore n = true ∧ (false, n) ∈ t.log.fences ∧ t.dstate n = 0 ∧
            (t.core n).run = .held))) ∧
    (∀ (c : BitVec 8), let k := c.toNat
      let t := k / 2
      s.twin t = true → ∃ s2 : State,
        exec (.twinCoreStopsResponding c) s = .next (s2.logErr { bank := t, cls := 0x04, sev := 0, src := k }) ∧
        s2.fencedCore k = true ∧ (false, k) ∈ s2.log.fences ∧ (s2.ucore (2 * t)).mbuf = [] ∧ (s2.core (2 * t + 1)).run = .held ∧
        s2.dstate (2 * t + 1) = 0) ∧
    (∀ e l, s.log.queue = e :: l → s.log.count + 1 < logSlots → exec .logEntryWrite s =
      .next { s with log := { s.log with queue := l, entries := s.log.entries ++ [{ e with num := s.log.next }]
                                         next := s.log.next + 1, count := s.log.count + 1 } }) ∧
    (s.log.queue = [] → (s.log.lost = 0 → exec .logEntryWrite s = .next s) ∧
      (s.log.lost ≠ 0 → s.log.count + 1 < logSlots → Answers (exec .logEntryWrite s) fun t =>
        t.log.lost = 0 ∧ t.log.entries = s.log.entries ++ [⟨s.log.next, 0x000B, 0, false, s.now, [dw s.log.lost]⟩])) ∧
    (∀ b : Fin 161, s.ras.summed.getD b.val 0 = s.fld (.ebCnt b) F.ebCnt.CORR → exec (.correctedSummary b) s = .next s) ∧
    (∀ b : Fin 161, Answers (exec (.correctedSummary b) s) fun t =>
      t.ras.summed.getD b.val 0 = s.fld (.ebCnt b) F.ebCnt.CORR ∧ t.csr = s.csr ∧ t.m = s.m) ∧
    ∀ (q : Req) (off : BitVec 28) (v : BitVec 64), off.toNat % 8 = 0 →
      (∀ r, slotAt off.toNat = .at_ r → Served q r s → r ∈ [.tmoRd, .tmoWr, .tmoAtom, .tmoQ, .tmoDev, .tmoSnp, .ageCtl,
          .wakeLimit, .therm, .droop, .hyst, .fatalctl, .l3Thresh, .l2Thresh] →
        exec (.registerWrite q off true v) s = .next ((s.wake (regDom r)).setReg r
          (writeFields r.fields q.world (BitVec.allOnes 64) (s.reg r) v))) ∧
      (∀ r x, slotAt off.toNat = .at_ r → s.regErr q r = some x → exec (.registerWrite q off true v) s = .next (if x = 0x02 then
        s.noAgent (regStop r) (regPort r) 0x05 none else s)) ∧
      (slotAt off.toNat = .none_ → exec (.registerWrite q off true v) s =
        .next (s.noAgent stwStop 3 0x05 (some (0, 0x10000000 + off.toNat)))) ∧
      (slotAt off.toNat = .empty → exec (.registerWrite q off true v) s = .next s)
end

