-- ==== Sys2Proof/Laws/Cells.lean ====
section
/-! SUPPORT. The byte memory: a read after a write, and the canonical form that every operation keeps. -/

namespace Sys2Proof.Laws
open Sys2Proof.Machine

variable (d : Byte)

/-- Every listed address is above a bound. -/
def Above (b : Nat) (m : List Host.Cell) : Prop := ∀ c ∈ m, b < c.1

theorem cellsOk_cons (a : Nat) (v : Byte) (m : List Host.Cell) :
    cellsOk d ((a, v) :: m) = true ↔ v ≠ d ∧ Above a m ∧ cellsOk d m = true := by
  induction m generalizing a v with
  | nil => simp [cellsOk, Above]
  | cons p m ih =>
    obtain ⟨a', v'⟩ := p
    have h := ih a' v'
    simp only [cellsOk, Bool.and_eq_true, decide_eq_true_eq, bne_iff_ne, ne_eq, Above, List.mem_cons,
      forall_eq_or_imp] at h ⊢
    constructor
    · rintro ⟨⟨h1, h2⟩, h3⟩
      exact ⟨h2, ⟨h1, fun c hc => lt_trans h1 ((h.1 h3).2.1 c hc)⟩, h3⟩
    · rintro ⟨h2, ⟨h1, -⟩, h3⟩
      exact ⟨⟨h1, h2⟩, h3⟩

theorem cellGet_above {m : List Host.Cell} {a : Nat} (h : Above a m) : cellGet d m a = d := by
  induction m with
  | nil => rfl
  | cons p m ih =>
    obtain ⟨j, b⟩ := p
    have h1 : a < j := h (j, b) (by simp)
    have h2 : j ≠ a := by omega
    simpa [cellGet, h2] using ih fun c hc => h c (by simp [hc])

theorem above_set {b a : Nat} {v : Byte} {m : List Host.Cell} (h : Above b m) (hb : b < a) : Above b (cellSet d m a v) := by
  induction m with
  | nil =>
    simp only [cellSet]
    split
    · simpa using h
    · simpa [Above] using hb
  | cons p m ih =>
    obtain ⟨j, c⟩ := p
    have hj : b < j := h (j, c) (by simp)
    have hm : Above b m := fun c hc => h c (by simp [hc])
    simp only [cellSet]
    split
    · split
      · exact h
      · intro x hx
        simp only [List.mem_cons] at hx
        rcases hx with rfl | rfl | hx
        · exact hb
        · exact hj
        · exact hm x hx
    · split
      · split
        · exact hm
        · intro x hx
          simp only [List.mem_cons] at hx
          rcases hx with rfl | hx
          · exact hb
          · exact hm x hx
      · intro x hx
        simp only [List.mem_cons] at hx
        rcases hx with rfl | hx
        · exact hj
        · exact ih hm x hx

/-- Writing a byte keeps the canonical form. -/
theorem cellSet_ok (m : List Host.Cell) (a : Nat) (v : Byte) (h : cellsOk d m = true) : cellsOk d (cellSet d m a v) = true := by
  induction m with
  | nil =>
    simp only [cellSet]
    split
    · rfl
    · simpa [cellsOk]
  | cons p m ih =>
    obtain ⟨j, c⟩ := p
    obtain ⟨h1, h2, h3⟩ := (cellsOk_cons d j c m).1 h
    simp only [cellSet]
    split
    · split
      · exact h
      · rename_i hlt hv
        refine (cellsOk_cons d a v _).2 ⟨hv, ?_, h⟩
        intro x hx
        simp only [List.mem_cons] at hx
        rcases hx with rfl | hx
        · exact hlt
        · exact lt_trans hlt (h2 x hx)
    · split
      · split
        · exact h3
        · rename_i hj hv
          subst hj
          exact (cellsOk_cons d j v m).2 ⟨hv, h2, h3⟩
      · exact (cellsOk_cons d j c _).2 ⟨h1, above_set d h2 (by omega), ih h3⟩

/-- A byte just written reads back. -/
theorem cellGet_set_same (m : List Host.Cell) (a : Nat) (v : Byte) (h : cellsOk d m = true) :
    cellGet d (cellSet d m a v) a = v := by
  induction m with
  | nil =>
    simp only [cellSet]
    split
    · simp_all [cellGet]
    · simp [cellGet]
  | cons p m ih =>
    obtain ⟨j, c⟩ := p
    obtain ⟨-, h2, h3⟩ := (cellsOk_cons d j c m).1 h
    simp only [cellSet]
    split
    · rename_i hlt
      split
      · rename_i hv
        subst hv
        refine cellGet_above v fun x hx => ?_
        simp only [List.mem_cons] at hx
        rcases hx with rfl | hx
        · exact hlt
        · exact lt_trans hlt (h2 x hx)
      · simp [cellGet]
    · split
      · rename_i hj
        subst hj
        split
        · rename_i hv
          subst hv
          exact cellGet_above v h2
        · simp [cellGet]
      · rename_i hj
        simpa [cellGet, hj] using ih h3

/-- Another address keeps its byte. -/
theorem cellGet_set_other (m : List Host.Cell) {a b : Nat} (v : Byte) (h : cellsOk d m = true) (hb : b ≠ a) :
    cellGet d (cellSet d m a v) b = cellGet d m b := by
  induction m with
  | nil =>
    simp only [cellSet]
    split
    · rfl
    · simp [cellGet, Ne.symm hb]
  | cons p m ih =>
    obtain ⟨j, c⟩ := p
    obtain ⟨-, h2, h3⟩ := (cellsOk_cons d j c m).1 h
    simp only [cellSet]
    split
    · split
      · rfl
      · simp [cellGet, Ne.symm hb]
    · split
      · rename_i hj
        subst hj
        split
        · simp [cellGet, Ne.symm hb]
        · simp [cellGet, Ne.symm hb]
      · by_cases hjb : j = b
        · simp [cellGet, hjb]
        · simpa [cellGet, hjb] using ih h3

theorem cellSetAll_ok (bs : List Byte) (m : List Host.Cell) (a : Nat) (h : cellsOk d m = true) :
    cellsOk d (cellSetAll d m a bs) = true := by
  induction bs generalizing m a with
  | nil => exact h
  | cons b bs ih => exact ih _ _ (cellSet_ok d m a b h)

theorem cellSetMask_ok (n : Nat) (m : List Host.Cell) (a mask data : Nat) (h : Memory.wf m = true) :
    Memory.wf (cellSetMask m a n mask data) = true := by
  induction n generalizing m a mask data with
  | zero => exact h
  | succ n ih =>
    simp only [cellSetMask]
    apply ih
    split
    · exact cellSet_ok 0 m a _ h
    · exact h

/-- Dropping cells keeps the canonical form. -/
theorem cellsOk_filter (m : List Host.Cell) (p : Host.Cell → Bool) (h : cellsOk d m = true) : cellsOk d (m.filter p) = true := by
  induction m with
  | nil => rfl
  | cons q m ih =>
    obtain ⟨a, v⟩ := q
    obtain ⟨h1, h2, h3⟩ := (cellsOk_cons d a v m).1 h
    by_cases hp : p (a, v) = true
    · rw [List.filter_cons_of_pos hp]
      exact (cellsOk_cons d a v _).2 ⟨h1, fun c hc => h2 c (List.mem_of_mem_filter hc), ih h3⟩
    · rw [List.filter_cons_of_neg hp]
      exact ih h3

/-- Bytes outside the written range are kept. -/
theorem cellGet_setAll_out (bs : List Byte) (m : List Host.Cell) (a b : Nat) (h : cellsOk d m = true)
    (hb : b < a ∨ a + bs.length ≤ b) : cellGet d (cellSetAll d m a bs) b = cellGet d m b := by
  induction bs generalizing m a with
  | nil => rfl
  | cons v bs ih =>
    simp only [List.length_cons] at hb
    rw [cellSetAll, ih _ _ (cellSet_ok d m a v h) (by omega), cellGet_set_other d m v h (by omega)]

/-- Bytes that a masked write does not name are kept, those it names take the data. -/
theorem memGet_setMask (n : Nat) (m : List Host.Cell) (a mask data b : Nat) (h : Memory.wf m = true) :
    memGet (cellSetMask m a n mask data) b =
      if a ≤ b ∧ b < a + n ∧ mask.testBit (b - a) then BitVec.ofNat 8 (data / 256 ^ (b - a)) else memGet m b := by
  induction n generalizing m a mask data with
  | zero =>
    have : ¬(a ≤ b ∧ b < a + 0 ∧ mask.testBit (b - a) = true) := by omega
    rw [if_neg this]
    rfl
  | succ n ih =>
    have hw : Memory.wf (if mask % 2 = 1 then memSet m a (BitVec.ofNat 8 data) else m) = true := by
      split
      · exact cellSet_ok 0 m a _ h
      · exact h
    rw [cellSetMask, ih _ _ _ _ hw]
    by_cases hab : b = a
    · subst hab
      have h0 : ¬(b + 1 ≤ b ∧ b < b + 1 + n ∧ (mask / 2).testBit (b - (b + 1)) = true) := by omega
      rw [if_neg h0]
      by_cases hm : mask % 2 = 1
      · simp [hm, Nat.testBit_zero, cellGet_set_same 0 m b (BitVec.ofNat 8 data) h]
      · simp [hm, Nat.testBit_zero]
    · have hk : memGet (if mask % 2 = 1 then memSet m a (BitVec.ofNat 8 data) else m) b = memGet m b := by
        split
        · exact cellGet_set_other 0 m _ h hab
        · rfl
      rw [hk]
      by_cases hlt : a < b
      · have e : b - a = (b - (a + 1)) + 1 := by omega
        have h1 : (a ≤ b) = True := by simp; omega
        have h2 : (a + 1 ≤ b) = True := by simp; omega
        have h3 : (b < a + (n + 1)) = (b < a + 1 + n) := by simp; omega
        simp only [h1, h2, h3, true_and, e, Nat.testBit_succ]
        have e2 : data / 256 / 256 ^ (b - (a + 1)) = data / 256 ^ (b - (a + 1) + 1) := by
          rw [Nat.div_div_eq_div_mul, pow_succ, mul_comm]
        rw [e2]
      · have h1 : ¬(a + 1 ≤ b) := by omega
        have h2 : ¬(a ≤ b) := by omega
        simp [h1, h2]

end Sys2Proof.Laws
end

