-- ==== Sys2Proof/Laws/Map.lean ====
section
/-! SUPPORT. Reading a finite map after it has changed. -/

namespace Sys2Proof.Laws
open Sys2Proof.Machine

variable {κ α : Type} [DecidableEq κ]

@[simp] theorem find_nil (k : κ) : Map.find ([] : Map κ α) k = none := rfl

@[simp] theorem find_set_same (m : Map κ α) (k : κ) (a : α) : (Map.set m k a).find k = some a := by
  induction m with
  | nil => simp [Map.set, Map.find]
  | cons p m ih =>
    obtain ⟨j, b⟩ := p
    by_cases h : j = k
    · simp [Map.set, Map.find, h]
    · simp [Map.set, Map.find, h, ih]

theorem find_set_other (m : Map κ α) {k j : κ} (a : α) (h : j ≠ k) : (Map.set m k a).find j = m.find j := by
  induction m with
  | nil => simp [Map.set, Map.find, Ne.symm h]
  | cons p m ih =>
    obtain ⟨i, b⟩ := p
    by_cases hi : i = k
    · subst hi
      simp [Map.set, Map.find, Ne.symm h]
    · by_cases hj : i = j
      · subst hj
        simp [Map.set, Map.find, hi]
      · simp [Map.set, Map.find, hi, hj, ih]

@[simp] theorem getD_set_same (m : Map κ α) (k : κ) (a d : α) : (Map.set m k a).getD k d = a := by
  simp [Map.getD]

theorem getD_set_other (m : Map κ α) {k j : κ} (a d : α) (h : j ≠ k) : (Map.set m k a).getD j d = m.getD j d := by
  simp [Map.getD, find_set_other m a h]

theorem getD_set (m : Map κ α) (k j : κ) (a d : α) :
    (Map.set m k a).getD j d = if j = k then a else m.getD j d := by
  by_cases h : j = k
  · subst h; simp
  · simp [h, getD_set_other m a d h]

@[simp] theorem find_erase_same (m : Map κ α) (k : κ) : (Map.erase m k).find k = none := by
  induction m with
  | nil => rfl
  | cons p m ih =>
    obtain ⟨j, b⟩ := p
    by_cases h : j = k
    · simpa [Map.erase, h] using ih
    · simpa [Map.erase, Map.find, h] using ih

theorem find_erase_other (m : Map κ α) {k j : κ} (h : j ≠ k) : (Map.erase m k).find j = m.find j := by
  induction m with
  | nil => rfl
  | cons p m ih =>
    obtain ⟨i, b⟩ := p
    by_cases hi : i = k
    · subst hi
      simpa [Map.erase, Map.find, Ne.symm h] using ih
    · by_cases hj : i = j
      · subst hj
        simp [Map.erase, Map.find, hi]
      · simpa [Map.erase, Map.find, hi, hj] using ih

@[simp] theorem getD_upd_same (m : Map κ α) (k : κ) (d e : α) (f : α → α) :
    (Map.upd m k d f).getD k e = f (m.getD k d) := by simp [Map.upd]

theorem getD_upd_other (m : Map κ α) {k j : κ} (d e : α) (f : α → α) (h : j ≠ k) :
    (Map.upd m k d f).getD j e = m.getD j e := by simp [Map.upd, getD_set_other _ _ _ h]

end Sys2Proof.Laws
end

