-- ==== Sys2Proof/Laws/State.lean ====
section
/-! SUPPORT. What each plain update of the state leaves in each field. -/

namespace Sys2Proof.Laws
open Sys2Proof.Machine

/-! ### setReg -/

@[simp] theorem setReg_pending (s : State) (r : Reg) (w : DWord) : (s.setReg r w).pending = s.pending := rfl
@[simp] theorem setReg_free (s : State) (r : Reg) (w : DWord) : (s.setReg r w).free = s.free := rfl
@[simp] theorem setReg_cores (s : State) (r : Reg) (w : DWord) : (s.setReg r w).cores = s.cores := rfl
@[simp] theorem setReg_ucores (s : State) (r : Reg) (w : DWord) : (s.setReg r w).ucores = s.ucores := rfl
@[simp] theorem setReg_csr (s : State) (r : Reg) (w : DWord) : (s.setReg r w).csr = s.csr.set r w := rfl
@[simp] theorem setReg_m (s : State) (r : Reg) (w : DWord) : (s.setReg r w).m = s.m := rfl
@[simp] theorem setReg_coh (s : State) (r : Reg) (w : DWord) : (s.setReg r w).coh = s.coh := rfl
@[simp] theorem setReg_mesh (s : State) (r : Reg) (w : DWord) : (s.setReg r w).mesh = s.mesh := rfl
@[simp] theorem setReg_boot (s : State) (r : Reg) (w : DWord) : (s.setReg r w).boot = s.boot := rfl
@[simp] theorem setReg_log (s : State) (r : Reg) (w : DWord) : (s.setReg r w).log = s.log := rfl
@[simp] theorem setReg_sec (s : State) (r : Reg) (w : DWord) : (s.setReg r w).sec = s.sec := rfl
@[simp] theorem setReg_qs (s : State) (r : Reg) (w : DWord) : (s.setReg r w).qs = s.qs := rfl
@[simp] theorem setReg_dm (s : State) (r : Reg) (w : DWord) : (s.setReg r w).dm = s.dm := rfl
@[simp] theorem setReg_mc (s : State) (r : Reg) (w : DWord) : (s.setReg r w).mc = s.mc := rfl
@[simp] theorem setReg_io (s : State) (r : Reg) (w : DWord) : (s.setReg r w).io = s.io := rfl
@[simp] theorem setReg_pwr (s : State) (r : Reg) (w : DWord) : (s.setReg r w).pwr = s.pwr := rfl
@[simp] theorem setReg_rtu (s : State) (r : Reg) (w : DWord) : (s.setReg r w).rtu = s.rtu := rfl
@[simp] theorem setReg_ras (s : State) (r : Reg) (w : DWord) : (s.setReg r w).ras = s.ras := rfl

/-! ### setFld -/

@[simp] theorem setFld_pending (s : State) (r : Reg) (p : Place) (v : Nat) : (s.setFld r p v).pending = s.pending := rfl
@[simp] theorem setFld_free (s : State) (r : Reg) (p : Place) (v : Nat) : (s.setFld r p v).free = s.free := rfl
@[simp] theorem setFld_cores (s : State) (r : Reg) (p : Place) (v : Nat) : (s.setFld r p v).cores = s.cores := rfl
@[simp] theorem setFld_ucores (s : State) (r : Reg) (p : Place) (v : Nat) : (s.setFld r p v).ucores = s.ucores := rfl
@[simp] theorem setFld_csr (s : State) (r : Reg) (p : Place) (v : Nat) : (s.setFld r p v).csr = s.csr.set r (setF (s.reg r) p v) := rfl
@[simp] theorem setFld_m (s : State) (r : Reg) (p : Place) (v : Nat) : (s.setFld r p v).m = s.m := rfl
@[simp] theorem setFld_coh (s : State) (r : Reg) (p : Place) (v : Nat) : (s.setFld r p v).coh = s.coh := rfl
@[simp] theorem setFld_mesh (s : State) (r : Reg) (p : Place) (v : Nat) : (s.setFld r p v).mesh = s.mesh := rfl
@[simp] theorem setFld_boot (s : State) (r : Reg) (p : Place) (v : Nat) : (s.setFld r p v).boot = s.boot := rfl
@[simp] theorem setFld_log (s : State) (r : Reg) (p : Place) (v : Nat) : (s.setFld r p v).log = s.log := rfl
@[simp] theorem setFld_sec (s : State) (r : Reg) (p : Place) (v : Nat) : (s.setFld r p v).sec = s.sec := rfl
@[simp] theorem setFld_qs (s : State) (r : Reg) (p : Place) (v : Nat) : (s.setFld r p v).qs = s.qs := rfl
@[simp] theorem setFld_dm (s : State) (r : Reg) (p : Place) (v : Nat) : (s.setFld r p v).dm = s.dm := rfl
@[simp] theorem setFld_mc (s : State) (r : Reg) (p : Place) (v : Nat) : (s.setFld r p v).mc = s.mc := rfl
@[simp] theorem setFld_io (s : State) (r : Reg) (p : Place) (v : Nat) : (s.setFld r p v).io = s.io := rfl
@[simp] theorem setFld_pwr (s : State) (r : Reg) (p : Place) (v : Nat) : (s.setFld r p v).pwr = s.pwr := rfl
@[simp] theorem setFld_rtu (s : State) (r : Reg) (p : Place) (v : Nat) : (s.setFld r p v).rtu = s.rtu := rfl
@[simp] theorem setFld_ras (s : State) (r : Reg) (p : Place) (v : Nat) : (s.setFld r p v).ras = s.ras := rfl

/-! ### setCore -/

@[simp] theorem setCore_pending (s : State) (c : Nat) (k : Core) : (s.setCore c k).pending = s.pending := rfl
@[simp] theorem setCore_free (s : State) (c : Nat) (k : Core) : (s.setCore c k).free = s.free := rfl
@[simp] theorem setCore_cores (s : State) (c : Nat) (k : Core) : (s.setCore c k).cores = s.cores.set c k := rfl
@[simp] theorem setCore_ucores (s : State) (c : Nat) (k : Core) : (s.setCore c k).ucores = s.ucores := rfl
@[simp] theorem setCore_csr (s : State) (c : Nat) (k : Core) : (s.setCore c k).csr = s.csr := rfl
@[simp] theorem setCore_m (s : State) (c : Nat) (k : Core) : (s.setCore c k).m = s.m := rfl
@[simp] theorem setCore_coh (s : State) (c : Nat) (k : Core) : (s.setCore c k).coh = s.coh := rfl
@[simp] theorem setCore_mesh (s : State) (c : Nat) (k : Core) : (s.setCore c k).mesh = s.mesh := rfl
@[simp] theorem setCore_boot (s : State) (c : Nat) (k : Core) : (s.setCore c k).boot = s.boot := rfl
@[simp] theorem setCore_log (s : State) (c : Nat) (k : Core) : (s.setCore c k).log = s.log := rfl
@[simp] theorem setCore_sec (s : State) (c : Nat) (k : Core) : (s.setCore c k).sec = s.sec := rfl
@[simp] theorem setCore_qs (s : State) (c : Nat) (k : Core) : (s.setCore c k).qs = s.qs := rfl
@[simp] theorem setCore_dm (s : State) (c : Nat) (k : Core) : (s.setCore c k).dm = s.dm := rfl
@[simp] theorem setCore_mc (s : State) (c : Nat) (k : Core) : (s.setCore c k).mc = s.mc := rfl
@[simp] theorem setCore_io (s : State) (c : Nat) (k : Core) : (s.setCore c k).io = s.io := rfl
@[simp] theorem setCore_pwr (s : State) (c : Nat) (k : Core) : (s.setCore c k).pwr = s.pwr := rfl
@[simp] theorem setCore_rtu (s : State) (c : Nat) (k : Core) : (s.setCore c k).rtu = s.rtu := rfl
@[simp] theorem setCore_ras (s : State) (c : Nat) (k : Core) : (s.setCore c k).ras = s.ras := rfl

/-! ### onCore -/

@[simp] theorem onCore_pending (s : State) (c : Nat) (f : Core → Core) : (s.onCore c f).pending = s.pending := rfl
@[simp] theorem onCore_free (s : State) (c : Nat) (f : Core → Core) : (s.onCore c f).free = s.free := rfl
@[simp] theorem onCore_cores (s : State) (c : Nat) (f : Core → Core) : (s.onCore c f).cores = s.cores.set c (f (s.core c)) := rfl
@[simp] theorem onCore_ucores (s : State) (c : Nat) (f : Core → Core) : (s.onCore c f).ucores = s.ucores := rfl
@[simp] theorem onCore_csr (s : State) (c : Nat) (f : Core → Core) : (s.onCore c f).csr = s.csr := rfl
@[simp] theorem onCore_m (s : State) (c : Nat) (f : Core → Core) : (s.onCore c f).m = s.m := rfl
@[simp] theorem onCore_coh (s : State) (c : Nat) (f : Core → Core) : (s.onCore c f).coh = s.coh := rfl
@[simp] theorem onCore_mesh (s : State) (c : Nat) (f : Core → Core) : (s.onCore c f).mesh = s.mesh := rfl
@[simp] theorem onCore_boot (s : State) (c : Nat) (f : Core → Core) : (s.onCore c f).boot = s.boot := rfl
@[simp] theorem onCore_log (s : State) (c : Nat) (f : Core → Core) : (s.onCore c f).log = s.log := rfl
@[simp] theorem onCore_sec (s : State) (c : Nat) (f : Core → Core) : (s.onCore c f).sec = s.sec := rfl
@[simp] theorem onCore_qs (s : State) (c : Nat) (f : Core → Core) : (s.onCore c f).qs = s.qs := rfl
@[simp] theorem onCore_dm (s : State) (c : Nat) (f : Core → Core) : (s.onCore c f).dm = s.dm := rfl
@[simp] theorem onCore_mc (s : State) (c : Nat) (f : Core → Core) : (s.onCore c f).mc = s.mc := rfl
@[simp] theorem onCore_io (s : State) (c : Nat) (f : Core → Core) : (s.onCore c f).io = s.io := rfl
@[simp] theorem onCore_pwr (s : State) (c : Nat) (f : Core → Core) : (s.onCore c f).pwr = s.pwr := rfl
@[simp] theorem onCore_rtu (s : State) (c : Nat) (f : Core → Core) : (s.onCore c f).rtu = s.rtu := rfl
@[simp] theorem onCore_ras (s : State) (c : Nat) (f : Core → Core) : (s.onCore c f).ras = s.ras := rfl

/-! ### setUcore -/

@[simp] theorem setUcore_pending (s : State) (c : Nat) (u : UCore) : (s.setUcore c u).pending = s.pending := rfl
@[simp] theorem setUcore_free (s : State) (c : Nat) (u : UCore) : (s.setUcore c u).free = s.free := rfl
@[simp] theorem setUcore_cores (s : State) (c : Nat) (u : UCore) : (s.setUcore c u).cores = s.cores := rfl
@[simp] theorem setUcore_ucores (s : State) (c : Nat) (u : UCore) : (s.setUcore c u).ucores = s.ucores.set c u := rfl
@[simp] theorem setUcore_csr (s : State) (c : Nat) (u : UCore) : (s.setUcore c u).csr = s.csr := rfl
@[simp] theorem setUcore_m (s : State) (c : Nat) (u : UCore) : (s.setUcore c u).m = s.m := rfl
@[simp] theorem setUcore_coh (s : State) (c : Nat) (u : UCore) : (s.setUcore c u).coh = s.coh := rfl
@[simp] theorem setUcore_mesh (s : State) (c : Nat) (u : UCore) : (s.setUcore c u).mesh = s.mesh := rfl
@[simp] theorem setUcore_boot (s : State) (c : Nat) (u : UCore) : (s.setUcore c u).boot = s.boot := rfl
@[simp] theorem setUcore_log (s : State) (c : Nat) (u : UCore) : (s.setUcore c u).log = s.log := rfl
@[simp] theorem setUcore_sec (s : State) (c : Nat) (u : UCore) : (s.setUcore c u).sec = s.sec := rfl
@[simp] theorem setUcore_qs (s : State) (c : Nat) (u : UCore) : (s.setUcore c u).qs = s.qs := rfl
@[simp] theorem setUcore_dm (s : State) (c : Nat) (u : UCore) : (s.setUcore c u).dm = s.dm := rfl
@[simp] theorem setUcore_mc (s : State) (c : Nat) (u : UCore) : (s.setUcore c u).mc = s.mc := rfl
@[simp] theorem setUcore_io (s : State) (c : Nat) (u : UCore) : (s.setUcore c u).io = s.io := rfl
@[simp] theorem setUcore_pwr (s : State) (c : Nat) (u : UCore) : (s.setUcore c u).pwr = s.pwr := rfl
@[simp] theorem setUcore_rtu (s : State) (c : Nat) (u : UCore) : (s.setUcore c u).rtu = s.rtu := rfl
@[simp] theorem setUcore_ras (s : State) (c : Nat) (u : UCore) : (s.setUcore c u).ras = s.ras := rfl

/-! ### onUcore -/

@[simp] theorem onUcore_pending (s : State) (c : Nat) (f : UCore → UCore) : (s.onUcore c f).pending = s.pending := rfl
@[simp] theorem onUcore_free (s : State) (c : Nat) (f : UCore → UCore) : (s.onUcore c f).free = s.free := rfl
@[simp] theorem onUcore_cores (s : State) (c : Nat) (f : UCore → UCore) : (s.onUcore c f).cores = s.cores := rfl
@[simp] theorem onUcore_ucores (s : State) (c : Nat) (f : UCore → UCore) : (s.onUcore c f).ucores = s.ucores.set c (f (s.ucore c)) := rfl
@[simp] theorem onUcore_csr (s : State) (c : Nat) (f : UCore → UCore) : (s.onUcore c f).csr = s.csr := rfl
@[simp] theorem onUcore_m (s : State) (c : Nat) (f : UCore → UCore) : (s.onUcore c f).m = s.m := rfl
@[simp] theorem onUcore_coh (s : State) (c : Nat) (f : UCore → UCore) : (s.onUcore c f).coh = s.coh := rfl
@[simp] theorem onUcore_mesh (s : State) (c : Nat) (f : UCore → UCore) : (s.onUcore c f).mesh = s.mesh := rfl
@[simp] theorem onUcore_boot (s : State) (c : Nat) (f : UCore → UCore) : (s.onUcore c f).boot = s.boot := rfl
@[simp] theorem onUcore_log (s : State) (c : Nat) (f : UCore → UCore) : (s.onUcore c f).log = s.log := rfl
@[simp] theorem onUcore_sec (s : State) (c : Nat) (f : UCore → UCore) : (s.onUcore c f).sec = s.sec := rfl
@[simp] theorem onUcore_qs (s : State) (c : Nat) (f : UCore → UCore) : (s.onUcore c f).qs = s.qs := rfl
@[simp] theorem onUcore_dm (s : State) (c : Nat) (f : UCore → UCore) : (s.onUcore c f).dm = s.dm := rfl
@[simp] theorem onUcore_mc (s : State) (c : Nat) (f : UCore → UCore) : (s.onUcore c f).mc = s.mc := rfl
@[simp] theorem onUcore_io (s : State) (c : Nat) (f : UCore → UCore) : (s.onUcore c f).io = s.io := rfl
@[simp] theorem onUcore_pwr (s : State) (c : Nat) (f : UCore → UCore) : (s.onUcore c f).pwr = s.pwr := rfl
@[simp] theorem onUcore_rtu (s : State) (c : Nat) (f : UCore → UCore) : (s.onUcore c f).rtu = s.rtu := rfl
@[simp] theorem onUcore_ras (s : State) (c : Nat) (f : UCore → UCore) : (s.onUcore c f).ras = s.ras := rfl

/-! ### withCs -/

@[simp] theorem withCs_pending (s : State) (x : Cs) : (s.withCs x).pending = s.pending := rfl
@[simp] theorem withCs_free (s : State) (x : Cs) : (s.withCs x).free = s.free := rfl
@[simp] theorem withCs_cores (s : State) (x : Cs) : (s.withCs x).cores = s.cores := rfl
@[simp] theorem withCs_ucores (s : State) (x : Cs) : (s.withCs x).ucores = s.ucores := rfl
@[simp] theorem withCs_csr (s : State) (x : Cs) : (s.withCs x).csr = s.csr := rfl
@[simp] theorem withCs_m (s : State) (x : Cs) : (s.withCs x).m = { s.m with stale := x.stale, latent := s.m.unmet x.stale } := rfl
@[simp] theorem withCs_coh (s : State) (x : Cs) : (s.withCs x).coh = x.coh := rfl
@[simp] theorem withCs_mesh (s : State) (x : Cs) : (s.withCs x).mesh = s.mesh := rfl
@[simp] theorem withCs_boot (s : State) (x : Cs) : (s.withCs x).boot = s.boot := rfl
@[simp] theorem withCs_log (s : State) (x : Cs) : (s.withCs x).log = s.log := rfl
@[simp] theorem withCs_sec (s : State) (x : Cs) : (s.withCs x).sec = s.sec := rfl
@[simp] theorem withCs_qs (s : State) (x : Cs) : (s.withCs x).qs = s.qs := rfl
@[simp] theorem withCs_dm (s : State) (x : Cs) : (s.withCs x).dm = s.dm := rfl
@[simp] theorem withCs_mc (s : State) (x : Cs) : (s.withCs x).mc = s.mc := rfl
@[simp] theorem withCs_io (s : State) (x : Cs) : (s.withCs x).io = s.io := rfl
@[simp] theorem withCs_pwr (s : State) (x : Cs) : (s.withCs x).pwr = s.pwr := rfl
@[simp] theorem withCs_rtu (s : State) (x : Cs) : (s.withCs x).rtu = s.rtu := rfl
@[simp] theorem withCs_ras (s : State) (x : Cs) : (s.withCs x).ras = s.ras := rfl

/-! ### loopExit -/

@[simp] theorem loopExit_pending (s : State) (c : Nat) : (s.loopExit c).pending = s.pending := rfl
@[simp] theorem loopExit_free (s : State) (c : Nat) : (s.loopExit c).free = s.free := rfl
@[simp] theorem loopExit_cores (s : State) (c : Nat) : (s.loopExit c).cores = s.cores := rfl
@[simp] theorem loopExit_ucores (s : State) (c : Nat) : (s.loopExit c).ucores = s.ucores.set c { s.ucore c with
    loop := LoopBuf.reset, seen := if (s.ucore c).loop.run.isSome then (s.ucore c).seen ++ [(s.core c).met 0x21 false] else (s.ucore c).seen } := rfl
@[simp] theorem loopExit_csr (s : State) (c : Nat) : (s.loopExit c).csr = s.csr := rfl
@[simp] theorem loopExit_m (s : State) (c : Nat) : (s.loopExit c).m = s.m := rfl
@[simp] theorem loopExit_coh (s : State) (c : Nat) : (s.loopExit c).coh = s.coh := rfl
@[simp] theorem loopExit_mesh (s : State) (c : Nat) : (s.loopExit c).mesh = s.mesh := rfl
@[simp] theorem loopExit_boot (s : State) (c : Nat) : (s.loopExit c).boot = s.boot := rfl
@[simp] theorem loopExit_log (s : State) (c : Nat) : (s.loopExit c).log = s.log := rfl
@[simp] theorem loopExit_sec (s : State) (c : Nat) : (s.loopExit c).sec = s.sec := rfl
@[simp] theorem loopExit_qs (s : State) (c : Nat) : (s.loopExit c).qs = s.qs := rfl
@[simp] theorem loopExit_dm (s : State) (c : Nat) : (s.loopExit c).dm = s.dm := rfl
@[simp] theorem loopExit_mc (s : State) (c : Nat) : (s.loopExit c).mc = s.mc := rfl
@[simp] theorem loopExit_io (s : State) (c : Nat) : (s.loopExit c).io = s.io := rfl
@[simp] theorem loopExit_pwr (s : State) (c : Nat) : (s.loopExit c).pwr = s.pwr := rfl
@[simp] theorem loopExit_rtu (s : State) (c : Nat) : (s.loopExit c).rtu = s.rtu := rfl
@[simp] theorem loopExit_ras (s : State) (c : Nat) : (s.loopExit c).ras = s.ras := rfl

/-! ### onMesh -/

@[simp] theorem onMesh_pending (s : State) (f : MeshState → MeshState) : (s.onMesh f).pending = s.pending := rfl
@[simp] theorem onMesh_free (s : State) (f : MeshState → MeshState) : (s.onMesh f).free = s.free := rfl
@[simp] theorem onMesh_cores (s : State) (f : MeshState → MeshState) : (s.onMesh f).cores = s.cores := rfl
@[simp] theorem onMesh_ucores (s : State) (f : MeshState → MeshState) : (s.onMesh f).ucores = s.ucores := rfl
@[simp] theorem onMesh_csr (s : State) (f : MeshState → MeshState) : (s.onMesh f).csr = s.csr := rfl
@[simp] theorem onMesh_m (s : State) (f : MeshState → MeshState) : (s.onMesh f).m = s.m := rfl
@[simp] theorem onMesh_coh (s : State) (f : MeshState → MeshState) : (s.onMesh f).coh = s.coh := rfl
@[simp] theorem onMesh_mesh (s : State) (f : MeshState → MeshState) : (s.onMesh f).mesh = f s.mesh := rfl
@[simp] theorem onMesh_boot (s : State) (f : MeshState → MeshState) : (s.onMesh f).boot = s.boot := rfl
@[simp] theorem onMesh_log (s : State) (f : MeshState → MeshState) : (s.onMesh f).log = s.log := rfl
@[simp] theorem onMesh_sec (s : State) (f : MeshState → MeshState) : (s.onMesh f).sec = s.sec := rfl
@[simp] theorem onMesh_qs (s : State) (f : MeshState → MeshState) : (s.onMesh f).qs = s.qs := rfl
@[simp] theorem onMesh_dm (s : State) (f : MeshState → MeshState) : (s.onMesh f).dm = s.dm := rfl
@[simp] theorem onMesh_mc (s : State) (f : MeshState → MeshState) : (s.onMesh f).mc = s.mc := rfl
@[simp] theorem onMesh_io (s : State) (f : MeshState → MeshState) : (s.onMesh f).io = s.io := rfl
@[simp] theorem onMesh_pwr (s : State) (f : MeshState → MeshState) : (s.onMesh f).pwr = s.pwr := rfl
@[simp] theorem onMesh_rtu (s : State) (f : MeshState → MeshState) : (s.onMesh f).rtu = s.rtu := rfl
@[simp] theorem onMesh_ras (s : State) (f : MeshState → MeshState) : (s.onMesh f).ras = s.ras := rfl

/-! ### onBoot -/

@[simp] theorem onBoot_pending (s : State) (f : BootState → BootState) : (s.onBoot f).pending = s.pending := rfl
@[simp] theorem onBoot_free (s : State) (f : BootState → BootState) : (s.onBoot f).free = s.free := rfl
@[simp] theorem onBoot_cores (s : State) (f : BootState → BootState) : (s.onBoot f).cores = s.cores := rfl
@[simp] theorem onBoot_ucores (s : State) (f : BootState → BootState) : (s.onBoot f).ucores = s.ucores := rfl
@[simp] theorem onBoot_csr (s : State) (f : BootState → BootState) : (s.onBoot f).csr = s.csr := rfl
@[simp] theorem onBoot_m (s : State) (f : BootState → BootState) : (s.onBoot f).m = s.m := rfl
@[simp] theorem onBoot_coh (s : State) (f : BootState → BootState) : (s.onBoot f).coh = s.coh := rfl
@[simp] theorem onBoot_mesh (s : State) (f : BootState → BootState) : (s.onBoot f).mesh = s.mesh := rfl
@[simp] theorem onBoot_boot (s : State) (f : BootState → BootState) : (s.onBoot f).boot = f s.boot := rfl
@[simp] theorem onBoot_log (s : State) (f : BootState → BootState) : (s.onBoot f).log = s.log := rfl
@[simp] theorem onBoot_sec (s : State) (f : BootState → BootState) : (s.onBoot f).sec = s.sec := rfl
@[simp] theorem onBoot_qs (s : State) (f : BootState → BootState) : (s.onBoot f).qs = s.qs := rfl
@[simp] theorem onBoot_dm (s : State) (f : BootState → BootState) : (s.onBoot f).dm = s.dm := rfl
@[simp] theorem onBoot_mc (s : State) (f : BootState → BootState) : (s.onBoot f).mc = s.mc := rfl
@[simp] theorem onBoot_io (s : State) (f : BootState → BootState) : (s.onBoot f).io = s.io := rfl
@[simp] theorem onBoot_pwr (s : State) (f : BootState → BootState) : (s.onBoot f).pwr = s.pwr := rfl
@[simp] theorem onBoot_rtu (s : State) (f : BootState → BootState) : (s.onBoot f).rtu = s.rtu := rfl
@[simp] theorem onBoot_ras (s : State) (f : BootState → BootState) : (s.onBoot f).ras = s.ras := rfl

/-! ### onSec -/

@[simp] theorem onSec_pending (s : State) (f : SecState → SecState) : (s.onSec f).pending = s.pending := rfl
@[simp] theorem onSec_free (s : State) (f : SecState → SecState) : (s.onSec f).free = s.free := rfl
@[simp] theorem onSec_cores (s : State) (f : SecState → SecState) : (s.onSec f).cores = s.cores := rfl
@[simp] theorem onSec_ucores (s : State) (f : SecState → SecState) : (s.onSec f).ucores = s.ucores := rfl
@[simp] theorem onSec_csr (s : State) (f : SecState → SecState) : (s.onSec f).csr = s.csr := rfl
@[simp] theorem onSec_m (s : State) (f : SecState → SecState) : (s.onSec f).m = s.m := rfl
@[simp] theorem onSec_coh (s : State) (f : SecState → SecState) : (s.onSec f).coh = s.coh := rfl
@[simp] theorem onSec_mesh (s : State) (f : SecState → SecState) : (s.onSec f).mesh = s.mesh := rfl
@[simp] theorem onSec_boot (s : State) (f : SecState → SecState) : (s.onSec f).boot = s.boot := rfl
@[simp] theorem onSec_log (s : State) (f : SecState → SecState) : (s.onSec f).log = s.log := rfl
@[simp] theorem onSec_sec (s : State) (f : SecState → SecState) : (s.onSec f).sec = f s.sec := rfl
@[simp] theorem onSec_qs (s : State) (f : SecState → SecState) : (s.onSec f).qs = s.qs := rfl
@[simp] theorem onSec_dm (s : State) (f : SecState → SecState) : (s.onSec f).dm = s.dm := rfl
@[simp] theorem onSec_mc (s : State) (f : SecState → SecState) : (s.onSec f).mc = s.mc := rfl
@[simp] theorem onSec_io (s : State) (f : SecState → SecState) : (s.onSec f).io = s.io := rfl
@[simp] theorem onSec_pwr (s : State) (f : SecState → SecState) : (s.onSec f).pwr = s.pwr := rfl
@[simp] theorem onSec_rtu (s : State) (f : SecState → SecState) : (s.onSec f).rtu = s.rtu := rfl
@[simp] theorem onSec_ras (s : State) (f : SecState → SecState) : (s.onSec f).ras = s.ras := rfl

/-! ### onPort -/

@[simp] theorem onPort_pending (s : State) (p : Nat) (f : IoState → IoState) : (s.onPort p f).pending = s.pending := rfl
@[simp] theorem onPort_free (s : State) (p : Nat) (f : IoState → IoState) : (s.onPort p f).free = s.free := rfl
@[simp] theorem onPort_cores (s : State) (p : Nat) (f : IoState → IoState) : (s.onPort p f).cores = s.cores := rfl
@[simp] theorem onPort_ucores (s : State) (p : Nat) (f : IoState → IoState) : (s.onPort p f).ucores = s.ucores := rfl
@[simp] theorem onPort_csr (s : State) (p : Nat) (f : IoState → IoState) : (s.onPort p f).csr = s.csr := rfl
@[simp] theorem onPort_m (s : State) (p : Nat) (f : IoState → IoState) : (s.onPort p f).m = s.m := rfl
@[simp] theorem onPort_coh (s : State) (p : Nat) (f : IoState → IoState) : (s.onPort p f).coh = s.coh := rfl
@[simp] theorem onPort_mesh (s : State) (p : Nat) (f : IoState → IoState) : (s.onPort p f).mesh = s.mesh := rfl
@[simp] theorem onPort_boot (s : State) (p : Nat) (f : IoState → IoState) : (s.onPort p f).boot = s.boot := rfl
@[simp] theorem onPort_log (s : State) (p : Nat) (f : IoState → IoState) : (s.onPort p f).log = s.log := rfl
@[simp] theorem onPort_sec (s : State) (p : Nat) (f : IoState → IoState) : (s.onPort p f).sec = s.sec := rfl
@[simp] theorem onPort_qs (s : State) (p : Nat) (f : IoState → IoState) : (s.onPort p f).qs = s.qs := rfl
@[simp] theorem onPort_dm (s : State) (p : Nat) (f : IoState → IoState) : (s.onPort p f).dm = s.dm := rfl
@[simp] theorem onPort_mc (s : State) (p : Nat) (f : IoState → IoState) : (s.onPort p f).mc = s.mc := rfl
@[simp] theorem onPort_io (s : State) (p : Nat) (f : IoState → IoState) : (s.onPort p f).io = s.io.set p (f (s.port p)) := rfl
@[simp] theorem onPort_pwr (s : State) (p : Nat) (f : IoState → IoState) : (s.onPort p f).pwr = s.pwr := rfl
@[simp] theorem onPort_rtu (s : State) (p : Nat) (f : IoState → IoState) : (s.onPort p f).rtu = s.rtu := rfl
@[simp] theorem onPort_ras (s : State) (p : Nat) (f : IoState → IoState) : (s.onPort p f).ras = s.ras := rfl

/-! ### onMc -/

@[simp] theorem onMc_pending (s : State) (n : Nat) (f : McState → McState) : (s.onMc n f).pending = s.pending := rfl
@[simp] theorem onMc_free (s : State) (n : Nat) (f : McState → McState) : (s.onMc n f).free = s.free := rfl
@[simp] theorem onMc_cores (s : State) (n : Nat) (f : McState → McState) : (s.onMc n f).cores = s.cores := rfl
@[simp] theorem onMc_ucores (s : State) (n : Nat) (f : McState → McState) : (s.onMc n f).ucores = s.ucores := rfl
@[simp] theorem onMc_csr (s : State) (n : Nat) (f : McState → McState) : (s.onMc n f).csr = s.csr := rfl
@[simp] theorem onMc_m (s : State) (n : Nat) (f : McState → McState) : (s.onMc n f).m = s.m := rfl
@[simp] theorem onMc_coh (s : State) (n : Nat) (f : McState → McState) : (s.onMc n f).coh = s.coh := rfl
@[simp] theorem onMc_mesh (s : State) (n : Nat) (f : McState → McState) : (s.onMc n f).mesh = s.mesh := rfl
@[simp] theorem onMc_boot (s : State) (n : Nat) (f : McState → McState) : (s.onMc n f).boot = s.boot := rfl
@[simp] theorem onMc_log (s : State) (n : Nat) (f : McState → McState) : (s.onMc n f).log = s.log := rfl
@[simp] theorem onMc_sec (s : State) (n : Nat) (f : McState → McState) : (s.onMc n f).sec = s.sec := rfl
@[simp] theorem onMc_qs (s : State) (n : Nat) (f : McState → McState) : (s.onMc n f).qs = s.qs := rfl
@[simp] theorem onMc_dm (s : State) (n : Nat) (f : McState → McState) : (s.onMc n f).dm = s.dm := rfl
@[simp] theorem onMc_mc (s : State) (n : Nat) (f : McState → McState) : (s.onMc n f).mc = s.mc.set n (f (s.mcAt n)) := rfl
@[simp] theorem onMc_io (s : State) (n : Nat) (f : McState → McState) : (s.onMc n f).io = s.io := rfl
@[simp] theorem onMc_pwr (s : State) (n : Nat) (f : McState → McState) : (s.onMc n f).pwr = s.pwr := rfl
@[simp] theorem onMc_rtu (s : State) (n : Nat) (f : McState → McState) : (s.onMc n f).rtu = s.rtu := rfl
@[simp] theorem onMc_ras (s : State) (n : Nat) (f : McState → McState) : (s.onMc n f).ras = s.ras := rfl

/-! ### fresh -/

@[simp] theorem fresh_val (s : State) : s.fresh.1 = Config.freeValue s.free := rfl
@[simp] theorem fresh_pending (s : State) : s.fresh.2.pending = s.pending := rfl
@[simp] theorem fresh_free (s : State) : s.fresh.2.free = s.free + 1 := rfl
@[simp] theorem fresh_cores (s : State) : s.fresh.2.cores = s.cores := rfl
@[simp] theorem fresh_ucores (s : State) : s.fresh.2.ucores = s.ucores := rfl
@[simp] theorem fresh_csr (s : State) : s.fresh.2.csr = s.csr := rfl
@[simp] theorem fresh_m (s : State) : s.fresh.2.m = s.m := rfl
@[simp] theorem fresh_coh (s : State) : s.fresh.2.coh = s.coh := rfl
@[simp] theorem fresh_mesh (s : State) : s.fresh.2.mesh = s.mesh := rfl
@[simp] theorem fresh_boot (s : State) : s.fresh.2.boot = s.boot := rfl
@[simp] theorem fresh_log (s : State) : s.fresh.2.log = s.log := rfl
@[simp] theorem fresh_sec (s : State) : s.fresh.2.sec = s.sec := rfl
@[simp] theorem fresh_qs (s : State) : s.fresh.2.qs = s.qs := rfl
@[simp] theorem fresh_dm (s : State) : s.fresh.2.dm = s.dm := rfl
@[simp] theorem fresh_mc (s : State) : s.fresh.2.mc = s.mc := rfl
@[simp] theorem fresh_io (s : State) : s.fresh.2.io = s.io := rfl
@[simp] theorem fresh_pwr (s : State) : s.fresh.2.pwr = s.pwr := rfl
@[simp] theorem fresh_rtu (s : State) : s.fresh.2.rtu = s.rtu := rfl
@[simp] theorem fresh_ras (s : State) : s.fresh.2.ras = s.ras := rfl

end Sys2Proof.Laws
end

