-- ==== Sys2Proof/Laws/Ops.lean ====
section
/-! SUPPORT. What the shared part of every instruction does: issuing, committing, counting. -/

namespace Sys2Proof.Laws
open Sys2Proof.Machine

/-! ### Registers of a core -/

@[simp] theorem core_setCore (s : State) (c d : Nat) (k : Core) :
    (s.setCore c k).core d = if d = c then k else s.core d := by
  simp [State.core, State.setCore, getD_set]

@[simp] theorem core_onCore (s : State) (c d : Nat) (f : Core → Core) :
    (s.onCore c f).core d = if d = c then f (s.core c) else s.core d := by simp [State.onCore]

@[simp] theorem core_setUcore (s : State) (c d : Nat) (u : UCore) : (s.setUcore c u).core d = s.core d := rfl
@[simp] theorem core_onUcore (s : State) (c d : Nat) (f : UCore → UCore) : (s.onUcore c f).core d = s.core d := rfl
@[simp] theorem ucore_setCore (s : State) (c d : Nat) (k : Core) : (s.setCore c k).ucore d = s.ucore d := rfl
@[simp] theorem ucore_onCore (s : State) (c d : Nat) (f : Core → Core) : (s.onCore c f).ucore d = s.ucore d := rfl

@[simp] theorem ucore_setUcore (s : State) (c d : Nat) (u : UCore) :
    (s.setUcore c u).ucore d = if d = c then u else s.ucore d := by
  simp [State.ucore, State.setUcore, getD_set]

@[simp] theorem ucore_onUcore (s : State) (c d : Nat) (f : UCore → UCore) :
    (s.onUcore c f).ucore d = if d = c then f (s.ucore c) else s.ucore d := by simp [State.onUcore]

@[simp] theorem reg_setCore (s : State) (c : Nat) (k : Core) (r : Reg) : (s.setCore c k).reg r = s.reg r := rfl
@[simp] theorem reg_onCore (s : State) (c : Nat) (f : Core → Core) (r : Reg) : (s.onCore c f).reg r = s.reg r := rfl
@[simp] theorem reg_setUcore (s : State) (c : Nat) (u : UCore) (r : Reg) : (s.setUcore c u).reg r = s.reg r := rfl
@[simp] theorem reg_onUcore (s : State) (c : Nat) (f : UCore → UCore) (r : Reg) : (s.onUcore c f).reg r = s.reg r := rfl
@[simp] theorem core_setReg (s : State) (r : Reg) (w : DWord) (c : Nat) : (s.setReg r w).core c = s.core c := rfl
@[simp] theorem ucore_setReg (s : State) (r : Reg) (w : DWord) (c : Nat) : (s.setReg r w).ucore c = s.ucore c := rfl

theorem reg_setReg (s : State) (r q : Reg) (w : DWord) : (s.setReg r w).reg q = if q = r then w else s.reg q := by
  simp [State.reg, State.setReg, getD_set]

@[simp] theorem reg_setReg_same (s : State) (r : Reg) (w : DWord) : (s.setReg r w).reg r = w := by simp [reg_setReg]

theorem wg_zero (k : Core) (w : DWord) : k.wg 0 w = k := rfl
theorem wg_pos (k : Core) {rd : BitVec 5} (w : DWord) (h : rd ≠ 0) : k.wg rd w = { k with g := k.g.set rd w } := if_neg h

/-- A write of g0 is discarded; the others are read back (R67). -/
theorem rg_wg (k : Core) (rd r : BitVec 5) (w : DWord) : (k.wg rd w).rg r = if r = rd ∧ rd ≠ 0 then w else k.rg r := by
  by_cases h0 : rd = 0
  · subst h0; rw [wg_zero, if_neg fun h => h.2 rfl]
  · rw [wg_pos k w h0]
    by_cases hr : r = rd
    · subst hr
      rw [if_pos ⟨rfl, h0⟩, Core.rg, if_neg h0]
      exact getD_set_same _ _ _ _
    · rw [if_neg fun h => hr h.1]
      simp only [Core.rg, getD_set_other _ _ _ hr]

theorem rv_wv (k : Core) (vd r : BitVec 5) (v : VWord) : (k.wv vd v).rv r = if r = vd then v else k.rv r := by
  simp [Core.wv, Core.rv, getD_set]

@[simp] theorem rg_zero (k : Core) : k.rg 0 = 0 := rfl
@[simp] theorem rv_wg (k : Core) (rd r : BitVec 5) (w : DWord) : (k.wg rd w).rv r = k.rv r := by
  by_cases h : rd = 0
  · subst h; rfl
  · rw [wg_pos k w h]; rfl
@[simp] theorem rg_wv (k : Core) (vd r : BitVec 5) (v : VWord) : (k.wv vd v).rg r = k.rg r := rfl
@[simp] theorem rs_wg (k : Core) (rd : BitVec 5) (w : DWord) (n : Nat) (b : Bool) : (k.wg rd w).rs n b = k.rs n b := by
  by_cases h : rd = 0
  · subst h; rfl
  · rw [wg_pos k w h]; rfl
@[simp] theorem rs_wv (k : Core) (vd : BitVec 5) (v : VWord) (n : Nat) (b : Bool) : (k.wv vd v).rs n b = k.rs n b := rfl
@[simp] theorem rg_ws (k : Core) (n : Nat) (b : Bool) (w : DWord) (r : BitVec 5) : (k.ws n b w).rg r = k.rg r := rfl
@[simp] theorem rv_ws (k : Core) (n : Nat) (b : Bool) (w : DWord) (r : BitVec 5) : (k.ws n b w).rv r = k.rv r := rfl

theorem rs_ws (k : Core) (n m : Nat) (b e : Bool) (w : DWord) :
    (k.ws n b w).rs m e = if m = n ∧ e = b then w else k.rs m e := by
  simp [Core.ws, Core.rs, getD_set]

@[simp] theorem rs_ws_same (k : Core) (n : Nat) (b : Bool) (w : DWord) : (k.ws n b w).rs n b = w := by simp [rs_ws]

@[simp] theorem wg_pc (k : Core) (rd : BitVec 5) (w : DWord) : (k.wg rd w).pc = k.pc := by
  by_cases h : rd = 0
  · subst h; rfl
  · rw [wg_pos k w h]
@[simp] theorem wv_pc (k : Core) (vd : BitVec 5) (v : VWord) : (k.wv vd v).pc = k.pc := rfl

/-! ### What is kept -/

theorem keptCore_refl (b : Nat → Bool) (p : Core) : KeptCore b p p := by simp [KeptCore]

theorem keptCore_trans {b : Nat → Bool} {p q r : Core} (h : KeptCore b p q) (h' : KeptCore b q r) : KeptCore b p r := by
  obtain ⟨a1, a2, a3, a4, a5, a6, a7, a8, a9, a10⟩ := h
  obtain ⟨b1, b2, b3, b4, b5, b6, b7, b8, b9, b10⟩ := h'
  exact ⟨b1.trans a1, b2.trans a2, b3.trans a3, b4.trans a4, b5.trans a5, b6.trans a6, b7.trans a7, b8.trans a8,
    b9.trans a9, fun n w h1 h2 => (b10 n w h1 h2).trans (a10 n w h1 h2)⟩

theorem keptCore_mono {b b' : Nat → Bool} (hb : ∀ n, b' n = false → b n = false) {p q : Core} (h : KeptCore b p q) :
    KeptCore b' p q := by
  obtain ⟨a1, a2, a3, a4, a5, a6, a7, a8, a9, a10⟩ := h
  exact ⟨a1, a2, a3, a4, a5, a6, a7, a8, a9, fun n w h1 h2 => a10 n w h1 (hb n h2)⟩

theorem keptCore_wg (b : Nat → Bool) (p : Core) (rd : BitVec 5) (w : DWord) : KeptCore b p (p.wg rd w) := by
  by_cases h : rd = 0
  · subst h; exact keptCore_refl b p
  · rw [wg_pos p w h]; simp [KeptCore, Core.rs]

theorem keptCore_wv (b : Nat → Bool) (p : Core) (vd : BitVec 5) (v : VWord) : KeptCore b p (p.wv vd v) := by
  simp [KeptCore, Core.wv, Core.rs]

theorem keptChip_refl (c : Nat) (s : State) : KeptChip c s s := by simp [KeptChip]

theorem keptChip_trans {c : Nat} {s t u : State} (h : KeptChip c s t) (h' : KeptChip c t u) : KeptChip c s u := by
  obtain ⟨a1, a2, a4, a3⟩ := h
  obtain ⟨b1, b2, b4, b3⟩ := h'
  refine ⟨?_, fun d hd => ⟨(b2 d hd).1.trans (a2 d hd).1, (b2 d hd).2.trans (a2 d hd).2⟩, ?_,
    fun r hr => (b3 r hr).trans (a3 r hr)⟩
  · rw [a1] at b1
    exact b1
  · rw [a4] at b4
    exact b4

theorem keptChip_onCore (c : Nat) (s : State) (f : Core → Core) : KeptChip c s (s.onCore c f) := by
  refine ⟨rfl, fun d hd => ?_, rfl, fun r _ => rfl⟩
  simp [hd]

theorem keptChip_setCore (c : Nat) (s : State) (k : Core) : KeptChip c s (s.setCore c k) := keptChip_onCore c s fun _ => k

theorem keptChip_loop (c : Nat) (s : State) (f : UCore → LoopBuf) (g : UCore → List Met) :
    KeptChip c s (s.onUcore c fun u => { u with loop := f u, seen := g u }) := by
  refine ⟨rfl, fun d hd => ?_, ?_, fun r _ => rfl⟩
  · simp [hd]
  · simp

/-! ### Counting: g, v and pc too are left alone -/

/-- A change of the chip that a core's counting makes. A core that runs goes on running, and without OVF_IE nothing becomes
pending. -/
def Counts (c : Nat) (s t : State) : Prop :=
  KeptChip c s t ∧ KeptCore (fun _ => false) (s.core c) (t.core c) ∧ (t.core c).pc = (s.core c).pc ∧
  (∀ r, (t.core c).rg r = (s.core c).rg r) ∧ (∀ r, (t.core c).rv r = (s.core c).rv r) ∧
  ((s.core c).run = .running → (t.core c).run = .running) ∧
  (t.core c).rs Sys.pmctl = (s.core c).rs Sys.pmctl ∧
  ((s.core c).sflag Sys.pmctl false G.pmctl.OVF_IE = false → (t.core c).pend = (s.core c).pend)

theorem Counts.refl (c : Nat) (s : State) : Counts c s s :=
  ⟨keptChip_refl c s, keptCore_refl _ _, rfl, fun _ => rfl, fun _ => rfl, id, rfl, fun _ => rfl⟩

theorem Counts.trans {c : Nat} {s t u : State} (h : Counts c s t) (h' : Counts c t u) : Counts c s u := by
  obtain ⟨a1, a2, a3, a4, a5, a6, a7, a8⟩ := h
  obtain ⟨b1, b2, b3, b4, b5, b6, b7, b8⟩ := h'
  refine ⟨keptChip_trans a1 b1, keptCore_trans a2 b2, b3.trans a3, fun r => (b4 r).trans (a4 r),
    fun r => (b5 r).trans (a5 r), fun h => b6 (a6 h), b7.trans a7, fun h => (b8 ?_).trans (a8 h)⟩
  rw [Core.sflag, Core.sf, a7]
  exact h

theorem Counts.onCore {c : Nat} (s : State) (f : Core → Core) (h : KeptCore (fun _ => false) (s.core c) (f (s.core c)))
    (hp : (f (s.core c)).pc = (s.core c).pc) (hg : (f (s.core c)).g = (s.core c).g) (hv : (f (s.core c)).v = (s.core c).v)
    (hr : (s.core c).run = .running → (f (s.core c)).run = .running)
    (hn : (s.core c).sflag Sys.pmctl false G.pmctl.OVF_IE = false → (f (s.core c)).pend = (s.core c).pend) :
    Counts c s (s.onCore c f) := by
  refine ⟨keptChip_onCore c s f, ?_, ?_, fun r => ?_, fun r => ?_, ?_, ?_, ?_⟩
  · simpa using h
  · simpa using hp
  · simp [Core.rg, hg]
  · simp [Core.rv, hv]
  · simpa using hr
  · obtain ⟨-, -, -, -, -, -, -, -, -, h10⟩ := h
    simpa using h10 Sys.pmctl false (by decide) rfl
  · simpa using hn

theorem Counts.setCore {c : Nat} (s : State) (k : Core) (h : KeptCore (fun _ => false) (s.core c) k)
    (hp : k.pc = (s.core c).pc) (hg : k.g = (s.core c).g) (hv : k.v = (s.core c).v)
    (hr : (s.core c).run = .running → k.run = .running)
    (hn : (s.core c).sflag Sys.pmctl false G.pmctl.OVF_IE = false → k.pend = (s.core c).pend) : Counts c s (s.setCore c k) :=
  Counts.onCore s (fun _ => k) h hp hg hv hr hn

theorem Counts.seen (c : Nat) (s : State) (l : UCore → List Met) : Counts c s (s.onUcore c fun u => { u with seen := l u }) :=
  ⟨keptChip_loop c s (fun u => u.loop) l, keptCore_refl _ _, rfl, fun _ => rfl, fun _ => rfl, id, rfl, fun _ => rfl⟩

theorem Counts.free (c n : Nat) (s : State) : Counts c s { s with free := n } :=
  ⟨⟨rfl, fun _ _ => ⟨rfl, rfl⟩, rfl, fun _ _ => rfl⟩, keptCore_refl _ _, rfl, fun _ => rfl, fun _ => rfl, id, rfl, fun _ => rfl⟩

theorem endWait_counts (s : State) (c : Nat) : Counts c s (s.endWait c) := by
  have key : ∀ (r : RunState) (a b : Bool), (s.core c).run ≠ .running →
      Counts c s (s.setCore c { s.core c with run := r, latchN := a, latchT := b }) := fun r a b hr =>
    Counts.setCore s _ (by simp [KeptCore, Core.rs]) rfl rfl rfl (fun h => absurd h hr) fun _ => rfl
  simp only [State.endWait]
  split
  · split
    · exact key _ _ _ (by simp [*])
    · exact Counts.refl c s
  · rename_i hr
    have hr : (s.core c).run ≠ .running := by rw [hr]; decide
    repeat' split
    all_goals first | exact key _ _ _ hr | exact Counts.refl c s
  · exact Counts.refl c s

theorem logged_counts {c : Nat} {s : State} {r : State × Option Event} (h : r.2 = none ∧ Counts c s r.1) :
    Counts c s (logged r) := by
  simpa [logged, h.1] using h.2

/-- The interrupt that a counter overflow raises: at L1 of either world, with OVF_IE = 1. -/
theorem intArrive_counts (s : State) (c : Nat) (w : Bool) (vec prio : Nat)
    (ho : (s.core c).sflag Sys.pmctl false G.pmctl.OVF_IE = true) :
    (s.intArrive c w vec prio 1).2 = none ∧ Counts c s (s.intArrive c w vec prio 1).1 := by
  have h0 : Counts c s (if vec = 2 then s.onCore c fun k => if w then { k with latchT := true } else { k with latchN := true }
      else s) := by
    split
    · refine Counts.onCore s _ ?_ ?_ ?_ ?_ ?_ ?_ <;> cases w <;> simp [KeptCore, Core.rs]
    · exact Counts.refl c s
  unfold State.intArrive
  rw [if_neg (by cases w <;> simp [State.levelOk])]
  split
  · refine ⟨rfl, ⟨rfl, fun _ _ => ⟨rfl, rfl⟩, rfl, fun _ _ => rfl⟩, keptCore_refl _ _, rfl, fun _ => rfl, fun _ => rfl, id, rfl,
      fun _ => rfl⟩
  · generalize (if vec = 2 then s.onCore c fun k => if w then { k with latchT := true } else { k with latchN := true }
      else s) = s1 at h0
    simp only
    split
    · exact ⟨rfl, h0.trans (endWait_counts s1 c)⟩
    · have hn : (s1.core c).noticed w vec 1 = false := by simp [Core.noticed]
      simp only [hn, Bool.false_eq_true, if_false]
      split
      · refine ⟨rfl, (h0.trans ?_).trans (endWait_counts _ c)⟩
        simp only [State.count]
        split
        · refine ⟨⟨rfl, fun _ _ => ⟨rfl, rfl⟩, rfl, fun r hr => ?_⟩, keptCore_refl _ _, rfl, fun _ => rfl, fun _ => rfl, id, rfl,
            fun _ => rfl⟩
          rw [State.setFld, reg_setReg, if_neg (hr _)]
        · exact Counts.refl c s1
      · refine ⟨rfl, (h0.trans ?_).trans (endWait_counts _ c)⟩
        have h1 : (s1.core c).sflag Sys.pmctl false G.pmctl.OVF_IE = true := by
          obtain ⟨-, -, -, -, -, -, h7, -⟩ := h0
          rw [Core.sflag, Core.sf, h7]; exact ho
        exact Counts.setCore s1 _ (by simp [KeptCore, Core.rs]) rfl rfl rfl id fun h => absurd h (by simp [h1])

theorem keptCore_ws (b : Nat → Bool) (k : Core) (num : Nat) (w : DWord) (h : counterReg num = true) :
    KeptCore b k (k.ws num false w) := by
  refine ⟨rfl, rfl, rfl, rfl, rfl, rfl, rfl, rfl, rfl, fun n e h1 _ => ?_⟩
  have hn : n ≠ num := by rintro rfl; simp [h] at h1
  rw [rs_ws, if_neg fun h => hn h.1]

theorem pmAdd_counts (s : State) (c num bit amt : Nat) (h : counterReg num = true) : Counts c s (s.pmAdd c num bit amt) := by
  have h1 : ∀ w, KeptCore (fun _ => false) (s.core c) ((s.core c).ws num false w) := fun w => keptCore_ws _ _ _ w h
  have h2 : ∀ w u, KeptCore (fun _ => false) (s.core c) (((s.core c).ws num false w).ws Sys.pmovf false u) := fun w u =>
    keptCore_trans (h1 w) (keptCore_ws _ _ _ u rfl)
  have hw : ∀ k, KeptCore (fun _ => false) (s.core c) k → k.pc = (s.core c).pc → k.g = (s.core c).g → k.v = (s.core c).v →
      k.run = (s.core c).run → k.pend = (s.core c).pend → Counts c s (s.setCore c k) := fun k a b d e f g =>
    Counts.setCore s k a b d e (fun q => f.trans q) fun _ => g
  simp only [State.pmAdd]
  split
  · split
    · exact Counts.refl c s
    · exact hw _ (h1 _) rfl rfl rfl rfl rfl
  · have hb := fun u w => hw _ (h2 w u) rfl rfl rfl rfl rfl
    split
    · rename_i ho
      refine logged_counts ⟨(intArrive_counts _ c _ _ _ ?_).1, (hb _ _).trans (intArrive_counts _ c _ _ _ ?_).2⟩ <;>
      · obtain ⟨-, -, -, -, -, -, h7, -⟩ := hb ((s.core c).rs Sys.pmovf ||| 1#64 <<< bit) (dw (((s.core c).rs num).toNat + amt))
        rw [Core.sflag, Core.sf, h7]
        exact ho
    · exact hb _ _

theorem pmMet_counts (s : State) (c : Nat) (k : Core) (evs : List Met) : Counts c s (s.pmMet c k evs) := by
  unfold State.pmMet
  have : ∀ l : List Nat, (∀ n ∈ l, n < 8) → ∀ s : State,
      Counts c s (l.foldl (fun s n => s.pmAdd c (0x60 + n) n (metAmount (k.rs (0x4058 + n)) evs)) s) := by
    intro l
    induction l with
    | nil => intro _ s; exact Counts.refl c s
    | cons n l ih =>
      intro h s
      have hc : counterReg (0x60 + n) = true := by have := h n (by simp); simp [counterReg]; omega
      exact (pmAdd_counts s c _ _ _ hc).trans (ih (fun m hm => h m (by simp [hm])) _)
  exact this _ (fun n hn => List.mem_range.1 hn) s

theorem pmEvents_counts (s : State) (c : Nat) (k : Core) (evs : List (Nat × Nat)) : Counts c s (s.pmEvents c k evs) := by
  unfold State.pmEvents
  split
  · exact pmMet_counts s c k _
  · exact Counts.refl c s

/-- What the end of an instruction counts. -/
theorem pmEnd_counts (s : State) (c : Nat) (u : Under) (evs : List (Nat × Nat)) (done : Bool) :
    Counts c s (s.pmEnd c u evs done) := by
  have h0 : Counts c s (({ s with free := s.free + 1 } : State).onUcore c fun q => { q with seen := [] }) :=
    (Counts.free c _ s).trans (Counts.seen c _ _)
  simp only [State.pmEnd]
  refine h0.trans ((pmMet_counts _ c u.core
      (u.events s.free (s.ucore c).seen evs done (s.core c).lk.isNone)).trans ?_)
  generalize State.pmMet _ c u.core _ = s1
  split
  · have h1 : Counts c s1 (if done = true then s1.pmAdd c Sys.pmcmt 9 1 else s1) := by
      split
      · exact pmAdd_counts s1 c _ _ _ rfl
      · exact Counts.refl c s1
    generalize (if done = true then s1.pmAdd c Sys.pmcmt 9 1 else s1) = s2 at h1 ⊢
    refine h1.trans ?_
    split
    · exact pmAdd_counts _ c _ _ _ rfl
    · exact Counts.refl c _
  · exact Counts.refl c s1

/-! ### Committing and issuing -/

/-- A commit sets pc, moves the loop buffer and counts; it leaves everything else. -/
theorem commit_spec (s : State) (c : Nat) (u : Under) (sh : Shape) (line : Option Nat) (d : Done) :
    KeptChip c s (s.commit c u sh line d) ∧ KeptCore (fun _ => false) (s.core c) ((s.commit c u sh line d).core c) ∧
    ((s.commit c u sh line d).core c).pc = d.pc ∧ (∀ r, ((s.commit c u sh line d).core c).rg r = (s.core c).rg r) ∧
    ∀ r, ((s.commit c u sh line d).core c).rv r = (s.core c).rv r := by
  unfold State.commit
  obtain ⟨h1, h2, h3, h4, h5, -⟩ := pmEnd_counts ((s.onCore c fun q => { q with pc := d.pc }).onUcore c
    fun q =>
      let l := q.loop.step sh u.core.pc line d.flow u.core.loopOff
      { q with loop := l, seen := if q.loop.run.isSome && l.run.isNone then q.seen ++ [u.core.met 0x21 false] else q.seen })
    c u ((0x02, 1) :: (0x04, sh.uops) :: d.evs) true
  refine ⟨keptChip_trans (keptChip_trans (keptChip_onCore c s _) (keptChip_loop c _ _ _)) h1, keptCore_trans ?_ h2, ?_, ?_, ?_⟩
  · simp [KeptCore, Core.rs]
  · simpa using h3
  · intro r; simpa [Core.rg] using h4 r
  · intro r; simpa [Core.rv] using h5 r

/-- An instruction that begins and whose body goes on commits. -/
theorem run_ok {s s1 s2 : State} {x : Issue} {sh : Shape} {body : Nat → Act Done} {d : Done} (h : Begins s x s1)
    (hb : body x.c s1 = (.ok d, s2)) :
    ∃ u line, s.run x sh body = s2.commit x.c u sh line d := by
  obtain ⟨hr, s0, line, hc, hf⟩ := h
  refine ⟨(s.opened x).under s0 x sh, line, ?_⟩
  simp only [State.run, Issue.c] at *
  simp [hr, hc, attempt, Act.bind, hf, hb, Act.pure]

/-- What an exception takes back is in memory, the span registers and the caches of marks alone. -/
theorem unmarked_mem (z : State) (c : Nat) (s : State) : (z.unmarked c s).m.mem = s.m.mem := by
  unfold State.unmarked
  simp only
  split
  · assumption
  · simp [State.onCore, State.onUcore]

theorem unmarked_same {z s : State} (c : Nat) (h : z.m.mem = s.m.mem) :
    z.unmarked c s = z.onUcore c fun u => { u with trained := (s.ucore c).trained } := by
  have h' : (z.onUcore c fun u => { u with trained := (s.ucore c).trained }).m.mem = s.m.mem := h
  simp only [State.unmarked]
  rw [if_pos h']

/-- The events a core has met do not decide whether an interrupt is offered. -/
theorem accept_seen {s : State} {c : Nat} (f : UCore → UCore) (d : Nat) (h : s.accept c = none) :
    (s.onUcore d f).accept c = none := by
  have h1 : (s.onUcore d f).taking c = s.taking c := rfl
  simp only [State.accept, Option.map_eq_none_iff] at h ⊢
  rw [h1, h]

/-- An instruction that begins and whose body raises an exception takes it, unless an interrupt is offered before it. -/
theorem run_raise {s s0 s1 s2 : State} {x : Issue} {sh : Shape} {body : Nat → Act Done} {e : Exc} (h : Begins s x s1)
    (hq : Quiet s x s0) (hb : body x.c s1 = (.error e, s2)) :
    ∃ u, s.run x sh body = ((s2.unmarked x.c s0).raise x.c e).pmEnd x.c u [] false := by
  obtain ⟨hr, s0', line, hc, hf⟩ := h
  obtain ⟨hc', ha⟩ := hq
  rw [hc] at hc'
  obtain ⟨-, rfl⟩ := Prod.mk.inj hc'
  refine ⟨(s.opened x).under s0' x sh, ?_⟩
  simp only [State.run, Issue.c] at *
  simp [hr, hc, attempt, Act.bind, hf, hb, State.except, accept_seen _ _ ha]

/-- A body that only changes its own core. -/
theorem run_plain {s s1 : State} {x : Issue} {sh : Shape} (f : State → Core → Core) (h : Begins s x s1) :
    ∃ u line, s.run x sh (plain f) =
      (s1.setCore x.c (f s1 (s1.core x.c))).commit x.c u sh line { pc := (s1.core x.c).pc + 4 } :=
  run_ok h rfl

/-- An instruction that writes one general register. -/
theorem run_writesG {s s1 : State} {x : Issue} {sh : Shape} {rd : BitVec 5} {w : DWord} {f : State → Core → Core}
    (h : Begins s x s1) (hf : f s1 (s1.core x.c) = (s1.core x.c).wg rd w) :
    WritesG x s1 rd w ((s1.core x.c).pc + 4) (.next (s.run x sh (plain f))) := by
  obtain ⟨u, line, hk⟩ := run_plain (sh := sh) f h
  rw [hk, hf]
  obtain ⟨h1, h2, h3, h4, h5⟩ := commit_spec (s1.setCore x.c ((s1.core x.c).wg rd w)) x.c u sh line { pc := (s1.core x.c).pc + 4 }
  refine ⟨_, rfl, h3, fun r => ?_, fun r => ?_, keptCore_trans (keptCore_wg _ _ rd w) (by simpa using h2),
    keptChip_trans (keptChip_setCore x.c s1 _) h1⟩
  · rw [h4]; simp [rg_wg]
  · rw [h5]; simp

/-- An instruction that writes one vector register and leaves FCSR. -/
theorem run_writesV {s s1 : State} {x : Issue} {sh : Shape} {vd : BitVec 5} {v : VWord} {f : State → Core → Core}
    (h : Begins s x s1) (hf : f s1 (s1.core x.c) = (s1.core x.c).wv vd v) :
    WritesV x s1 vd v ((s1.core x.c).rs Sys.fcsr) (.next (s.run x sh (plain f))) := by
  obtain ⟨u, line, hk⟩ := run_plain (sh := sh) f h
  rw [hk, hf]
  obtain ⟨h1, h2, h3, h4, h5⟩ := commit_spec (s1.setCore x.c ((s1.core x.c).wv vd v)) x.c u sh line { pc := (s1.core x.c).pc + 4 }
  refine ⟨_, rfl, h3, fun r => ?_, fun r => ?_, ?_, keptCore_trans (keptCore_wv _ _ vd v) (keptCore_mono (b := fun _ => false) (by simp) (by simpa using h2)),
    keptChip_trans (keptChip_setCore x.c s1 _) h1⟩
  · rw [h5]; simp [rv_wv]
  · rw [h4]; simp
  · obtain ⟨-, -, -, -, -, -, -, -, -, h6⟩ := h2
    simpa using h6 Sys.fcsr false (by decide) rfl

/-! ### Entering an exception -/

@[simp] theorem core_loopExit (s : State) (c d : Nat) : (s.loopExit c).core d = s.core d := rfl
@[simp] theorem reg_loopExit (s : State) (c : Nat) (r : Reg) : (s.loopExit c).reg r = s.reg r := rfl

/-- An entry changes its core and the loop buffer alone. -/
theorem enterAt_spec (s : State) (c : Nat) (e : Entry) :
    (s.enterAt c e).core c = (s.core c).enter e ∧ KeptChip c s (s.enterAt c e) := by
  exact ⟨by simp [State.enterAt], keptChip_trans (keptChip_onCore c s fun k => k.enter e)
    (keptChip_loop c (s.onCore c fun k => k.enter e) (fun _ => LoopBuf.reset)
      fun u => if u.loop.run.isSome then u.seen ++ [((s.onCore c fun k => k.enter e).core c).met 0x21 false] else u.seen)⟩

/-- The system registers after an entry without a translation report. -/
theorem enter_rs (k : Core) (e : Entry) (ht : e.tf = none) (num : Nat) (w : Bool) :
    (k.enter e).rs num w =
      ((((k.ws (Sys.estateAt e.lvl) (bankOf e.lvl e.world) (k.stateWord e.plk)).ws (Sys.epcAt e.lvl) (bankOf e.lvl e.world)
        e.epc).ws (Sys.ecauseAt e.lvl) (bankOf e.lvl e.world) (causeWord e.code e.inner e.vec)).ws (Sys.eaddrAt e.lvl)
        (bankOf e.lvl e.world) e.eaddr).rs num w := by
  simp only [Core.enter, ht]
  rfl

theorem ws_keeps (k : Core) (n : Nat) (b : Bool) (w : DWord) :
    (k.ws n b w).g = k.g ∧ (k.ws n b w).v = k.v ∧ (k.ws n b w).serv = k.serv ∧ (k.ws n b w).pend = k.pend ∧
      (k.ws n b w).vcpu = k.vcpu := ⟨rfl, rfl, rfl, rfl, rfl⟩

theorem enter_keeps (k : Core) (e : Entry) :
    (k.enter e).g = k.g ∧ (k.enter e).v = k.v ∧ (k.enter e).serv = k.serv ∧ (k.enter e).pend = k.pend ∧
      (k.enter e).vcpu = k.vcpu := by
  simp only [Core.enter]
  split <;> simp only [ws_keeps, and_self]

theorem enter_g (k : Core) (e : Entry) (r : BitVec 5) : (k.enter e).rg r = k.rg r := by
  simp only [Core.rg, (enter_keeps k e).1]
theorem enter_v (k : Core) (e : Entry) (r : BitVec 5) : (k.enter e).rv r = k.rv r := by
  simp only [Core.rv, (enter_keeps k e).2.1]

/-- The four registers that an entry writes are four. -/
theorem entry_regs {lvl : Nat} (hl : lvl = 1 ∨ lvl = 2 ∨ lvl = 3) :
    Sys.ecauseAt lvl ≠ Sys.eaddrAt lvl ∧ Sys.ecauseAt lvl ≠ Sys.epcAt lvl ∧ Sys.ecauseAt lvl ≠ Sys.estateAt lvl ∧
    Sys.epcAt lvl ≠ Sys.eaddrAt lvl ∧ Sys.epcAt lvl ≠ Sys.estateAt lvl ∧ Sys.eaddrAt lvl ≠ Sys.estateAt lvl := by
  rcases hl with rfl | rfl | rfl <;> decide

/-- What an entry from outside a locket, without a translation report, leaves in the core, and the counting after it. -/
theorem enter_takes {x : Issue} {s1 : State} {e : Entry} (u : Under) (ht : e.tf = none)
    (hl : e.lvl = 1 ∨ e.lvl = 2 ∨ e.lvl = 3)
    (hi : e.inner = 0) (hv : e.vec = 0) (hp : e.plk = false) (he : e.epc = (s1.core x.c).pc) :
    Takes x s1 e.lvl e.world e.code e.eaddr e.off (.next ((s1.enterAt x.c e).pmEnd x.c u [] false)) := by
  obtain ⟨h1, h2⟩ := enterAt_spec s1 x.c e
  obtain ⟨c1, c2, c3, c4, c5, c6, -, c8⟩ := pmEnd_counts (s1.enterAt x.c e) x.c u [] false
  rw [h1] at c2 c3 c4 c5 c6 c8
  obtain ⟨k1, k2, k3, k4, k5, k6, k7, k8, -, k10⟩ := c2
  obtain ⟨n1, n2, n3, n4, n5, n6⟩ := entry_regs hl
  obtain ⟨-, -, l1, l2, l3⟩ := enter_keeps (s1.core x.c) e
  have hc : counterReg (Sys.ecauseAt e.lvl) = false ∧ counterReg (Sys.epcAt e.lvl) = false ∧
      counterReg (Sys.eaddrAt e.lvl) = false ∧ counterReg (Sys.estateAt e.lvl) = false ∧ Sys.pmctl ≠ Sys.ecauseAt e.lvl ∧
      Sys.pmctl ≠ Sys.epcAt e.lvl ∧ Sys.pmctl ≠ Sys.eaddrAt e.lvl ∧ Sys.pmctl ≠ Sys.estateAt e.lvl := by
    rcases hl with h | h | h <;> rw [h] <;> decide
  obtain ⟨d1, d2, d3, d4, d5, d6, d7, d8⟩ := hc
  refine ⟨_, rfl, k1, k2, k3, c6 rfl, k4, k6, ?_, ?_, ?_, ?_, c3, fun r => (c4 r).trans (enter_g _ e r),
    fun r => (c5 r).trans (enter_v _ e r), k7.trans l1, k8.trans l3, fun h => (c8 ?_).trans l2, ?_, keptChip_trans h2 c1⟩
  · rw [k10 _ _ d1 rfl, enter_rs _ e ht]; simp [rs_ws, n1, causeWord, hi, hv]
  · rw [k10 _ _ d2 rfl, enter_rs _ e ht]; simp [rs_ws, n4, Ne.symm n2, he]
  · rw [k10 _ _ d3 rfl, enter_rs _ e ht]; simp [rs_ws]
  · rw [k10 _ _ d4 rfl, enter_rs _ e ht]; simp [rs_ws, n6.symm, n5.symm, n3.symm, Core.stateWord, hp, mul_comm]
  · rw [Core.sflag, Core.sf, enter_rs _ e ht]; simpa [rs_ws, d5, d6, d7, d8, Core.sflag, Core.sf] using h
  · intro num w hn hnot
    rw [k10 _ _ hn rfl, enter_rs _ e ht]
    simp only [rs_ws]
    rw [if_neg fun h => hnot ⟨h.2, .inr (.inr (.inl h.1))⟩, if_neg fun h => hnot ⟨h.2, .inl h.1⟩,
      if_neg fun h => hnot ⟨h.2, .inr (.inl h.1)⟩, if_neg fun h => hnot ⟨h.2, .inr (.inr (.inr h.1))⟩]

end Sys2Proof.Laws
end

