-- ==== Sys2Proof/Laws/Words.lean ====
section
/-! SUPPORT. The fields of a word made by each format (R72): what was put in comes out. -/

namespace Sys2Proof.Machine

theorem defined_congr {a b c d e a' b' c' d' e' : Nat} (ha : a = a') (hb : b = b') (hc : c = c') (hd : d = d') (he : e = e') :
    defined a b c d e = defined a' b' c' d' e' := by subst ha hb hc hd he; rfl

theorem wordA_toNat {maj fn : Nat} (rd rs1 rs2 : BitVec 5) (hm : maj < 64) (hf : fn < 2 ^ 11) :
    (wordA maj rd rs1 rs2 fn).toNat = maj * 2 ^ 26 + rd.toNat * 2 ^ 21 + rs1.toNat * 2 ^ 16 + rs2.toNat * 2 ^ 11 + fn := by
  have := rd.isLt; have := rs1.isLt; have := rs2.isLt
  simp only [wordA, BitVec.toNat_ofNat]
  omega

theorem wordI_toNat {maj : Nat} (rd rs1 : BitVec 5) (imm : BitVec 16) (hm : maj < 64) :
    (wordI maj rd rs1 imm).toNat = maj * 2 ^ 26 + rd.toNat * 2 ^ 21 + rs1.toNat * 2 ^ 16 + imm.toNat := by
  have := rd.isLt; have := rs1.isLt; have := imm.isLt
  simp only [wordI, BitVec.toNat_ofNat]
  omega

theorem wordM_toNat {maj mf : Nat} (rt rb : BitVec 5) (off : BitVec 12) (hm : maj < 64) (hf : mf < 16) :
    (wordM maj rt rb mf off).toNat = maj * 2 ^ 26 + rt.toNat * 2 ^ 21 + rb.toNat * 2 ^ 16 + mf * 2 ^ 12 + off.toNat := by
  have := rt.isLt; have := rb.isLt; have := off.isLt
  simp only [wordM, BitVec.toNat_ofNat]
  omega

theorem wordJ_toNat {maj : Nat} (off : BitVec 26) (hm : maj < 64) :
    (wordJ maj off).toNat = maj * 2 ^ 26 + off.toNat := by
  have := off.isLt
  simp only [wordJ, BitVec.toNat_ofNat]
  omega

theorem wordV_toNat {maj fn : Nat} (vd vs1 vs2 vs3 : BitVec 5) (w : BitVec 2) (hm : maj < 64) (hf : fn < 16) :
    (wordV maj vd vs1 vs2 vs3 w fn).toNat =
      maj * 2 ^ 26 + vd.toNat * 2 ^ 21 + vs1.toNat * 2 ^ 16 + vs2.toNat * 2 ^ 11 + vs3.toNat * 2 ^ 6 + w.toNat * 2 ^ 4 + fn := by
  have := vd.isLt; have := vs1.isLt; have := vs2.isLt; have := vs3.isLt; have := w.isLt
  simp only [wordV, BitVec.toNat_ofNat]
  omega

/-! ### Format A -/

section
variable {maj fn : Nat} (rd rs1 rs2 : BitVec 5) (hm : maj < 64) (hf : fn < 2 ^ 11)
include hm hf

theorem fMaj_wordA : fMaj (wordA maj rd rs1 rs2 fn) = maj := by
  rw [fMaj, wordA_toNat rd rs1 rs2 hm hf]; have := rd.isLt; have := rs1.isLt; have := rs2.isLt; omega
theorem fA_wordA : fA (wordA maj rd rs1 rs2 fn) = rd := by
  apply BitVec.eq_of_toNat_eq
  rw [fA, wordA_toNat rd rs1 rs2 hm hf, BitVec.toNat_ofNat]; have := rd.isLt; have := rs1.isLt; have := rs2.isLt; omega
theorem fB_wordA : fB (wordA maj rd rs1 rs2 fn) = rs1 := by
  apply BitVec.eq_of_toNat_eq
  rw [fB, wordA_toNat rd rs1 rs2 hm hf, BitVec.toNat_ofNat]; have := rd.isLt; have := rs1.isLt; have := rs2.isLt; omega
theorem fC_wordA : fC (wordA maj rd rs1 rs2 fn) = rs2 := by
  apply BitVec.eq_of_toNat_eq
  rw [fC, wordA_toNat rd rs1 rs2 hm hf, BitVec.toNat_ofNat]; have := rd.isLt; have := rs1.isLt; have := rs2.isLt; omega
theorem fFn_wordA : fFn (wordA maj rd rs1 rs2 fn) = fn := by
  rw [fFn, wordA_toNat rd rs1 rs2 hm hf]; have := rd.isLt; have := rs1.isLt; have := rs2.isLt; omega
theorem low_wordA {k : Nat} (hk : k ∣ 2 ^ 11) : (wordA maj rd rs1 rs2 fn).toNat % k = fn % k := by
  obtain ⟨m, hm'⟩ := hk
  rw [wordA_toNat rd rs1 rs2 hm hf,
    show maj * 2 ^ 26 + rd.toNat * 2 ^ 21 + rs1.toNat * 2 ^ 16 + rs2.toNat * 2 ^ 11 + fn =
      fn + 2 ^ 11 * (maj * 2 ^ 15 + rd.toNat * 2 ^ 10 + rs1.toNat * 2 ^ 5 + rs2.toNat) by omega,
    hm', Nat.mul_assoc, Nat.add_mul_mod_self_left]
theorem definedWord_wordA : definedWord (wordA maj rd rs1 rs2 fn) = defined maj rd.toNat rs1.toNat rs2.toNat fn := by
  have := rd.isLt; have := rs1.isLt; have := rs2.isLt
  simp only [definedWord, wordA_toNat rd rs1 rs2 hm hf]
  apply defined_congr <;> omega
end

/-! ### Formats I and B -/

section
variable {maj : Nat} (rd rs1 : BitVec 5) (imm : BitVec 16) (hm : maj < 64)
include hm

theorem fMaj_wordI : fMaj (wordI maj rd rs1 imm) = maj := by
  rw [fMaj, wordI_toNat rd rs1 imm hm]; have := rd.isLt; have := rs1.isLt; have := imm.isLt; omega
theorem fA_wordI : fA (wordI maj rd rs1 imm) = rd := by
  apply BitVec.eq_of_toNat_eq
  rw [fA, wordI_toNat rd rs1 imm hm, BitVec.toNat_ofNat]; have := rd.isLt; have := rs1.isLt; have := imm.isLt; omega
theorem fB_wordI : fB (wordI maj rd rs1 imm) = rs1 := by
  apply BitVec.eq_of_toNat_eq
  rw [fB, wordI_toNat rd rs1 imm hm, BitVec.toNat_ofNat]; have := rd.isLt; have := rs1.isLt; have := imm.isLt; omega
theorem fImm_wordI : fImm (wordI maj rd rs1 imm) = imm := by
  apply BitVec.eq_of_toNat_eq
  rw [fImm, wordI_toNat rd rs1 imm hm, BitVec.toNat_ofNat]; have := rd.isLt; have := rs1.isLt; have := imm.isLt; omega
theorem definedWord_wordI : definedWord (wordI maj rd rs1 imm) =
    defined maj rd.toNat rs1.toNat (imm.toNat / 2 ^ 11) (imm.toNat % 2 ^ 11) := by
  have := rd.isLt; have := rs1.isLt; have := imm.isLt
  simp only [definedWord, wordI_toNat rd rs1 imm hm]
  apply defined_congr <;> omega
end

/-! ### Format M -/

section
variable {maj mf : Nat} (rt rb : BitVec 5) (off : BitVec 12) (hm : maj < 64) (hf : mf < 16)
include hm hf

theorem fMaj_wordM : fMaj (wordM maj rt rb mf off) = maj := by
  rw [fMaj, wordM_toNat rt rb off hm hf]; have := rt.isLt; have := rb.isLt; have := off.isLt; omega
theorem fA_wordM : fA (wordM maj rt rb mf off) = rt := by
  apply BitVec.eq_of_toNat_eq
  rw [fA, wordM_toNat rt rb off hm hf, BitVec.toNat_ofNat]; have := rt.isLt; have := rb.isLt; have := off.isLt; omega
theorem fB_wordM : fB (wordM maj rt rb mf off) = rb := by
  apply BitVec.eq_of_toNat_eq
  rw [fB, wordM_toNat rt rb off hm hf, BitVec.toNat_ofNat]; have := rt.isLt; have := rb.isLt; have := off.isLt; omega
theorem fMf_wordM : fMf (wordM maj rt rb mf off) = mf := by
  rw [fMf, wordM_toNat rt rb off hm hf]; have := rt.isLt; have := rb.isLt; have := off.isLt; omega
theorem fOff12_wordM : fOff12 (wordM maj rt rb mf off) = off := by
  apply BitVec.eq_of_toNat_eq
  rw [fOff12, wordM_toNat rt rb off hm hf, BitVec.toNat_ofNat]; have := rt.isLt; have := rb.isLt; have := off.isLt; omega
theorem definedWord_wordM : definedWord (wordM maj rt rb mf off) =
    defined maj rt.toNat rb.toNat ((mf * 2 ^ 12 + off.toNat) / 2 ^ 11) ((mf * 2 ^ 12 + off.toNat) % 2 ^ 11) := by
  have := rt.isLt; have := rb.isLt; have := off.isLt
  simp only [definedWord, wordM_toNat rt rb off hm hf]
  apply defined_congr <;> omega
end

/-! ### Format J -/

theorem fMaj_wordJ {maj : Nat} (off : BitVec 26) (hm : maj < 64) : fMaj (wordJ maj off) = maj := by
  rw [fMaj, wordJ_toNat off hm]; have := off.isLt; omega
theorem fOff26_wordJ {maj : Nat} (off : BitVec 26) (hm : maj < 64) : fOff26 (wordJ maj off) = off := by
  apply BitVec.eq_of_toNat_eq
  rw [fOff26, wordJ_toNat off hm, BitVec.toNat_ofNat]; have := off.isLt; omega
theorem maj_wordJ {maj : Nat} (off : BitVec 26) (hm : maj < 64) : (wordJ maj off).toNat / 67108864 = maj := fMaj_wordJ off hm

/-! ### Format V -/

section
variable {maj fn : Nat} (vd vs1 vs2 vs3 : BitVec 5) (w : BitVec 2) (hm : maj < 64) (hf : fn < 16)
include hm hf

theorem fMaj_wordV : fMaj (wordV maj vd vs1 vs2 vs3 w fn) = maj := by
  rw [fMaj, wordV_toNat vd vs1 vs2 vs3 w hm hf]
  have := vd.isLt; have := vs1.isLt; have := vs2.isLt; have := vs3.isLt; have := w.isLt; omega
theorem fA_wordV : fA (wordV maj vd vs1 vs2 vs3 w fn) = vd := by
  apply BitVec.eq_of_toNat_eq
  rw [fA, wordV_toNat vd vs1 vs2 vs3 w hm hf, BitVec.toNat_ofNat]
  have := vd.isLt; have := vs1.isLt; have := vs2.isLt; have := vs3.isLt; have := w.isLt; omega
theorem fB_wordV : fB (wordV maj vd vs1 vs2 vs3 w fn) = vs1 := by
  apply BitVec.eq_of_toNat_eq
  rw [fB, wordV_toNat vd vs1 vs2 vs3 w hm hf, BitVec.toNat_ofNat]
  have := vd.isLt; have := vs1.isLt; have := vs2.isLt; have := vs3.isLt; have := w.isLt; omega
theorem fC_wordV : fC (wordV maj vd vs1 vs2 vs3 w fn) = vs2 := by
  apply BitVec.eq_of_toNat_eq
  rw [fC, wordV_toNat vd vs1 vs2 vs3 w hm hf, BitVec.toNat_ofNat]
  have := vd.isLt; have := vs1.isLt; have := vs2.isLt; have := vs3.isLt; have := w.isLt; omega
theorem fD_wordV : fD (wordV maj vd vs1 vs2 vs3 w fn) = vs3 := by
  apply BitVec.eq_of_toNat_eq
  rw [fD, wordV_toNat vd vs1 vs2 vs3 w hm hf, BitVec.toNat_ofNat]
  have := vd.isLt; have := vs1.isLt; have := vs2.isLt; have := vs3.isLt; have := w.isLt; omega
theorem fW_wordV : fW (wordV maj vd vs1 vs2 vs3 w fn) = w := by
  apply BitVec.eq_of_toNat_eq
  rw [fW, wordV_toNat vd vs1 vs2 vs3 w hm hf, BitVec.toNat_ofNat]
  have := vd.isLt; have := vs1.isLt; have := vs2.isLt; have := vs3.isLt; have := w.isLt; omega
theorem fn_wordV : (wordV maj vd vs1 vs2 vs3 w fn).toNat % 16 = fn := by
  rw [wordV_toNat vd vs1 vs2 vs3 w hm hf]
  have := vd.isLt; have := vs1.isLt; have := vs2.isLt; have := vs3.isLt; have := w.isLt; omega
theorem definedWord_wordV : definedWord (wordV maj vd vs1 vs2 vs3 w fn) =
    defined maj vd.toNat vs1.toNat vs2.toNat (vs3.toNat * 2 ^ 6 + w.toNat * 2 ^ 4 + fn) := by
  have := vd.isLt; have := vs1.isLt; have := vs2.isLt; have := vs3.isLt; have := w.isLt
  simp only [definedWord, wordV_toNat vd vs1 vs2 vs3 w hm hf]
  apply defined_congr <;> omega
end

end Sys2Proof.Machine
end

