-- ==== Sys2Proof/Laws/PerInstr.lean ====
section
/-! SUPPORT. Encoding and decoding of every instruction agree (R72-R76): the family `Enc`, one lemma per constructor. -/

namespace Sys2Proof.Laws

open Sys2Proof.Machine

/-- The word of a well-formed instruction spells it. A command without a word says nothing here. -/
def Enc.Statement (i : Instr) : Prop := ∀ x w, instrWord i = some (x, w) → i.wf = true → spelt x w = i

theorem Enc.ofWord {i : Instr} {x : Issue} {w : Word} (h : instrWord i = some (x, w)) (hs : i.wf = true → spelt x w = i) :
    Enc.Statement i := by
  intro x' w' h' hw
  rw [h] at h'
  obtain ⟨rfl, rfl⟩ := Prod.mk.inj (Option.some.inj h')
  exact hs hw

theorem Enc.ofNone {i : Instr} (h : instrWord i = none) : Enc.Statement i := fun x w h' => by rw [h] at h'; cases h'

/-! ### Groups of words -/

theorem spelt_load (x : Issue) (rt rb : BitVec 5) (off : BitVec 12) {mf : Nat} (h : mf ≤ 13) :
    spelt x (wordM 0x18 rt rb mf off) = speltLoad x (wordM 0x18 rt rb mf off) := by
  have := off.isLt
  have hd : definedWord (wordM 0x18 rt rb mf off) = true := by
    rw [definedWord_wordM _ _ _ (by omega) (by omega)]
    simp only [defined, decide_eq_true_eq]
    omega
  simp [spelt, hd, fMaj_wordM _ _ _ (show 0x18 < 64 by omega) (show mf < 16 by omega)]

theorem spelt_store (x : Issue) (rt rb : BitVec 5) (off : BitVec 12) {mf : Nat} (h : mf ≤ 13)
    (h' : mf ≠ 1 ∧ mf ≠ 3 ∧ mf ≠ 5) :
    spelt x (wordM 0x19 rt rb mf off) = speltStore x (wordM 0x19 rt rb mf off) := by
  have := off.isLt
  have hd : definedWord (wordM 0x19 rt rb mf off) = true := by
    rw [definedWord_wordM _ _ _ (by omega) (by omega)]
    have : ((mf * 2 ^ 12 + off.toNat) / 2 ^ 11 * 2 ^ 11 + (mf * 2 ^ 12 + off.toNat) % 2 ^ 11) / 4096 = mf := by omega
    simp only [defined, this]
    simp [h']
    omega
  simp [spelt, hd, fMaj_wordM _ _ _ (show 0x19 < 64 by omega) (show mf < 16 by omega)]

theorem spelt_shift (x : Issue) (rd rs1 : BitVec 5) (sh : BitVec 6) {k : Nat} (h : k < 4) :
    spelt x (wordI 0x09 rd rs1 (BitVec.ofNat 16 (64 * k + sh.toNat))) =
      speltShift x (wordI 0x09 rd rs1 (BitVec.ofNat 16 (64 * k + sh.toNat))) := by
  have := sh.isLt
  have hd : definedWord (wordI 0x09 rd rs1 (BitVec.ofNat 16 (64 * k + sh.toNat))) = true := by
    rw [definedWord_wordI _ _ _ (by omega)]
    simp only [defined, decide_eq_true_eq, BitVec.toNat_ofNat]
    omega
  simp [spelt, hd, fMaj_wordI _ _ _ (show 0x09 < 64 by omega)]

theorem shift_op (rd rs1 : BitVec 5) (sh : BitVec 6) {k : Nat} (h : k < 4) :
    (wordI 0x09 rd rs1 (BitVec.ofNat 16 (64 * k + sh.toNat))).toNat / 2 ^ 6 % 4 = k := by
  have := sh.isLt
  rw [wordI_toNat _ _ _ (by omega), BitVec.toNat_ofNat]
  omega

theorem shift_amount (rd rs1 : BitVec 5) (sh : BitVec 6) {k : Nat} (h : k < 4) :
    BitVec.ofNat 6 (wordI 0x09 rd rs1 (BitVec.ofNat 16 (64 * k + sh.toNat))).toNat = sh := by
  apply BitVec.eq_of_toNat_eq
  have := sh.isLt
  rw [wordI_toNat _ _ _ (by omega), BitVec.toNat_ofNat, BitVec.toNat_ofNat]
  omega

theorem movk_word (x : Issue) (rd : BitVec 5) (k : BitVec 2) (imm : BitVec 16) :
    spelt x (wordI 0x0C rd (k.zeroExtend 5) imm) = .movk x rd k imm := by
  have hk := k.isLt
  have hd : definedWord (wordI 0x0C rd (k.zeroExtend 5) imm) = true := by
    rw [definedWord_wordI _ _ _ (by omega)]
    simp [defined]
    omega
  have hb : (k.zeroExtend 5).truncate 2 = k := by
    apply BitVec.eq_of_toNat_eq
    simp
  simp only [spelt, hd, fMaj_wordI _ _ _ (show 0x0C < 64 by omega), fA_wordI _ _ _ (show 0x0C < 64 by omega),
    fB_wordI _ _ _ (show 0x0C < 64 by omega), fImm_wordI _ _ _ (show 0x0C < 64 by omega), hb]
  simp

theorem b2n_le (b : Bool) : b2n b ≤ 1 := by cases b <;> decide

section
variable (rd rs1 rs2 : BitVec 5) (ord : BitVec 2) (size8 : Bool) {f : Nat}

theorem atomic_fn (h : f ≤ 10) : ord.toNat * 2 ^ 9 + b2n size8 * 2 ^ 8 + f < 2 ^ 11 := by
  have := ord.isLt; have := b2n_le size8
  omega

theorem spelt_atomic (x : Issue) (h : f ≤ 10)
    (h' : (f ≤ 8 ∨ size8 = true) ∧ (f = 10 → rd.toNat % 2 = 0 ∧ rs2.toNat % 2 = 0)) :
    spelt x (wordA 0x1A rd rs1 rs2 (ord.toNat * 2 ^ 9 + b2n size8 * 2 ^ 8 + f)) =
      speltAtomic x (wordA 0x1A rd rs1 rs2 (ord.toNat * 2 ^ 9 + b2n size8 * 2 ^ 8 + f)) := by
  have hf := atomic_fn ord size8 h
  have h1 := ord.isLt; have h2 := b2n_le size8
  have hd : definedWord (wordA 0x1A rd rs1 rs2 (ord.toNat * 2 ^ 9 + b2n size8 * 2 ^ 8 + f)) = true := by
    rw [definedWord_wordA _ _ _ (by omega) hf]
    have e1 : (ord.toNat * 2 ^ 9 + b2n size8 * 2 ^ 8 + f) / 16 % 16 = 0 := by omega
    have e2 : (ord.toNat * 2 ^ 9 + b2n size8 * 2 ^ 8 + f) % 16 = f := by omega
    have e3 : (ord.toNat * 2 ^ 9 + b2n size8 * 2 ^ 8 + f) / 256 % 2 = b2n size8 := by omega
    simp only [defined, atomicDefined, e1, e2, e3]
    obtain ⟨h3, h4⟩ := h'
    rcases h3 with h3 | h3
    · simp [h3]
    · subst h3
      by_cases h8 : f ≤ 8
      · simp [h8]
      · by_cases h9 : f = 9
        · subst h9; rfl
        · obtain ⟨h5, h6⟩ := h4 (by omega)
          have : f = 10 := by omega
          subst this
          simp [h5, h6, b2n]
  have hm := fMaj_wordA rd rs1 rs2 (show 0x1A < 64 by omega) hf
  generalize wordA 0x1A rd rs1 rs2 (ord.toNat * 2 ^ 9 + b2n size8 * 2 ^ 8 + f) = W at hd hm ⊢
  simp [spelt, hd, hm]

theorem atomic_fields (h : f ≤ 10) :
    let w := wordA 0x1A rd rs1 rs2 (ord.toNat * 2 ^ 9 + b2n size8 * 2 ^ 8 + f)
    fA w = rd ∧ fB w = rs1 ∧ fC w = rs2 ∧ w.toNat % 2 ^ 4 = f ∧ BitVec.ofNat 2 (w.toNat / 2 ^ 9) = ord ∧
      w.toNat.testBit 8 = size8 := by
  have hf := atomic_fn ord size8 h
  have h1 := ord.isLt; have h2 := b2n_le size8
  have hr := rs2.isLt; have hs := rs1.isLt; have ht := rd.isLt
  refine ⟨fA_wordA _ _ _ (by omega) hf, fB_wordA _ _ _ (by omega) hf, fC_wordA _ _ _ (by omega) hf, ?_, ?_, ?_⟩
  · rw [wordA_toNat _ _ _ (by omega) hf]; omega
  · apply BitVec.eq_of_toNat_eq
    rw [wordA_toNat _ _ _ (by omega) hf, BitVec.toNat_ofNat]; omega
  · rw [wordA_toNat _ _ _ (by omega) hf, Nat.testBit_eq_decide_div_mod_eq]
    have : (0x1A * 2 ^ 26 + rd.toNat * 2 ^ 21 + rs1.toNat * 2 ^ 16 + rs2.toNat * 2 ^ 11 +
        (ord.toNat * 2 ^ 9 + b2n size8 * 2 ^ 8 + f)) / 2 ^ 8 % 2 = b2n size8 := by omega
    rw [this]
    cases size8 <;> rfl
end

theorem qputm_word (x : Issue) (rd rs1 rs2 : BitVec 5) (n : BitVec 6) :
    spelt x (wordA 0x1F rd rs1 rs2 (n.toNat * 2 ^ 5 + 1)) = .qputm x rd rs1 rs2 n := by
  have hn := n.isLt
  have hf : n.toNat * 2 ^ 5 + 1 < 2 ^ 11 := by omega
  have hr := rs2.isLt; have hs := rs1.isLt; have ht := rd.isLt
  have hd : definedWord (wordA 0x1F rd rs1 rs2 (n.toNat * 2 ^ 5 + 1)) = true := by
    rw [definedWord_wordA _ _ _ (by omega) hf]
    have : (n.toNat * 2 ^ 5 + 1) % 32 = 1 := by omega
    simp only [defined, queueDefined, this]
    simp
  have e1 : (wordA 0x1F rd rs1 rs2 (n.toNat * 2 ^ 5 + 1)).toNat % 2 ^ 5 = 1 := by
    rw [wordA_toNat _ _ _ (by omega) hf]; omega
  have e2 : BitVec.ofNat 6 ((wordA 0x1F rd rs1 rs2 (n.toNat * 2 ^ 5 + 1)).toNat / 2 ^ 5) = n := by
    apply BitVec.eq_of_toNat_eq
    rw [wordA_toNat _ _ _ (by omega) hf, BitVec.toNat_ofNat]; omega
  simp only [spelt, hd, fMaj_wordA _ _ _ (show 0x1F < 64 by omega) hf, speltQueue, e1, e2,
    fA_wordA _ _ _ (show 0x1F < 64 by omega) hf, fB_wordA _ _ _ (show 0x1F < 64 by omega) hf,
    fC_wordA _ _ _ (show 0x1F < 64 by omega) hf]
  simp

section
variable (x : Issue) (vd vs1 vs2 vs3 : BitVec 5) (w : BitVec 2) {f : Nat}

/-- The parts of the low bits of a V-format word. -/
theorem low_parts (hf : f < 16) :
    (vs3.toNat * 2 ^ 6 + w.toNat * 2 ^ 4 + f) / 2 ^ 6 = vs3.toNat ∧
      (vs3.toNat * 2 ^ 6 + w.toNat * 2 ^ 4 + f) / 16 % 4 = w.toNat ∧ (vs3.toNat * 2 ^ 6 + w.toNat * 2 ^ 4 + f) % 16 = f := by
  have := w.isLt
  omega

theorem spelt_vint (hf : f < 16) :
    spelt x (wordV 0x20 vd vs1 vs2 0 w f) = speltVint x (wordV 0x20 vd vs1 vs2 0 w f) := by
  obtain ⟨e1, e2, e3⟩ := low_parts 0 w hf
  have hd : definedWord (wordV 0x20 vd vs1 vs2 0 w f) = true := by
    rw [definedWord_wordV _ _ _ _ _ (by omega) hf]
    simp only [defined, e1]
    rfl
  rw [spelt, hd, fMaj_wordV _ _ _ _ _ (show 0x20 < 64 by omega) hf]
  simp

/-- What VFP and SFP ask of a word (R95). -/
def vfpOk (scalar : Bool) (vs2 : BitVec 5) (w : BitVec 2) (f : Nat) : Prop := vfpDefined scalar vs2.toNat 0 w.toNat f = true

theorem spelt_vfp (hf : f < 16) (h : vfpOk false vs2 w f) :
    spelt x (wordV 0x21 vd vs1 vs2 0 w f) = speltVfp x (wordV 0x21 vd vs1 vs2 0 w f) := by
  obtain ⟨e1, e2, e3⟩ := low_parts 0 w hf
  have hd : definedWord (wordV 0x21 vd vs1 vs2 0 w f) = true := by
    rw [definedWord_wordV _ _ _ _ _ (by omega) hf]
    simp only [defined, e1, e2, e3]
    exact h
  rw [spelt, hd, fMaj_wordV _ _ _ _ _ (show 0x21 < 64 by omega) hf]
  simp

theorem spelt_sfp (hf : f < 16) (h : vfpOk true vs2 w f) :
    spelt x (wordV 0x22 vd vs1 vs2 0 w f) = speltSfp x (wordV 0x22 vd vs1 vs2 0 w f) := by
  obtain ⟨e1, e2, e3⟩ := low_parts 0 w hf
  have hd : definedWord (wordV 0x22 vd vs1 vs2 0 w f) = true := by
    rw [definedWord_wordV _ _ _ _ _ (by omega) hf]
    simp only [defined, e1, e2, e3]
    exact h
  rw [spelt, hd, fMaj_wordV _ _ _ _ _ (show 0x22 < 64 by omega) hf]
  simp

theorem width_cases (h : fpWidth w = true) : w = 2 ∨ w = 3 := by simpa [fpWidth] using h

theorem spelt_fma (hf : f ≤ 7) (h : fpWidth w = true) :
    spelt x (wordV 0x23 vd vs1 vs2 vs3 w f) = speltFma x (wordV 0x23 vd vs1 vs2 vs3 w f) := by
  obtain ⟨e1, e2, e3⟩ := low_parts vs3 w (show f < 16 by omega)
  have hd : definedWord (wordV 0x23 vd vs1 vs2 vs3 w f) = true := by
    rw [definedWord_wordV _ _ _ _ _ (by omega) (by omega)]
    simp only [defined, e2, e3]
    rcases width_cases w h with rfl | rfl <;> simp [hf]
  simp [spelt, hd, fMaj_wordV _ _ _ _ _ (show 0x23 < 64 by omega) (show f < 16 by omega)]

theorem spelt_perm (hf : f < 16) (h : vpermDefined vs2.toNat vs3.toNat w.toNat f = true) :
    spelt x (wordV 0x25 vd vs1 vs2 vs3 w f) = speltPerm x (wordV 0x25 vd vs1 vs2 vs3 w f) := by
  obtain ⟨e1, e2, e3⟩ := low_parts vs3 w hf
  have hd : definedWord (wordV 0x25 vd vs1 vs2 vs3 w f) = true := by
    rw [definedWord_wordV _ _ _ _ _ (by omega) hf]
    simp only [defined, e1, e2, e3]
    exact h
  simp [spelt, hd, fMaj_wordV _ _ _ _ _ (show 0x25 < 64 by omega) hf]
end

/-! ### One lemma per constructor -/

theorem Enc.pwrokRise (rcvrLow : Bool) (testHigh : Bool) : Enc.Statement (.pwrokRise rcvrLow testHigh) :=
  Enc.ofNone rfl
theorem Enc.pwrokFall : Enc.Statement (.pwrokFall) :=
  Enc.ofNone rfl
theorem Enc.supplyOutOfRange (rail : Rail) : Enc.Statement (.supplyOutOfRange rail) :=
  Enc.ofNone rfl
theorem Enc.warmRstLRequest : Enc.Statement (.warmRstLRequest) :=
  Enc.ofNone rfl
theorem Enc.warmResetDrainDeadline : Enc.Statement (.warmResetDrainDeadline) :=
  Enc.ofNone rfl
theorem Enc.fuseLoad : Enc.Statement (.fuseLoad) :=
  Enc.ofNone rfl
theorem Enc.flashDiscovery (octal : Bool) : Enc.Statement (.flashDiscovery octal) :=
  Enc.ofNone rfl
theorem Enc.imageSelection : Enc.Statement (.imageSelection) :=
  Enc.ofNone rfl
theorem Enc.imageApply (applied : Bool) : Enc.Statement (.imageApply applied) :=
  Enc.ofNone rfl
theorem Enc.firmwareSelection : Enc.Statement (.firmwareSelection) :=
  Enc.ofNone rfl
theorem Enc.secStart : Enc.Statement (.secStart) :=
  Enc.ofNone rfl
theorem Enc.memoryTraining (dimms : List Dimm) (cacheBad : BitVec 16) (untrained : BitVec 16) (cxl : List CxlDev) : Enc.Statement (.memoryTraining dimms cacheBad untrained cxl) :=
  Enc.ofNone rfl
theorem Enc.firmwareReserveSetup : Enc.Statement (.firmwareReserveSetup) :=
  Enc.ofNone rfl
theorem Enc.bootCoreRelease : Enc.Statement (.bootCoreRelease) :=
  Enc.ofNone rfl
theorem Enc.recoveryImageReceived (firmware : Bool) (tftp : Option NetFrame) (image : List (BitVec 8)) : Enc.Statement (.recoveryImageReceived firmware tftp image) :=
  Enc.ofNone rfl
theorem Enc.imageUpdateTimeout : Enc.Statement (.imageUpdateTimeout) :=
  Enc.ofNone rfl
theorem Enc.mboxCollide (mb : Fin 5) : Enc.Statement (.mboxCollide mb) :=
  Enc.ofNone rfl
theorem Enc.mboxUnknownCode (mb : Fin 5) : Enc.Statement (.mboxUnknownCode mb) :=
  Enc.ofNone rfl
theorem Enc.getInfo (mb : Fin 5) : Enc.Statement (.getInfo mb) :=
  Enc.ofNone rfl
theorem Enc.getBootstat (mb : Fin 5) : Enc.Statement (.getBootstat mb) :=
  Enc.ofNone rfl
theorem Enc.imageBegin (mb : Fin 5) (flashOk : Bool) : Enc.Statement (.imageBegin mb flashOk) :=
  Enc.ofNone rfl
theorem Enc.imageChunk (mb : Fin 5) (flashOk : Bool) : Enc.Statement (.imageChunk mb flashOk) :=
  Enc.ofNone rfl
theorem Enc.imageEnd (mb : Fin 5) (flashOk : Bool) : Enc.Statement (.imageEnd mb flashOk) :=
  Enc.ofNone rfl
theorem Enc.reset (mb : Fin 5) : Enc.Statement (.reset mb) :=
  Enc.ofNone rfl
theorem Enc.coreRelease (mb : Fin 5) : Enc.Statement (.coreRelease mb) :=
  Enc.ofNone rfl
theorem Enc.setPower (mb : Fin 5) : Enc.Statement (.setPower mb) :=
  Enc.ofNone rfl
theorem Enc.telemetryRead (mb : Fin 5) : Enc.Statement (.telemetryRead mb) :=
  Enc.ofNone rfl
theorem Enc.errlogRead (mb : Fin 5) : Enc.Statement (.errlogRead mb) :=
  Enc.ofNone rfl
theorem Enc.getSignet (mb : Fin 5) : Enc.Statement (.getSignet mb) :=
  Enc.ofNone rfl
theorem Enc.svnCommit (mb : Fin 5) : Enc.Statement (.svnCommit mb) :=
  Enc.ofNone rfl
theorem Enc.keyRevoke (mb : Fin 5) : Enc.Statement (.keyRevoke mb) :=
  Enc.ofNone rfl
theorem Enc.keyProgram (mb : Fin 5) : Enc.Statement (.keyProgram mb) :=
  Enc.ofNone rfl
theorem Enc.twRestart (mb : Fin 5) : Enc.Statement (.twRestart mb) :=
  Enc.ofNone rfl
theorem Enc.illegalInstr (x : Issue) (word : BitVec 32) : Enc.Statement (.illegalInstr x word) :=
  Enc.ofWord rfl fun hw => by
    have : definedWord word = false := by simpa [Instr.wf] using hw
    simp [spelt, this]
theorem Enc.add (x : Issue) (rd : BitVec 5) (rs1 : BitVec 5) (rs2 : BitVec 5) : Enc.Statement (.add x rd rs1 rs2) :=
  Enc.ofWord rfl fun _ => by simp [spelt, definedWord_wordA, fMaj_wordA, fA_wordA, fB_wordA, fC_wordA, fFn_wordA, defined, aluDefined, speltAlu]
theorem Enc.sub (x : Issue) (rd : BitVec 5) (rs1 : BitVec 5) (rs2 : BitVec 5) : Enc.Statement (.sub x rd rs1 rs2) :=
  Enc.ofWord rfl fun _ => by simp [spelt, definedWord_wordA, fMaj_wordA, fA_wordA, fB_wordA, fC_wordA, fFn_wordA, defined, aluDefined, speltAlu]
theorem Enc.and (x : Issue) (rd : BitVec 5) (rs1 : BitVec 5) (rs2 : BitVec 5) : Enc.Statement (.and x rd rs1 rs2) :=
  Enc.ofWord rfl fun _ => by simp [spelt, definedWord_wordA, fMaj_wordA, fA_wordA, fB_wordA, fC_wordA, fFn_wordA, defined, aluDefined, speltAlu]
theorem Enc.or (x : Issue) (rd : BitVec 5) (rs1 : BitVec 5) (rs2 : BitVec 5) : Enc.Statement (.or x rd rs1 rs2) :=
  Enc.ofWord rfl fun _ => by simp [spelt, definedWord_wordA, fMaj_wordA, fA_wordA, fB_wordA, fC_wordA, fFn_wordA, defined, aluDefined, speltAlu]
theorem Enc.xor (x : Issue) (rd : BitVec 5) (rs1 : BitVec 5) (rs2 : BitVec 5) : Enc.Statement (.xor x rd rs1 rs2) :=
  Enc.ofWord rfl fun _ => by simp [spelt, definedWord_wordA, fMaj_wordA, fA_wordA, fB_wordA, fC_wordA, fFn_wordA, defined, aluDefined, speltAlu]
theorem Enc.andn (x : Issue) (rd : BitVec 5) (rs1 : BitVec 5) (rs2 : BitVec 5) : Enc.Statement (.andn x rd rs1 rs2) :=
  Enc.ofWord rfl fun _ => by simp [spelt, definedWord_wordA, fMaj_wordA, fA_wordA, fB_wordA, fC_wordA, fFn_wordA, defined, aluDefined, speltAlu]
theorem Enc.sll (x : Issue) (rd : BitVec 5) (rs1 : BitVec 5) (rs2 : BitVec 5) : Enc.Statement (.sll x rd rs1 rs2) :=
  Enc.ofWord rfl fun _ => by simp [spelt, definedWord_wordA, fMaj_wordA, fA_wordA, fB_wordA, fC_wordA, fFn_wordA, defined, aluDefined, speltAlu]
theorem Enc.srl (x : Issue) (rd : BitVec 5) (rs1 : BitVec 5) (rs2 : BitVec 5) : Enc.Statement (.srl x rd rs1 rs2) :=
  Enc.ofWord rfl fun _ => by simp [spelt, definedWord_wordA, fMaj_wordA, fA_wordA, fB_wordA, fC_wordA, fFn_wordA, defined, aluDefined, speltAlu]
theorem Enc.sra (x : Issue) (rd : BitVec 5) (rs1 : BitVec 5) (rs2 : BitVec 5) : Enc.Statement (.sra x rd rs1 rs2) :=
  Enc.ofWord rfl fun _ => by simp [spelt, definedWord_wordA, fMaj_wordA, fA_wordA, fB_wordA, fC_wordA, fFn_wordA, defined, aluDefined, speltAlu]
theorem Enc.ror (x : Issue) (rd : BitVec 5) (rs1 : BitVec 5) (rs2 : BitVec 5) : Enc.Statement (.ror x rd rs1 rs2) :=
  Enc.ofWord rfl fun _ => by simp [spelt, definedWord_wordA, fMaj_wordA, fA_wordA, fB_wordA, fC_wordA, fFn_wordA, defined, aluDefined, speltAlu]
theorem Enc.slt (x : Issue) (rd : BitVec 5) (rs1 : BitVec 5) (rs2 : BitVec 5) : Enc.Statement (.slt x rd rs1 rs2) :=
  Enc.ofWord rfl fun _ => by simp [spelt, definedWord_wordA, fMaj_wordA, fA_wordA, fB_wordA, fC_wordA, fFn_wordA, defined, aluDefined, speltAlu]
theorem Enc.sltu (x : Issue) (rd : BitVec 5) (rs1 : BitVec 5) (rs2 : BitVec 5) : Enc.Statement (.sltu x rd rs1 rs2) :=
  Enc.ofWord rfl fun _ => by simp [spelt, definedWord_wordA, fMaj_wordA, fA_wordA, fB_wordA, fC_wordA, fFn_wordA, defined, aluDefined, speltAlu]
theorem Enc.seq (x : Issue) (rd : BitVec 5) (rs1 : BitVec 5) (rs2 : BitVec 5) : Enc.Statement (.seq x rd rs1 rs2) :=
  Enc.ofWord rfl fun _ => by simp [spelt, definedWord_wordA, fMaj_wordA, fA_wordA, fB_wordA, fC_wordA, fFn_wordA, defined, aluDefined, speltAlu]
theorem Enc.sne (x : Issue) (rd : BitVec 5) (rs1 : BitVec 5) (rs2 : BitVec 5) : Enc.Statement (.sne x rd rs1 rs2) :=
  Enc.ofWord rfl fun _ => by simp [spelt, definedWord_wordA, fMaj_wordA, fA_wordA, fB_wordA, fC_wordA, fFn_wordA, defined, aluDefined, speltAlu]
theorem Enc.min (x : Issue) (rd : BitVec 5) (rs1 : BitVec 5) (rs2 : BitVec 5) : Enc.Statement (.min x rd rs1 rs2) :=
  Enc.ofWord rfl fun _ => by simp [spelt, definedWord_wordA, fMaj_wordA, fA_wordA, fB_wordA, fC_wordA, fFn_wordA, defined, aluDefined, speltAlu]
theorem Enc.max (x : Issue) (rd : BitVec 5) (rs1 : BitVec 5) (rs2 : BitVec 5) : Enc.Statement (.max x rd rs1 rs2) :=
  Enc.ofWord rfl fun _ => by simp [spelt, definedWord_wordA, fMaj_wordA, fA_wordA, fB_wordA, fC_wordA, fFn_wordA, defined, aluDefined, speltAlu]
theorem Enc.minu (x : Issue) (rd : BitVec 5) (rs1 : BitVec 5) (rs2 : BitVec 5) : Enc.Statement (.minu x rd rs1 rs2) :=
  Enc.ofWord rfl fun _ => by simp [spelt, definedWord_wordA, fMaj_wordA, fA_wordA, fB_wordA, fC_wordA, fFn_wordA, defined, aluDefined, speltAlu]
theorem Enc.maxu (x : Issue) (rd : BitVec 5) (rs1 : BitVec 5) (rs2 : BitVec 5) : Enc.Statement (.maxu x rd rs1 rs2) :=
  Enc.ofWord rfl fun _ => by simp [spelt, definedWord_wordA, fMaj_wordA, fA_wordA, fB_wordA, fC_wordA, fFn_wordA, defined, aluDefined, speltAlu]
theorem Enc.clz (x : Issue) (rd : BitVec 5) (rs1 : BitVec 5) : Enc.Statement (.clz x rd rs1) :=
  Enc.ofWord rfl fun _ => by simp [spelt, definedWord_wordA, fMaj_wordA, fA_wordA, fB_wordA, fC_wordA, fFn_wordA, defined, aluDefined, speltAlu]
theorem Enc.ctz (x : Issue) (rd : BitVec 5) (rs1 : BitVec 5) : Enc.Statement (.ctz x rd rs1) :=
  Enc.ofWord rfl fun _ => by simp [spelt, definedWord_wordA, fMaj_wordA, fA_wordA, fB_wordA, fC_wordA, fFn_wordA, defined, aluDefined, speltAlu]
theorem Enc.popc (x : Issue) (rd : BitVec 5) (rs1 : BitVec 5) : Enc.Statement (.popc x rd rs1) :=
  Enc.ofWord rfl fun _ => by simp [spelt, definedWord_wordA, fMaj_wordA, fA_wordA, fB_wordA, fC_wordA, fFn_wordA, defined, aluDefined, speltAlu]
theorem Enc.bswap (x : Issue) (rd : BitVec 5) (rs1 : BitVec 5) : Enc.Statement (.bswap x rd rs1) :=
  Enc.ofWord rfl fun _ => by simp [spelt, definedWord_wordA, fMaj_wordA, fA_wordA, fB_wordA, fC_wordA, fFn_wordA, defined, aluDefined, speltAlu]
theorem Enc.mul (x : Issue) (rd : BitVec 5) (rs1 : BitVec 5) (rs2 : BitVec 5) : Enc.Statement (.mul x rd rs1 rs2) :=
  Enc.ofWord rfl fun _ => by simp [spelt, definedWord_wordA, fMaj_wordA, fA_wordA, fB_wordA, fC_wordA, fFn_wordA, defined, speltMuldiv]
theorem Enc.mulh (x : Issue) (rd : BitVec 5) (rs1 : BitVec 5) (rs2 : BitVec 5) : Enc.Statement (.mulh x rd rs1 rs2) :=
  Enc.ofWord rfl fun _ => by simp [spelt, definedWord_wordA, fMaj_wordA, fA_wordA, fB_wordA, fC_wordA, fFn_wordA, defined, speltMuldiv]
theorem Enc.mulhu (x : Issue) (rd : BitVec 5) (rs1 : BitVec 5) (rs2 : BitVec 5) : Enc.Statement (.mulhu x rd rs1 rs2) :=
  Enc.ofWord rfl fun _ => by simp [spelt, definedWord_wordA, fMaj_wordA, fA_wordA, fB_wordA, fC_wordA, fFn_wordA, defined, speltMuldiv]
theorem Enc.mulhsu (x : Issue) (rd : BitVec 5) (rs1 : BitVec 5) (rs2 : BitVec 5) : Enc.Statement (.mulhsu x rd rs1 rs2) :=
  Enc.ofWord rfl fun _ => by simp [spelt, definedWord_wordA, fMaj_wordA, fA_wordA, fB_wordA, fC_wordA, fFn_wordA, defined, speltMuldiv]
theorem Enc.div (x : Issue) (rd : BitVec 5) (rs1 : BitVec 5) (rs2 : BitVec 5) : Enc.Statement (.div x rd rs1 rs2) :=
  Enc.ofWord rfl fun _ => by simp [spelt, definedWord_wordA, fMaj_wordA, fA_wordA, fB_wordA, fC_wordA, fFn_wordA, defined, speltMuldiv]
theorem Enc.divu (x : Issue) (rd : BitVec 5) (rs1 : BitVec 5) (rs2 : BitVec 5) : Enc.Statement (.divu x rd rs1 rs2) :=
  Enc.ofWord rfl fun _ => by simp [spelt, definedWord_wordA, fMaj_wordA, fA_wordA, fB_wordA, fC_wordA, fFn_wordA, defined, speltMuldiv]
theorem Enc.rem (x : Issue) (rd : BitVec 5) (rs1 : BitVec 5) (rs2 : BitVec 5) : Enc.Statement (.rem x rd rs1 rs2) :=
  Enc.ofWord rfl fun _ => by simp [spelt, definedWord_wordA, fMaj_wordA, fA_wordA, fB_wordA, fC_wordA, fFn_wordA, defined, speltMuldiv]
theorem Enc.remu (x : Issue) (rd : BitVec 5) (rs1 : BitVec 5) (rs2 : BitVec 5) : Enc.Statement (.remu x rd rs1 rs2) :=
  Enc.ofWord rfl fun _ => by simp [spelt, definedWord_wordA, fMaj_wordA, fA_wordA, fB_wordA, fC_wordA, fFn_wordA, defined, speltMuldiv]
theorem Enc.addi (x : Issue) (rd : BitVec 5) (rs1 : BitVec 5) (imm : BitVec 16) : Enc.Statement (.addi x rd rs1 imm) :=
  Enc.ofWord rfl fun _ => by simp [spelt, definedWord_wordI, fMaj_wordI, fA_wordI, fB_wordI, fImm_wordI, defined]
theorem Enc.andi (x : Issue) (rd : BitVec 5) (rs1 : BitVec 5) (imm : BitVec 16) : Enc.Statement (.andi x rd rs1 imm) :=
  Enc.ofWord rfl fun _ => by simp [spelt, definedWord_wordI, fMaj_wordI, fA_wordI, fB_wordI, fImm_wordI, defined]
theorem Enc.ori (x : Issue) (rd : BitVec 5) (rs1 : BitVec 5) (imm : BitVec 16) : Enc.Statement (.ori x rd rs1 imm) :=
  Enc.ofWord rfl fun _ => by simp [spelt, definedWord_wordI, fMaj_wordI, fA_wordI, fB_wordI, fImm_wordI, defined]
theorem Enc.xori (x : Issue) (rd : BitVec 5) (rs1 : BitVec 5) (imm : BitVec 16) : Enc.Statement (.xori x rd rs1 imm) :=
  Enc.ofWord rfl fun _ => by simp [spelt, definedWord_wordI, fMaj_wordI, fA_wordI, fB_wordI, fImm_wordI, defined]
theorem Enc.slti (x : Issue) (rd : BitVec 5) (rs1 : BitVec 5) (imm : BitVec 16) : Enc.Statement (.slti x rd rs1 imm) :=
  Enc.ofWord rfl fun _ => by simp [spelt, definedWord_wordI, fMaj_wordI, fA_wordI, fB_wordI, fImm_wordI, defined]
theorem Enc.sltiu (x : Issue) (rd : BitVec 5) (rs1 : BitVec 5) (imm : BitVec 16) : Enc.Statement (.sltiu x rd rs1 imm) :=
  Enc.ofWord rfl fun _ => by simp [spelt, definedWord_wordI, fMaj_wordI, fA_wordI, fB_wordI, fImm_wordI, defined]
theorem Enc.lui (x : Issue) (rd : BitVec 5) (imm : BitVec 16) : Enc.Statement (.lui x rd imm) :=
  Enc.ofWord rfl fun _ => by simp [spelt, definedWord_wordI, fMaj_wordI, fA_wordI, fB_wordI, fImm_wordI, defined]
theorem Enc.auipc (x : Issue) (rd : BitVec 5) (imm : BitVec 16) : Enc.Statement (.auipc x rd imm) :=
  Enc.ofWord rfl fun _ => by simp [spelt, definedWord_wordI, fMaj_wordI, fA_wordI, fB_wordI, fImm_wordI, defined]
theorem Enc.movk (x : Issue) (rd : BitVec 5) (k : BitVec 2) (imm : BitVec 16) : Enc.Statement (.movk x rd k imm) :=
  Enc.ofWord rfl fun _ => movk_word x rd k imm
theorem Enc.slli (x : Issue) (rd : BitVec 5) (rs1 : BitVec 5) (sh : BitVec 6) : Enc.Statement (.slli x rd rs1 sh) :=
  Enc.ofWord rfl fun _ => by
    rw [spelt_shift x rd rs1 sh (k := 0) (by omega)]
    simp only [speltShift, shift_op rd rs1 sh (k := 0) (by omega), shift_amount rd rs1 sh (k := 0) (by omega), fA_wordI _ _ _ (show 0x09 < 64 by omega), fB_wordI _ _ _ (show 0x09 < 64 by omega)]
theorem Enc.srli (x : Issue) (rd : BitVec 5) (rs1 : BitVec 5) (sh : BitVec 6) : Enc.Statement (.srli x rd rs1 sh) :=
  Enc.ofWord rfl fun _ => by
    rw [spelt_shift x rd rs1 sh (k := 1) (by omega)]
    simp only [speltShift, shift_op rd rs1 sh (k := 1) (by omega), shift_amount rd rs1 sh (k := 1) (by omega), fA_wordI _ _ _ (show 0x09 < 64 by omega), fB_wordI _ _ _ (show 0x09 < 64 by omega)]
theorem Enc.srai (x : Issue) (rd : BitVec 5) (rs1 : BitVec 5) (sh : BitVec 6) : Enc.Statement (.srai x rd rs1 sh) :=
  Enc.ofWord rfl fun _ => by
    rw [spelt_shift x rd rs1 sh (k := 2) (by omega)]
    simp only [speltShift, shift_op rd rs1 sh (k := 2) (by omega), shift_amount rd rs1 sh (k := 2) (by omega), fA_wordI _ _ _ (show 0x09 < 64 by omega), fB_wordI _ _ _ (show 0x09 < 64 by omega)]
theorem Enc.rori (x : Issue) (rd : BitVec 5) (rs1 : BitVec 5) (sh : BitVec 6) : Enc.Statement (.rori x rd rs1 sh) :=
  Enc.ofWord rfl fun _ => by
    rw [spelt_shift x rd rs1 sh (k := 3) (by omega)]
    simp only [speltShift, shift_op rd rs1 sh (k := 3) (by omega), shift_amount rd rs1 sh (k := 3) (by omega), fA_wordI _ _ _ (show 0x09 < 64 by omega), fB_wordI _ _ _ (show 0x09 < 64 by omega)]
theorem Enc.beq (x : Issue) (rs1 : BitVec 5) (rs2 : BitVec 5) (off : BitVec 16) : Enc.Statement (.beq x rs1 rs2 off) :=
  Enc.ofWord rfl fun _ => by simp [spelt, definedWord_wordI, fMaj_wordI, fA_wordI, fB_wordI, fImm_wordI, defined]
theorem Enc.bne (x : Issue) (rs1 : BitVec 5) (rs2 : BitVec 5) (off : BitVec 16) : Enc.Statement (.bne x rs1 rs2 off) :=
  Enc.ofWord rfl fun _ => by simp [spelt, definedWord_wordI, fMaj_wordI, fA_wordI, fB_wordI, fImm_wordI, defined]
theorem Enc.blt (x : Issue) (rs1 : BitVec 5) (rs2 : BitVec 5) (off : BitVec 16) : Enc.Statement (.blt x rs1 rs2 off) :=
  Enc.ofWord rfl fun _ => by simp [spelt, definedWord_wordI, fMaj_wordI, fA_wordI, fB_wordI, fImm_wordI, defined]
theorem Enc.bge (x : Issue) (rs1 : BitVec 5) (rs2 : BitVec 5) (off : BitVec 16) : Enc.Statement (.bge x rs1 rs2 off) :=
  Enc.ofWord rfl fun _ => by simp [spelt, definedWord_wordI, fMaj_wordI, fA_wordI, fB_wordI, fImm_wordI, defined]
theorem Enc.bltu (x : Issue) (rs1 : BitVec 5) (rs2 : BitVec 5) (off : BitVec 16) : Enc.Statement (.bltu x rs1 rs2 off) :=
  Enc.ofWord rfl fun _ => by simp [spelt, definedWord_wordI, fMaj_wordI, fA_wordI, fB_wordI, fImm_wordI, defined]
theorem Enc.bgeu (x : Issue) (rs1 : BitVec 5) (rs2 : BitVec 5) (off : BitVec 16) : Enc.Statement (.bgeu x rs1 rs2 off) :=
  Enc.ofWord rfl fun _ => by simp [spelt, definedWord_wordI, fMaj_wordI, fA_wordI, fB_wordI, fImm_wordI, defined]
theorem Enc.j (x : Issue) (off : BitVec 26) : Enc.Statement (.j x off) :=
  Enc.ofWord rfl fun _ => by simp [spelt, definedWord, maj_wordJ, fMaj_wordJ, fOff26_wordJ, defined]
theorem Enc.jal (x : Issue) (off : BitVec 26) : Enc.Statement (.jal x off) :=
  Enc.ofWord rfl fun _ => by simp [spelt, definedWord, maj_wordJ, fMaj_wordJ, fOff26_wordJ, defined]
theorem Enc.jalr (x : Issue) (rd : BitVec 5) (rs1 : BitVec 5) (imm : BitVec 16) : Enc.Statement (.jalr x rd rs1 imm) :=
  Enc.ofWord rfl fun _ => by simp [spelt, definedWord_wordI, fMaj_wordI, fA_wordI, fB_wordI, fImm_wordI, defined]
theorem Enc.lb (x : Issue) (rt : BitVec 5) (rb : BitVec 5) (off : BitVec 12) : Enc.Statement (.lb x rt rb off) :=
  Enc.ofWord rfl fun _ => by rw [spelt_load x rt rb off (by omega)]; simp [speltLoad, fA_wordM, fB_wordM, fMf_wordM, fOff12_wordM]
theorem Enc.lbu (x : Issue) (rt : BitVec 5) (rb : BitVec 5) (off : BitVec 12) : Enc.Statement (.lbu x rt rb off) :=
  Enc.ofWord rfl fun _ => by rw [spelt_load x rt rb off (by omega)]; simp [speltLoad, fA_wordM, fB_wordM, fMf_wordM, fOff12_wordM]
theorem Enc.lh (x : Issue) (rt : BitVec 5) (rb : BitVec 5) (off : BitVec 12) : Enc.Statement (.lh x rt rb off) :=
  Enc.ofWord rfl fun _ => by rw [spelt_load x rt rb off (by omega)]; simp [speltLoad, fA_wordM, fB_wordM, fMf_wordM, fOff12_wordM]
theorem Enc.lhu (x : Issue) (rt : BitVec 5) (rb : BitVec 5) (off : BitVec 12) : Enc.Statement (.lhu x rt rb off) :=
  Enc.ofWord rfl fun _ => by rw [spelt_load x rt rb off (by omega)]; simp [speltLoad, fA_wordM, fB_wordM, fMf_wordM, fOff12_wordM]
theorem Enc.lw (x : Issue) (rt : BitVec 5) (rb : BitVec 5) (off : BitVec 12) : Enc.Statement (.lw x rt rb off) :=
  Enc.ofWord rfl fun _ => by rw [spelt_load x rt rb off (by omega)]; simp [speltLoad, fA_wordM, fB_wordM, fMf_wordM, fOff12_wordM]
theorem Enc.lwu (x : Issue) (rt : BitVec 5) (rb : BitVec 5) (off : BitVec 12) : Enc.Statement (.lwu x rt rb off) :=
  Enc.ofWord rfl fun _ => by rw [spelt_load x rt rb off (by omega)]; simp [speltLoad, fA_wordM, fB_wordM, fMf_wordM, fOff12_wordM]
theorem Enc.ld (x : Issue) (rt : BitVec 5) (rb : BitVec 5) (off : BitVec 12) : Enc.Statement (.ld x rt rb off) :=
  Enc.ofWord rfl fun _ => by rw [spelt_load x rt rb off (by omega)]; simp [speltLoad, fA_wordM, fB_wordM, fMf_wordM, fOff12_wordM]
theorem Enc.lv (x : Issue) (rt : BitVec 5) (rb : BitVec 5) (off : BitVec 12) : Enc.Statement (.lv x rt rb off) :=
  Enc.ofWord rfl fun _ => by rw [spelt_load x rt rb off (by omega)]; simp [speltLoad, fA_wordM, fB_wordM, fMf_wordM, fOff12_wordM]
theorem Enc.lab (x : Issue) (rt : BitVec 5) (rb : BitVec 5) (off : BitVec 12) : Enc.Statement (.lab x rt rb off) :=
  Enc.ofWord rfl fun _ => by rw [spelt_load x rt rb off (by omega)]; simp [speltLoad, fA_wordM, fB_wordM, fMf_wordM, fOff12_wordM]
theorem Enc.lah (x : Issue) (rt : BitVec 5) (rb : BitVec 5) (off : BitVec 12) : Enc.Statement (.lah x rt rb off) :=
  Enc.ofWord rfl fun _ => by rw [spelt_load x rt rb off (by omega)]; simp [speltLoad, fA_wordM, fB_wordM, fMf_wordM, fOff12_wordM]
theorem Enc.law (x : Issue) (rt : BitVec 5) (rb : BitVec 5) (off : BitVec 12) : Enc.Statement (.law x rt rb off) :=
  Enc.ofWord rfl fun _ => by rw [spelt_load x rt rb off (by omega)]; simp [speltLoad, fA_wordM, fB_wordM, fMf_wordM, fOff12_wordM]
theorem Enc.lad (x : Issue) (rt : BitVec 5) (rb : BitVec 5) (off : BitVec 12) : Enc.Statement (.lad x rt rb off) :=
  Enc.ofWord rfl fun _ => by rw [spelt_load x rt rb off (by omega)]; simp [speltLoad, fA_wordM, fB_wordM, fMf_wordM, fOff12_wordM]
theorem Enc.flw (x : Issue) (rt : BitVec 5) (rb : BitVec 5) (off : BitVec 12) : Enc.Statement (.flw x rt rb off) :=
  Enc.ofWord rfl fun _ => by rw [spelt_load x rt rb off (by omega)]; simp [speltLoad, fA_wordM, fB_wordM, fMf_wordM, fOff12_wordM]
theorem Enc.fld (x : Issue) (rt : BitVec 5) (rb : BitVec 5) (off : BitVec 12) : Enc.Statement (.fld x rt rb off) :=
  Enc.ofWord rfl fun _ => by rw [spelt_load x rt rb off (by omega)]; simp [speltLoad, fA_wordM, fB_wordM, fMf_wordM, fOff12_wordM]
theorem Enc.sb (x : Issue) (rt : BitVec 5) (rb : BitVec 5) (off : BitVec 12) : Enc.Statement (.sb x rt rb off) :=
  Enc.ofWord rfl fun _ => by rw [spelt_store x rt rb off (by omega) (by omega)]; simp [speltStore, fA_wordM, fB_wordM, fMf_wordM, fOff12_wordM]
theorem Enc.sh (x : Issue) (rt : BitVec 5) (rb : BitVec 5) (off : BitVec 12) : Enc.Statement (.sh x rt rb off) :=
  Enc.ofWord rfl fun _ => by rw [spelt_store x rt rb off (by omega) (by omega)]; simp [speltStore, fA_wordM, fB_wordM, fMf_wordM, fOff12_wordM]
theorem Enc.sw (x : Issue) (rt : BitVec 5) (rb : BitVec 5) (off : BitVec 12) : Enc.Statement (.sw x rt rb off) :=
  Enc.ofWord rfl fun _ => by rw [spelt_store x rt rb off (by omega) (by omega)]; simp [speltStore, fA_wordM, fB_wordM, fMf_wordM, fOff12_wordM]
theorem Enc.sd (x : Issue) (rt : BitVec 5) (rb : BitVec 5) (off : BitVec 12) : Enc.Statement (.sd x rt rb off) :=
  Enc.ofWord rfl fun _ => by rw [spelt_store x rt rb off (by omega) (by omega)]; simp [speltStore, fA_wordM, fB_wordM, fMf_wordM, fOff12_wordM]
theorem Enc.sv (x : Issue) (rt : BitVec 5) (rb : BitVec 5) (off : BitVec 12) : Enc.Statement (.sv x rt rb off) :=
  Enc.ofWord rfl fun _ => by rw [spelt_store x rt rb off (by omega) (by omega)]; simp [speltStore, fA_wordM, fB_wordM, fMf_wordM, fOff12_wordM]
theorem Enc.srb (x : Issue) (rt : BitVec 5) (rb : BitVec 5) (off : BitVec 12) : Enc.Statement (.srb x rt rb off) :=
  Enc.ofWord rfl fun _ => by rw [spelt_store x rt rb off (by omega) (by omega)]; simp [speltStore, fA_wordM, fB_wordM, fMf_wordM, fOff12_wordM]
theorem Enc.srh (x : Issue) (rt : BitVec 5) (rb : BitVec 5) (off : BitVec 12) : Enc.Statement (.srh x rt rb off) :=
  Enc.ofWord rfl fun _ => by rw [spelt_store x rt rb off (by omega) (by omega)]; simp [speltStore, fA_wordM, fB_wordM, fMf_wordM, fOff12_wordM]
theorem Enc.srw (x : Issue) (rt : BitVec 5) (rb : BitVec 5) (off : BitVec 12) : Enc.Statement (.srw x rt rb off) :=
  Enc.ofWord rfl fun _ => by rw [spelt_store x rt rb off (by omega) (by omega)]; simp [speltStore, fA_wordM, fB_wordM, fMf_wordM, fOff12_wordM]
theorem Enc.srd (x : Issue) (rt : BitVec 5) (rb : BitVec 5) (off : BitVec 12) : Enc.Statement (.srd x rt rb off) :=
  Enc.ofWord rfl fun _ => by rw [spelt_store x rt rb off (by omega) (by omega)]; simp [speltStore, fA_wordM, fB_wordM, fMf_wordM, fOff12_wordM]
theorem Enc.fsw (x : Issue) (rt : BitVec 5) (rb : BitVec 5) (off : BitVec 12) : Enc.Statement (.fsw x rt rb off) :=
  Enc.ofWord rfl fun _ => by rw [spelt_store x rt rb off (by omega) (by omega)]; simp [speltStore, fA_wordM, fB_wordM, fMf_wordM, fOff12_wordM]
theorem Enc.fsd (x : Issue) (rt : BitVec 5) (rb : BitVec 5) (off : BitVec 12) : Enc.Statement (.fsd x rt rb off) :=
  Enc.ofWord rfl fun _ => by rw [spelt_store x rt rb off (by omega) (by omega)]; simp [speltStore, fA_wordM, fB_wordM, fMf_wordM, fOff12_wordM]
theorem Enc.swap (x : Issue) (rd : BitVec 5) (rs1 : BitVec 5) (rs2 : BitVec 5) (ord : BitVec 2) (size8 : Bool) : Enc.Statement (.swap x rd rs1 rs2 ord size8) :=
  Enc.ofWord rfl fun _ => by
    obtain ⟨e1, e2, e3, e4, e5, e6⟩ := atomic_fields rd rs1 rs2 ord size8 (f := 0) (by omega)
    rw [spelt_atomic rd rs1 rs2 ord size8 x (by omega) (by simp)]
    simp only [speltAtomic, e1, e2, e3, e4, e5, e6]
theorem Enc.aadd (x : Issue) (rd : BitVec 5) (rs1 : BitVec 5) (rs2 : BitVec 5) (ord : BitVec 2) (size8 : Bool) : Enc.Statement (.aadd x rd rs1 rs2 ord size8) :=
  Enc.ofWord rfl fun _ => by
    obtain ⟨e1, e2, e3, e4, e5, e6⟩ := atomic_fields rd rs1 rs2 ord size8 (f := 1) (by omega)
    rw [spelt_atomic rd rs1 rs2 ord size8 x (by omega) (by simp)]
    simp only [speltAtomic, e1, e2, e3, e4, e5, e6]
theorem Enc.aand (x : Issue) (rd : BitVec 5) (rs1 : BitVec 5) (rs2 : BitVec 5) (ord : BitVec 2) (size8 : Bool) : Enc.Statement (.aand x rd rs1 rs2 ord size8) :=
  Enc.ofWord rfl fun _ => by
    obtain ⟨e1, e2, e3, e4, e5, e6⟩ := atomic_fields rd rs1 rs2 ord size8 (f := 2) (by omega)
    rw [spelt_atomic rd rs1 rs2 ord size8 x (by omega) (by simp)]
    simp only [speltAtomic, e1, e2, e3, e4, e5, e6]
theorem Enc.aor (x : Issue) (rd : BitVec 5) (rs1 : BitVec 5) (rs2 : BitVec 5) (ord : BitVec 2) (size8 : Bool) : Enc.Statement (.aor x rd rs1 rs2 ord size8) :=
  Enc.ofWord rfl fun _ => by
    obtain ⟨e1, e2, e3, e4, e5, e6⟩ := atomic_fields rd rs1 rs2 ord size8 (f := 3) (by omega)
    rw [spelt_atomic rd rs1 rs2 ord size8 x (by omega) (by simp)]
    simp only [speltAtomic, e1, e2, e3, e4, e5, e6]
theorem Enc.axor (x : Issue) (rd : BitVec 5) (rs1 : BitVec 5) (rs2 : BitVec 5) (ord : BitVec 2) (size8 : Bool) : Enc.Statement (.axor x rd rs1 rs2 ord size8) :=
  Enc.ofWord rfl fun _ => by
    obtain ⟨e1, e2, e3, e4, e5, e6⟩ := atomic_fields rd rs1 rs2 ord size8 (f := 4) (by omega)
    rw [spelt_atomic rd rs1 rs2 ord size8 x (by omega) (by simp)]
    simp only [speltAtomic, e1, e2, e3, e4, e5, e6]
theorem Enc.asmin (x : Issue) (rd : BitVec 5) (rs1 : BitVec 5) (rs2 : BitVec 5) (ord : BitVec 2) (size8 : Bool) : Enc.Statement (.asmin x rd rs1 rs2 ord size8) :=
  Enc.ofWord rfl fun _ => by
    obtain ⟨e1, e2, e3, e4, e5, e6⟩ := atomic_fields rd rs1 rs2 ord size8 (f := 5) (by omega)
    rw [spelt_atomic rd rs1 rs2 ord size8 x (by omega) (by simp)]
    simp only [speltAtomic, e1, e2, e3, e4, e5, e6]
theorem Enc.asmax (x : Issue) (rd : BitVec 5) (rs1 : BitVec 5) (rs2 : BitVec 5) (ord : BitVec 2) (size8 : Bool) : Enc.Statement (.asmax x rd rs1 rs2 ord size8) :=
  Enc.ofWord rfl fun _ => by
    obtain ⟨e1, e2, e3, e4, e5, e6⟩ := atomic_fields rd rs1 rs2 ord size8 (f := 6) (by omega)
    rw [spelt_atomic rd rs1 rs2 ord size8 x (by omega) (by simp)]
    simp only [speltAtomic, e1, e2, e3, e4, e5, e6]
theorem Enc.aumin (x : Issue) (rd : BitVec 5) (rs1 : BitVec 5) (rs2 : BitVec 5) (ord : BitVec 2) (size8 : Bool) : Enc.Statement (.aumin x rd rs1 rs2 ord size8) :=
  Enc.ofWord rfl fun _ => by
    obtain ⟨e1, e2, e3, e4, e5, e6⟩ := atomic_fields rd rs1 rs2 ord size8 (f := 7) (by omega)
    rw [spelt_atomic rd rs1 rs2 ord size8 x (by omega) (by simp)]
    simp only [speltAtomic, e1, e2, e3, e4, e5, e6]
theorem Enc.aumax (x : Issue) (rd : BitVec 5) (rs1 : BitVec 5) (rs2 : BitVec 5) (ord : BitVec 2) (size8 : Bool) : Enc.Statement (.aumax x rd rs1 rs2 ord size8) :=
  Enc.ofWord rfl fun _ => by
    obtain ⟨e1, e2, e3, e4, e5, e6⟩ := atomic_fields rd rs1 rs2 ord size8 (f := 8) (by omega)
    rw [spelt_atomic rd rs1 rs2 ord size8 x (by omega) (by simp)]
    simp only [speltAtomic, e1, e2, e3, e4, e5, e6]
theorem Enc.cas (x : Issue) (rd : BitVec 5) (rs1 : BitVec 5) (rs2 : BitVec 5) (ord : BitVec 2) (size8 : Bool) : Enc.Statement (.cas x rd rs1 rs2 ord size8) :=
  Enc.ofWord rfl fun hw => by
    obtain ⟨e1, e2, e3, e4, e5, e6⟩ := atomic_fields rd rs1 rs2 ord size8 (f := 9) (by omega)
    rw [spelt_atomic rd rs1 rs2 ord size8 x (by omega) (by simpa [Instr.wf, and_assoc] using hw)]
    simp only [speltAtomic, e1, e2, e3, e4, e5, e6]
theorem Enc.casp (x : Issue) (rd : BitVec 5) (rs1 : BitVec 5) (rs2 : BitVec 5) (ord : BitVec 2) (size8 : Bool) : Enc.Statement (.casp x rd rs1 rs2 ord size8) :=
  Enc.ofWord rfl fun hw => by
    obtain ⟨e1, e2, e3, e4, e5, e6⟩ := atomic_fields rd rs1 rs2 ord size8 (f := 10) (by omega)
    rw [spelt_atomic rd rs1 rs2 ord size8 x (by omega) (by simpa [Instr.wf, and_assoc] using hw)]
    simp only [speltAtomic, e1, e2, e3, e4, e5, e6]
theorem Enc.vfadd (x : Issue) (w : BitVec 2) (vd : BitVec 5) (vs1 : BitVec 5) (vs2 : BitVec 5) : Enc.Statement (.vfadd x w vd vs1 vs2) :=
  Enc.ofWord rfl fun hw => by rw [spelt_vfp x _ _ _ _ (by omega) (by rcases width_cases w hw with rfl | rfl <;> rfl)]; simp [speltVfp, fA_wordV, fB_wordV, fC_wordV, fW_wordV, fn_wordV]
theorem Enc.vfsub (x : Issue) (w : BitVec 2) (vd : BitVec 5) (vs1 : BitVec 5) (vs2 : BitVec 5) : Enc.Statement (.vfsub x w vd vs1 vs2) :=
  Enc.ofWord rfl fun hw => by rw [spelt_vfp x _ _ _ _ (by omega) (by rcases width_cases w hw with rfl | rfl <;> rfl)]; simp [speltVfp, fA_wordV, fB_wordV, fC_wordV, fW_wordV, fn_wordV]
theorem Enc.vfmul (x : Issue) (w : BitVec 2) (vd : BitVec 5) (vs1 : BitVec 5) (vs2 : BitVec 5) : Enc.Statement (.vfmul x w vd vs1 vs2) :=
  Enc.ofWord rfl fun hw => by rw [spelt_vfp x _ _ _ _ (by omega) (by rcases width_cases w hw with rfl | rfl <;> rfl)]; simp [speltVfp, fA_wordV, fB_wordV, fC_wordV, fW_wordV, fn_wordV]
theorem Enc.vfdiv (x : Issue) (w : BitVec 2) (vd : BitVec 5) (vs1 : BitVec 5) (vs2 : BitVec 5) : Enc.Statement (.vfdiv x w vd vs1 vs2) :=
  Enc.ofWord rfl fun hw => by rw [spelt_vfp x _ _ _ _ (by omega) (by rcases width_cases w hw with rfl | rfl <;> rfl)]; simp [speltVfp, fA_wordV, fB_wordV, fC_wordV, fW_wordV, fn_wordV]
theorem Enc.vfsqrt (x : Issue) (w : BitVec 2) (vd : BitVec 5) (vs1 : BitVec 5) : Enc.Statement (.vfsqrt x w vd vs1) :=
  Enc.ofWord rfl fun hw => by rw [spelt_vfp x _ _ _ _ (by omega) (by rcases width_cases w hw with rfl | rfl <;> rfl)]; simp [speltVfp, fA_wordV, fB_wordV, fC_wordV, fW_wordV, fn_wordV]
theorem Enc.vfmin (x : Issue) (w : BitVec 2) (vd : BitVec 5) (vs1 : BitVec 5) (vs2 : BitVec 5) : Enc.Statement (.vfmin x w vd vs1 vs2) :=
  Enc.ofWord rfl fun hw => by rw [spelt_vfp x _ _ _ _ (by omega) (by rcases width_cases w hw with rfl | rfl <;> rfl)]; simp [speltVfp, fA_wordV, fB_wordV, fC_wordV, fW_wordV, fn_wordV]
theorem Enc.vfmax (x : Issue) (w : BitVec 2) (vd : BitVec 5) (vs1 : BitVec 5) (vs2 : BitVec 5) : Enc.Statement (.vfmax x w vd vs1 vs2) :=
  Enc.ofWord rfl fun hw => by rw [spelt_vfp x _ _ _ _ (by omega) (by rcases width_cases w hw with rfl | rfl <;> rfl)]; simp [speltVfp, fA_wordV, fB_wordV, fC_wordV, fW_wordV, fn_wordV]
theorem Enc.vfcmpeq (x : Issue) (w : BitVec 2) (vd : BitVec 5) (vs1 : BitVec 5) (vs2 : BitVec 5) : Enc.Statement (.vfcmpeq x w vd vs1 vs2) :=
  Enc.ofWord rfl fun hw => by rw [spelt_vfp x _ _ _ _ (by omega) (by rcases width_cases w hw with rfl | rfl <;> rfl)]; simp [speltVfp, fA_wordV, fB_wordV, fC_wordV, fW_wordV, fn_wordV]
theorem Enc.vfcmplt (x : Issue) (w : BitVec 2) (vd : BitVec 5) (vs1 : BitVec 5) (vs2 : BitVec 5) : Enc.Statement (.vfcmplt x w vd vs1 vs2) :=
  Enc.ofWord rfl fun hw => by rw [spelt_vfp x _ _ _ _ (by omega) (by rcases width_cases w hw with rfl | rfl <;> rfl)]; simp [speltVfp, fA_wordV, fB_wordV, fC_wordV, fW_wordV, fn_wordV]
theorem Enc.vfcmple (x : Issue) (w : BitVec 2) (vd : BitVec 5) (vs1 : BitVec 5) (vs2 : BitVec 5) : Enc.Statement (.vfcmple x w vd vs1 vs2) :=
  Enc.ofWord rfl fun hw => by rw [spelt_vfp x _ _ _ _ (by omega) (by rcases width_cases w hw with rfl | rfl <;> rfl)]; simp [speltVfp, fA_wordV, fB_wordV, fC_wordV, fW_wordV, fn_wordV]
theorem Enc.vfabs (x : Issue) (w : BitVec 2) (vd : BitVec 5) (vs1 : BitVec 5) : Enc.Statement (.vfabs x w vd vs1) :=
  Enc.ofWord rfl fun hw => by rw [spelt_vfp x _ _ _ _ (by omega) (by rcases width_cases w hw with rfl | rfl <;> rfl)]; simp [speltVfp, fA_wordV, fB_wordV, fC_wordV, fW_wordV, fn_wordV]
theorem Enc.vfneg (x : Issue) (w : BitVec 2) (vd : BitVec 5) (vs1 : BitVec 5) : Enc.Statement (.vfneg x w vd vs1) :=
  Enc.ofWord rfl fun hw => by rw [spelt_vfp x _ _ _ _ (by omega) (by rcases width_cases w hw with rfl | rfl <;> rfl)]; simp [speltVfp, fA_wordV, fB_wordV, fC_wordV, fW_wordV, fn_wordV]
theorem Enc.vfsgnj (x : Issue) (w : BitVec 2) (vd : BitVec 5) (vs1 : BitVec 5) (vs2 : BitVec 5) : Enc.Statement (.vfsgnj x w vd vs1 vs2) :=
  Enc.ofWord rfl fun hw => by rw [spelt_vfp x _ _ _ _ (by omega) (by rcases width_cases w hw with rfl | rfl <;> rfl)]; simp [speltVfp, fA_wordV, fB_wordV, fC_wordV, fW_wordV, fn_wordV]
theorem Enc.vbdot (x : Issue) (w : BitVec 2) (vd : BitVec 5) (vs1 : BitVec 5) (vs2 : BitVec 5) : Enc.Statement (.vbdot x w vd vs1 vs2) :=
  Enc.ofWord rfl fun hw => by rw [spelt_vfp x _ _ _ _ (by omega) (by rw [show w = 2 by simpa [Instr.wf] using hw]; rfl)]; simp [speltVfp, fA_wordV, fB_wordV, fC_wordV, fW_wordV, fn_wordV]
theorem Enc.sfpAdd (x : Issue) (w : BitVec 2) (vd : BitVec 5) (vs1 : BitVec 5) (vs2 : BitVec 5) : Enc.Statement (.sfpAdd x w vd vs1 vs2) :=
  Enc.ofWord rfl fun hw => by rw [spelt_sfp x _ _ _ _ (by omega) (by rcases width_cases w hw with rfl | rfl <;> rfl)]; simp [speltSfp, fA_wordV, fB_wordV, fC_wordV, fW_wordV, fn_wordV]
theorem Enc.sfpSub (x : Issue) (w : BitVec 2) (vd : BitVec 5) (vs1 : BitVec 5) (vs2 : BitVec 5) : Enc.Statement (.sfpSub x w vd vs1 vs2) :=
  Enc.ofWord rfl fun hw => by rw [spelt_sfp x _ _ _ _ (by omega) (by rcases width_cases w hw with rfl | rfl <;> rfl)]; simp [speltSfp, fA_wordV, fB_wordV, fC_wordV, fW_wordV, fn_wordV]
theorem Enc.sfpMul (x : Issue) (w : BitVec 2) (vd : BitVec 5) (vs1 : BitVec 5) (vs2 : BitVec 5) : Enc.Statement (.sfpMul x w vd vs1 vs2) :=
  Enc.ofWord rfl fun hw => by rw [spelt_sfp x _ _ _ _ (by omega) (by rcases width_cases w hw with rfl | rfl <;> rfl)]; simp [speltSfp, fA_wordV, fB_wordV, fC_wordV, fW_wordV, fn_wordV]
theorem Enc.sfpDiv (x : Issue) (w : BitVec 2) (vd : BitVec 5) (vs1 : BitVec 5) (vs2 : BitVec 5) : Enc.Statement (.sfpDiv x w vd vs1 vs2) :=
  Enc.ofWord rfl fun hw => by rw [spelt_sfp x _ _ _ _ (by omega) (by rcases width_cases w hw with rfl | rfl <;> rfl)]; simp [speltSfp, fA_wordV, fB_wordV, fC_wordV, fW_wordV, fn_wordV]
theorem Enc.sfpSqrt (x : Issue) (w : BitVec 2) (vd : BitVec 5) (vs1 : BitVec 5) : Enc.Statement (.sfpSqrt x w vd vs1) :=
  Enc.ofWord rfl fun hw => by rw [spelt_sfp x _ _ _ _ (by omega) (by rcases width_cases w hw with rfl | rfl <;> rfl)]; simp [speltSfp, fA_wordV, fB_wordV, fC_wordV, fW_wordV, fn_wordV]
theorem Enc.sfpMin (x : Issue) (w : BitVec 2) (vd : BitVec 5) (vs1 : BitVec 5) (vs2 : BitVec 5) : Enc.Statement (.sfpMin x w vd vs1 vs2) :=
  Enc.ofWord rfl fun hw => by rw [spelt_sfp x _ _ _ _ (by omega) (by rcases width_cases w hw with rfl | rfl <;> rfl)]; simp [speltSfp, fA_wordV, fB_wordV, fC_wordV, fW_wordV, fn_wordV]
theorem Enc.sfpMax (x : Issue) (w : BitVec 2) (vd : BitVec 5) (vs1 : BitVec 5) (vs2 : BitVec 5) : Enc.Statement (.sfpMax x w vd vs1 vs2) :=
  Enc.ofWord rfl fun hw => by rw [spelt_sfp x _ _ _ _ (by omega) (by rcases width_cases w hw with rfl | rfl <;> rfl)]; simp [speltSfp, fA_wordV, fB_wordV, fC_wordV, fW_wordV, fn_wordV]
theorem Enc.sfpCmpeq (x : Issue) (w : BitVec 2) (vd : BitVec 5) (vs1 : BitVec 5) (vs2 : BitVec 5) : Enc.Statement (.sfpCmpeq x w vd vs1 vs2) :=
  Enc.ofWord rfl fun hw => by rw [spelt_sfp x _ _ _ _ (by omega) (by rcases width_cases w hw with rfl | rfl <;> rfl)]; simp [speltSfp, fA_wordV, fB_wordV, fC_wordV, fW_wordV, fn_wordV]
theorem Enc.sfpCmplt (x : Issue) (w : BitVec 2) (vd : BitVec 5) (vs1 : BitVec 5) (vs2 : BitVec 5) : Enc.Statement (.sfpCmplt x w vd vs1 vs2) :=
  Enc.ofWord rfl fun hw => by rw [spelt_sfp x _ _ _ _ (by omega) (by rcases width_cases w hw with rfl | rfl <;> rfl)]; simp [speltSfp, fA_wordV, fB_wordV, fC_wordV, fW_wordV, fn_wordV]
theorem Enc.sfpCmple (x : Issue) (w : BitVec 2) (vd : BitVec 5) (vs1 : BitVec 5) (vs2 : BitVec 5) : Enc.Statement (.sfpCmple x w vd vs1 vs2) :=
  Enc.ofWord rfl fun hw => by rw [spelt_sfp x _ _ _ _ (by omega) (by rcases width_cases w hw with rfl | rfl <;> rfl)]; simp [speltSfp, fA_wordV, fB_wordV, fC_wordV, fW_wordV, fn_wordV]
theorem Enc.sfpAbs (x : Issue) (w : BitVec 2) (vd : BitVec 5) (vs1 : BitVec 5) : Enc.Statement (.sfpAbs x w vd vs1) :=
  Enc.ofWord rfl fun hw => by rw [spelt_sfp x _ _ _ _ (by omega) (by rcases width_cases w hw with rfl | rfl <;> rfl)]; simp [speltSfp, fA_wordV, fB_wordV, fC_wordV, fW_wordV, fn_wordV]
theorem Enc.sfpNeg (x : Issue) (w : BitVec 2) (vd : BitVec 5) (vs1 : BitVec 5) : Enc.Statement (.sfpNeg x w vd vs1) :=
  Enc.ofWord rfl fun hw => by rw [spelt_sfp x _ _ _ _ (by omega) (by rcases width_cases w hw with rfl | rfl <;> rfl)]; simp [speltSfp, fA_wordV, fB_wordV, fC_wordV, fW_wordV, fn_wordV]
theorem Enc.sfpSgnj (x : Issue) (w : BitVec 2) (vd : BitVec 5) (vs1 : BitVec 5) (vs2 : BitVec 5) : Enc.Statement (.sfpSgnj x w vd vs1 vs2) :=
  Enc.ofWord rfl fun hw => by rw [spelt_sfp x _ _ _ _ (by omega) (by rcases width_cases w hw with rfl | rfl <;> rfl)]; simp [speltSfp, fA_wordV, fB_wordV, fC_wordV, fW_wordV, fn_wordV]
theorem Enc.vfmadd (x : Issue) (w : BitVec 2) (vd : BitVec 5) (vs1 : BitVec 5) (vs2 : BitVec 5) (vs3 : BitVec 5) : Enc.Statement (.vfmadd x w vd vs1 vs2 vs3) :=
  Enc.ofWord rfl fun hw => by rw [spelt_fma x _ _ _ _ _ (by omega) hw]; simp [speltFma, fA_wordV, fB_wordV, fC_wordV, fD_wordV, fW_wordV, fn_wordV]
theorem Enc.vfmsub (x : Issue) (w : BitVec 2) (vd : BitVec 5) (vs1 : BitVec 5) (vs2 : BitVec 5) (vs3 : BitVec 5) : Enc.Statement (.vfmsub x w vd vs1 vs2 vs3) :=
  Enc.ofWord rfl fun hw => by rw [spelt_fma x _ _ _ _ _ (by omega) hw]; simp [speltFma, fA_wordV, fB_wordV, fC_wordV, fD_wordV, fW_wordV, fn_wordV]
theorem Enc.vfnmadd (x : Issue) (w : BitVec 2) (vd : BitVec 5) (vs1 : BitVec 5) (vs2 : BitVec 5) (vs3 : BitVec 5) : Enc.Statement (.vfnmadd x w vd vs1 vs2 vs3) :=
  Enc.ofWord rfl fun hw => by rw [spelt_fma x _ _ _ _ _ (by omega) hw]; simp [speltFma, fA_wordV, fB_wordV, fC_wordV, fD_wordV, fW_wordV, fn_wordV]
theorem Enc.vfnmsub (x : Issue) (w : BitVec 2) (vd : BitVec 5) (vs1 : BitVec 5) (vs2 : BitVec 5) (vs3 : BitVec 5) : Enc.Statement (.vfnmsub x w vd vs1 vs2 vs3) :=
  Enc.ofWord rfl fun hw => by rw [spelt_fma x _ _ _ _ _ (by omega) hw]; simp [speltFma, fA_wordV, fB_wordV, fC_wordV, fD_wordV, fW_wordV, fn_wordV]
theorem Enc.fmadd (x : Issue) (w : BitVec 2) (vd : BitVec 5) (vs1 : BitVec 5) (vs2 : BitVec 5) (vs3 : BitVec 5) : Enc.Statement (.fmadd x w vd vs1 vs2 vs3) :=
  Enc.ofWord rfl fun hw => by rw [spelt_fma x _ _ _ _ _ (by omega) hw]; simp [speltFma, fA_wordV, fB_wordV, fC_wordV, fD_wordV, fW_wordV, fn_wordV]
theorem Enc.fmsub (x : Issue) (w : BitVec 2) (vd : BitVec 5) (vs1 : BitVec 5) (vs2 : BitVec 5) (vs3 : BitVec 5) : Enc.Statement (.fmsub x w vd vs1 vs2 vs3) :=
  Enc.ofWord rfl fun hw => by rw [spelt_fma x _ _ _ _ _ (by omega) hw]; simp [speltFma, fA_wordV, fB_wordV, fC_wordV, fD_wordV, fW_wordV, fn_wordV]
theorem Enc.fnmadd (x : Issue) (w : BitVec 2) (vd : BitVec 5) (vs1 : BitVec 5) (vs2 : BitVec 5) (vs3 : BitVec 5) : Enc.Statement (.fnmadd x w vd vs1 vs2 vs3) :=
  Enc.ofWord rfl fun hw => by rw [spelt_fma x _ _ _ _ _ (by omega) hw]; simp [speltFma, fA_wordV, fB_wordV, fC_wordV, fD_wordV, fW_wordV, fn_wordV]
theorem Enc.fnmsub (x : Issue) (w : BitVec 2) (vd : BitVec 5) (vs1 : BitVec 5) (vs2 : BitVec 5) (vs3 : BitVec 5) : Enc.Statement (.fnmsub x w vd vs1 vs2 vs3) :=
  Enc.ofWord rfl fun hw => by rw [spelt_fma x _ _ _ _ _ (by omega) hw]; simp [speltFma, fA_wordV, fB_wordV, fC_wordV, fD_wordV, fW_wordV, fn_wordV]
theorem Enc.fcvtDS (x : Issue) (vd : BitVec 5) (vs1 : BitVec 5) : Enc.Statement (.fcvtDS x vd vs1) :=
  Enc.ofWord rfl fun _ => by simp [spelt, wordCvt, definedWord_wordA, fMaj_wordA, fA_wordA, fB_wordA, defined, speltCvt, low_wordA]
theorem Enc.fcvtSD (x : Issue) (vd : BitVec 5) (vs1 : BitVec 5) : Enc.Statement (.fcvtSD x vd vs1) :=
  Enc.ofWord rfl fun _ => by simp [spelt, wordCvt, definedWord_wordA, fMaj_wordA, fA_wordA, fB_wordA, defined, speltCvt, low_wordA]
theorem Enc.fcvtSH (x : Issue) (vd : BitVec 5) (vs1 : BitVec 5) : Enc.Statement (.fcvtSH x vd vs1) :=
  Enc.ofWord rfl fun _ => by simp [spelt, wordCvt, definedWord_wordA, fMaj_wordA, fA_wordA, fB_wordA, defined, speltCvt, low_wordA]
theorem Enc.fcvtHS (x : Issue) (vd : BitVec 5) (vs1 : BitVec 5) : Enc.Statement (.fcvtHS x vd vs1) :=
  Enc.ofWord rfl fun _ => by simp [spelt, wordCvt, definedWord_wordA, fMaj_wordA, fA_wordA, fB_wordA, defined, speltCvt, low_wordA]
theorem Enc.fcvtSBf (x : Issue) (vd : BitVec 5) (vs1 : BitVec 5) : Enc.Statement (.fcvtSBf x vd vs1) :=
  Enc.ofWord rfl fun _ => by simp [spelt, wordCvt, definedWord_wordA, fMaj_wordA, fA_wordA, fB_wordA, defined, speltCvt, low_wordA]
theorem Enc.fcvtBfS (x : Issue) (vd : BitVec 5) (vs1 : BitVec 5) : Enc.Statement (.fcvtBfS x vd vs1) :=
  Enc.ofWord rfl fun _ => by simp [spelt, wordCvt, definedWord_wordA, fMaj_wordA, fA_wordA, fB_wordA, defined, speltCvt, low_wordA]
theorem Enc.fcvtGS (x : Issue) (vd : BitVec 5) (vs1 : BitVec 5) : Enc.Statement (.fcvtGS x vd vs1) :=
  Enc.ofWord rfl fun _ => by simp [spelt, wordCvt, definedWord_wordA, fMaj_wordA, fA_wordA, fB_wordA, defined, speltCvt, low_wordA]
theorem Enc.fcvtGD (x : Issue) (vd : BitVec 5) (vs1 : BitVec 5) : Enc.Statement (.fcvtGD x vd vs1) :=
  Enc.ofWord rfl fun _ => by simp [spelt, wordCvt, definedWord_wordA, fMaj_wordA, fA_wordA, fB_wordA, defined, speltCvt, low_wordA]
theorem Enc.fcvtSG (x : Issue) (vd : BitVec 5) (vs1 : BitVec 5) : Enc.Statement (.fcvtSG x vd vs1) :=
  Enc.ofWord rfl fun _ => by simp [spelt, wordCvt, definedWord_wordA, fMaj_wordA, fA_wordA, fB_wordA, defined, speltCvt, low_wordA]
theorem Enc.fcvtDG (x : Issue) (vd : BitVec 5) (vs1 : BitVec 5) : Enc.Statement (.fcvtDG x vd vs1) :=
  Enc.ofWord rfl fun _ => by simp [spelt, wordCvt, definedWord_wordA, fMaj_wordA, fA_wordA, fB_wordA, defined, speltCvt, low_wordA]
theorem Enc.vfcvtSW (x : Issue) (vd : BitVec 5) (vs1 : BitVec 5) : Enc.Statement (.vfcvtSW x vd vs1) :=
  Enc.ofWord rfl fun _ => by simp [spelt, wordCvt, definedWord_wordA, fMaj_wordA, fA_wordA, fB_wordA, defined, speltCvt, low_wordA]
theorem Enc.vfcvtWS (x : Issue) (vd : BitVec 5) (vs1 : BitVec 5) : Enc.Statement (.vfcvtWS x vd vs1) :=
  Enc.ofWord rfl fun _ => by simp [spelt, wordCvt, definedWord_wordA, fMaj_wordA, fA_wordA, fB_wordA, defined, speltCvt, low_wordA]
theorem Enc.fmvGV (x : Issue) (vd : BitVec 5) (vs1 : BitVec 5) : Enc.Statement (.fmvGV x vd vs1) :=
  Enc.ofWord rfl fun _ => by simp [spelt, wordCvt, definedWord_wordA, fMaj_wordA, fA_wordA, fB_wordA, defined, speltCvt, low_wordA]
theorem Enc.fmvVG (x : Issue) (vd : BitVec 5) (vs1 : BitVec 5) : Enc.Statement (.fmvVG x vd vs1) :=
  Enc.ofWord rfl fun _ => by simp [spelt, wordCvt, definedWord_wordA, fMaj_wordA, fA_wordA, fB_wordA, defined, speltCvt, low_wordA]
theorem Enc.vadd (x : Issue) (w : BitVec 2) (vd : BitVec 5) (vs1 : BitVec 5) (vs2 : BitVec 5) : Enc.Statement (.vadd x w vd vs1 vs2) :=
  Enc.ofWord rfl fun _ => by rw [spelt_vint x _ _ _ _ (by omega)]; simp [speltVint, fA_wordV, fB_wordV, fC_wordV, fW_wordV, fn_wordV]
theorem Enc.vsub (x : Issue) (w : BitVec 2) (vd : BitVec 5) (vs1 : BitVec 5) (vs2 : BitVec 5) : Enc.Statement (.vsub x w vd vs1 vs2) :=
  Enc.ofWord rfl fun _ => by rw [spelt_vint x _ _ _ _ (by omega)]; simp [speltVint, fA_wordV, fB_wordV, fC_wordV, fW_wordV, fn_wordV]
theorem Enc.vmul (x : Issue) (w : BitVec 2) (vd : BitVec 5) (vs1 : BitVec 5) (vs2 : BitVec 5) : Enc.Statement (.vmul x w vd vs1 vs2) :=
  Enc.ofWord rfl fun _ => by rw [spelt_vint x _ _ _ _ (by omega)]; simp [speltVint, fA_wordV, fB_wordV, fC_wordV, fW_wordV, fn_wordV]
theorem Enc.vand (x : Issue) (w : BitVec 2) (vd : BitVec 5) (vs1 : BitVec 5) (vs2 : BitVec 5) : Enc.Statement (.vand x w vd vs1 vs2) :=
  Enc.ofWord rfl fun _ => by rw [spelt_vint x _ _ _ _ (by omega)]; simp [speltVint, fA_wordV, fB_wordV, fC_wordV, fW_wordV, fn_wordV]
theorem Enc.vor (x : Issue) (w : BitVec 2) (vd : BitVec 5) (vs1 : BitVec 5) (vs2 : BitVec 5) : Enc.Statement (.vor x w vd vs1 vs2) :=
  Enc.ofWord rfl fun _ => by rw [spelt_vint x _ _ _ _ (by omega)]; simp [speltVint, fA_wordV, fB_wordV, fC_wordV, fW_wordV, fn_wordV]
theorem Enc.vxor (x : Issue) (w : BitVec 2) (vd : BitVec 5) (vs1 : BitVec 5) (vs2 : BitVec 5) : Enc.Statement (.vxor x w vd vs1 vs2) :=
  Enc.ofWord rfl fun _ => by rw [spelt_vint x _ _ _ _ (by omega)]; simp [speltVint, fA_wordV, fB_wordV, fC_wordV, fW_wordV, fn_wordV]
theorem Enc.vsll (x : Issue) (w : BitVec 2) (vd : BitVec 5) (vs1 : BitVec 5) (vs2 : BitVec 5) : Enc.Statement (.vsll x w vd vs1 vs2) :=
  Enc.ofWord rfl fun _ => by rw [spelt_vint x _ _ _ _ (by omega)]; simp [speltVint, fA_wordV, fB_wordV, fC_wordV, fW_wordV, fn_wordV]
theorem Enc.vsrl (x : Issue) (w : BitVec 2) (vd : BitVec 5) (vs1 : BitVec 5) (vs2 : BitVec 5) : Enc.Statement (.vsrl x w vd vs1 vs2) :=
  Enc.ofWord rfl fun _ => by rw [spelt_vint x _ _ _ _ (by omega)]; simp [speltVint, fA_wordV, fB_wordV, fC_wordV, fW_wordV, fn_wordV]
theorem Enc.vsra (x : Issue) (w : BitVec 2) (vd : BitVec 5) (vs1 : BitVec 5) (vs2 : BitVec 5) : Enc.Statement (.vsra x w vd vs1 vs2) :=
  Enc.ofWord rfl fun _ => by rw [spelt_vint x _ _ _ _ (by omega)]; simp [speltVint, fA_wordV, fB_wordV, fC_wordV, fW_wordV, fn_wordV]
theorem Enc.vmin (x : Issue) (w : BitVec 2) (vd : BitVec 5) (vs1 : BitVec 5) (vs2 : BitVec 5) : Enc.Statement (.vmin x w vd vs1 vs2) :=
  Enc.ofWord rfl fun _ => by rw [spelt_vint x _ _ _ _ (by omega)]; simp [speltVint, fA_wordV, fB_wordV, fC_wordV, fW_wordV, fn_wordV]
theorem Enc.vminu (x : Issue) (w : BitVec 2) (vd : BitVec 5) (vs1 : BitVec 5) (vs2 : BitVec 5) : Enc.Statement (.vminu x w vd vs1 vs2) :=
  Enc.ofWord rfl fun _ => by rw [spelt_vint x _ _ _ _ (by omega)]; simp [speltVint, fA_wordV, fB_wordV, fC_wordV, fW_wordV, fn_wordV]
theorem Enc.vmax (x : Issue) (w : BitVec 2) (vd : BitVec 5) (vs1 : BitVec 5) (vs2 : BitVec 5) : Enc.Statement (.vmax x w vd vs1 vs2) :=
  Enc.ofWord rfl fun _ => by rw [spelt_vint x _ _ _ _ (by omega)]; simp [speltVint, fA_wordV, fB_wordV, fC_wordV, fW_wordV, fn_wordV]
theorem Enc.vmaxu (x : Issue) (w : BitVec 2) (vd : BitVec 5) (vs1 : BitVec 5) (vs2 : BitVec 5) : Enc.Statement (.vmaxu x w vd vs1 vs2) :=
  Enc.ofWord rfl fun _ => by rw [spelt_vint x _ _ _ _ (by omega)]; simp [speltVint, fA_wordV, fB_wordV, fC_wordV, fW_wordV, fn_wordV]
theorem Enc.vcmpeq (x : Issue) (w : BitVec 2) (vd : BitVec 5) (vs1 : BitVec 5) (vs2 : BitVec 5) : Enc.Statement (.vcmpeq x w vd vs1 vs2) :=
  Enc.ofWord rfl fun _ => by rw [spelt_vint x _ _ _ _ (by omega)]; simp [speltVint, fA_wordV, fB_wordV, fC_wordV, fW_wordV, fn_wordV]
theorem Enc.vcmplt (x : Issue) (w : BitVec 2) (vd : BitVec 5) (vs1 : BitVec 5) (vs2 : BitVec 5) : Enc.Statement (.vcmplt x w vd vs1 vs2) :=
  Enc.ofWord rfl fun _ => by rw [spelt_vint x _ _ _ _ (by omega)]; simp [speltVint, fA_wordV, fB_wordV, fC_wordV, fW_wordV, fn_wordV]
theorem Enc.vcmpltu (x : Issue) (w : BitVec 2) (vd : BitVec 5) (vs1 : BitVec 5) (vs2 : BitVec 5) : Enc.Statement (.vcmpltu x w vd vs1 vs2) :=
  Enc.ofWord rfl fun _ => by rw [spelt_vint x _ _ _ _ (by omega)]; simp [speltVint, fA_wordV, fB_wordV, fC_wordV, fW_wordV, fn_wordV]
theorem Enc.vsel (x : Issue) (vd : BitVec 5) (vs1 : BitVec 5) (vs2 : BitVec 5) (vs3 : BitVec 5) : Enc.Statement (.vsel x vd vs1 vs2 vs3) :=
  Enc.ofWord rfl fun _ => by rw [spelt_perm x _ _ _ _ _ (by omega) (by rfl)]; simp [speltPerm, fA_wordV, fB_wordV, fC_wordV, fD_wordV, fW_wordV, fn_wordV]
theorem Enc.vpermb (x : Issue) (vd : BitVec 5) (vs1 : BitVec 5) (vs2 : BitVec 5) : Enc.Statement (.vpermb x vd vs1 vs2) :=
  Enc.ofWord rfl fun _ => by rw [spelt_perm x _ _ _ _ _ (by omega) (by rfl)]; simp [speltPerm, fA_wordV, fB_wordV, fC_wordV, fD_wordV, fW_wordV, fn_wordV]
theorem Enc.vbcast (x : Issue) (w : BitVec 2) (vd : BitVec 5) (vs1 : BitVec 5) : Enc.Statement (.vbcast x w vd vs1) :=
  Enc.ofWord rfl fun _ => by rw [spelt_perm x _ _ _ _ _ (by omega) (by rfl)]; simp [speltPerm, fA_wordV, fB_wordV, fC_wordV, fD_wordV, fW_wordV, fn_wordV]
theorem Enc.vins (x : Issue) (w : BitVec 2) (vd : BitVec 5) (vs1 : BitVec 5) (n : BitVec 5) : Enc.Statement (.vins x w vd vs1 n) :=
  Enc.ofWord rfl fun hw => by rw [spelt_perm x _ _ _ _ _ (by omega) (by simpa [vpermDefined, laneCount, laneBits] using of_decide_eq_true hw)]; simp [speltPerm, fA_wordV, fB_wordV, fC_wordV, fD_wordV, fW_wordV, fn_wordV]
theorem Enc.vext (x : Issue) (w : BitVec 2) (vd : BitVec 5) (vs1 : BitVec 5) (n : BitVec 5) : Enc.Statement (.vext x w vd vs1 n) :=
  Enc.ofWord rfl fun hw => by rw [spelt_perm x _ _ _ _ _ (by omega) (by simpa [vpermDefined, laneCount, laneBits] using of_decide_eq_true hw)]; simp [speltPerm, fA_wordV, fB_wordV, fC_wordV, fD_wordV, fW_wordV, fn_wordV]
theorem Enc.vredadd (x : Issue) (w : BitVec 2) (vd : BitVec 5) (vs1 : BitVec 5) : Enc.Statement (.vredadd x w vd vs1) :=
  Enc.ofWord rfl fun _ => by rw [spelt_perm x _ _ _ _ _ (by omega) (by rfl)]; simp [speltPerm, fA_wordV, fB_wordV, fC_wordV, fD_wordV, fW_wordV, fn_wordV]
theorem Enc.sysrd (x : Issue) (rd : BitVec 5) (num : BitVec 16) : Enc.Statement (.sysrd x rd num) :=
  Enc.ofWord rfl fun _ => by simp [spelt, definedWord_wordI, fMaj_wordI, fA_wordI, fB_wordI, fImm_wordI, defined]
theorem Enc.syswr (x : Issue) (num : BitVec 16) (rs1 : BitVec 5) : Enc.Statement (.syswr x num rs1) :=
  Enc.ofWord rfl fun _ => by simp [spelt, definedWord_wordI, fMaj_wordI, fA_wordI, fB_wordI, fImm_wordI, defined]
theorem Enc.pdtWrite (x : Issue) (rs1 : BitVec 5) : Enc.Statement (.pdtWrite x rs1) :=
  Enc.ofNone rfl
theorem Enc.mattrWrite (x : Issue) (s2 : Bool) (rs1 : BitVec 5) : Enc.Statement (.mattrWrite x s2 rs1) :=
  Enc.ofNone rfl
theorem Enc.spanRegisterWrite (x : Issue) (s2 : Bool) (n : BitVec 4) (part : BitVec 2) (rs1 : BitVec 5) : Enc.Statement (.spanRegisterWrite x s2 n part rs1) :=
  Enc.ofNone rfl
theorem Enc.timerRegisterWrite (x : Issue) (lvl : Fin 3) (ctl : Bool) (rs1 : BitVec 5) : Enc.Statement (.timerRegisterWrite x lvl ctl rs1) :=
  Enc.ofNone rfl
theorem Enc.ieoiWrite (x : Issue) (lvl : Fin 3) (rs1 : BitVec 5) : Enc.Statement (.ieoiWrite x lvl rs1) :=
  Enc.ofNone rfl
theorem Enc.vcpuEnable (x : Issue) (rs1 : BitVec 5) : Enc.Statement (.vcpuEnable x rs1) :=
  Enc.ofNone rfl
theorem Enc.vcpuWriteback (x : Issue) (rs1 : BitVec 5) : Enc.Statement (.vcpuWriteback x rs1) :=
  Enc.ofNone rfl
theorem Enc.fenceL (x : Issue) : Enc.Statement (.fenceL x) :=
  Enc.ofWord rfl fun _ => by simp [spelt, definedWord_wordA, fMaj_wordA, fA_wordA, fB_wordA, fC_wordA, fFn_wordA, defined, miscDefined, speltMisc]
theorem Enc.fenceS (x : Issue) : Enc.Statement (.fenceS x) :=
  Enc.ofWord rfl fun _ => by simp [spelt, definedWord_wordA, fMaj_wordA, fA_wordA, fB_wordA, fC_wordA, fFn_wordA, defined, miscDefined, speltMisc]
theorem Enc.fenceLs (x : Issue) : Enc.Statement (.fenceLs x) :=
  Enc.ofWord rfl fun _ => by simp [spelt, definedWord_wordA, fMaj_wordA, fA_wordA, fB_wordA, fC_wordA, fFn_wordA, defined, miscDefined, speltMisc]
theorem Enc.fenceI (x : Issue) : Enc.Statement (.fenceI x) :=
  Enc.ofWord rfl fun _ => by simp [spelt, definedWord_wordA, fMaj_wordA, fA_wordA, fB_wordA, fC_wordA, fFn_wordA, defined, miscDefined, speltMisc]
theorem Enc.cmoCleanVa (x : Issue) (rs1 : BitVec 5) : Enc.Statement (.cmoCleanVa x rs1) :=
  Enc.ofWord rfl fun _ => by simp [spelt, definedWord_wordA, fMaj_wordA, fA_wordA, fB_wordA, fC_wordA, fFn_wordA, defined, miscDefined, speltMisc]
theorem Enc.cmoInvVa (x : Issue) (rs1 : BitVec 5) : Enc.Statement (.cmoInvVa x rs1) :=
  Enc.ofWord rfl fun _ => by simp [spelt, definedWord_wordA, fMaj_wordA, fA_wordA, fB_wordA, fC_wordA, fFn_wordA, defined, miscDefined, speltMisc]
theorem Enc.cmoClinvVa (x : Issue) (rs1 : BitVec 5) : Enc.Statement (.cmoClinvVa x rs1) :=
  Enc.ofWord rfl fun _ => by simp [spelt, definedWord_wordA, fMaj_wordA, fA_wordA, fB_wordA, fC_wordA, fFn_wordA, defined, miscDefined, speltMisc]
theorem Enc.cmoCleanSw (x : Issue) (rs1 : BitVec 5) : Enc.Statement (.cmoCleanSw x rs1) :=
  Enc.ofWord rfl fun _ => by simp [spelt, definedWord_wordA, fMaj_wordA, fA_wordA, fB_wordA, fC_wordA, fFn_wordA, defined, miscDefined, speltMisc]
theorem Enc.cmoInvSw (x : Issue) (rs1 : BitVec 5) : Enc.Statement (.cmoInvSw x rs1) :=
  Enc.ofWord rfl fun _ => by simp [spelt, definedWord_wordA, fMaj_wordA, fA_wordA, fB_wordA, fC_wordA, fFn_wordA, defined, miscDefined, speltMisc]
theorem Enc.cmoClinvSw (x : Issue) (rs1 : BitVec 5) : Enc.Statement (.cmoClinvSw x rs1) :=
  Enc.ofWord rfl fun _ => by simp [spelt, definedWord_wordA, fMaj_wordA, fA_wordA, fB_wordA, fC_wordA, fFn_wordA, defined, miscDefined, speltMisc]
theorem Enc.cmoPreload (x : Issue) (rd : BitVec 5) (rs1 : BitVec 5) : Enc.Statement (.cmoPreload x rd rs1) :=
  Enc.ofWord rfl fun _ => by simp [spelt, definedWord_wordA, fMaj_wordA, fA_wordA, fB_wordA, fC_wordA, fFn_wordA, defined, miscDefined, speltMisc]
theorem Enc.tinvVa (x : Issue) (rs1 : BitVec 5) (rs2 : BitVec 5) : Enc.Statement (.tinvVa x rs1 rs2) :=
  Enc.ofWord rfl fun _ => by simp [spelt, definedWord_wordA, fMaj_wordA, fA_wordA, fB_wordA, fC_wordA, fFn_wordA, defined, miscDefined, speltMisc]
theorem Enc.tinvAsid (x : Issue) (rs1 : BitVec 5) : Enc.Statement (.tinvAsid x rs1) :=
  Enc.ofWord rfl fun _ => by simp [spelt, definedWord_wordA, fMaj_wordA, fA_wordA, fB_wordA, fC_wordA, fFn_wordA, defined, miscDefined, speltMisc]
theorem Enc.tinvVmid (x : Issue) (rs1 : BitVec 5) : Enc.Statement (.tinvVmid x rs1) :=
  Enc.ofWord rfl fun _ => by simp [spelt, definedWord_wordA, fMaj_wordA, fA_wordA, fB_wordA, fC_wordA, fFn_wordA, defined, miscDefined, speltMisc]
theorem Enc.tinvIpa (x : Issue) (rs1 : BitVec 5) (rs2 : BitVec 5) : Enc.Statement (.tinvIpa x rs1 rs2) :=
  Enc.ofWord rfl fun _ => by simp [spelt, definedWord_wordA, fMaj_wordA, fA_wordA, fB_wordA, fC_wordA, fFn_wordA, defined, miscDefined, speltMisc]
theorem Enc.tinvAll (x : Issue) : Enc.Statement (.tinvAll x) :=
  Enc.ofWord rfl fun _ => by simp [spelt, definedWord_wordA, fMaj_wordA, fA_wordA, fB_wordA, fC_wordA, fFn_wordA, defined, miscDefined, speltMisc]
theorem Enc.tsync (x : Issue) : Enc.Statement (.tsync x) :=
  Enc.ofWord rfl fun _ => by simp [spelt, definedWord_wordA, fMaj_wordA, fA_wordA, fB_wordA, fC_wordA, fFn_wordA, defined, miscDefined, speltMisc]
theorem Enc.predFlush (x : Issue) : Enc.Statement (.predFlush x) :=
  Enc.ofWord rfl fun _ => by simp [spelt, definedWord_wordA, fMaj_wordA, fA_wordA, fB_wordA, fC_wordA, fFn_wordA, defined, miscDefined, speltMisc]
theorem Enc.predBar (x : Issue) : Enc.Statement (.predBar x) :=
  Enc.ofWord rfl fun _ => by simp [spelt, definedWord_wordA, fMaj_wordA, fA_wordA, fB_wordA, fC_wordA, fFn_wordA, defined, miscDefined, speltMisc]
theorem Enc.predUnbar (x : Issue) : Enc.Statement (.predUnbar x) :=
  Enc.ofWord rfl fun _ => by simp [spelt, definedWord_wordA, fMaj_wordA, fA_wordA, fB_wordA, fC_wordA, fFn_wordA, defined, miscDefined, speltMisc]
theorem Enc.scall (x : Issue) : Enc.Statement (.scall x) :=
  Enc.ofWord rfl fun _ => by simp [spelt, definedWord_wordA, fMaj_wordA, fA_wordA, fB_wordA, fC_wordA, fFn_wordA, defined, speltCtrl]
theorem Enc.hcall (x : Issue) : Enc.Statement (.hcall x) :=
  Enc.ofWord rfl fun _ => by simp [spelt, definedWord_wordA, fMaj_wordA, fA_wordA, fB_wordA, fC_wordA, fFn_wordA, defined, speltCtrl]
theorem Enc.tcall (x : Issue) : Enc.Statement (.tcall x) :=
  Enc.ofWord rfl fun _ => by simp [spelt, definedWord_wordA, fMaj_wordA, fA_wordA, fB_wordA, fC_wordA, fFn_wordA, defined, speltCtrl]
theorem Enc.eret (x : Issue) : Enc.Statement (.eret x) :=
  Enc.ofWord rfl fun _ => by simp [spelt, definedWord_wordA, fMaj_wordA, fA_wordA, fB_wordA, fC_wordA, fFn_wordA, defined, speltCtrl]
theorem Enc.wfi (x : Issue) : Enc.Statement (.wfi x) :=
  Enc.ofWord rfl fun _ => by simp [spelt, definedWord_wordA, fMaj_wordA, fA_wordA, fB_wordA, fC_wordA, fFn_wordA, defined, speltCtrl]
theorem Enc.wfq (x : Issue) : Enc.Statement (.wfq x) :=
  Enc.ofWord rfl fun _ => by simp [spelt, definedWord_wordA, fMaj_wordA, fA_wordA, fB_wordA, fC_wordA, fFn_wordA, defined, speltCtrl]
theorem Enc.break (x : Issue) : Enc.Statement (.break x) :=
  Enc.ofWord rfl fun _ => by simp [spelt, definedWord_wordA, fMaj_wordA, fA_wordA, fB_wordA, fC_wordA, fFn_wordA, defined, speltCtrl]
theorem Enc.lkenter (x : Issue) (rd : BitVec 5) (rs1 : BitVec 5) : Enc.Statement (.lkenter x rd rs1) :=
  Enc.ofWord rfl fun _ => by simp [spelt, definedWord_wordA, fMaj_wordA, fA_wordA, fB_wordA, fC_wordA, fFn_wordA, defined, speltLocket]
theorem Enc.lkexit (x : Issue) : Enc.Statement (.lkexit x) :=
  Enc.ofWord rfl fun _ => by simp [spelt, definedWord_wordA, fMaj_wordA, fA_wordA, fB_wordA, fC_wordA, fFn_wordA, defined, speltLocket]
theorem Enc.lkreport (x : Issue) (rd : BitVec 5) (rs1 : BitVec 5) (rs2 : BitVec 5) : Enc.Statement (.lkreport x rd rs1 rs2) :=
  Enc.ofWord rfl fun _ => by simp [spelt, definedWord_wordA, fMaj_wordA, fA_wordA, fB_wordA, fC_wordA, fFn_wordA, defined, speltLocket]
theorem Enc.qput (x : Issue) (rd : BitVec 5) (rs1 : BitVec 5) (rs2 : BitVec 5) : Enc.Statement (.qput x rd rs1 rs2) :=
  Enc.ofWord rfl fun _ => by simp [spelt, definedWord_wordA, fMaj_wordA, fA_wordA, fB_wordA, fC_wordA, fFn_wordA, defined, queueDefined, speltQueue, low_wordA]
theorem Enc.qputm (x : Issue) (rd : BitVec 5) (rs1 : BitVec 5) (rs2 : BitVec 5) (n : BitVec 6) : Enc.Statement (.qputm x rd rs1 rs2 n) :=
  Enc.ofWord rfl fun _ => qputm_word x rd rs1 rs2 n
theorem Enc.qget (x : Issue) (rd : BitVec 5) (rs1 : BitVec 5) (bad : Bool) : Enc.Statement (.qget x rd rs1 bad) :=
  match bad with
  | true => Enc.ofNone rfl
  | false => Enc.ofWord rfl fun _ => by simp [spelt, definedWord_wordA, fMaj_wordA, fA_wordA, fB_wordA, fC_wordA, fFn_wordA, defined, queueDefined, speltQueue, low_wordA]
theorem Enc.doorbell (x : Issue) (rd : BitVec 5) (rs1 : BitVec 5) : Enc.Statement (.doorbell x rd rs1) :=
  Enc.ofWord rfl fun _ => by simp [spelt, definedWord_wordA, fMaj_wordA, fA_wordA, fB_wordA, fC_wordA, fFn_wordA, defined, queueDefined, speltQueue, low_wordA]
theorem Enc.interruptAccept (core : BitVec 8) (late : List LateInt) : Enc.Statement (.interruptAccept core late) :=
  Enc.ofNone rfl
theorem Enc.l2PortEscalation (core : BitVec 8) : Enc.Statement (.l2PortEscalation core) :=
  Enc.ofNone rfl
theorem Enc.l2portPfDrop (core : BitVec 8) : Enc.Statement (.l2portPfDrop core) :=
  Enc.ofNone rfl
theorem Enc.l2Prefetch (core : BitVec 8) (line : BitVec 6) : Enc.Statement (.l2Prefetch core line) :=
  Enc.ofNone rfl
theorem Enc.pmcOverflow (core : BitVec 8) (n : Fin 10) : Enc.Statement (.pmcOverflow core n) :=
  Enc.ofNone rfl
theorem Enc.mergeBufferWriteout (core : BitVec 8) (i : Fin 8) : Enc.Statement (.mergeBufferWriteout core i) :=
  Enc.ofNone rfl
theorem Enc.committedStoreFailure (core : BitVec 8) (i : Fin 8) (status : BitVec 8) : Enc.Statement (.committedStoreFailure core i status) :=
  Enc.ofNone rfl
theorem Enc.pageWalk (core : BitVec 8) (va : BitVec 64) (acc : Acc) : Enc.Statement (.pageWalk core va acc) :=
  Enc.ofNone rfl
theorem Enc.adMarkUpdate (core : BitVec 8) (va : BitVec 64) (acc : Acc) : Enc.Statement (.adMarkUpdate core va acc) :=
  Enc.ofNone rfl
theorem Enc.spanMarkUpdate (core : BitVec 8) (va : BitVec 64) (acc : Acc) : Enc.Statement (.spanMarkUpdate core va acc) :=
  Enc.ofNone rfl
theorem Enc.dirtyLogSet (core : BitVec 8) (va : BitVec 64) : Enc.Statement (.dirtyLogSet core va) :=
  Enc.ofNone rfl
theorem Enc.rdShared (h : Hdr) (pa : BitVec 52) (instr : Bool) (err : SliceErr) : Enc.Statement (.rdShared h pa instr err) :=
  Enc.ofNone rfl
theorem Enc.rdUnique (h : Hdr) (pa : BitVec 52) : Enc.Statement (.rdUnique h pa) :=
  Enc.ofNone rfl
theorem Enc.rdNc (h : Hdr) (pa : BitVec 52) (count : BitVec 7) : Enc.Statement (.rdNc h pa count) :=
  Enc.ofNone rfl
theorem Enc.wrLine (h : Hdr) (pa : BitVec 52) (data : BitVec 512) (victim : Bool) : Enc.Statement (.wrLine h pa data victim) :=
  Enc.ofNone rfl
theorem Enc.wrPartial (h : Hdr) (pa : BitVec 52) (data : BitVec 512) (mask : BitVec 64) : Enc.Statement (.wrPartial h pa data mask) :=
  Enc.ofNone rfl
theorem Enc.victimClean (h : Hdr) (pa : BitVec 52) (err : SliceErr) : Enc.Statement (.victimClean h pa err) :=
  Enc.ofNone rfl
theorem Enc.atomic (h : Hdr) (pa : BitVec 52) (op : BitVec 4) (form : AtomicForm) (operand : BitVec 128) (compare : BitVec 128) : Enc.Statement (.atomic h pa op form operand compare) :=
  Enc.ofNone rfl
theorem Enc.msg (h : Hdr) (handle : BitVec 32) (words : List (BitVec 56)) (more : Bool) (part1 : Bool) : Enc.Statement (.msg h handle words more part1) :=
  Enc.ofNone rfl
theorem Enc.qread (h : Hdr) (handle : BitVec 32) (bad : Bool) : Enc.Statement (.qread h handle bad) :=
  Enc.ofNone rfl
theorem Enc.int (path : IntPath) (world : Bool) (vec : BitVec 9) (prio : BitVec 4) (lvl : BitVec 2) : Enc.Statement (.int path world vec prio lvl) :=
  Enc.ofNone rfl
theorem Enc.doorbellPacket (h : Hdr) (mask : BitVec 256) (aux : BitVec 32) : Enc.Statement (.doorbellPacket h mask aux) :=
  Enc.ofNone rfl
theorem Enc.cmoClean (h : Hdr) (pa : BitVec 52) : Enc.Statement (.cmoClean h pa) :=
  Enc.ofNone rfl
theorem Enc.cmoInv (h : Hdr) (pa : BitVec 52) : Enc.Statement (.cmoInv h pa) :=
  Enc.ofNone rfl
theorem Enc.cmoClinv (h : Hdr) (pa : BitVec 52) : Enc.Statement (.cmoClinv h pa) :=
  Enc.ofNone rfl
theorem Enc.preload (h : Hdr) (pa : BitVec 52) : Enc.Statement (.preload h pa) :=
  Enc.ofNone rfl
theorem Enc.snpShared (core : BitVec 8) (pa : BitVec 52) : Enc.Statement (.snpShared core pa) :=
  Enc.ofNone rfl
theorem Enc.snpInv (core : BitVec 8) (pa : BitVec 52) : Enc.Statement (.snpInv core pa) :=
  Enc.ofNone rfl
theorem Enc.rspData (i : Fin 272) (tag : BitVec 12) (gen : BitVec 4) (latency : BitVec 32) (granted : BitVec 2) (dpoison : BitVec 2) : Enc.Statement (.rspData i tag gen latency granted dpoison) :=
  Enc.ofNone rfl
theorem Enc.rspAck (i : Fin 272) (tag : BitVec 12) (gen : BitVec 4) (latency : BitVec 32) (code : BitVec 8) : Enc.Statement (.rspAck i tag gen latency code) :=
  Enc.ofNone rfl
theorem Enc.rspErr (i : Fin 272) (tag : BitVec 12) (gen : BitVec 4) (latency : BitVec 32) (status : BitVec 8) : Enc.Statement (.rspErr i tag gen latency status) :=
  Enc.ofNone rfl
theorem Enc.wakePause (i : Fin 272) (tag : BitVec 12) (gen : BitVec 4) : Enc.Statement (.wakePause i tag gen) :=
  Enc.ofNone rfl
theorem Enc.wakeResume (i : Fin 272) (tag : BitVec 12) (gen : BitVec 4) : Enc.Statement (.wakeResume i tag gen) :=
  Enc.ofNone rfl
theorem Enc.badCmdReceived (stop : Stop) (port : BitVec 2) (h : Hdr) (cmd : BitVec 8) : Enc.Statement (.badCmdReceived stop port h cmd) :=
  Enc.ofNone rfl
theorem Enc.noAgentAnswer (stop : Stop) (port : BitVec 2) (h : Hdr) (cmd : BitVec 8) (pa : BitVec 52) : Enc.Statement (.noAgentAnswer stop port h cmd pa) :=
  Enc.ofNone rfl
theorem Enc.flitCrcMismatch (l : LinkId) (lseq : BitVec 8) : Enc.Statement (.flitCrcMismatch l lseq) :=
  Enc.ofNone rfl
theorem Enc.linkRetry (l : LinkId) (lseq : BitVec 8) (failed : Bool) : Enc.Statement (.linkRetry l lseq failed) :=
  Enc.ofNone rfl
theorem Enc.ageStep (stop : Stop) (q : InputVc) : Enc.Statement (.ageStep stop q) :=
  Enc.ofNone rfl
theorem Enc.transactionTimeout (i : Fin 272) (tag : BitVec 12) (performed : Bool) : Enc.Statement (.transactionTimeout i tag performed) :=
  Enc.ofNone rfl
theorem Enc.tagQuarantineRelease (i : Fin 272) (tag : BitVec 12) : Enc.Statement (.tagQuarantineRelease i tag) :=
  Enc.ofNone rfl
theorem Enc.snoopTimeout (core : BitVec 8) (pa : BitVec 52) : Enc.Statement (.snoopTimeout core pa) :=
  Enc.ofNone rfl
theorem Enc.routerWakeHold (dom : Fin 417) (h : Hdr) (what : Announced) : Enc.Statement (.routerWakeHold dom h what) :=
  Enc.ofNone rfl
theorem Enc.wakeLimitExpiry (dom : Fin 417) : Enc.Statement (.wakeLimitExpiry dom) :=
  Enc.ofNone rfl
theorem Enc.statWindowEnd : Enc.Statement (.statWindowEnd) :=
  Enc.ofNone rfl
theorem Enc.statSnap (r : Req) : Enc.Statement (.statSnap r) :=
  Enc.ofNone rfl
theorem Enc.wayPowerRequest (r : Req) (n : BitVec 7) (ways : BitVec 8) : Enc.Statement (.wayPowerRequest r n ways) :=
  Enc.ofNone rfl
theorem Enc.wayPowerChangeDone (n : BitVec 7) : Enc.Statement (.wayPowerChangeDone n) :=
  Enc.ofNone rfl
theorem Enc.l3LockWrite (r : Req) (n : BitVec 7) (ways : BitVec 12) : Enc.Statement (.l3LockWrite r n ways) :=
  Enc.ofNone rfl
theorem Enc.wayDisable (l3 : Bool) (idx : BitVec 8) (way : BitVec 4) : Enc.Statement (.wayDisable l3 idx way) :=
  Enc.ofNone rfl
theorem Enc.wayErrorWindowEnd (l3 : Bool) (idx : BitVec 8) : Enc.Statement (.wayErrorWindowEnd l3 idx) :=
  Enc.ofNone rfl
theorem Enc.arrayInitDone (a : ArrayId) : Enc.Statement (.arrayInitDone a) :=
  Enc.ofNone rfl
theorem Enc.lkCreate (core : BitVec 8) : Enc.Statement (.lkCreate core) :=
  Enc.ofNone rfl
theorem Enc.lkAddRange (core : BitVec 8) : Enc.Statement (.lkAddRange core) :=
  Enc.ofNone rfl
theorem Enc.lkInit (core : BitVec 8) : Enc.Statement (.lkInit core) :=
  Enc.ofNone rfl
theorem Enc.lkDestroy (core : BitVec 8) : Enc.Statement (.lkDestroy core) :=
  Enc.ofNone rfl
theorem Enc.locketScrubDone (l : BitVec 12) : Enc.Statement (.locketScrubDone l) :=
  Enc.ofNone rfl
theorem Enc.lkStatus (core : BitVec 8) : Enc.Statement (.lkStatus core) :=
  Enc.ofNone rfl
theorem Enc.lkAssign (core : BitVec 8) : Enc.Statement (.lkAssign core) :=
  Enc.ofNone rfl
theorem Enc.hallmarkReportComplete (l : BitVec 12) (slot : BitVec 8) : Enc.Statement (.hallmarkReportComplete l slot) :=
  Enc.ofNone rfl
theorem Enc.ownershipInvalidation (first : BitVec 40) (last : BitVec 40) : Enc.Statement (.ownershipInvalidation first last) :=
  Enc.ofNone rfl
theorem Enc.keypartWrite (r : Req) (value : BitVec 32) : Enc.Statement (.keypartWrite r value) :=
  Enc.ofNone rfl
theorem Enc.generate (r : Req) (keyid : BitVec 12) : Enc.Statement (.generate r keyid) :=
  Enc.ofNone rfl
theorem Enc.keyGenerateComplete : Enc.Statement (.keyGenerateComplete) :=
  Enc.ofNone rfl
theorem Enc.twrangeWrite (r : Req) (k : BitVec 4) (hi : Bool) (value : BitVec 64) : Enc.Statement (.twrangeWrite r k hi value) :=
  Enc.ofNone rfl
theorem Enc.twdogKick (r : Req) : Enc.Statement (.twdogKick r) :=
  Enc.ofNone rfl
theorem Enc.availWrite (r : Req) (v : Bool) : Enc.Statement (.availWrite r v) :=
  Enc.ofNone rfl
theorem Enc.trustedWatchdogExpiry : Enc.Statement (.trustedWatchdogExpiry) :=
  Enc.ofNone rfl
theorem Enc.trustedRestart (own : Bool) : Enc.Statement (.trustedRestart own) :=
  Enc.ofNone rfl
theorem Enc.extest : Enc.Statement (.extest) :=
  Enc.ofNone rfl
theorem Enc.idcode : Enc.Statement (.idcode) :=
  Enc.ofNone rfl
theorem Enc.samplePreload : Enc.Statement (.samplePreload) :=
  Enc.ofNone rfl
theorem Enc.clamp : Enc.Statement (.clamp) :=
  Enc.ofNone rfl
theorem Enc.highz : Enc.Statement (.highz) :=
  Enc.ofNone rfl
theorem Enc.bypass : Enc.Statement (.bypass) :=
  Enc.ofNone rfl
theorem Enc.debugHalt (core : BitVec 8) : Enc.Statement (.debugHalt core) :=
  Enc.ofNone rfl
theorem Enc.internalScanEntry : Enc.Statement (.internalScanEntry) :=
  Enc.ofNone rfl
theorem Enc.debugMemoryAccess (pa : BitVec 52) (write : Option (BitVec 64)) : Enc.Statement (.debugMemoryAccess pa write) :=
  Enc.ofNone rfl
theorem Enc.msi (p : BitVec 3) (rid : BitVec 16) (data : BitVec 32) : Enc.Statement (.msi p rid data) :=
  Enc.ofNone rfl
theorem Enc.virtualInterruptDelivery (src : IntSrc) (vec : BitVec 9) : Enc.Statement (.virtualInterruptDelivery src vec) :=
  Enc.ofNone rfl
theorem Enc.routingEntryWrite (r : Req) (src : IntSrc) (hi : Bool) (value : BitVec 64) : Enc.Statement (.routingEntryWrite r src hi value) :=
  Enc.ofNone rfl
theorem Enc.coreTimerDue (core : BitVec 8) (timer : Fin 4) : Enc.Statement (.coreTimerDue core timer) :=
  Enc.ofNone rfl
theorem Enc.gatherAck (r : Req) (k : BitVec 6) : Enc.Statement (.gatherAck r k) :=
  Enc.ofNone rfl
theorem Enc.qcfgWrite (r : Req) (t : BitVec 7) (k : BitVec 9) (value : BitVec 64) : Enc.Statement (.qcfgWrite r t k value) :=
  Enc.ofNone rfl
theorem Enc.reassemblyTimeout (t : BitVec 7) (buf : BitVec 2) : Enc.Statement (.reassemblyTimeout t buf) :=
  Enc.ofNone rfl
theorem Enc.claimBreak (t : BitVec 7) (k : BitVec 9) : Enc.Statement (.claimBreak t k) :=
  Enc.ofNone rfl
theorem Enc.aperturePut (p : BitVec 3) (via : ApVia) (handle : BitVec 32) (words : List (BitVec 64)) (poisoned : Bool) : Enc.Statement (.aperturePut p via handle words poisoned) :=
  Enc.ofNone rfl
theorem Enc.apertureGet (p : BitVec 3) (via : ApVia) (handle : BitVec 32) (bad : Bool) : Enc.Statement (.apertureGet p via handle bad) :=
  Enc.ofNone rfl
theorem Enc.dmChannelEnable (r : Req) (d : Fin 2) (c : BitVec 5) (sq : BitVec 32) : Enc.Statement (.dmChannelEnable r d c sq) :=
  Enc.ofNone rfl
theorem Enc.dmChannelDisable (r : Req) (d : Fin 2) (c : BitVec 5) : Enc.Statement (.dmChannelDisable r d c) :=
  Enc.ofNone rfl
theorem Enc.dmChannelResume (r : Req) (d : Fin 2) (c : BitVec 5) : Enc.Statement (.dmChannelResume r d c) :=
  Enc.ofNone rfl
theorem Enc.dmTinv (r : Req) (d : Fin 2) : Enc.Statement (.dmTinv r d) :=
  Enc.ofNone rfl
theorem Enc.copy (d : Fin 2) (c : BitVec 5) (bad : Bool) : Enc.Statement (.copy d c bad) :=
  Enc.ofNone rfl
theorem Enc.fill (d : Fin 2) (c : BitVec 5) (bad : Bool) : Enc.Statement (.fill d c bad) :=
  Enc.ofNone rfl
theorem Enc.zero (d : Fin 2) (c : BitVec 5) (bad : Bool) : Enc.Statement (.zero d c bad) :=
  Enc.ofNone rfl
theorem Enc.crc32c (d : Fin 2) (c : BitVec 5) (bad : Bool) : Enc.Statement (.crc32c d c bad) :=
  Enc.ofNone rfl
theorem Enc.rekey (d : Fin 2) (c : BitVec 5) (bad : Bool) : Enc.Statement (.rekey d c bad) :=
  Enc.ofNone rfl
theorem Enc.descriptorComplete (d : Fin 2) (c : BitVec 5) : Enc.Statement (.descriptorComplete d c) :=
  Enc.ofNone rfl
theorem Enc.completionRetry (d : Fin 2) (c : BitVec 5) : Enc.Statement (.completionRetry d c) :=
  Enc.ofNone rfl
theorem Enc.patrolScrubRead (n : BitVec 4) (found : DramErr) : Enc.Statement (.patrolScrubRead n found) :=
  Enc.ofNone rfl
theorem Enc.mcRefresh (n : BitVec 4) : Enc.Statement (.mcRefresh n) :=
  Enc.ofNone rfl
theorem Enc.dimmTemperatureChange (n : BitVec 4) (slot : Bool) (celsius : BitVec 8) : Enc.Statement (.dimmTemperatureChange n slot celsius) :=
  Enc.ofNone rfl
theorem Enc.softPpr (n : BitVec 4) (row : DramRow) (spare : Bool) : Enc.Statement (.softPpr n row spare) :=
  Enc.ofNone rfl
theorem Enc.rankCopyStart (n : BitVec 4) (rank : BitVec 3) : Enc.Statement (.rankCopyStart n rank) :=
  Enc.ofNone rfl
theorem Enc.rankCopyDone (n : BitVec 4) : Enc.Statement (.rankCopyDone n) :=
  Enc.ofNone rfl
theorem Enc.mirrorChannelFail (n : BitVec 4) : Enc.Statement (.mirrorChannelFail n) :=
  Enc.ofNone rfl
theorem Enc.mirrorRebuildDone (n : BitVec 4) : Enc.Statement (.mirrorRebuildDone n) :=
  Enc.ofNone rfl
theorem Enc.inboundRequest (p : BitVec 3) (rp : BitVec 2) (t : Tlp) : Enc.Statement (.inboundRequest p rp t) :=
  Enc.ofNone rfl
theorem Enc.atsTranslationRequest (p : BitVec 3) (rp : BitVec 2) (rid : BitVec 16) (addr : BitVec 52) (write : Bool) : Enc.Statement (.atsTranslationRequest p rp rid addr write) :=
  Enc.ofNone rfl
theorem Enc.invRid (p : BitVec 3) : Enc.Statement (.invRid p) :=
  Enc.ofNone rfl
theorem Enc.invRange (p : BitVec 3) : Enc.Statement (.invRange p) :=
  Enc.ofNone rfl
theorem Enc.invAll (p : BitVec 3) : Enc.Statement (.invAll p) :=
  Enc.ofNone rfl
theorem Enc.atsInv (p : BitVec 3) : Enc.Statement (.atsInv p) :=
  Enc.ofNone rfl
theorem Enc.atsInvTimeout (p : BitVec 3) : Enc.Statement (.atsInvTimeout p) :=
  Enc.ofNone rfl
theorem Enc.wait (p : BitVec 3) : Enc.Statement (.wait p) :=
  Enc.ofNone rfl
theorem Enc.icqUnknownOp (p : BitVec 3) : Enc.Statement (.icqUnknownOp p) :=
  Enc.ofNone rfl
theorem Enc.icqSkip (r : Req) (p : BitVec 3) : Enc.Statement (.icqSkip r p) :=
  Enc.ofNone rfl
theorem Enc.completionTimeout (p : BitVec 3) (rp : BitVec 2) (i : Fin 272) (tag : BitVec 12) : Enc.Statement (.completionTimeout p rp i tag) :=
  Enc.ofNone rfl
theorem Enc.l0pIdleExpiry (p : BitVec 3) (rp : BitVec 2) : Enc.Statement (.l0pIdleExpiry p rp) :=
  Enc.ofNone rfl
theorem Enc.l1IdleExpiry (p : BitVec 3) (rp : BitVec 2) : Enc.Statement (.l1IdleExpiry p rp) :=
  Enc.ofNone rfl
theorem Enc.linkActivityWake (p : BitVec 3) : Enc.Statement (.linkActivityWake p) :=
  Enc.ofNone rfl
theorem Enc.surpriseLinkDown (p : BitVec 3) (rp : BitVec 2) : Enc.Statement (.surpriseLinkDown p rp) :=
  Enc.ofNone rfl
theorem Enc.rootPortUncorrectable (p : BitVec 3) (rp : BitVec 2) : Enc.Statement (.rootPortUncorrectable p rp) :=
  Enc.ofNone rfl
theorem Enc.errFatal (p : BitVec 3) (rp : BitVec 2) : Enc.Statement (.errFatal p rp) :=
  Enc.ofNone rfl
theorem Enc.linkDisable (p : BitVec 3) (rp : BitVec 2) : Enc.Statement (.linkDisable p rp) :=
  Enc.ofNone rfl
theorem Enc.force (r : Req) (p : BitVec 3) (rp : BitVec 2) : Enc.Statement (.force r p rp) :=
  Enc.ofNone rfl
theorem Enc.release (r : Req) (p : BitVec 3) (rp : BitVec 2) (trigger : Option ClaspReason) : Enc.Statement (.release r p rp trigger) :=
  Enc.ofNone rfl
theorem Enc.linkUp (p : BitVec 3) (rp : BitVec 2) : Enc.Statement (.linkUp p rp) :=
  Enc.ofNone rfl
theorem Enc.epMsixSend (r : Req) (p : BitVec 3) (func : BitVec 5) (vec : BitVec 5) : Enc.Statement (.epMsixSend r p func vec) :=
  Enc.ofNone rfl
theorem Enc.bar2Access (p : BitVec 3) (func : BitVec 5) (off : BitVec 40) (len : BitVec 10) (write : Option (List (BitVec 8))) : Enc.Statement (.bar2Access p func off len write) :=
  Enc.ofNone rfl
theorem Enc.expansionRomRead (p : BitVec 3) (off : BitVec 20) (len : BitVec 10) : Enc.Statement (.expansionRomRead p off len) :=
  Enc.ofNone rfl
theorem Enc.hostApertureRequest (h : Hdr) (pa : BitVec 52) (write : Bool) : Enc.Statement (.hostApertureRequest h pa write) :=
  Enc.ofNone rfl
theorem Enc.flrStart (p : BitVec 3) (func : BitVec 5) : Enc.Statement (.flrStart p func) :=
  Enc.ofNone rfl
theorem Enc.flrDone (p : BitVec 3) (func : BitVec 5) : Enc.Statement (.flrDone p func) :=
  Enc.ofNone rfl
theorem Enc.perstAssert (p : BitVec 3) : Enc.Statement (.perstAssert p) :=
  Enc.ofNone rfl
theorem Enc.perstDeassert (p : BitVec 3) : Enc.Statement (.perstDeassert p) :=
  Enc.ofNone rfl
theorem Enc.linkDown (p : BitVec 3) : Enc.Statement (.linkDown p) :=
  Enc.ofNone rfl
theorem Enc.bmeClear (p : BitVec 3) (func : BitVec 5) : Enc.Statement (.bmeClear p func) :=
  Enc.ofNone rfl
theorem Enc.numvfChange (p : BitVec 3) (num : BitVec 5) : Enc.Statement (.numvfChange p num) :=
  Enc.ofNone rfl
theorem Enc.candleWrite (r : Req) (k : BitVec 12) (value : BitVec 32) : Enc.Statement (.candleWrite r k value) :=
  Enc.ofNone rfl
theorem Enc.candleFree (r : Req) (k : BitVec 12) : Enc.Statement (.candleFree r k) :=
  Enc.ofNone rfl
theorem Enc.callocRead (r : Req) : Enc.Statement (.callocRead r) :=
  Enc.ofNone rfl
theorem Enc.nop (r : Req) (cls : BitVec 4) (idx : BitVec 12) : Enc.Statement (.nop r cls idx) :=
  Enc.ofNone rfl
theorem Enc.up (r : Req) (cls : BitVec 4) (idx : BitVec 12) : Enc.Statement (.up r cls idx) :=
  Enc.ofNone rfl
theorem Enc.retain (r : Req) (cls : BitVec 4) (idx : BitVec 12) : Enc.Statement (.retain r cls idx) :=
  Enc.ofNone rfl
theorem Enc.down (r : Req) (cls : BitVec 4) (idx : BitVec 12) : Enc.Statement (.down r cls idx) :=
  Enc.ofNone rfl
theorem Enc.legacyBusyTimeout : Enc.Statement (.legacyBusyTimeout) :=
  Enc.ofNone rfl
theorem Enc.hysteresisExpiry (dom : Fin 417) : Enc.Statement (.hysteresisExpiry dom) :=
  Enc.ofNone rfl
theorem Enc.powerEntryStart (dom : Fin 417) : Enc.Statement (.powerEntryStart dom) :=
  Enc.ofNone rfl
theorem Enc.powerEntryCommit (dom : Fin 417) : Enc.Statement (.powerEntryCommit dom) :=
  Enc.ofNone rfl
theorem Enc.powerWakeStart (dom : Fin 417) (src : WakeSrc) : Enc.Statement (.powerWakeStart dom src) :=
  Enc.ofNone rfl
theorem Enc.powerWakeComplete (dom : Fin 417) (restoreOk : Bool) : Enc.Statement (.powerWakeComplete dom restoreOk) :=
  Enc.ofNone rfl
theorem Enc.gpioInputChange (pin : Fin 24) (level : Bool) (window : Bool) : Enc.Statement (.gpioInputChange pin level window) :=
  Enc.ofNone rfl
theorem Enc.rtPpsEdge (frac : BitVec 30) : Enc.Statement (.rtPpsEdge frac) :=
  Enc.ofNone rfl
theorem Enc.ptpSync (sync : PtpMsg) : Enc.Statement (.ptpSync sync) :=
  Enc.ofNone rfl
theorem Enc.rtuLoad (r : Req) (value : BitVec 64) : Enc.Statement (.rtuLoad r value) :=
  Enc.ofNone rfl
theorem Enc.holdoverEntry : Enc.Statement (.holdoverEntry) :=
  Enc.ofNone rfl
theorem Enc.syncOutPulse : Enc.Statement (.syncOutPulse) :=
  Enc.ofNone rfl
theorem Enc.power (k : BitVec 9) : Enc.Statement (.power k) :=
  Enc.ofNone rfl
theorem Enc.powerWidthEnd (dom : Fin 417) : Enc.Statement (.powerWidthEnd dom) :=
  Enc.ofNone rfl
theorem Enc.freq (k : BitVec 9) : Enc.Statement (.freq k) :=
  Enc.ofNone rfl
theorem Enc.refresh (k : BitVec 9) : Enc.Statement (.refresh k) :=
  Enc.ofNone rfl
theorem Enc.refreshWindowEnd (n : BitVec 4) : Enc.Statement (.refreshWindowEnd n) :=
  Enc.ofNone rfl
theorem Enc.scrub (k : BitVec 9) : Enc.Statement (.scrub k) :=
  Enc.ofNone rfl
theorem Enc.snapshot (k : BitVec 9) : Enc.Statement (.snapshot k) :=
  Enc.ofNone rfl
theorem Enc.routeInt (k : BitVec 9) : Enc.Statement (.routeInt k) :=
  Enc.ofNone rfl
theorem Enc.coreInt (k : BitVec 9) : Enc.Statement (.coreInt k) :=
  Enc.ofNone rfl
theorem Enc.pkgPower (k : BitVec 9) : Enc.Statement (.pkgPower k) :=
  Enc.ofNone rfl
theorem Enc.sdUpdate (demand : BitVec 32) (power : BitVec 32) : Enc.Statement (.sdUpdate demand power) :=
  Enc.ofNone rfl
theorem Enc.fatalSequence : Enc.Statement (.fatalSequence) :=
  Enc.ofNone rfl
theorem Enc.thermalSample (edge : Bool) (idx : BitVec 8) (centi : BitVec 16) : Enc.Statement (.thermalSample edge idx centi) :=
  Enc.ofNone rfl
theorem Enc.thermalStep : Enc.Statement (.thermalStep) :=
  Enc.ofNone rfl
theorem Enc.droopEvent (cl : BitVec 4) : Enc.Statement (.droopEvent cl) :=
  Enc.ofNone rfl
theorem Enc.droopWindowEnd : Enc.Statement (.droopWindowEnd) :=
  Enc.ofNone rfl
theorem Enc.iftGo (r : Req) (tile : BitVec 7) (part : BitVec 2) : Enc.Statement (.iftGo r tile part) :=
  Enc.ofNone rfl
theorem Enc.iftAutoTest : Enc.Statement (.iftAutoTest) :=
  Enc.ofNone rfl
theorem Enc.iftComplete (fail0 : Bool) (fail1 : Bool) (failUncore : Bool) : Enc.Statement (.iftComplete fail0 fail1 failUncore) :=
  Enc.ofNone rfl
theorem Enc.fenceRequest (r : Req) (tileKind : Bool) (unfence : Bool) (index : BitVec 8) : Enc.Statement (.fenceRequest r tileKind unfence index) :=
  Enc.ofNone rfl
theorem Enc.retire (r : Req) (tile : BitVec 7) : Enc.Statement (.retire r tile) :=
  Enc.ofNone rfl
theorem Enc.sliceRetireDone : Enc.Statement (.sliceRetireDone) :=
  Enc.ofNone rfl
theorem Enc.logEntryWrite : Enc.Statement (.logEntryWrite) :=
  Enc.ofNone rfl
theorem Enc.correctedSummary (b : Fin 161) : Enc.Statement (.correctedSummary b) :=
  Enc.ofNone rfl
theorem Enc.registerWrite (r : Req) (off : BitVec 28) (eight : Bool) (value : BitVec 64) : Enc.Statement (.registerWrite r off eight value) :=
  Enc.ofNone rfl
theorem Enc.scrubWindowEnd (n : BitVec 4) : Enc.Statement (.scrubWindowEnd n) :=
  Enc.ofNone rfl
theorem Enc.softPprComplete (n : BitVec 4) : Enc.Statement (.softPprComplete n) :=
  Enc.ofNone rfl
theorem Enc.twinCoreStopsResponding (core : BitVec 8) : Enc.Statement (.twinCoreStopsResponding core) :=
  Enc.ofNone rfl
theorem Enc.droopRecovery (cl : BitVec 4) : Enc.Statement (.droopRecovery cl) :=
  Enc.ofNone rfl
theorem Enc.rootPortPerstRelease (p : BitVec 3) (rp : BitVec 2) : Enc.Statement (.rootPortPerstRelease p rp) :=
  Enc.ofNone rfl
theorem Enc.ringOscillatorCount (tile : BitVec 7) (count : BitVec 32) : Enc.Statement (.ringOscillatorCount tile count) :=
  Enc.ofNone rfl
theorem Enc.invalidateCompletion (p : BitVec 3) : Enc.Statement (.invalidateCompletion p) :=
  Enc.ofNone rfl
theorem Enc.inBandInterruptEnable (en : Bool) : Enc.Statement (.inBandInterruptEnable en) :=
  Enc.ofNone rfl
theorem Enc.freqSupplyChange (k : BitVec 9) : Enc.Statement (.freqSupplyChange k) :=
  Enc.ofNone rfl

end Sys2Proof.Laws
end

