-- ==== Sys2Proof/Tests/Slice0.lean ====
section
/-! SUPPORT. Small tests: every statement's hypotheses met by a concrete state, ill-formed operands refused, the words that
the spec writes out, and results that its rules give. -/

namespace Sys2Proof.Tests
open Sys2Proof.Machine

set_option Elab.async false

/-! ### Small states -/

/-- Core 0 runs at a level of a world, its pc in DRAM that one interleave set covers; every memory type is Normal-NC. -/
def on (lvl : Nat) (world : Bool) : State :=
  { State.reset with
    csr := [(.dom 0, dw 0xC000F000), (.dom 256, dw 0xC000F000), (.dom 289, dw 0xC000F000), (.dom 410, dw 0xC000F000), (.dom 411, dw 0xC000F000),
            (.l2Stat 0, 7),
            (.l3Stat 0, 3), (.l3Stat 33, 3), (.stwBootstat, dw 9)] ++ State.resetCsr
    cores := [(0, { Core.reset with
      run := .running, lvl := lvl, world := world, pc := 0x100000000, g := [(1, 0x100000040), (2, 6)],
      sys := [((Sys.mattr, world), 0x0202020202020202)] })]
    m := { MemState.reset with dram := [⟨0x100000000, 0x40000000, [0]⟩] }
    boot := { BootState.reset with resetting := none, pins := { Pins.reset with pwrok := true } } }

/-- An instruction of core 0 whose checks pass. -/
def x : Issue := { core := 0, checks := .pass, arr := .none }

def nx (o : Result) : State := match o with
  | .next t => t
  | _ => State.reset

/-- The state after the fetch. -/
def fetched (lvl : Nat) (world : Bool) : State := (fetch 0 x (on lvl world)).2

/-- g[r] of core 0 after a command. -/
def gAfter (i : Instr) (s : State) (r : BitVec 5) : DWord := ((nx (exec i s)).core 0).rg r

/-! ### Words and well-formedness -/

theorem test_word_addi : spelt x 0x0CA2FFF0 = .addi x 5 2 0xFFF0 := by decide
theorem test_word_beq : spelt x 0x4060000A = .beq x 3 0 10 := by decide
theorem test_word_ld : spelt x 0x60E96018 = .ld x 7 9 24 := by decide
theorem test_word_ori : spelt x 0x14800000 = .ori x 4 0 0 := by decide
theorem test_word_movk : spelt x 0x30820040 = .movk x 4 2 0x40 := by decide
theorem test_word_qputm : spelt x 0x7D8B5041 = .qputm x 12 11 10 2 := by decide
theorem test_word_zero : spelt x 0 = .illegalInstr x 0 := by decide
theorem test_word_encoded : instrWord (.addi x 5 2 0xFFF0) = some (x, 0x0CA2FFF0) := by decide
theorem test_words_defined : definedWord 0 = false ∧ definedWord 0x0CA2FFF0 = true := by decide

theorem test_wf_illegal : (Instr.illegalInstr x 0x0CA2FFF0).wf = false := by decide
theorem test_wf_cas : (Instr.cas x 1 2 3 0 false).wf = false := by decide
theorem test_wf_casp : (Instr.casp x 1 2 4 0 true).wf = false ∧ (Instr.casp x 2 2 5 0 true).wf = false := by decide
theorem test_wf_float : (Instr.vfadd x 1 2 3 4).wf = false ∧ (Instr.fmadd x 0 2 3 4 5).wf = false := by decide
theorem test_wf_vbdot : (Instr.vbdot x 3 2 3 4).wf = false := by decide
theorem test_wf_lane : (Instr.vins x 3 1 2 4).wf = false ∧ (Instr.vext x 3 1 2 3).wf = true := by decide
theorem test_wf_span : (Instr.spanRegisterWrite x true 8 0 1).wf = false := by decide

/-- A request header of core 0. -/
def hdr : Hdr := ⟨0, 1, 0, true, 0, 0, 0, 3, false, 0⟩

theorem test_wf_msg : (Instr.msg hdr 0 [] false false).wf = false ∧ (Instr.msg hdr 0 [1] true true).wf = false := by decide
theorem test_wf_aperture : (Instr.aperturePut 0 (.window 0) 0 [] false).wf = false := by decide
theorem test_wf_atomic : (Instr.atomic hdr 4 11 ⟨0, true⟩ 0 0).wf = false ∧ (Instr.atomic hdr 4 0 ⟨0, true⟩ 0 0).wf = false := by decide

/-! ### Instructions -/

theorem test_begins : Begins (on 3 true) x (fetched 3 true) := ⟨by decide, on 3 true, _, rfl, by rfl⟩
theorem test_begins_l1 : Begins (on 1 false) x (fetched 1 false) := ⟨by decide, on 1 false, _, rfl, by rfl⟩
theorem test_begins_l0 : Begins (on 0 false) x (fetched 0 false) := ⟨by decide, on 0 false, _, rfl, by rfl⟩
theorem test_quiet : Quiet (on 3 true) x (on 3 true) ∧ Quiet (on 1 false) x (on 1 false) ∧ Quiet (on 0 false) x (on 0 false) :=
  ⟨⟨rfl, rfl⟩, ⟨rfl, rfl⟩, ⟨rfl, rfl⟩⟩
theorem test_no_locket : ((fetched 3 true).core 0).lk = none ∧ ((fetched 0 false).core 0).lk = none := by decide
theorem test_step_front : (nx (step { on 3 true with pending := [.addi x 5 0 7] })).pending = [] := by decide
theorem test_idle : State.reset.pending = [] ∧ State.reset.boot.pins.pwrok = false := by decide

theorem test_addi_result : gAfter (.addi x 5 2 0xFFF0) (on 3 true) 5 = 0xFFFFFFFFFFFFFFF6 := by decide
theorem test_g0_discards : gAfter (.addi x 0 2 1) (on 3 true) 0 = 0 := by decide
theorem test_div_by_zero : gAfter (.div x 5 2 0) (on 3 true) 5 = 0xFFFFFFFFFFFFFFFF := by decide
theorem test_rem_by_zero : gAfter (.rem x 5 2 0) (on 3 true) 5 = 6 := by decide
theorem test_branch_back : ((nx (exec (.beq x 0 0 0xFFFF) (on 3 true))).core 0).pc = 0xFFFFFFFC := by decide
theorem test_jalr_aligned : (((fetched 3 true).core 0).rg 1 + (0 : BitVec 16).signExtend 64).toNat % 4 = 0 := by decide
theorem test_jalr_misaligned : (((fetched 3 true).core 0).rg 2 + (0 : BitVec 16).signExtend 64).toNat % 4 ≠ 0 := by decide
theorem test_jalr_traps : ((nx (exec (.jalr x 5 2 0) (on 3 true))).core 0).rs (Sys.eaddrAt 3) (bankOf 3 true) = 6 := by decide

/-- What a load and a store of n bytes at g1 leave, and the old value of an atomic. -/
theorem test_load : ∃ s2, load 0 x 0x100000040 8 (fetched 3 true) = (.ok 0, s2) := ⟨_, rfl⟩
theorem test_load_wide : ∃ s2, load 0 x 0x100000040 32 (fetched 3 true) = (.ok 0, s2) := ⟨_, rfl⟩
theorem test_load_aligned : (0x100000040#64).toNat % 8 = 0 ∧ (0 : Nat) < 256 := by decide
theorem test_store : ∃ s2, store 0 x 0x100000040 8 (6 % 256 ^ 8) true (fetched 3 true) = (.ok (), s2) := ⟨_, rfl⟩
theorem test_store_buffered : ((nx (exec (.sh x 2 1 0) (on 3 true))).ucore 0).mbuf.map (fun e => (e.line, e.mask)) =
    [(0x4000001, 3)] := by decide
theorem test_load_raises : ∃ e s2, load 0 x (((fetched 3 true).core 0).rg 2 + (0xFF6 : BitVec 12).signExtend 64) 4 (fetched 3 true) = (.error e, s2) ∧
    e.code ≠ 0x16 ∧ (s2.core 0).lk = none := ⟨_, _, rfl, by decide, by decide⟩
theorem test_store_raises : ∃ e s2, store 0 x (((fetched 3 true).core 0).rg 2 + (0xFF6 : BitVec 12).signExtend 64) 4 (6 % 256 ^ 4) false
    (fetched 3 true) = (.error e, s2) ∧
    e.code ≠ 0x16 ∧ (s2.core 0).lk = none := ⟨_, _, rfl, by decide, by decide⟩
theorem test_load_misaligned : (((fetched 3 true).core 0).rg 2 + (1 : BitVec 12).signExtend 64).toNat % 2 ≠ 0 := by decide
theorem test_atomic : ∃ s2, atomicOp 0 x 0x100000040 8 false (fun o => some (o + 6)) (fetched 3 true) = (.ok 0, s2) :=
  ⟨_, rfl⟩
theorem test_casp : ∃ s2, atomicOp 0 x 0x100000040 16 false (fun o => if o = 0 then some 1 else none) (fetched 3 true) = (.ok 0, s2) :=
  ⟨_, rfl⟩
theorem test_atomic_misaligned : ((fetched 3 true).core 0).rg 2 ≠ 0 ∧ (((fetched 3 true).core 0).rg 2).toNat % 4 ≠ 0 := by decide

/-- Where an access of Normal memory ends: the hypotheses of the statements on memory. -/
def at1 : Tr := { pa := 0x100000040, key := 0, mtype := 2, marks := [] }

theorem test_memory_access : (fetched 3 true).physDevice at1.pa = false ∧ ((fetched 3 true).ucore 0).mbuf = [] ∧
    (fetched 3 true).lineErr (tileStop 0) (at1.pa / 64) = none ∧ (fetched 3 true).cutOff (at1.pa / 64) = false ∧
    (fetched 3 true).m.poisonedIn at1.pa 8 = false ∧ (fetched 3 true).m.keyOk (at1.pa / 64) at1.key = true ∧
    Memory.wf (fetched 3 true).m.mem = true ∧ at1.pa % 64 + 8 ≤ 64 := by decide
theorem test_memory_path : ((fetched 3 true).ucore 0).gath = none ∧ (fetched 3 true).coreErr 0 (at1.pa / 64) false = none ∧
    (fetched 3 true).hasLine 0 (at1.pa / 64) = false ∧ (fetched 3 true).hasUnique 0 (at1.pa / 64) = false ∧
    (fetched 3 true).cxlClasped (64 * (at1.pa / 64)) = false ∧ (fetched 3 true).keyAt 0 (at1.pa / 64) at1.key = at1.key ∧ x.arr = .none := by
  decide
theorem test_translate : ∃ s', translate 0 (fxOf 0x100000040 0x100000040 8 true true) (fetched 3 true) = (.ok at1, s') := ⟨_, rfl⟩
theorem test_performed : Memory.wf (on 3 true).m.mem = true ∧ (on 3 true).m.keyOk (at1.pa / 64) 0 = true := by decide

theorem test_float_widths : 2 ≤ (3 : BitVec 2).toNat ∧ (1 : BitVec 2).toNat < 2 ∧ 256 / (8 * 2 ^ (3 : BitVec 2).toNat) ≤ (4 : BitVec 5).toNat := by
  decide
theorem test_no_trap_enabled : getF (((fetched 3 true).core 0).rs Sys.fcsr) G.fcsr.TEN = 0 := by decide

/-! ### System registers, barriers, caches, calls -/

theorem test_sysrd_time : Sys.named Sys.time = true ∧ (fetched 3 true).sysAllowed 0 Sys.time false = true ∧
    (fetched 3 true).sysTrapped 0 Sys.time false = false ∧ (fetched 3 true).iso ≠ .lk := by decide
theorem test_sysrd_status : gAfter (.sysrd x 5 0x4005) (on 1 false) 5 = 1 := by decide
theorem test_sys_unnamed : Sys.named 0x3FFF = false ∧ Sys.named Sys.htrap = true ∧ ((fetched 1 false).core 0).lvl < Sys.htrap / 2 ^ 14 := by
  decide
theorem test_sysrd_below_level : ((nx (exec (.sysrd x 5 0x8007) (on 1 false))).core 0).rs (Sys.ecauseAt 1) (bankOf 1 false) = 2 := by
  decide
theorem test_syswr_named :
    ([Sys.fcsr, Sys.pdt, Sys.mattr, Sys.s2mattr, 0x4100, 0x8100 + 4 * 7 + 2, Sys.tmrctlAt 1, Sys.tmrcmpAt 3, Sys.ieoiAt 1, Sys.ieoiAt 3].all
      fun n => Sys.named n && (fetched 3 true).sysAllowed 0 n true && !(fetched 3 true).sysTrapped 0 n true) = true := by decide
theorem test_ieoi_plain : ((on 3 true).core 0).vcpuOn = false := by decide
theorem test_field_kept : (writeFields Reg.stwDevid.fields true (BitVec.allOnes 64) 5 0).getLsbD 0 = true ∧
    (∀ f ∈ Reg.stwDevid.fields, f.acc = .ro) := by decide
theorem test_vcpu : (fetched 3 true).iso ≠ .lk ∧ (fetched 3 true).vcpuDenied 0 = false ∧ (fetched 3 true).vcpuDenied 1 = false ∧
    getF (0 : DWord) G.vcpu.EN ≠ 1 ∧ getF (1 : DWord) G.vcpu.EN = 1 := by decide
theorem test_untrapped : (fetched 1 false).traps 0 G.htrap.TPRED = false ∧ (fetched 1 false).traps 0 G.htrap.TSW = false ∧
    (fetched 1 false).traps 0 G.htrap.TWFI = false ∧ (fetched 1 false).traps 0 G.htrap.TTCALL = false ∧
    1 ≤ ((fetched 1 false).core 0).lvl := by decide
theorem test_fence_ls : ((nx (exec (.fenceLs x) (nx (exec (.sd x 2 1 0) (on 3 true))))).ucore 0).mbuf = [] := by decide +kernel
theorem test_cmo_translated : ∃ t s2, translate 0 (cmoFx 0x100000040 true) (fetched 3 true) = (.ok t, s2) ∧ t.mtype = 2 ∧
    s2.physDevice t.pa = false ∧ (s2.drainLine 0 (t.pa / 64)).lineErr (tileStop 0) (t.pa / 64) = none :=
  ⟨_, _, rfl, by decide, by decide, by decide⟩
theorem test_preload_of_nc : gAfter (.cmoPreload x 5 1) (on 3 true) 5 = 3 := by decide
/-- Core 0 with one memory type for all its memory. -/
def typed (m : Nat) : State :=
  { on 3 true with cores := [(0, { (on 3 true).core 0 with sys := [((Sys.mattr, true), dw (0x0101010101010101 * m))] })] }
/-- What maintenance of the line at g1 meets. -/
def cmoMeets (m : Nat) (wr : Bool) : Bool := match translate 0 (cmoFx 0x100000040 wr) (fetch 0 x (typed m)).2 with
  | (.ok t, s2) => t.mtype == m && !s2.physDevice t.pa && (((s2.drainLine 0 (t.pa / 64)).grant 0 false).coreErr 0 (t.pa / 64) false).isNone
  | _ => false

theorem test_cmo_types : cmoMeets 0 true = true ∧ cmoMeets 2 true = true ∧ cmoMeets 3 false = true := by decide
theorem test_tinv_levels : 2 ≤ ((fetched 3 true).core 0).lvl ∧ ((fetched 1 false).core 0).lvl = 1 ∧ (fetched 3 true).iso ≠ .lk := by decide
theorem test_predbar : ((nx (exec (.predBar x) (on 0 false))).core 0).barred = true := by decide

/-- The same with trusted services available. -/
def served (lvl : Nat) (world : Bool) : State :=
  { on lvl world with csr := (.twstate, dw 1) :: (on lvl world).csr }

theorem test_tcall : (served 1 false).avail = true ∧ (on 1 false).avail = false := by decide
theorem test_tcall_unavailable : gAfter (.tcall x) (on 1 false) 1 = 0xFFFFFFFFFFFFFFF0 := by decide
theorem test_hcall : (fetched 1 false).iso ≠ .lk ∧ 1 ≤ ((fetched 1 false).core 0).lvl ∧ ((fetched 1 false).core 0).lvl ≤ 2 ∧
    ((fetched 1 false).core 0).world = false := by decide
theorem test_scall_cause : ((nx (exec (.scall x) (on 0 false))).core 0).rs (Sys.ecauseAt 1) (bankOf 1 false) = 0x10 := by decide
theorem test_eret : let w := ((fetched 1 false).core 0).rs (Sys.estateAt 1) (bankOf 1 false)
    w.toNat % 4 ≤ 1 ∧ w.getLsbD 2 = false ∧ ¬(w.toNat % 4 = 2) ∧ ¬(w.toNat % 4 = 3) := by decide
theorem test_eret_level : ((nx (exec (.eret x) (on 1 false))).core 0).lvl = 0 := by decide
theorem test_wait : ((on 1 false).core 0).counts = false ∧ (fetched 1 false).anyDeliverable 0 = false ∧
    ((fetched 1 false).core 0).virtOffered false = none ∧ ((fetched 1 false).core 0).latchN = false := by decide
theorem test_wfi : ((nx (exec (.wfi x) (on 1 false))).core 0).run = .wfi := by decide

/-- Core 0 waits with its latch set, with an interrupt pending, and with a counter at its greatest value. -/
def latched : State := { on 1 false with cores := [(0, { (on 1 false).core 0 with latchN := true, latchT := true })] }
def bit : IntBit := ⟨false, 7, 1, 9, 0⟩
def pending : State := { on 1 false with cores := [(0, { (on 0 false).core 0 with pend := [bit] })] }
def counting : State :=
  { on 1 false with cores := [(0, { (on 1 false).core 0 with
    sys := [((Sys.pmctl, false), 1), ((0x60, false), BitVec.allOnes 64), ((0x69, false), BitVec.allOnes 64),
            ((0x4058, false), setF (setF 0 G.pmevsel.EVENT 0x30) G.pmevsel.LVL 2)] })] }

theorem test_latch : (((fetch 0 x latched).2).core 0).latchN = true ∧ (((fetch 0 x latched).2).core 0).latchT = true := by decide
theorem test_accept : pending.canRun 0 = true ∧ pending.offered 0 = some bit ∧ (pending.core 0).counts = false ∧
    (pending.core 0).lk = none ∧ (pending.core 0).virtOffered = none := by decide
theorem test_wait_events : (∀ e ∈ ((fetched 1 false).ucore 0).seen, e.counts = false) ∧
    (∀ e ∈ (pending.ucore 0).seen, e.counts = false) := by decide
theorem test_accept_vector : ((nx (exec (.interruptAccept 0 []) pending)).core 0).pc = 0x1038 := by decide
theorem test_overflow : counting.canRun 0 = true ∧ (counting.core 0).counts = true ∧
    (counting.core 0).rs 0x60 = BitVec.allOnes 64 ∧ (counting.core 0).rs 0x69 = BitVec.allOnes 64 ∧
    (counting.core 0).sflag Sys.pmctl false G.pmctl.OVF_IE = false := by decide
theorem test_overflow_event : getF ((counting.core 0).rs 0x4058) G.pmevsel.EVENT ≠ 0 ∧
    (getF ((counting.core 0).rs 0x4058) G.pmevsel.LVL).testBit (counting.core 0).lvl = true := by decide
theorem test_overflow_wraps : ((nx (exec (.pmcOverflow 0 0) counting)).core 0).rs 0x60 = 0 := by decide

/-! ### Lockets, queues and doorbells from a core -/

/-- Locket 5 is READY with one slot, its thread fresh; core 0 is its caller, or runs inside it. -/
def locket : Locket :=
  { st := 2, vmid := 0, key := 9, slots := [0x100001000], meas := 0, devs := [], caller := none,
    ranges := [{ pbase := 0x100001000, vbase := 0x1000, pages := 1, r := true, w := true, x := false, thread := true }] }
def caller : State :=
  let s := on 0 false
  { s with boot := { s.boot with cfg := { s.boot.cfg with iso := 2 } }, sec := { s.sec with lockets := [(5, locket)] }
           cores := [(0, { s.core 0 with g := [(1, 5), (2, 0x2000)] })] }
def inside : State := { caller with cores := [(0, { caller.core 0 with lk := some ⟨5, 0, 0x100000000, 3⟩ })]
                                    sec := { caller.sec with pages := [] } }

theorem test_lkenter : caller.iso ≠ .hv ∧ caller.sec.lockets.find 5 = some locket ∧ locket.st = 2 ∧
    locket.vmid = (caller.ident 0).vmid ∧ locket.slots[0]? = some 0x100001000 := by decide
theorem test_lkenter_path : ToSec 0 caller ∧ ToSec 0 inside := by unfold ToSec; decide
set_option maxRecDepth 100000 in
theorem test_lkenter_slot : (match (caller.wake domSec).agentRead true (tileStop 0) hypId locket.key 26 0x100001000 0x600 with
    | .ok (bs, p, _) => !p && decide (wordAt bs 0 8 < 2)
    | .error _ => false) = true := by decide
theorem test_lkexit : (inside.core 0).lk = some ⟨5, 0, 0x100000000, 3⟩ ∧ (inside.core 0).counts = false := by decide
theorem test_lkreport_bad : (6 : Nat) % 4096 ≠ 0 ∧ locket.bind 0x9000 = none := by decide

/-- Queue 5 of station 0 holds one message of two words, belongs to VMID 0xFFFF of the normal world and has key 0x21; core 0
has its handle in g1. -/
def queued : State :=
  let s := on 2 false
  { s with csr := [(.qcfg 0 5, dw (0x21 * 2 ^ 48 + 6 * 2 ^ 31 + 1)), (.qown 0 5, dw (0xFFFF * 2))] ++ s.csr
           qs := { s.qs with q := [((0, 5), ⟨tagWords [7, 8], none⟩)] }
           cores := [(0, { s.core 0 with g := [(1, 0x50021), (2, 6), (3, 0x100000040)] })] }
/-- The same with one word left, and with a claim. -/
def oneWord : State := { queued with qs := { queued.qs with q := [((0, 5), ⟨tagWords [7], none⟩)] } }
def claimed : State := { queued with qs := { queued.qs with q := [((0, 5), ⟨tagWords [7, 8], some 0⟩)] } }

theorem test_qput : (((fetch 0 x queued).2.drain 0).stationErr (tileStop 0) (hStation 0x50021) 0x08).1 = none ∧
    ((fetch 0 x queued).2.qSend 0 ((fetch 0 x queued).2.ident 0) 0x50021 [6]).1 = 0 := by decide
theorem test_qput_ok : gAfter (.qput x 5 1 2) queued 5 = 0 := by decide
theorem test_qputm_loads : (loadPayloads 0 x 0x100000040 1 (fetch 0 x queued).2).1.toBool = true := by decide
theorem test_qget : gAfter (.qget x 5 1 false) queued 5 = 0x0100000000000007 := by decide
theorem test_doorbell_reads : (loadWords 0 x 0x100000040 8 (fetch 0 x queued).2).1.toBool = true := by decide +kernel
theorem test_doorbell_path : (0x100000040#64).toNat % 64 = 0 ∧ (fetch 0 x queued).2.pathErr (tileStop 0) stwStop 416 = none ∧
    (match queued.bellOf 0 (2 ^ 280) with | .inr _ => true | .inl _ => false) = false := by decide

/-- Two stores wait in the merge buffer of core 0, which has trained on the page of its pc. -/
def entry : MbEntry := ⟨0x4000001, ⟨true, 0xFFFF, 0⟩, 0, 2, 6, 0xFF, false, [], [], 0⟩
def buffered : State := { on 3 true with ucores := [(0, { UCore.reset with mbuf := [entry], trained := [(0x100000, 0, ⟨true, 0xFFFF, 0⟩)] })] }

theorem test_writeout : (buffered.ucore 0).mbuf[0]? = some entry ∧ buffered.boot.resetting = none ∧ buffered.boot.draining = false :=
  ⟨rfl, rfl, rfl⟩
theorem test_writeout_may : mayLeave (buffered.ucore 0).mbuf 0 = true := rfl
theorem test_prefetch : buffered.canRun 0 = true ∧ (buffered.ucore 0).trained.getLast? = some (0x100000, 0, ⟨true, 0xFFFF, 0⟩) ∧ (buffered.ucore 0).port.instr = 0 ∧
    buffered.mayReach ⟨true, 0xFFFF, 0⟩ 0x100000 = true ∧ buffered.settleKey true 0x100000 0 = some 0 ∧
    buffered.lineErr (tileStop 0) (64 * 0x100000 + 5) = none ∧ buffered.isOn 0 = true ∧ buffered.noCore 0 = false := by decide
theorem test_walk : ∃ t s1, translate 0 (accFx 0x100000040 .write false) (on 3 true) = (.ok t, s1) ∧
    ∃ ok s2, setMarks 0 (accFx 0x100000040 .write false) true (t.marks.filter fun m => m.log) s1 = (.ok ok, s2) := ⟨_, _, rfl, _, _, rfl⟩

/-! ### Start-up and resets -/

/-- In reset, waiting for a phase to be done. -/
def phase (n : Nat) : State := (({ on 3 true with cores := [], boot := { (on 3 true).boot with resetting := some .cold } } : State).setFld
  .stwBootstat F.stwBootstat.PHASE n)

theorem test_phases : (phase 1).inPhase 1 = true ∧ (phase 2).inPhase 2 = true ∧ (phase 3).inPhase 3 = true ∧
    (phase 4).inPhase 4 = true ∧ (phase 5).inPhase 5 = true ∧ (phase 6).inPhase 6 = true ∧ (phase 7).inPhase 7 = true ∧
    (phase 8).inPhase 8 = true ∧ (phase 9).inPhase 9 = true ∧ State.reset.boot.pins.pwrok = false := by decide +kernel
theorem test_no_image : (phase 3).pickBank .cfg ((phase 3).bankOk .cfg) = none ∧ (phase 5).pickBank .fw ((phase 5).bankOk .fw) = none := by
  decide +kernel
theorem test_boot_core : (phase 9).bootCore = some 0 := by decide
/-- A DIMM of 16 GiB: one trains, none does. -/
theorem test_dimms : trainable [] = [] ∧ ∃ d : Dimm, trainable [d] = [d] := ⟨rfl, ⟨0, false, false, false, 16, 1, 4800, 0, 0⟩, by decide⟩
theorem test_reserve : ({ phase 8 with m := { (phase 8).m with fr := some 0x100000000 } } : State).m.fr = some 0x100000000 := rfl
theorem test_recovery : (nx (exec .imageSelection (phase 3))).flag .stwBootstat F.stwBootstat.RCVR = true := by decide +kernel
theorem test_sets : (placeSets 0x100000000 [(1, [0]), (2, [1, 2])]).map (·.base) = [0x100000000, 0x140000000] := by decide
theorem test_warm_reset : (on 3 true).boot.pins.pwrok = true ∧ (on 3 true).boot.pins.thermTrip = false ∧ (on 3 true).boot.resetting = none ∧
    (on 3 true).stoppedBoot = false ∧ (nx (exec .imageSelection (phase 3))).stoppedBoot = true ∧
    (on 3 true).drained = true ∧ buffered.drained = false := by decide +kernel
theorem test_fatal : ({ on 3 true with sec := { (on 3 true).sec with fatal := 1 } } : State).sec.fatal = 1 := rfl
theorem test_draining : ({ on 3 true with boot := { (on 3 true).boot with draining := true } } : State).boot.draining = true := rfl
theorem test_receives : (nx (exec .imageSelection (phase 3))).boot.pins.pwrok = true := by decide +kernel

/-! ### Mailboxes -/

/-- Mailbox 1 holds a command with its argument 0. -/
def mail (code a : Nat) : State :=
  { on 3 true with csr := [(.mbCmd 1, dw (2 ^ 31 + code)), (.mbArg 1 0, dw a), (.stwBootstat, dw 0)] ++ (on 3 true).csr }


theorem test_mail_waits : (∀ c, c ∈ [0x01, 0x02, 0x03, 0x04, 0x05, 0x06, 0x07, 0x08, 0x09, 0x0A, 0x0B, 0x0C, 0x0D, 0x0F] →
    MailWaits 1 c (mail c 0)) := by
  intro c h
  simp only [List.mem_cons, List.not_mem_nil, or_false] at h
  rcases h with h | h | h | h | h | h | h | h | h | h | h | h | h | h <;> subst h <;> exact ⟨by decide, by decide⟩
theorem test_mail_program : MailWaits 4 0x0E { mail 0 0 with csr := [(.mbCmd 4, dw (2 ^ 31 + 0x0E)), (.stwBootstat, dw 0)] } :=
  ⟨by decide, by decide⟩
theorem test_mail_args : (mail 0x07 255).mbArg 1 0 = 255 ∧ (mail 0x07 255).noCore 255 = false ∧ (mail 3 1).boot.update = none ∧
    (mail 0x0D 4).mbArg 1 0 ≠ (mail 0x0D 4).boot.cfgSlot ∧ (mail 0x0D 4).boot.fuses.revoked.contains 4 = false ∧
    (mail 0x0F 0).avail = false ∧ (mail 0x0E 1).boot.fuses.ownerHash.find 2 = none := by decide
theorem test_set_power : (nx (exec (.setPower 1) (mail 0x08 380))).ras.pkg = 380 ∧ (nx (exec (.setPower 1) (mail 0x08 379))).ras.pkg = 520 := by
  decide
theorem test_getsignet_bad : (nx (exec (.getSignet 1) (mail 0x0B 3))).fld (.mbSts 1) F.mbSts.STATUS = stBadarg := by decide
theorem test_unknown_code : (mail 0x10 0).fld (.mbCmd 1) F.mbCmd.CODE = 0x10 ∧ (mail 0x10 0).mbServes 1 0x10 = true := by decide

/-- The same with an update of the Configuration Image open, its chunk in memory, and one log entry. -/
def updating : State := { mail 4 0 with
  boot := { (mail 4 0).boot with update := some ⟨1, 0, false⟩ }
  log := { (mail 4 0).log with entries := [⟨0, 1, 0, false, 0, []⟩], count := 1, next := 1 } }

theorem test_update : updating.boot.update = some ⟨1, 0, false⟩ ∧ updating.log.entries.reverse[0]? = some ⟨0, 1, 0, false, 0, []⟩ ∧
    updating.mbArg 1 0 + 8 ≤ (imgOf 0).size := by decide
theorem test_update_banks : (mail 3 0).updateBank .cfg = some false ∧ updating.selected .cfg ≠ some false ∧
    (updating.setFld .stwBootstat F.stwBootstat.PHASE 10).selected .cfg = some false ∧
    (phase 3).recoveryBank .cfg = some (false, false) := by decide +kernel
theorem test_update_chunk : ((updating.chunk 1).toBool) = true := by decide
theorem test_core_release : let s := (mail 0x07 1).setFld .stwBootstat F.stwBootstat.PHASE 10
    s.mbServes 1 0x07 = true ∧ 6 < s.phase ∧ s.stoppedBoot = false ∧ (s.core 1).run = .held ∧ s.mbArg 1 1 % 4 = 0 := by decide

/-! ### Mesh packets -/

/-- A core's request for the line at 0x100000040, whose home is tile 33. -/
def line1 : Nat := 0x4000001

/-- A request of `hdr` for that line, and what it needs on its way. -/
theorem test_at_home : ∀ a ∈ [Ask.rdShared true .none, .rdUnique, .rdNc 8, .wrLine 5, .wrPartial 5 1, .atomic 1 0 true 7 0, .cmoClean, .cmoInv,
    .cmoClinv, .preload], ∃ p s2, AtHome hdr 0x100000040 a p (on 3 true) s2 := by
  intro a h
  simp only [List.mem_cons, List.not_mem_nil, or_false] at h
  rcases h with h | h | h | h | h | h | h | h | h | h <;> subst h <;>
    exact ⟨_, _, by decide, by decide, _, ⟨rfl, _, rfl, by decide, by decide, rfl⟩, ⟨by decide, by decide, by decide, by decide, rfl⟩⟩
theorem test_home_checks : (on 3 true).cutOff line1 = false ∧ (on 3 true).cxlClasped (64 * line1) = false := by decide
theorem test_mesh_write : memGet (nx (exec (.wrPartial hdr 0x100000040 0x77 1) (on 3 true))).m.mem 0x100000040 = 0x77 := by
  decide +kernel

/-- Core 0 holds the line dirty, or has it in its write-back buffer; the directory lists it as owner. -/
def priv1 : PrivLine := ⟨.m, 0, 0, none, none, none⟩
def dir1 : DirEntry := ⟨0, some 0, [], none, 0⟩
def holding : State := { on 3 true with coh := { (on 3 true).coh with priv := [((0, line1), priv1)], dir := [(line1, dir1)] } }
def victim (dirty : Bool) : State := { on 3 true with coh := { (on 3 true).coh with wbuf := [((0, line1), (dirty, 0))], dir := [(line1, dir1)] } }

theorem test_victim : (victim true).coh.wbuf.find (0, line1) = some (true, 0) ∧ (victim false).coh.wbuf.find (0, line1) = some (false, 0) := by
  decide
theorem test_victim_arrives : ∃ p s1 s2, Reaches hdr 0x100000040 (.victim true .none) p (victim true) s1 ∧ ServedAt p s1 s2 :=
  ⟨_, _, _, ⟨rfl, _, rfl, by decide, by decide, rfl⟩, ⟨by decide, by decide, by decide, by decide, rfl⟩⟩
/-- A request of core 0 in the normal world. -/
def hdrN : Hdr := ⟨0, 1, 0, false, 0xFFFF, 0, 0, 3, false, 0⟩
theorem test_msg_served : ∃ p s1 s2, Reaches hdrN 0 (.msg 0x50021 [7] false false) p queued s1 ∧ ServedAt p s1 s2 :=
  ⟨_, _, _, ⟨rfl, _, rfl, by decide, by decide, rfl⟩, ⟨by decide, by decide, by decide, by decide, rfl⟩⟩
theorem test_qread_served : ∃ p s1 s2, Reaches hdrN 0 (.qread 0x50021 false) p queued s1 ∧ ServedAt p s1 s2 :=
  ⟨_, _, _, ⟨rfl, _, rfl, by decide, by decide, rfl⟩, ⟨by decide, by decide, by decide, by decide, rfl⟩⟩
theorem test_bell_served : ∃ p s1 s2, Reaches hdrN 0 (.doorbell 2 0) p queued s1 ∧ ServedAt p s1 s2 :=
  ⟨_, _, _, ⟨rfl, _, rfl, by decide, by decide, rfl⟩, ⟨by decide, by decide, by decide, by decide, rfl⟩⟩
theorem test_station : queued.fencedTile 0 = false ∧ queued.qCheck (queued.srcPort 0 0x50021) ⟨false, 0xFFFF, 0⟩ 0x50021 true = 0 ∧
    queued.qCheck (queued.srcPort 0 0x50021) ⟨false, 0xFFFF, 0⟩ 0x50021 false = 0 ∧ (queued.queue 0 5).words.length + 32 ≤ 2 ^ 6 ∧
    (∃ w r, queued.queue 0 5 = ⟨w :: r, none⟩) := ⟨by decide, by decide, by decide, by decide, _, _, rfl⟩
theorem test_int : (on 1 false).awake (domCore 0) = true ∧ (on 1 false).levelOk false 1 = true ∧ (on 1 false).sec.discard = false ∧
    ((on 1 false).core 0).vcpuOn = false ∧ ((on 1 false).core 0).run = .running ∧ (on 1 false).noCore 0 = false ∧
    ((((on 1 false).statSent (tileStop 0) false).way false [] [] (intPacket (tileStop 0) 0 false 7 9 1)).2 = .arrives) := by decide
theorem test_int_pends : (((nx (exec (.int ⟨tileStop 0, 0⟩ false 7 9 1) (on 1 false))).core 0).pend) = [⟨false, 7, 1, 9, 0⟩] := by decide
theorem test_device_read : ∃ p s1 s2 v bad s4, Reaches hdr 0x10000000 (.rdNc 8) p (on 3 true) s1 ∧ ServedAt p s1 s2 ∧
    s2.physDevice p.pkt.addr.toNat = true ∧ s2.devAccess p.req_ 0x03 p.pkt.addr.toNat 8 none = (.ok (v, bad), s4) :=
  ⟨_, _, _, _, _, _, ⟨rfl, _, rfl, by decide, by decide, rfl⟩, ⟨by decide, by decide, by decide, by decide, rfl⟩, by decide, rfl⟩
theorem test_device_write : ∃ p s1 s2 r s4, Reaches hdr 0x10700000 (.wrPartial 9 0xFF00) p (on 3 true) s1 ∧ ServedAt p s1 s2 ∧
    s2.physDevice p.pkt.addr.toNat = true ∧ region p.pkt.addr.toNat = .ccs ∧ maskRuns 0xFF00 = [(8, 8)] ∧
    s2.devAccess p.req_ 0x05 (p.pkt.addr.toNat + 8) 8 (some 0) = (.ok r, s4) :=
  ⟨_, _, _, _, _, ⟨rfl, _, rfl, by decide, by decide, rfl⟩, ⟨by decide, by decide, by decide, by decide, rfl⟩, by decide, by decide, by decide, rfl⟩

/-- A transaction of core 0 open, and one quarantined. -/
def packet (cmd : BitVec 8) (st : Stop) (port : BitVec 2) : Packet :=
  { dst := st, dport := port, src := tileStop 0, sport := 0, cmd := cmd, tag := 1, gen := 0, world := true, vmid := 0, locket := 0, key := 0,
    mtype := 3, addr := 0x100000040 }
def txn (a : Option Answer) : Txn :=
  { pkt := packet 0x03 (tileStop 0) 2, time := 100, inner := none, paused := false, quarantined := false, arrived := true, answer := a }
def opened (a : Option Answer) (q : Bool) : State :=
  { on 3 true with mesh := { (on 3 true).mesh with txns := [((0, 1), { txn a with quarantined := q })] } }

theorem test_txn : ∀ a ∈ [some (Answer.ack 0), some (.err 4), some (.data 3 0 []), none], (opened a false).mesh.txns.find (tagKey 0 1) = some (txn a) ∧
    (txn a).answer = a ∧ (txn a).pkt.gen = 0 ∧ (txn a).quarantined = false ∧ (txn a).paused = false := by
  intro a h
  simp only [List.mem_cons, List.not_mem_nil, or_false] at h
  rcases h with h | h | h | h <;> subst h <;> exact ⟨rfl, rfl, rfl, rfl, rfl⟩
theorem test_posted : (txn none).posted 0 = false ∧ ({ txn (some (.err 4)) with pkt := packet 0x12 (tileStop 0) 2 } : Txn).posted 0 = true := by decide
theorem test_no_txn : (on 3 true).mesh.txns.find (tagKey 0 1) = none := rfl
theorem test_txn_quarantined : (opened none true).mesh.txns.find (tagKey 0 1) = some { txn none with quarantined := true } := rfl
theorem test_rsp_completes : (nx (exec (.rspAck 0 1 0 5 0) (opened (some (.ack 0)) false))).mesh.txns.find (0, 1) = none := by decide
theorem test_snoop : holding.coh.priv.find (0, line1) = some priv1 ∧ holding.coh.dir.find line1 = some dir1 ∧ dir1.holders.contains 0 = true ∧
    holding.mesh.snoops.find (0, line1) = none ∧ holding.noCore 0 = false := by decide
theorem test_snoop_arrives : ∀ inv, ((holding.snoopOpened 0 line1 dir1).way false [] [] ((holding.snoopOpened 0 line1 dir1).snoopPacket 0 line1 0 inv)).2 =
    .arrives := by decide
/-- A snoop of the owner that no answer has come to. -/
def snooping : State := holding.snoopOpened 0 line1 dir1
theorem test_snoop_open : snooping.mesh.snoops.find (0, line1) = some ⟨50, false, true, false⟩ ∧ snooping.coh.dir.find line1 = some dir1 := by decide
theorem test_snoop_expires : (nx (exec (.snoopTimeout 0 0x100000040) snooping)).m.poisoned (2 * line1) = true := by decide +kernel
theorem test_snoop_keeps_memory : (nx (exec (.snpShared 0 0x100000040) holding)).coh.priv.find (0, line1) = some { priv1 with st := .o } := by
  decide
theorem test_bad_cmd : cmdFits (tileStop 0) 0 0x08 = false ∧ (on 3 true).noPort (tileStop 0) 0 = false ∧
    ((on 3 true).openReq ((on 3 true).toPort (tileStop 0) 0 hdr 0x08 0)).isSome = true ∧ (on 3 true).noPort (tileStop 0) 2 = false := by decide
theorem test_no_agent : (on 3 true).noPort stwStop 1 = true ∧ ((on 3 true).openReq ((on 3 true).toPort stwStop 1 hdr 0x03 0)).isSome = true := by decide

/-- A link that waits for a replay, after j failures. -/
def link : LinkId := ⟨tileStop 0, 0, false⟩
def retrying (j : Nat) : State := { on 3 true with mesh := { (on 3 true).mesh with retry := [(link, (9, j))] } }

theorem test_link : (retrying 6).mesh.retry.find link = some (9, 6) ∧ (retrying 7).mesh.retry.find link = some (9, 7) ∧
    (on 3 true).mesh.failed.contains link = false ∧ (on 3 true).mesh.retry.find link = none ∧
    ((on 3 true).mesh.links.getD link Link.fresh).expects 0 = true := by decide
theorem test_hold : (phase 9).awake 3 = false ∧ (phase 9).noCore 3 = false ∧ (phase 9).mesh.wakeFail.contains 3 = false := by decide
theorem test_wake_limit : ((on 3 true).wake 3).isOn 3 = false ∧ 3 ∈ ((on 3 true).wake 3).pwr.wakeReq ∧
    ((on 3 true).wake 3).mesh.wakeFail.contains 3 = false := by decide
theorem test_held_packets : (∃ b, ((phase 9).announced 289 hdr 0x03 0x100000040).holdAt 289 = some b) ∧
    (∃ b, (intPacket (hdrSrc hdr) 3 true 7 9 1).holdAt (domCore 3) = some b) ∧
    ((phase 9).openReq ((phase 9).announced 289 hdr 0x03 0x100000040)).isSome = true ∧
    (∀ t, t < 128 → (phase 9).rspDown (tileStop t) (hdrSrc hdr) = false) := ⟨⟨_, rfl⟩, ⟨_, rfl⟩, by decide, by decide +kernel⟩
theorem test_age : ((nx (exec (.routerWakeHold 289 hdr ⟨0x03, 0x100000040, none⟩) { phase 9 with csr := [(.dom 410, dw 0xC000F000)] })).mesh.held).length = 1 := by
  decide +kernel
theorem test_stat_window : ((on 3 true).setFld .statCtl F.statCtl.WINDOW 1).fld .statCtl F.statCtl.WINDOW ≠ 0 := by decide

/-! ### Slices, lockets, security -/

/-- Requests of core 0 in each world. -/
def tw : Req := ⟨.core 0, true, 0, 0⟩
def nw : Req := ⟨.core 0, false, 0xFFFF, 0⟩

theorem test_served : Served tw .iftCtl (on 3 true) ∧ Served nw (.l3Waypwr 0) (on 3 true) ∧ Served tw (.qcfg 0 5) (on 3 true) ∧
    Served tw (.candle 4095) (on 3 true) ∧ Served nw (.candle 3840) (on 3 true) ∧ Served tw (.dmCtl 0 0) (on 3 true) := by
  refine ⟨⟨?_, rfl, by decide⟩, ⟨?_, rfl, by decide⟩, ⟨?_, rfl, by decide⟩, ⟨?_, rfl, by decide⟩, ⟨?_, rfl, by decide⟩, ⟨?_, rfl, by decide⟩⟩ <;>
    intro d h <;> cases h
theorem test_way_power : (anyBelow 8 fun k => (0x01 : BitVec 8).toNat.testBit k && !((on 3 true).fld (.l3Waypwr 0) F.l3Waypwr.OFF).testBit k &&
    (on 3 true).l3Locked 0 (8 + k)) = false ∧ 8 ≤ (on 3 true).l3Usable 0 1 ∧ 8 ≤ (on 3 true).l3Usable 0 0xFF := by decide
theorem test_way_busy : ({ on 3 true with coh := { (on 3 true).coh with wayBusy := [(0, 8), (1, 15)] } } : State).coh.wayBusy.find 1 = some 15 := by
  decide
/-- Slice 0 and core 0 have a way with as many corrected errors as the thresholds allow. -/
def worn : State := { on 3 true with
  csr := [(.l3Thresh, setF 0 F.l3Thresh.COUNT 2), (.l2Thresh, setF 0 F.l2Thresh.COUNT 2)] ++ (on 3 true).csr
  coh := { (on 3 true).coh with wayErr := [((true, 0, 3), 2), ((false, 0, 3), 2)], retiring := some 1 } }

theorem test_way_disable : worn.fld .l3Thresh F.l3Thresh.COUNT ≤ worn.wayErrs true 0 3 ∧ worn.fld .l2Thresh F.l2Thresh.COUNT ≤ worn.wayErrs false 0 3 ∧
    0 < worn.fld .l3Thresh F.l3Thresh.COUNT ∧ worn.l3Dis 0 3 = false ∧ worn.l2Dis 0 3 = false ∧ 8 < worn.l3Usable 0 0 ∧ 4 < worn.l2Usable 0 := by
  decide
theorem test_retire : (on 3 true).coh.retiring = none ∧ (on 3 true).retireRefused 0 = false ∧ worn.coh.retiring = some 1 ∧
    worn.inFlight 1 = false ∧ worn.mesh.held = [] := by decide +kernel

/-- Core 0 runs trusted code that a TCALL of the caller entered, with a function code and a first argument. -/
def ret (a : Nat) : WorldRet :=
  { g := [(2, dw a), (4, 0x5000), (5, 1), (6, 7)], v := [], lvl := 1, pc := 0x2000, ie := false, fcsr := 0, byCall := true, vec := 0 }
def service (code : Nat) (st : Nat) : State :=
  let s := served 3 true
  { s with boot := { s.boot with cfg := { s.boot.cfg with iso := 2 } }, sec := { s.sec with lockets := [(5, { locket with st := st })] }
           cores := [(0, { s.core 0 with wret := some { ret 5 with g := (1, dw code) :: (ret 5).g } })] }

theorem test_serves : ∀ c ∈ [0x0100, 0x0101, 0x0102, 0x0103, 0x0104, 0x0105],
    Serves 0 c { ret 5 with g := (1, dw c) :: (ret 5).g } (service c 1) := by
  intro c h
  simp only [List.mem_cons, List.not_mem_nil, or_false] at h
  rcases h with h | h | h | h | h | h <;> subst h <;> exact ⟨by decide, by decide, by decide⟩
theorem test_serves_locket : (service 0x0102 1).sec.lockets.find (arg (ret 5) 2) = some { locket with st := 1 } ∧ arg (ret 5) 2 = 5 ∧
    (service 0x0102 1).callerVmid 0 (ret 5) = 0 := by decide
theorem test_lk_create : (service 0x0100 1).fld .keypart F.keypart.NWMAX < 0x400 ∧ 0x400 < (service 0x0100 1).fld .keypart F.keypart.TWBASE ∧
    (∀ p ∈ (service 0x0100 1).sec.lockets, p.2.key ≠ 0x400) ∧ (service 0x0100 1).sec.lockets.find 1 = none := by decide
theorem test_lk_add_range : addArgsOk (arg (ret 5) 3) (arg (ret 5) 4) (arg (ret 5) 5) (arg (ret 5) 6) 0 = true ∧ arg (ret 5) 7 = 0 ∧
    (service 0x0101 1).freeNormal 0x100005 0x100006 = true ∧ overlaps 0x5000 0x6000 0x1000 0x2000 = false := by decide
theorem test_lk_unavailable : ({ service 0x0100 1 with csr := (on 3 true).csr } : State).avail = false ∧
    (({ service 0x0100 1 with csr := (on 3 true).csr } : State).svcCall 0 0x0100).isSome = true := by decide
theorem test_lk_init : ((nx (exec (.lkInit 0) (service 0x0102 1))).sec.lockets.find 5).map (·.st) = some 2 := by decide +kernel
theorem test_lk_scrub : (service 0x0100 3).sec.lockets.find 5 = some { locket with st := 3 } := by decide
theorem test_report : let s : State := { caller with sec := { caller.sec with reports := [⟨5, 0, 0x2000, 0⟩] } }
    (∃ q ∈ s.sec.reports, q.locket = 5 ∧ q.slot = 0) ∧ s.sec.lockets.find 5 = some locket :=
  ⟨⟨_, List.mem_cons_self, rfl, rfl⟩, rfl⟩

theorem test_own_invalidation : ∀ c, ((on 3 true).ucore c).mbuf = [] := fun _ => rfl
theorem test_keycmd : (on 3 true).flag .keycmd F.keycmd.GO = false ∧ (on 3 true).keyAccepted tw 0xF80 = true ∧ (on 3 true).keyAccepted nw 0xF80 = false := by
  decide
theorem test_key_busy : ({ on 3 true with sec := { (on 3 true).sec with keyBusy := some 7 } } : State).sec.keyBusy = some 7 := rfl
theorem test_watchdog : (nx (exec (.twdogKick tw) { on 3 true with rtu := { (on 3 true).rtu with cnt := 99 } })).sec.kicked = 99 := by decide
theorem test_evict : (nx (exec .trustedWatchdogExpiry (service 0x0100 1))).avail = false := by decide +kernel
theorem test_restart : (on 3 true).restartCore.isSome = true ∧ ((on 3 true).setFld .twstate F.twstate.RESTARTING 1).flag .twstate F.twstate.RESTARTING = true := by
  decide
theorem test_tap : (phase 8).coresHeld = true ∧ (on 3 true).coresHeld = false := by decide +kernel
theorem test_tap_release : (nx (exec .extest (on 3 true))).log.queue.length = 1 := by decide +kernel
theorem test_tap_pins : ({ phase 8 with boot := { (phase 8).boot with tap := .extest } } : State).coresHeld = true ∧
    (0x07 : BitVec 8).toNat ∉ [0x00, 0x01, 0x02, 0x04, 0x05] := by decide +kernel
theorem test_security_served : Served tw .keypart (on 3 true) ∧ Served tw .keycmd (on 3 true) ∧ Served tw (.twrangeLo 0) (on 3 true) ∧
    Served nw (.twrangeLo 0) (on 3 true) ∧ Served tw .twdog (on 3 true) ∧ Served tw .twstate (on 3 true) := by
  refine ⟨⟨?_, rfl, by decide⟩, ⟨?_, rfl, by decide⟩, ⟨?_, rfl, by decide⟩, ⟨?_, rfl, by decide⟩, ⟨?_, rfl, by decide⟩, ⟨?_, rfl, by decide⟩⟩ <;>
    intro d h <;> cases h
theorem test_twrange : (service 0x0100 1).heldPages 0x100001 0x100001 = true ∧ (service 0x0100 1).heldPages 0x100002 0x100003 = false := by decide
/-- A firmware reserve is placed: the Steward may restart trusted software by itself. -/
def placed : State := { on 3 true with m := { (on 3 true).m with fr := some 0x130000000 } }
theorem test_own_restart : placed.m.fr = some 0x130000000 ∧ placed.flag .twstate F.twstate.RESTARTING = false ∧ placed.sec.autoRestarts < 3 := by decide +kernel

/-- An engineering part. -/
def engineering : State := { on 3 true with boot := { (on 3 true).boot with fuses := { (on 3 true).boot.fuses with engineering := true } } }

theorem test_debug : engineering.boot.fuses.engineering = true ∧ engineering.physDevice 0x100000040 = false := by decide
theorem test_debug_access : (match engineering.agentWrite false stwStop ⟨true, 0xFFFF, 0⟩ 0 false 2 0x100000040 (leBytes 8 7) with
    | .ok _ => true | .error _ => false) = true := by decide
theorem test_debug_read : (match engineering.agentNat false stwStop ⟨true, 0xFFFF, 0⟩ 0 0x100000040 8 with
    | .ok _ => true | .error _ => false) = true := by decide

/-! ### Interrupts, queues, Data Movers, channels -/

/-- Entry 3 of port 1 takes requester 0x100; entry 9 of the STW stop is virtual; counter 2 holds one completion. -/
def routed : State := { on 3 true with csr :=
  [(.ioIntLo 1 3, setF (setF 0 F.ioIntLo.V 1) F.ioIntLo.RID 0x100), (.stwIntLo 9, setF (setF (setF 0 F.stwIntLo.V 1) F.stwIntLo.VIRT 1) F.stwIntLo.VECTOR 40),
   (.gather 2, setF (setF 0 F.gather.COUNT 2) F.gather.WORLD 1)] ++ (on 3 true).csr }

theorem test_msi : routed.role 1 = .root ∧ getF (routed.reg (srcRegs (.io 1 3)).1) F.ioIntLo.V = 1 ∧
    getF (routed.reg (srcRegs (.io 1 3)).1) F.ioIntLo.RID = 0x100 ∧ getF (routed.reg (srcRegs (.io 1 2047)).1) F.ioIntLo.V = 0 := by decide
theorem test_virtual_route : getF (routed.reg (srcRegs (.stw 9)).1) F.stwIntLo.VIRT = 1 ∧ getF (routed.reg (srcRegs (.stw 9)).1) F.stwIntLo.V = 1 ∧
    getF (routed.reg (srcRegs (.stw 9)).1) F.stwIntLo.VECTOR = 40 := by decide
theorem test_route_write : routed.flag (srcRegs (.stw 9)).1 F.stwIntLo.WORLD = false ∧ routed.mayManage tw = true ∧ vecOk (.stw 9) 511 = true ∧
    routed.levelOk false 1 = true := by decide
theorem test_gather : routed.flag (.gather 2) F.gather.WORLD = tw.world ∧ 0 < routed.fld (.gather 2) F.gather.COUNT := by decide
theorem test_timer : ({ on 3 true with cores := [(0, ((on 3 true).core 0).wsf (Sys.tmrctlAt 1) false G.tmrctl.EN 1)] } : State).awake (domCore 0) = true ∧
    ((((on 3 true).core 0).wsf (Sys.tmrctlAt 1) false G.tmrctl.EN 1).sflag (Sys.tmrctlAt 1) (bankOf 1 false) G.tmrctl.EN) = true := by decide
theorem test_qcfg : queued.mayConfigure nw (queued.qOwner 0 5) = true ∧ queued.flag (.qcfg 0 5) F.qcfg.V = true ∧ queued.flag (.qcfg 0 6) F.qcfg.V = false ∧
    queued.mayConfigure ⟨.core 0, false, 7, 0⟩ (queued.qOwner 0 5) = false := by decide
theorem test_claim : (claimed.queue 0 5).claim = some 0 ∧ (nx (exec (.claimBreak 0 5) claimed)).queue 0 5 = ⟨[], none⟩ := by decide
theorem test_part : ({ queued with qs := { queued.qs with parts := [((0, 3), ⟨0, 0x50021, [7]⟩)] } } : State).qs.parts.find (0, 3) = some ⟨0, 0x50021, [7]⟩ := by
  decide

/-- Words put into memory. -/
def poke (s : State) (a : Nat) (bs : List Byte) : State := { s with m := { s.m with mem := cellSetAll 0 s.m.mem a bs } }

/-- Port 0 in root mode with its link up and contexts in memory: requester 0x10 passes without translation. -/
def ioOn : State :=
  let s := on 3 true
  let s := { s with
    csr := [(.ctxbase 0, dw (0x100002 * 2 ^ 12 + 1)), (.clasp 0 0, setF 0 F.clasp.LINKUP 1), (.dom 400, dw 0xC000F000)] ++ s.csr
    io := [(0, { IoState.reset with rps := [(0, { RootPort.reset with link := .l0 })] })] }
  poke s (0x100002000 + 32 * 0x10) [0x03]

theorem test_io : ioOn.isRp 0 0 = true ∧ ioOn.flag (rClasp 0 0) F.clasp.LINKUP = true ∧ ioOn.clasped 0 0 = false := by decide
theorem test_io_context : (((ioOn.rpActive 0 0).wake (domIo 0)).ioCtx 0 0x10).1.toBool = true := by decide +kernel

/-- Channel 1 of Data Mover 0 is enabled with queue 6 of station 0, which holds a descriptor: FILL of 8 bytes. -/
def fillWords : List (BitVec 56) := [2, 0, 0x100000040, 8, 0, 0x50021, 0x11223344, 0]
def dmOn : State :=
  let s := queued
  { s with
    csr := [(.dom 408, dw 0xC000F000), (.qcfg 0 6, dw (0x22 * 2 ^ 48 + 6 * 2 ^ 31 + 1 * 2 ^ 9 + 2 ^ 8 + 1)),
            (.dmAttr 0 1, dw 0), (.dmCtl 0 1, setF (setF 0 F.dmCtl.EN 1) F.dmCtl.SQ 0x60022)] ++ s.csr
    qs := { s.qs with q := ((0, 6), ⟨tagWords fillWords, none⟩) :: s.qs.q } }

theorem test_dm_queue : dmOn.sqOf 1 = some (0, 6) ∧ dmOn.chanFree 1 = true ∧ dmOn.fencedTile 0 = false ∧
    dmOn.pathErr (dmStop 0) (tileStop 0) (domTile 0) = none := by decide
theorem test_dm_descriptor : let ws := headMessage (dmOn.queue 0 6).words
    dOk .fill ws = true ∧ dOp ws = DmOp.fill.code ∧ dFence ws = false ∧ dWord ws 3 = 8 := by decide
theorem test_dm_owner : dmOn.mayConfigure tw (dmOn.chanOwner 1) = true ∧ dmOn.chanCtx 1 = none ∧ dmOn.physDevice 0x100000040 = false := by decide
theorem test_dm_fill : memGet (nx (exec (.fill 0 1 false) dmOn)).m.mem 0x100000047 = 0x11 := by decide +kernel
theorem test_dm_complete : let s := nx (exec (.fill 0 1 false) dmOn)
    ((s.chan 1).descs.map (·.status)) = [0] ∧ (s.chan 1).retry = none := by decide +kernel

/-- Channel 0 works, with one GiB, error thresholds reached, and a repair and a rank copy under way in channel 1. -/
def mcOn : State :=
  let s := on 3 true
  let m : McState := { McState.reset with trained := true, rate := 6400, usable := 1, rowErr := [(⟨false, 0, 0, 0, 0⟩, [1, 2])], rankErr := [(0, [1, 2])] }
  { s with csr := [(.dom 384, dw 0xC000F000), (.dom 385, dw 0xC000F000)] ++ s.csr
           mc := [(0, m), (1, { m with ppr := some ⟨false, 0, 0, 0, 0⟩, copying := some 0, refWin := true, postponed := 4 }), (2, { m with rebuild := true })]
           boot := { s.boot with cfg := { s.boot.cfg with memCfg := 0x0001000101030000 } } }

theorem test_mc : mcOn.mcWorks 0 = true ∧ 0 < (mcOn.mcAt 0).usable ∧ (mcOn.mcAt 0).patrol + 1 < (mcOn.mcAt 0).lines ∧ (mcOn.mcAt 0).trained = true ∧
    (mcOn.mcAt 0).refWin = false ∧ (mcOn.mcAt 1).refWin = true ∧ 4 ≤ (mcOn.mcAt 1).postponed := by decide
theorem test_mc_patrol : mcOn.scrubWindowed 0 = false ∧ ((nx (exec (.patrolScrubRead 0 .none) mcOn)).mcAt 0).patrol = 1 := by decide +kernel
theorem test_mc_repair : mcOn.memFlag 1 = true ∧ mcOn.memFlag 0 = true ∧ (mcOn.mcAt 0).ppr = none ∧ mcOn.pprThresh ≤ 2 ∧ mcOn.spareThresh ≤ 2 ∧
    (mcOn.mcAt 1).ppr = some ⟨false, 0, 0, 0, 0⟩ ∧ (mcOn.mcAt 1).copying = some 0 ∧ (mcOn.mcAt 0).copying = none ∧ (mcOn.mcAt 0).spared = none := by decide
theorem test_mc_mirror : mcOn.inPair 0 = true ∧ (mcOn.mcAt 0).mirrorFailed = none ∧ (mcOn.mcAt 2).rebuild = true := by decide
theorem test_dimm_hot : ((nx (exec (.dimmTemperatureChange 0 false 106) mcOn)).fld (.mcRas 0) F.mcRas.THROTTLE) = 2 := by decide

/-! ### Expansion ports -/

/-- A posted write of one byte by requester 0x10, and a ring of invalidation commands: one for each code. -/
def tlp : Tlp := { rid := 0x10, addr := 0x100000040, op := .write [5], translated := false, pasid := false, poison := false }
def ring (n : Nat) : State :=
  poke { ioOn with csr := [(.icqBase 0, dw (0x100003 * 2 ^ 12)), (.icqTail 0, dw 2)] ++ ioOn.csr } 0x100003000 (leBytes 16 n)

theorem test_inbound : tlpOk tlp = true ∧ inMsi tlp.addr.toNat = false ∧ inAperture tlp.addr.toNat = false := by decide
theorem test_inbound_reach : (match ((ioOn.rpActive 0 0).wake (domIo 0)).ioCtx 0 0x10 with
    | (.ok x, s1) => match s1.ioReach 0 x false false true 0x100000040 with | (.ok _, _) => true | _ => false
    | _ => false) = true := by decide +kernel
theorem test_inbound_writes : memGet (nx (exec (.inboundRequest 0 0 tlp) ioOn)).m.mem 0x100000040 = 5 := by decide +kernel
theorem test_clasped_request : ({ ioOn with csr := (.clasp 0 0, setF (setF 0 F.clasp.LINKUP 1) F.clasp.CLASPED 1) :: ioOn.csr } : State).clasped 0 0 = true ∧
    ({ ioOn with csr := (.clasp 0 0, setF (setF 0 F.clasp.LINKUP 1) F.clasp.CLASPED 1) :: ioOn.csr } : State).flag (rClasp 0 0) F.clasp.LINKUP = true := by
  decide
theorem test_ring : ∀ n ∈ [1, 2, 3, 4, 5 + 0x100000080 * 2 ^ 64, 0, 6], ((ring n).icqCmd 0).map (·.1) = some n := by decide +kernel
theorem test_ring_moves : (nx (exec (.invAll 0) (ring 3))).fld (.icqHead 0) F.icqHead.INDEX = 1 ∧
    (nx (exec (.icqUnknownOp 0) (ring 6))).flag (.icqStat 0) F.icqStat.BADOP = true := by decide +kernel
theorem test_ats_waits : (ring 4).physDevice 0x100000080 = false ∧
    ({ ioOn with io := [(0, { IoState.reset with ats := some 0x10 })] } : State).busPort 0 (0x10 / 256) = some 0 := by decide
theorem test_skip : let s := (ring 6).setFld (.icqStat 0) F.icqStat.BADOP 1
    s.mayManage tw = true ∧ s.flag (.icqStat 0) F.icqStat.BADOP = true := by decide
theorem test_outstanding : (({ ioOn with io := [(0, { IoState.reset with rps := [(0, { RootPort.reset with open_ := [(3, 9)] })] })] } : State).rp 0 0).open_.contains
    (tagKey 3 9) = true := by decide

theorem test_root_port : (ioOn.rp 0 0).link = .l0 ∧ (ioOn.rp 0 0).open_ = [] ∧ ioOn.isRp 0 0 = true ∧ ioOn.clasped 0 0 = false ∧
    ioOn.boot.pins.perstHigh.contains (0, 0) = false ∧ 4 < ioOn.fld .stwBootstat F.stwBootstat.PHASE := by decide
theorem test_root_port_up : let s : State := { ioOn with io := [], boot := { ioOn.boot with pins := { ioOn.boot.pins with perstHigh := [(0, 0)] } } }
    (s.rp 0 0).link = .down ∧ s.boot.pins.perstHigh.contains (0, 0) = true ∧ s.flag .stwBootstat F.stwBootstat.RCVR = false ∧ s.isRp 0 0 = true := by
  decide
theorem test_no_error_noted : (on 3 true).initErr 264 0x100000040 8 = none := rfl
theorem test_root_port_idle : ((ioOn.setFld (.rpCtl 0 0) F.rpCtl.L0P_EN 1).setFld (.rpCtl 0 0) F.rpCtl.L1_EN 1).flag (.rpCtl 0 0) F.rpCtl.L0P_EN = true ∧
    ((ioOn.setFld (.rpCtl 0 0) F.rpCtl.L0P_EN 1).setFld (.rpCtl 0 0) F.rpCtl.L1_EN 1).flag (.rpCtl 0 0) F.rpCtl.L1_EN = true := by decide
theorem test_force : (nx (exec (.force tw 0 0) ioOn)).fld (.clasp 0 0) F.clasp.REASON = 6 := by decide +kernel
theorem test_surprise : (nx (exec (.surpriseLinkDown 0 0) ioOn)).flag (.clasp 0 0) F.clasp.CLASPED = true ∧
    ((nx (exec (.surpriseLinkDown 0 0) ioOn)).rp 0 0).link = .down := by decide +kernel
theorem test_link_sleeps : (({ ioOn with io := [(0, { IoState.reset with rps := [(0, { RootPort.reset with link := .l1 })] })] } : State).rp 0 0).link = .l1 ∧
    (({ ioOn with io := [(0, { IoState.reset with rps := [(0, { RootPort.reset with link := .l1 })] })] } : State).port 0).rps.find 0 =
      some { RootPort.reset with link := .l1 } := by decide

/-- Port 0 in endpoint mode, its link up: function 0 active, one window on memory for it. -/
def epOn : State :=
  let s := ioOn
  { s with
    csr := [(.epStat 0, setF 0 F.epStat.LINKUP 1), (.epWinA 0 0, setF (setF (setF 0 F.epWinA.V 1) F.epWinA.W 1) F.epWinA.TARGET 0x100000),
            (.epWinC 0 0, setF (setF 0 F.epWinC.PAGES 1) F.epWinC.VMID 0xFFFF), (.epOut 0 0, setF 0 F.epOut.V 1), (.epRombase 0, setF 0 F.epRombase.ADDR 0x1000)] ++ s.csr
    boot := { s.boot with cfg := { s.boot.cfg with port := 1 } }
    io := [(0, { IoState.reset with ep := { IoState.reset.ep with bme := 1, winOpen := true } })] }

theorem test_endpoint : epOn.role 0 = .endpoint ∧ epOn.epActive 0 0 = true ∧ epOn.hostOpen 0 0 = true ∧ epOn.epFunc 0 0 = true ∧
    epOn.mayManage tw = true ∧ 31 < epOn.epVecs 0 0 ∧ epOn.sec.fatal = 0 := by decide
theorem test_window : epOn.winAt 0 0 0x40 = some 0 ∧ 0x40 + 1 ≤ epOn.bar2Size 0 0 ∧ epOn.winAt 0 0 0x10000 = none ∧
    epOn.physDevice (0x100000 * 4096 + 0x40) = false := by decide +kernel
theorem test_window_write : memGet (nx (exec (.bar2Access 0 0 0x40 1 (some [9])) epOn)).m.mem 0x100000040 = 9 := by decide +kernel
theorem test_rom : (match epOn.agentRead false (ioStop 0) ownIdent 0 (linesOf 4) (0x1000 * 2 ^ 20) 4 with | .ok _ => true | .error _ => false) = true := by
  decide +kernel
theorem test_host_aperture : region 0x140000000000 = .host 0 ∧ ∃ k s1 s2, Reaches hdr 0x140000000000 (.wrPartial 0 (byteMask 0 8)) k epOn s1 ∧
    ServedAt k s1 s2 ∧ s2.role 0 = .endpoint ∧ s2.pathErr k.pkt.src (ioStop 0) (domIo 0) = none ∧ s2.epActive 0 0 = true :=
  ⟨by decide, _, _, _, ⟨rfl, _, rfl, by decide, by decide, rfl⟩, ⟨by decide, by decide, by decide, by decide, rfl⟩, by decide, by decide, by decide⟩
theorem test_flr : (epOn.port 0).ep.resetting.getLsbD 0 = false ∧ epOn.flag (.epStat 0) F.epStat.LINKUP = true ∧
    (((nx (exec (.flrStart 0 0) epOn)).port 0).ep.resetting.getLsbD 31) = true := by decide +kernel
theorem test_perst : epOn.flag (.epStat 0) F.epStat.PERST = false ∧ (nx (exec (.perstAssert 0) epOn)).flag (.epStat 0) F.epStat.PERST = true ∧
    (nx (exec (.perstAssert 0) epOn)).flag (.epStat 0) F.epStat.LINKUP = false := by decide +kernel
theorem test_ep_link_up : let s := epOn.setFld (.epStat 0) F.epStat.LINKUP 0
    s.flag (.epStat 0) F.epStat.LINKUP = false ∧ 4 ≤ s.phase ∧ s.flag (.epStat 0) F.epStat.PERST = false := by decide

/-! ### Power -/

theorem test_calloc : (on 3 true).fld (.candle 0) F.candle.ALLOC = 0 ∧ (nx (exec (.callocRead nw) (on 3 true))).reg .calloc = 0 ∧
    (nx (exec (.callocRead tw) (on 3 true))).reg .calloc = 3840 := by decide +kernel
theorem test_candle : (nx (exec (.candleWrite tw 0 0x03000005) (on 3 true))).candleFloor 5 = 3 := by decide
theorem test_candle_refused : (nx (exec (.candleWrite nw 4095 0x03000005) (on 3 true))).reg (.candle 4095) = 0 := by decide
theorem test_legacy : legacyTarget 0 255 = some 255 ∧ legacyTarget 1 127 = some 383 ∧ legacyTarget 5 0 = none ∧ (on 3 true).dstate 0 = 3 ∧
    (on 3 true).dstate 255 = 0 ∧ (on 3 true).flag .legacyCmd F.legacyCmd.BUSY = false ∧ (on 3 true).twused 416 = true ∧ (on 3 true).pwr.legacy = none := by
  decide
theorem test_legacy_down : ({ on 3 true with pwr := { (on 3 true).pwr with legacy := some (255, 1) } } : State).pwr.legacy = some (255, 1) := rfl

/-- Core 0 waits with nothing that holds its domain; the domain has served its hysteresis. -/
def waiting : State := { on 3 true with
  cores := [(0, { (on 3 true).core 0 with run := .wfi })], pwr := { (on 3 true).pwr with hystDone := [0] } }
/-- Its entry into OFF under way, at the commit window; and its wake from OFF. -/
def entering : State := { waiting with pwr := { waiting.pwr with entry := [(0, (0, 5))] } }
def waking : State := { waiting with
  csr := [(.dom 0, 0), (.dom 410, dw 0xC000F000)] ++ waiting.csr
  pwr := { waiting.pwr with waking := [0], saved := [(0, ⟨(on 3 true).core 0, [], true⟩)] } }
/-- The same with a save area, whose block holds what the save left there. -/
def restoring : State := { waking with csr := [(.savebase, 0x100000000)] ++ waking.csr }

theorem test_power_hold : (on 3 true).hold 0 = true ∧ waiting.hold 0 = false := by decide +kernel
theorem test_entry : waiting.pwr.entry.find 0 = none ∧ waiting.target 0 < waiting.dstate 0 ∧ waiting.group 0 = [0] := by decide +kernel
theorem test_entry_commit : entering.pwr.entry.find 0 = some (0, 5) ∧ (nx (exec (.powerEntryCommit 0) entering)).dstate 0 = 0 := by decide +kernel
theorem test_entry_reversed : ({ entering with pwr := { entering.pwr with entry := [(0, (1, 4))], wakeReq := [0] } } : State).pwr.wakeReq.contains 0 = true ∧
    (nx (exec (.powerEntryCommit 0) { entering with pwr := { entering.pwr with entry := [(0, (1, 4))], wakeReq := [0] } })).dstate 0 = 3 := by decide +kernel
theorem test_wake_start : let s := { waking with pwr := { waking.pwr with waking := [], wakeReq := [0] } }
    s.keptOff 0 = false ∧ s.wakeSource 0 .packet = true ∧ s.pwr.entry.find 0 = none ∧ s.isOn 0 = false := by decide +kernel
theorem test_wake_done : let s := { waking with pwr := { waking.pwr with saved := [] } }
    s.isOn 410 = true ∧ s.dstate 0 = 0 ∧ s.mesh.held = [] ∧ (s.restored 0 true).1 = true ∧
    (nx (exec (.powerWakeComplete 0 true) s)).dstate 0 = 3 := by decide +kernel
theorem test_wake_restores : (restoring.restored 0 true).1 = true ∧ restoring.dstate 0 = 0 ∧ (restoring.pwr.saved.find 0).isSome = true := by
  decide +kernel
theorem test_wake_fails : (nx (exec (.powerWakeComplete 0 false) waking)).fencedCore 0 = true := by decide +kernel
theorem test_width : ({ on 3 true with rtu := { (on 3 true).rtu with widths := [416] } } : State).rtu.widths.contains 416 = true := by decide
theorem test_gpio : let s := (on 3 true).setReg (.gpwake 3) (setF (setF 0 F.gpwake.EN 1) F.gpwake.DOMAIN 5)
    s.gpioRank 3 = 4 ∧ s.boot.pins.gpio.getLsbD 3 = false ∧ 5 ∈ (nx (exec (.gpioInputChange 3 true false) s)).pwr.wakeReq := by decide

/-! ### Rack time, Steady Draw, monitors -/

/-- Entry 480 of the Lamplighter holds an action, due at 1000 ns. -/
def armed (act tgt arg per : Nat) : State := { on 3 true with csr :=
  [(.llCtl 480, setF (setF (setF (setF 0 F.llCtl.V 1) F.llCtl.ACTION act) F.llCtl.TARGET tgt) F.llCtl.PERIOD per), (.llDue 480, 1000), (.llArg 480, dw arg)] ++
    (on 3 true).csr }

theorem test_ll : ∀ p ∈ [(1, 5, 3), (2, 15, 3700), (3, 15, 0), (4, 0, 0), (5, 0, 3), (6, 255, 0), (7, 255, 1), (8, 0, 700)],
    (armed p.1 p.2.1 p.2.2 0).llV 480 = true ∧ (armed p.1 p.2.1 p.2.2 0).fld (rLl 480) F.llCtl.ACTION = p.1 ∧
    (armed p.1 p.2.1 p.2.2 0).llSkips 480 p.1 p.2.1 (dw p.2.2) = false ∧ 480 ∉ (armed p.1 p.2.1 p.2.2 0).rtu.late := by decide
theorem test_ll_skips : (armed 8 0 701 0).llSkips 480 8 0 701 = true ∧ (armed 8 0 701 0).llLowers 8 0 701 = false := by decide
theorem test_ll_fires : (nx (exec (.pkgPower 480) (armed 8 0 700 0))).ras.pkg = 700 ∧ (nx (exec (.pkgPower 480) (armed 8 0 700 0))).now = 1000 ∧
    (nx (exec (.pkgPower 480) (armed 8 0 700 7))).reg (.llDue 480) = 8000 := by decide +kernel
/-- R422: of two entries due at one instant on one object, the higher-numbered one comes after the lower one. -/
theorem test_ll_order : let s := { armed 8 0 700 0 with csr :=
      [(Reg.llCtl 479, (armed 8 0 700 0).reg (.llCtl 480)), (.llDue 479, 1000)] ++ (armed 8 0 700 0).csr }
    (armed 8 0 700 0).llFirst 480 8 = true ∧ s.llFirst 480 8 = false ∧ s.llFirst 479 8 = true := by decide +kernel
theorem test_supply : ({ armed 2 15 3700 0 with rtu := { (on 3 true).rtu with freq := [(15, 800)] } } : State).rtu.freq.getD 15 3700 < 3700 := by decide

/-- A source of discipline, anchored or not. -/
def disciplined (src : Nat) (anch : Bool) : State :=
  ((on 3 true).setFld .rtuCtl F.rtuCtl.SOURCE src).setFld rSt F.rtuStatus.ANCHORED (b2n anch)

theorem test_source : (disciplined 1 true).rtSource = 1 ∧ (disciplined 2 false).rtSource = 2 ∧ (disciplined 0 false).rtSource = 0 ∧
    (disciplined 1 true).anchored = true ∧ (disciplined 1 false).anchored = false ∧ (disciplined 1 false).rtu.load = none := by decide
/-- R492: an edge 0.4 s after the last accepted one is ignored. -/
theorem test_pps : let s := (disciplined 1 true).ppsSeen ((disciplined 1 true).ppsAt 100000000)
    (disciplined 1 true).ppsEarly 100000000 = false ∧ s.now = 100000000 ∧ s.ppsEarly (s.ppsAt 500000000) = true ∧
    s.ppsEarly (s.ppsAt 100000000) = false ∧ s.ppsAt 100000000 = 1100000000 := by decide +kernel
theorem test_rtu_load : (nx (exec (.rtuLoad tw 12345) (disciplined 0 false))).now = 12345 := by decide +kernel
theorem test_unarmed : ∀ k, k < 512 → (on 3 true).llV k = false := by decide +kernel
theorem test_locked : ({ disciplined 1 true with rtu := { (on 3 true).rtu with close := 3 } } : State).rtu.close = 3 ∧ ((100 : Int).natAbs ≤ 100) ∧
    100 < (-101 : Int).natAbs := by decide
theorem test_sync_out : ((on 3 true).setFld .rtuSyncout F.rtuSyncout.EN 1).flag .rtuSyncout F.rtuSyncout.EN = true := by decide
theorem test_net : netIf 0 = none ∧ ((netIf 3).map fun n => (n.udp, n.domain, n.vlan)) = some (true, 0, 0) := by decide
theorem test_steady : ((on 3 true).setReg (.rtuSdParam 0) 0xF).sdFlag 0 = true ∧ (on 3 true).sdFlag 0 = false ∧
    (nx (exec (.sdUpdate 100 100) (on 3 true))).now = 100 := by decide +kernel

theorem test_thermal : (12000 : BitVec 16).toInt = 12000 ∧ (2500 : BitVec 16).toInt < 100 * ((on 3 true).fld .therm F.therm.THROTTLE : Int) ∧
    (2500 : BitVec 16).toInt < 100 * ((on 3 true).fld .therm F.therm.ALERT : Int) ∧ (on 3 true).ras.alert = false := by decide
theorem test_throttle : let s := (on 3 true).setFld .therm F.therm.ALERT 110
    100 * (s.fld .therm F.therm.THROTTLE : Int) ≤ (10000 : BitVec 16).toInt ∧ (10000 : BitVec 16).toInt < 100 * (s.fld .therm F.therm.ALERT : Int) ∧
    s.ras.throttled.contains (clusterOf 0) = false := by decide
theorem test_trip : (nx (exec (.thermalSample false 0 12000) (on 3 true))).boot.pins.thermTrip = true := by decide +kernel
theorem test_thermal_step : (nx (exec .thermalStep { on 3 true with ras := { (on 3 true).ras with throttled := [0] } })).ras.thermCeil.getD 0 3700 = 3600 := by
  decide +kernel
theorem test_droop : (nx (exec .droopWindowEnd { on 3 true with ras := { (on 3 true).ras with droopCnt := [(15, 9000)] } })).ras.read.getD (2, 15) 0 = 9000 := by
  decide +kernel
theorem test_ift : (on 3 true).iftEligible 127 3 = true ∧ (on 3 true).iftEligible 0 1 = false ∧ (on 3 true).fencedTile 127 = false ∧
    (on 3 true).ras.ift = none := by decide +kernel
theorem test_ift_auto : ((on 3 true).setFld .iftCtl F.iftCtl.AUTO 1).iftPick = some 1 := by decide +kernel
theorem test_ift_done : (nx (exec (.iftComplete true false false) { on 3 true with ras := { (on 3 true).ras with ift := some (127, 1) } })).fencedCore 254 = true := by
  decide +kernel
theorem test_fence : (on 3 true).coreOff 255 = true ∧ (on 3 true).fencedCore 255 = false ∧ 0 ∈ (on 3 true).unfenced ∧ (on 3 true).coreOff 0 = false := by
  decide +kernel
theorem test_fence_bad : (nx (exec (.fenceRequest tw true false 128) (on 3 true))).fld .fenceReq F.fenceReq.STATUS = 3 := by decide +kernel
theorem test_twin : ({ on 3 true with boot := { (on 3 true).boot with cfg := { (on 3 true).boot.cfg with twin := 1 } } } : State).twin 0 = true := by decide
theorem test_log : let e : LogEntry := ⟨0, 1, 2, false, 5, [7]⟩
    (nx (exec .logEntryWrite { on 3 true with log := { (on 3 true).log with queue := [e], next := 4 } })).log.entries = [{ e with num := 4 }] := by decide
theorem test_log_lost : (nx (exec .logEntryWrite { on 3 true with log := { (on 3 true).log with lost := 2 } })).log.entries.map (·.typ) = [0x000B] := by decide
theorem test_register : slotAt 0x700008 = .at_ .tmoRd ∧ (on 3 true).regErr tw .tmoRd = none ∧ slotAt 0xA00000 = .none_ ∧ slotAt 0x300030 = .empty ∧
    (on 3 true).regErr ⟨.dm 0, true, 0, 0⟩ .tmoRd = some 0x05 := by decide +kernel
theorem test_register_written : (nx (exec (.registerWrite tw 0x700008 true 0xFFFF) (on 3 true))).reg .tmoRd ≠ (on 3 true).reg .tmoRd := by decide +kernel

/-! ### Reset -/

theorem test_reset : State.reset.dstate 415 = 3 ∧ State.reset.dstate 416 = 3 ∧ State.reset.dstate 0 = 0 ∧ Memory.wf State.reset.m.mem = true ∧
    cellsOk 0xFF State.reset.boot.flash = true := by decide
theorem test_memory_kept : ∃ t, step State.reset = .next t := ⟨_, rfl⟩
end Sys2Proof.Tests
end

section
namespace Sys2Proof.Proofs
open Sys2Proof.Machine Sys2Proof.Laws

/-! ### Caches: which copies a request leaves -/

@[simp] theorem toMem_priv (x : Cs) (line : Nat) : (x.toMem line).coh.priv = x.coh.priv := rfl
@[simp] theorem tick_priv (x : Cs) : x.tick.coh.priv = x.coh.priv := rfl
@[simp] theorem dirErase_priv (x : Cs) (line : Nat) : (x.dirErase line).coh.priv = x.coh.priv := rfl
@[simp] theorem dirSet_priv (x : Cs) (line : Nat) (d : DirEntry) : (x.dirSet line d).coh.priv = x.coh.priv := rfl
@[simp] theorem l3Erase_priv (x : Cs) (line : Nat) : (x.l3Erase line).coh.priv = x.coh.priv := rfl
@[simp] theorem l3Set_priv (x : Cs) (line : Nat) (l : L3Line) : (x.l3Set line l).coh.priv = x.coh.priv := rfl
@[simp] theorem l3Touch_priv (x : Cs) (n a w : Nat) : (x.l3Touch n a w).coh.priv = x.coh.priv := rfl
@[simp] theorem acceptCount_priv (x : Cs) (n : Nat) (b : Bool) : (x.acceptCount n b).coh.priv = x.coh.priv := rfl

@[simp] theorem unlend_priv (x : Cs) (line : Nat) : (x.unlend line).coh.priv = x.coh.priv := by
  unfold Cs.unlend; split
  · split <;> rfl
  · rfl

@[simp] theorem shadowInsert_priv (x : Cs) (n line : Nat) : (x.shadowInsert n line).coh.priv = x.coh.priv := by
  unfold Cs.shadowInsert; split
  · rfl
  · dsimp only; split <;> rfl

@[simp] theorem shadowRead_priv (x : Cs) (n line : Nat) : (x.shadowRead n line).coh.priv = x.coh.priv := by
  unfold Cs.shadowRead; split
  · rfl
  · dsimp only; split <;> rfl

@[simp] theorem l3WriteBack_priv (x : Cs) (line : Nat) (l : L3Line) : (x.l3WriteBack line l).coh.priv = x.coh.priv := by
  unfold Cs.l3WriteBack; split
  · split <;> rfl
  · rfl

@[simp] theorem l3Place_priv (s : State) (x : Cs) (n line : Nat) (dirty : Bool) (key : Nat) :
    (s.l3Place x n line dirty key).coh.priv = x.coh.priv := by
  unfold State.l3Place
  dsimp only
  split
  · rfl
  · split
    · split <;> simp
    · split <;> rfl

@[simp] theorem l3Victim_priv (s : State) (x : Cs) (line : Nat) (dirty : Bool) (key : Nat) :
    (s.l3Victim x line dirty key).coh.priv = x.coh.priv := by
  unfold State.l3Victim
  extract_lets n y
  have hy : y.coh.priv = x.coh.priv := by simp only [y]; split <;> simp
  split
  · split
    · extract_lets z
      split <;> simp [z, hy]
    · exact hy
  · split
    · simp [hy]
    · split <;> simp [hy]

@[simp] theorem victim_priv (s : State) (x : Cs) (c line : Nat) (dirty : Bool) (key : Nat) :
    (s.victim x c line dirty key).coh.priv = x.coh.priv := by
  unfold State.victim
  dsimp only
  split
  · rfl
  · split <;> simp

@[simp] theorem ownVictim_priv (s : State) (x : Cs) (c line : Nat) : (s.ownVictim x c line).coh.priv = x.coh.priv := by
  unfold State.ownVictim; split <;> simp

/-- A copy that is not there does not come back by an invalidation. -/
theorem find_invOthers_none {x : Cs} {k : Nat × Nat} (line : Nat) (keep : Option Nat) (h : x.coh.priv.find k = none) :
    (x.invOthers line keep).coh.priv.find k = none := by
  unfold Cs.invOthers
  split
  · exact h
  · refine List.foldlRecOn (motive := fun y : Cs => y.coh.priv.find k = none) _ _ h fun y hy c _ => ?_
    by_cases hk : k = (c, line)
    · subst hk; exact find_erase_same _ _
    · exact (find_erase_other _ hk).trans hy

theorem find_keyConflict_none {x : Cs} {k : Nat × Nat} (s : State) (line key : Nat) (h : x.coh.priv.find k = none) :
    (s.keyConflict x line key).coh.priv.find k = none := by
  unfold State.keyConflict
  extract_lets other l3Other
  split
  · simpa using find_invOthers_none line none h
  · exact h

theorem find_dirRoom_none {x : Cs} {k : Nat × Nat} (s : State) (line : Nat) (h : x.coh.priv.find k = none) :
    (s.dirRoom x line).coh.priv.find k = none := by
  unfold State.dirRoom
  dsimp only
  split
  · exact h
  split
  · exact h
  split
  · exact h
  · next vl _ _ =>
    have := find_invOthers_none vl none h
    split <;> simpa

theorem find_snoopShared_none {x : Cs} {k : Nat × Nat} (o line : Nat) (h : x.coh.priv.find k = none) :
    (x.snoopShared o line).coh.priv.find k = none := by
  unfold Cs.snoopShared
  split
  · exact h
  · next p hp =>
    have hk : k ≠ (o, line) := by rintro rfl; simp [h] at hp
    split
    · exact (find_set_other _ _ hk).trans h
    · exact (find_set_other _ _ hk).trans h
    · exact h

/-- RD_SHARED for a core without a copy gives it one under the key of the request (R216, R220). -/
theorem rdShared_gives (s : State) (x : Cs) (c line key : Nat) (instr : Bool) (h : x.coh.priv.find (c, line) = none) :
    ((s.rdShared x c line key instr).coh.priv.find (c, line)).map (·.key) = some key := by
  unfold State.rdShared
  extract_lets x1 n x2 x3 x4 d x5 dirty others had
  have h2 : x2.coh.priv.find (c, line) = none := by
    simpa [x2, x1] using find_keyConflict_none s line key (by simpa using h)
  have h3 : x3.coh.priv.find (c, line) = none := find_dirRoom_none s line h2
  have h4 : x4.coh.priv.find (c, line) = none := by
    simp only [x4]
    split
    · split <;> exact h3
    · exact h3
  have h5 : x5.coh.priv.find (c, line) = none := by
    simp only [x5]
    split
    · split
      · exact h4
      · exact find_snoopShared_none _ _ h4
    · exact h4
  rw [show had = none from h5]
  simp [Cs.privSet]

/-- A fill of an L1 keeps the copy that the L2 and L1 of the core hold, and its key. -/
theorem l1Fill_key (s : State) (x : Cs) (c line : Nat) (instr : Bool) :
    ((s.l1Fill x c line instr).coh.priv.find (c, line)).map (·.key) = (x.coh.priv.find (c, line)).map (·.key) := by
  unfold State.l1Fill
  split
  · rfl
  · next p hp =>
    split
    · split
      · rfl
      · simp [Cs.privSet, hp]
    · split
      · rfl
      · simp [Cs.privSet, hp]

/-! ### What an access does to memory as its readers see it -/

/-- Nothing of memory changes but what lies below dirty lines and the errors that wait in DRAM. -/
def SameBytes (s t : State) : Prop := t.m = { s.m with stale := t.m.stale, latent := t.m.latent }

theorem SameBytes.refl (s : State) : SameBytes s s := rfl

theorem SameBytes.trans {s t u : State} (h : SameBytes s t) (h' : SameBytes t u) : SameBytes s u := by
  unfold SameBytes at *
  rw [h', h]

theorem SameBytes.of_eq {s t : State} (h : t.m = s.m) : SameBytes s t := by rw [SameBytes, h]

theorem SameBytes.mem {s t : State} (h : SameBytes s t) : t.m.mem = s.m.mem := by rw [h]
theorem SameBytes.keyOk {s t : State} (h : SameBytes s t) (line key : Nat) : t.m.keyOk line key = s.m.keyOk line key := by
  rw [h]; rfl
theorem SameBytes.poisonedIn {s t : State} (h : SameBytes s t) (pa n : Nat) : t.m.poisonedIn pa n = s.m.poisonedIn pa n := by
  rw [h]; rfl

theorem sameBytes_withCs (s : State) (x : Cs) : SameBytes s (s.withCs x) := rfl

@[simp] theorem statOf_m (s : State) (i : Nat) (id : Ident) (f : Nat) : (s.statOf i id f).m = s.m := by
  unfold State.statOf; split <;> rfl
@[simp] theorem statCore_m (s : State) (c f : Nat) : (s.statCore c f).m = s.m := statOf_m _ _ _ _
@[simp] theorem statOf_coh (s : State) (i : Nat) (id : Ident) (f : Nat) : (s.statOf i id f).coh = s.coh := by
  unfold State.statOf; split <;> rfl
@[simp] theorem statCore_coh (s : State) (c f : Nat) : (s.statCore c f).coh = s.coh := statOf_coh _ _ _ _


/-! ### Reads -/

section Read
variable {s : State} {line : Nat}

theorem memIn_clean (h : CleanDram s line) : s.memIn line = s := by
  obtain ⟨hl, hm⟩ := h
  unfold State.memIn State.memRead
  split
  · split
    · next k hk =>
      rw [if_pos (hm k hk)]
      simp [State.dramRead, hl]
    · rfl
  · rfl

theorem cutIn_clean (hc : s.cutOff line = false) (h : CleanDram s line) : s.cutIn line = s := by
  unfold State.cutIn
  rw [hc, if_neg (by simp), memIn_clean h]

/-- What stands in DRAM on a line, and where the line lies, does not change with anything but memory and its errors. -/
theorem cleanDram_of_m {t : State} (hm : t.m = s.m) (h : CleanDram s line) : CleanDram t line := by
  have hk : ∀ pa, t.member pa = s.member pa := fun pa => by unfold State.member; rw [hm]
  exact ⟨fun n => hm ▸ h.1 n, fun k hk' => h.2 k (hk _ ▸ hk')⟩

end Read

theorem grant_m (s : State) (c : Nat) (instr : Bool) : (s.grant c instr).m = s.m := by
  unfold State.grant State.grantInstr State.grantData
  split
  · dsimp only; split <;> rfl
  · dsimp only; split <;> rfl

theorem grantData_m (s : State) (c : Nat) : (s.grantData c).m = s.m := grant_m s c false


theorem grant_coh (s : State) (c : Nat) (instr : Bool) : (s.grant c instr).coh = s.coh := by
  unfold State.grant State.grantInstr State.grantData
  split
  · dsimp only; split <;> rfl
  · dsimp only; split <;> rfl

/-! ### Error records and wakes touch no memory -/

@[simp] theorem request_m (s : State) (n : Nat) : (s.request n).m = s.m := by
  unfold State.request
  split
  · rfl
  · split
    · dsimp only; split <;> rfl
    · rfl
@[simp] theorem request_coh (s : State) (n : Nat) : (s.request n).coh = s.coh := by
  unfold State.request
  split
  · rfl
  · split
    · dsimp only; split <;> rfl
    · rfl
@[simp] theorem wake_m (s : State) (n : Nat) : (s.wake n).m = s.m := request_m s n
@[simp] theorem wake_coh (s : State) (n : Nat) : (s.wake n).coh = s.coh := request_coh s n

@[simp] theorem wakePath_m (s : State) (line : Nat) : (s.wakePath line).m = s.m := by
  unfold State.wakePath State.awaitSlice
  split <;> simp
@[simp] theorem wakePath_coh (s : State) (line : Nat) : (s.wakePath line).coh = s.coh := by
  unfold State.wakePath State.awaitSlice
  split <;> simp

@[simp] theorem count_m (s : State) (r : Reg) (p : Place) : (s.count r p).m = s.m := by
  unfold State.count; dsimp only; split <;> rfl

@[simp] theorem toLog_m (s : State) (typ sev : Nat) (tr : Bool) (l : List DWord) : (s.toLog typ sev tr l).m = s.m := by
  unfold State.toLog; split <;> rfl

@[simp] theorem record_m (s : State) (e : Event) : (s.record e).2.m = s.m := by
  unfold State.record
  extract_lets cnt counted _ words _ s1
  have h1 : s1.m = s.m := by
    simp only [s1]
    split
    · exact count_m s cnt F.ebCnt.CORR
    · simp
    · simp
    · split <;> simp
  split
  · simpa using h1
  · split
    · exact h1
    · split
      · exact h1
      · exact List.foldlRecOn (motive := fun t : State => t.m = s.m) _ _ h1 fun t ht _ _ => ht

@[simp] theorem recordOwed_m (s : State) (e : Event) : (s.recordOwed e).m = s.m := by
  unfold State.recordOwed
  extract_lets s1
  split <;> exact record_m s e

@[simp] theorem underClasp_m (s : State) (line : Nat) (wr : Bool) : (s.underClasp line wr).m = s.m := by
  unfold State.underClasp
  extract_lets s1
  have h : s1.m = s.m := count_m _ _ _
  split
  · split
    · simpa using h
    · exact h
  · exact h

/-! ### A line for a load -/

section Line
variable {s : State} {c line key : Nat} {instr : Bool}

theorem sameBytes_readHome (h : CleanDram s line) : SameBytes s (s.readHome line key).2.2 := by
  unfold State.readHome
  extract_lets cut s1 dp s2
  have h2 : s2.m = s.m := by
    simp only [s2, s1, memIn_clean h]
    split <;> simp
  exact (SameBytes.of_eq h2).trans (sameBytes_withCs _ _)

theorem sameBytes_lineNc (h : CleanDram s line) : SameBytes s (s.lineNc c line key) := by
  have hw : CleanDram (s.wakePath line) line := cleanDram_of_m (wakePath_m s line) h
  exact ((SameBytes.of_eq (wakePath_m s line)).trans (sameBytes_readHome hw)).trans (SameBytes.of_eq (statCore_m _ _ _))

theorem sameBytes_l2Read : SameBytes s (s.l2Read c line key instr) := by
  unfold State.l2Read
  split
  · exact .refl s
  · extract_lets t
    have ht : t.m = s.m := wakePath_m s line
    exact ((SameBytes.of_eq ht).trans (sameBytes_withCs _ _)).trans (SameBytes.of_eq (statCore_m _ _ _))

theorem sameBytes_fillL1 : SameBytes s (s.fillL1 c line instr) := by
  unfold State.fillL1
  extract_lets x wb t
  split
  · exact (sameBytes_withCs s x).trans (SameBytes.of_eq (grantData_m _ _))
  · exact sameBytes_withCs s x

theorem keyAt_of_coh {t : State} (h : t.coh = s.coh) : t.keyAt c line key = s.keyAt c line key := by
  unfold State.keyAt; rw [h]

theorem keyAt_l2Read : (s.l2Read c line key instr).keyAt c line key = s.keyAt c line key := by
  unfold State.l2Read
  split
  · rfl
  · next hn =>
    have hp : s.coh.priv.find (c, line) = none := by simpa [State.hasLine] using hn
    extract_lets t
    have ht : t.coh = s.coh := wakePath_coh s line
    have hg := rdShared_gives t t.cs c line key instr (by simpa [State.cs, ht] using hp)
    simp [State.keyAt, hp, hg]

theorem keyAt_fillL1 : (s.fillL1 c line instr).keyAt c line key = s.keyAt c line key := by
  have hx : ((s.l1Fill s.cs c line instr).coh.priv.find (c, line)).map (·.key) = (s.coh.priv.find (c, line)).map (·.key) :=
    l1Fill_key s s.cs c line instr
  unfold State.fillL1
  extract_lets x wb t
  have ht : t.keyAt c line key = s.keyAt c line key := by simp [State.keyAt, t, x, hx]
  split
  · exact (keyAt_of_coh (grant_coh t c false)).trans ht
  · exact ht

/-- A line that comes into an L1 with nothing wrong on the way: memory as before, and the key of the core's access is that
of the copy it had, or its own (R216). -/
theorem lineIn_clean (hc : s.cutOff line = false) (h : CleanDram s line) :
    SameBytes s (s.lineIn c line key instr) ∧ (s.lineIn c line key instr).keyAt c line key = s.keyAt c line key := by
  unfold State.lineIn
  extract_lets s1 held s2
  have h1 : s1 = s := by
    simp only [s1, cutIn_clean hc h, ite_self]
  have h2 : s2.m = s.m ∧ s2.coh = s.coh := by
    simp only [s2]
    split
    · rw [h1]; exact ⟨rfl, rfl⟩
    · rw [h1]; exact ⟨grant_m _ _ _, grant_coh _ _ _⟩
  exact ⟨(SameBytes.of_eq h2.1).trans (sameBytes_l2Read.trans sameBytes_fillL1),
    keyAt_fillL1.trans (keyAt_l2Read.trans (keyAt_of_coh h2.2))⟩

end Line


/-! ### A read with nothing wrong on the way -/

/-- A part of an access names at least one byte of its line. -/
theorem byteMask_ne_zero {i n : Nat} (hi : i < 64) (hn : 0 < n) : byteMask i n ≠ 0 := by
  intro h
  have hb : (byteMask i n).getLsbD i = true := by
    rw [byteMask, BitVec.getLsbD_ofNat, Nat.testBit_mul_two_pow, Nat.sub_self, Nat.testBit_two_pow_sub_one]
    simp [hi, hn]
  simp [h] at hb

/-- A squash of a load (R126) changes the buffers of its core but for the merge buffer, and nothing else. -/
theorem passing_frame (s : State) (c : Nat) (x : Issue) (line : Nat) (want : BitVec 64) :
    ∃ us, s.passing c x line want = { s with ucores := us } ∧
      (({ s with ucores := us } : State).ucore c).mbuf = (s.ucore c).mbuf := by
  unfold State.passing
  extract_lets l
  split
  · have hm : ((((s.saw c 0x3D).loopExit c).saw c 0x30).ucore c).mbuf = (s.ucore c).mbuf := by
      simp [State.saw, State.loopExit]
    exact ⟨_, rfl, hm⟩
  · exact ⟨s.ucores, rfl, rfl⟩

/-- What comes before a read without a gathered write to send. -/
theorem readPrep_frame (s : State) (c : Nat) (x : Issue) (line mtype : Nat) (want : BitVec 64) (hg : (s.ucore c).gath = none)
    (hb : (s.ucore c).mbuf = []) :
    ∃ us, (if mtype ≤ 1 then s.flushGath c else (s.settleGath c line).passing c x line want) = { s with ucores := us } ∧
      (({ s with ucores := us } : State).ucore c).mbuf = [] := by
  split
  · exact ⟨s.ucores, by simp [State.flushGath, hg], hb⟩
  · have hs : s.settleGath c line = s := by simp [State.settleGath, hg]
    rw [hs]
    obtain ⟨us, h, hm⟩ := passing_frame s c x line want
    exact ⟨us, h, hm.trans hb⟩

/-- Settles O13. The line comes into the L1, or is read at its home, with memory as before (`lineIn_clean`,
`sameBytes_lineNc`); the bytes are read under a key that is right for them. -/
theorem readAnswersMemory : Obligations.ReadAnswersMemory := by
  unfold Obligations.ReadAnswersMemory
  intro c x a t n s hdev hbuf hgath herr hcut hclean hpois harr hn hkey
  obtain ⟨us, hprep, hempty⟩ := readPrep_frame s c x (t.pa / 64) t.mtype (byteMask (t.pa % 64) n) hgath hbuf
  have hwant : ¬(0#64 = byteMask (t.pa % 64) n) := (byteMask_ne_zero (Nat.mod_lt t.pa (by omega)) hn).symm
  replace hclean : CleanDram { s with ucores := us } (t.pa / 64) := hclean
  replace hcut : ({ s with ucores := us } : State).cutOff (t.pa / 64) = false := hcut
  replace herr : ({ s with ucores := us } : State).coreErr c (t.pa / 64)
      (t.mtype == 3 && ({ s with ucores := us } : State).hasLine c (t.pa / 64)) = none := herr
  have hkeyAt : ({ s with ucores := us } : State).keyAt c (t.pa / 64) t.key = s.keyAt c (t.pa / 64) t.key := rfl
  have hsame : SameBytes s { s with ucores := us } := rfl
  generalize ({ s with ucores := us } : State) = s1 at *
  have hread : ∀ u key, SameBytes s u → s.m.keyOk (t.pa / 64) key = true →
      u.m.readIn t.pa n key = leNat (cellRead 0 s.m.mem t.pa n) := fun u key hu hk => by
    rw [MemState.readIn, hu.keyOk, hk, if_pos rfl, hu.mem]
  simp only [readPart, hdev, Bool.false_eq_true, if_false, hprep, hempty, heldMask, List.filter_nil, List.foldl_nil,
    BitVec.ofNat_eq_ofNat, BitVec.zero_and, hwant, false_and, if_true, herr, hcut, Bool.and_false, Bool.false_or]
  by_cases h3 : t.mtype = 3
  · obtain ⟨hin, hk⟩ := lineIn_clean (c := c) (key := t.key) (instr := false) hcut hclean
    replace hin := hsame.trans hin
    simp only [h3, if_true, harr, arrayErr, hin.poisonedIn, hpois, Bool.false_eq_true, if_false] at hkey ⊢
    rw [hread _ _ hin (by rw [hk, hkeyAt]; exact hkey)]
    exact ⟨_, rfl, hin.mem⟩
  · have hnc := hsame.trans (sameBytes_lineNc (c := c) (key := t.key) hclean)
    simp only [h3, if_false, arrayErr, hnc.poisonedIn, hpois, Bool.false_eq_true] at hkey ⊢
    rw [hread _ _ hnc hkey]
    exact ⟨_, rfl, hnc.mem⟩

end Sys2Proof.Proofs
end

section
/-! PROOFS. A field of a register after a write: of the same field, of another field, of another register. -/

namespace Sys2Proof.Proofs
open Sys2Proof.Machine Sys2Proof.Laws

/-! ### Fields of a word -/

theorem testBit_getF (w : BitVec 64) (p : Place) (i : Nat) :
    (getF w p).testBit i = (decide (i < p.1 - p.2 + 1) && w.getLsbD (p.2 + i)) := by
  rw [getF, Nat.testBit_mod_two_pow, Nat.testBit_shiftRight]
  rfl

theorem getLsbD_maskF (p : Place) (i : Nat) :
    (maskF p).getLsbD i = (decide (i < 64) && decide (p.2 ≤ i) && decide (i - p.2 < p.1 - p.2 + 1)) := by
  rw [maskF, BitVec.getLsbD_ofNat, Nat.testBit_shiftLeft, Nat.testBit_two_pow_sub_one, Bool.and_assoc]

theorem getLsbD_setF (w : BitVec 64) (p : Place) (v i : Nat) :
    (setF w p v).getLsbD i =
      if (maskF p).getLsbD i then v.testBit (i - p.2) else w.getLsbD i := by
  by_cases hi : i < 64
  · have hs : (setF w p v).getLsbD i =
        ((w.getLsbD i && !(maskF p).getLsbD i) || ((decide (p.2 ≤ i) && v.testBit (i - p.2)) && (maskF p).getLsbD i)) := by
      rw [setF, BitVec.getLsbD_or, BitVec.getLsbD_and, BitVec.getLsbD_and, BitVec.getLsbD_not, BitVec.getLsbD_ofNat,
        Nat.testBit_shiftLeft]
      simp [hi]
    rw [hs]
    by_cases h : (maskF p).getLsbD i = true
    · have h2 : p.2 ≤ i := by
        rw [getLsbD_maskF] at h
        simp at h
        omega
      simp [h, h2]
    · simp [h]
  · have hw : ∀ u : BitVec 64, u.getLsbD i = false := fun u => BitVec.getLsbD_of_ge u i (by omega)
    simp [hw]

/-- A field just written reads back, up to its width. -/
theorem getF_setF_same (w : BitVec 64) (p : Place) (v : Nat) (h : p.2 ≤ p.1 ∧ p.1 < 64) :
    getF (setF w p v) p = v % 2 ^ (p.1 - p.2 + 1) := by
  apply Nat.eq_of_testBit_eq
  intro i
  rw [testBit_getF, getLsbD_setF, getLsbD_maskF, Nat.testBit_mod_two_pow]
  by_cases hi : i < p.1 - p.2 + 1
  · have h1 : p.2 + i < 64 := by omega
    simp [hi, h1]
  · simp [hi]

/-- A field that lies elsewhere keeps its value. -/
theorem getF_setF_other (w : BitVec 64) (p q : Place) (v : Nat) (h : p.2 ≤ p.1 ∧ q.2 ≤ q.1 ∧ (p.1 < q.2 ∨ q.1 < p.2)) :
    getF (setF w p v) q = getF w q := by
  apply Nat.eq_of_testBit_eq
  intro i
  rw [testBit_getF, testBit_getF, getLsbD_setF, getLsbD_maskF]
  by_cases hi : i < q.1 - q.2 + 1
  · have h1 : ¬(p.2 ≤ q.2 + i ∧ q.2 + i - p.2 < p.1 - p.2 + 1) := by omega
    have h2 : (decide (p.2 ≤ q.2 + i) && decide (q.2 + i - p.2 < p.1 - p.2 + 1)) = false := by simpa using h1
    rw [Bool.and_assoc, h2, Bool.and_false]
    rfl
  · simp [hi]

/-! ### Fields of a register -/

theorem reg_of_csr {s t : State} (h : t.csr = s.csr) (r : Reg) : t.reg r = s.reg r := by rw [State.reg, State.reg, h]

theorem reg_setReg_other (s : State) {r q : Reg} (w : DWord) (h : q ≠ r) : (s.setReg r w).reg q = s.reg q := by
  rw [reg_setReg, if_neg h]

theorem reg_setFld (s : State) (r : Reg) (p : Place) (v : Nat) (q : Reg) :
    (s.setFld r p v).reg q = if q = r then setF (s.reg r) p v else s.reg q := reg_setReg _ _ _ _

theorem reg_setFld_other (s : State) {r q : Reg} (p : Place) (v : Nat) (h : q ≠ r) : (s.setFld r p v).reg q = s.reg q :=
  reg_setReg_other s _ h

theorem fld_setFld_same (s : State) (r : Reg) (p : Place) (v : Nat) (h : p.2 ≤ p.1 ∧ p.1 < 64) :
    (s.setFld r p v).fld r p = v % 2 ^ (p.1 - p.2 + 1) := by
  rw [State.fld, reg_setFld, if_pos rfl, getF_setF_same _ _ _ h]

theorem fld_setFld_place (s : State) (r : Reg) (p q : Place) (v : Nat)
    (h : p.2 ≤ p.1 ∧ q.2 ≤ q.1 ∧ (p.1 < q.2 ∨ q.1 < p.2)) : (s.setFld r p v).fld r q = s.fld r q := by
  rw [State.fld, reg_setFld, if_pos rfl, getF_setF_other _ _ _ _ h, State.fld]

theorem fld_setFld_other (s : State) {r q : Reg} (p f : Place) (v : Nat) (h : q ≠ r) : (s.setFld r p v).fld q f = s.fld q f := by
  rw [State.fld, reg_setFld_other s p v h, State.fld]

/-- A flag just written reads back. -/
theorem flag_setFld_b2n (s : State) (r : Reg) (n : Nat) (b : Bool) (h : n < 64) :
    (s.setFld r (n, n) (b2n b)).flag r (n, n) = b := by
  rw [State.flag, fld_setFld_same s r (n, n) _ ⟨le_rfl, h⟩]
  cases b <;> simp [b2n]

end Sys2Proof.Proofs
end

section
/-! PROOFS. What traffic on the chip leaves alone: requests for lines, wakes, error records with their notices, INTs, committed
stores on their way. -/

namespace Sys2Proof.Proofs
open Sys2Proof.Machine Sys2Proof.Laws

/-! ### The frame -/

/-- The registers that traffic moves: error banks, counts of merged interrupts and broken claims, what array initialisation,
clasp and an endpoint's host set. -/
def moved : Reg → Bool
  | .ebCnt _ | .ebStat _ _ | .ebAddr _ _ | .ebInfo _ _ | .ebTime _ _ | .liuMerged _ | .l2Stat _ | .l3Stat _ | .clasp _ _
  | .epStat _ | .qstat _ _ => true
  | _ => false

/-- Traffic leaves the Steward's state, the monitors but for counts of errors and notices owed, the log but for its queue, and
every register it does not move; no held core starts, and no empty merge buffer takes a store. -/
structure Keeps (s t : State) : Prop where
  boot : t.boot = s.boot
  ras : t.ras = { s.ras with classCnt := t.ras.classCnt, owed := t.ras.owed }
  log : t.log = { s.log with queue := t.log.queue, lost := t.log.lost }
  reg : ∀ r, moved r = false → t.reg r = s.reg r
  held : ∀ c, (s.core c).run = .held → (t.core c).run = .held
  mbuf : ∀ c, (s.ucore c).mbuf = [] → (t.ucore c).mbuf = []

theorem Keeps.trans {s t u : State} (h : Keeps s t) (h' : Keeps t u) : Keeps s u where
  boot := h'.boot.trans h.boot
  ras := by rw [h'.ras, h.ras]
  log := by rw [h'.log, h.log]
  reg r hr := (h'.reg r hr).trans (h.reg r hr)
  held c hc := h'.held c (h.held c hc)
  mbuf c hc := h'.mbuf c (h.mbuf c hc)

theorem Keeps.of_same {s t : State} (hb : t.boot = s.boot) (hr : t.ras = s.ras) (hl : t.log = s.log) (hc : t.csr = s.csr)
    (hk : t.cores = s.cores) (hu : t.ucores = s.ucores) : Keeps s t where
  boot := hb
  ras := by rw [hr]
  log := by rw [hl]
  reg r _ := reg_of_csr hc r
  held c h := by rw [State.core, hk]; exact h
  mbuf c h := by rw [State.ucore, hu]; exact h

theorem Keeps.refl (s : State) : Keeps s s := .of_same rfl rfl rfl rfl rfl rfl

theorem Keeps.foldl {α : Type} {f : State → α → State} (h : ∀ s a, Keeps s (f s a)) (l : List α) (s : State) :
    Keeps s (l.foldl f s) :=
  List.foldlRecOn (motive := Keeps s) l f (.refl s) fun t ht a _ => ht.trans (h t a)

/-! ### Plain updates -/

theorem keeps_setReg (s : State) {r : Reg} (w : DWord) (h : moved r = true) : Keeps s (s.setReg r w) where
  boot := rfl
  ras := rfl
  log := rfl
  reg q hq := reg_setReg_other s w (by rintro rfl; simp [h] at hq)
  held _ hc := hc
  mbuf _ hc := hc

theorem keeps_setFld (s : State) {r : Reg} (p : Place) (v : Nat) (h : moved r = true) : Keeps s (s.setFld r p v) :=
  keeps_setReg s _ h

theorem keeps_count (s : State) {r : Reg} (p : Place) (h : moved r = true) : Keeps s (s.count r p) := by
  unfold State.count
  dsimp only
  split
  · exact keeps_setFld s _ _ h
  · exact .refl s

theorem keeps_onUcore (s : State) (c : Nat) {f : UCore → UCore} (h : (s.ucore c).mbuf = [] → (f (s.ucore c)).mbuf = []) :
    Keeps s (s.onUcore c f) where
  boot := rfl
  ras := rfl
  log := rfl
  reg _ _ := rfl
  held _ hc := hc
  mbuf d hd := by
    rw [ucore_onUcore]
    split
    · next e => subst e; exact h hd
    · exact hd

theorem keeps_onCore (s : State) (c : Nat) {f : Core → Core} (h : (s.core c).run = .held → (f (s.core c)).run = .held) :
    Keeps s (s.onCore c f) where
  boot := rfl
  ras := rfl
  log := rfl
  reg _ _ := rfl
  held d hd := by
    rw [core_onCore]
    split
    · next e => subst e; exact h hd
    · exact hd
  mbuf _ hc := hc

theorem keeps_setCore (s : State) (c : Nat) (k : Core) (h : (s.core c).run = .held → k.run = .held) : Keeps s (s.setCore c k) :=
  keeps_onCore s c (f := fun _ => k) h

theorem keeps_withCs (s : State) (x : Cs) : Keeps s (s.withCs x) := .of_same rfl rfl rfl rfl rfl rfl
theorem keeps_m (s : State) (m : MemState) : Keeps s { s with m := m } := .of_same rfl rfl rfl rfl rfl rfl
theorem keeps_io (s : State) (m : Map Nat IoState) : Keeps s { s with io := m } := .of_same rfl rfl rfl rfl rfl rfl
theorem keeps_onMesh (s : State) (f : MeshState → MeshState) : Keeps s (s.onMesh f) := .of_same rfl rfl rfl rfl rfl rfl
theorem keeps_onMc (s : State) (n : Nat) (f : McState → McState) : Keeps s (s.onMc n f) := .of_same rfl rfl rfl rfl rfl rfl
theorem keeps_onRp (s : State) (p r : Nat) (f : RootPort → RootPort) : Keeps s (s.onRp p r f) := keeps_io s _
theorem keeps_fresh (s : State) : Keeps s s.fresh.2 := .of_same rfl rfl rfl rfl rfl rfl

theorem keeps_onTxn (s : State) (k : Nat × Nat) (f : Txn → Txn) : Keeps s (s.onTxn k f) := by
  unfold State.onTxn
  split
  · exact keeps_onMesh s _
  · exact .refl s

/-! ### Wakes, statistics, packets -/

theorem keeps_request (s : State) (n : Nat) : Keeps s (s.request n) := by
  unfold State.request
  split
  · exact .refl s
  · split
    · dsimp only
      split <;> exact .of_same rfl rfl rfl rfl rfl rfl
    · exact .of_same rfl rfl rfl rfl rfl rfl

theorem keeps_wake (s : State) (n : Nat) : Keeps s (s.wake n) :=
  (keeps_request s n).trans (.of_same rfl rfl rfl rfl rfl rfl)

theorem keeps_statOf (s : State) (i : Nat) (id : Ident) (flits : Nat) : Keeps s (s.statOf i id flits) := by
  unfold State.statOf
  split
  · exact .of_same rfl rfl rfl rfl rfl rfl
  · exact .refl s

theorem keeps_statCore (s : State) (c flits : Nat) : Keeps s (s.statCore c flits) := keeps_statOf _ _ _ _

theorem keeps_statErr (s : State) (i : Nat) (id : Ident) (flits e : Nat) : Keeps s (s.statErr i id flits e) := by
  unfold State.statErr
  split
  · split
    · exact .of_same rfl rfl rfl rfl rfl rfl
    · exact .refl s
  · exact keeps_statOf _ _ _ _

theorem keeps_statSent (s : State) (src : Stop) (w : Bool) : Keeps s (s.statSent src w) := by
  unfold State.statSent
  split
  · split
    · exact .of_same rfl rfl rfl rfl rfl rfl
    · exact .refl s
  · exact .refl s

theorem keeps_statAgent (s : State) (src : Stop) (id : Ident) : Keeps s (s.statAgent src id) := by
  unfold State.statAgent
  split
  · exact keeps_statOf _ _ _ _
  · exact .refl s

theorem keeps_cross (s : State) (p : Packet) (vc : BitVec 2) (ls : List LinkId) : Keeps s (s.cross p vc ls) := keeps_onMesh s _

theorem keeps_setPaused (s : State) (p : HeldPacket) (on : Bool) : Keeps s (s.setPaused p on) := by
  unfold State.setPaused
  split
  · exact .refl s
  · split
    · extract_lets k
      split
      · split
        · exact .refl s
        · exact (keeps_cross s _ _ _).trans (keeps_onMesh _ _)
      · exact .refl s
    · split
      · split
        · exact .refl s
        · exact (keeps_cross s _ _ _).trans (keeps_onTxn _ _ _)
      · exact .refl s

theorem keeps_come (s : State) (p : HeldPacket) (b : Option BufId) (dom : Option Nat) : Keeps s (s.come p b dom) := by
  unfold State.come
  extract_lets s1 q s2 s3 all
  have h3 : Keeps s s3 := by
    have h2 : Keeps s s2 := (keeps_cross s p.pkt p.vc _).trans (keeps_onMesh s1 _)
    refine h2.trans ?_
    simp only [s3]
    split
    · exact keeps_wake _ _
    · exact .refl _
  split
  · exact h3.trans (.foldl (fun s r => keeps_setPaused s r true) _ _)
  · exact h3

/-! ### Error records -/

theorem keeps_toLog (s : State) (typ sev : Nat) (tr : Bool) (l : List DWord) : Keeps s (s.toLog typ sev tr l) := by
  have key : ∀ q n, Keeps s { s with log := { s.log with queue := q, lost := n } } := fun q n =>
    ⟨rfl, rfl, rfl, fun _ _ => rfl, fun _ h => h, fun _ h => h⟩
  unfold State.toLog
  split
  · exact key _ _
  · exact key _ _

theorem keeps_writeSlot (s : State) (e : Event) (i : Nat) (o : Bool) : Keeps s (s.writeSlot e i o) :=
  (((keeps_setReg s _ rfl).trans (keeps_setReg _ _ rfl)).trans (keeps_setReg _ _ rfl)).trans (keeps_setReg _ _ rfl)

theorem keeps_record (s : State) (e : Event) : Keeps s (s.record e).2 := by
  unfold State.record
  extract_lets cnt counted _ words _ s1
  have h1 : Keeps s s1 := by
    simp only [s1]
    split
    · exact (keeps_count s F.ebCnt.CORR rfl).trans ⟨rfl, rfl, rfl, fun _ _ => rfl, fun _ h => h, fun _ h => h⟩
    · exact keeps_count s _ rfl
    · exact keeps_count s _ rfl
    · split
      · exact .of_same rfl rfl rfl rfl rfl rfl
      · exact keeps_toLog s _ _ _ _
  split
  · exact h1.trans (keeps_count _ _ rfl)
  · split
    · exact h1.trans (keeps_writeSlot _ _ _ _)
    · split
      · exact h1.trans (keeps_writeSlot _ _ _ _)
      · exact h1.trans (.foldl (fun s i => keeps_setFld s _ _ rfl) _ _)

theorem keeps_recordOwed (s : State) (e : Event) : Keeps s (s.recordOwed e) := by
  unfold State.recordOwed
  extract_lets s1
  have h1 : Keeps s s1 := keeps_record s e
  split
  · exact h1
  · exact h1.trans ⟨rfl, rfl, rfl, fun _ _ => rfl, fun _ h => h, fun _ h => h⟩

/-! ### Lines of memory -/

theorem keeps_poisonMem (s : State) (n line : Nat) : Keeps s (s.poisonMem n line) := by
  unfold State.poisonMem
  split <;> exact keeps_m s _

theorem keeps_dramCorrected (s : State) (n pa : Nat) (r : DramRow) : Keeps s (s.dramCorrected n pa r) :=
  (keeps_onMc s n _).trans (keeps_recordOwed _ _)

theorem keeps_dramUncorrectable (s : State) (n pa : Nat) (good : Bool) : Keeps s (s.dramUncorrectable n pa good) := by
  unfold State.dramUncorrectable
  split
  · exact keeps_recordOwed _ _
  · exact (keeps_poisonMem s _ _).trans (keeps_recordOwed _ _)

theorem keeps_freeLine (s : State) : Keeps s s.freeLine.2 :=
  List.foldlRecOn (motive := fun a : Line × State => Keeps s a.2) _ _ (.refl s) fun _ h _ _ => h.trans (keeps_fresh _)

theorem keeps_dramBeyond (s : State) (n pa : Nat) (r : DramRow) (good : Bool) : Keeps s (s.dramBeyond n pa r good) := by
  unfold State.dramBeyond
  have h1 := keeps_fresh s
  generalize s.fresh = a at h1 ⊢
  dsimp only
  split
  · exact h1.trans (keeps_dramUncorrectable _ _ _ _)
  · split
    · exact h1.trans (keeps_dramCorrected _ _ _ _)
    · exact ((h1.trans (keeps_freeLine _)).trans (keeps_m _ _)).trans (keeps_dramCorrected _ _ _ _)

theorem keeps_dramRead (s : State) (n line : Nat) : Keeps s (s.dramRead n line) := by
  unfold State.dramRead
  extract_lets m gone
  have hg : Keeps s gone := keeps_m s _
  split
  · exact .refl s
  · exact .refl s
  · split
    · exact .refl s
    · exact hg.trans (keeps_m _ _)
  · extract_lets good'
    split
    · exact hg
    · exact hg.trans (keeps_dramCorrected _ _ _ _)
    · exact hg.trans (keeps_dramUncorrectable _ _ _ _)
    · exact hg.trans (keeps_dramBeyond _ _ _ _ _)

theorem keeps_memRead (s : State) (line : Nat) : Keeps s (s.memRead line) := by
  unfold State.memRead
  split
  · split
    · exact keeps_dramRead _ _ _
    · unfold State.cxlRead
      dsimp only
      split
      · exact (keeps_fresh s).trans (keeps_m _ _)
      · exact keeps_fresh s
  · exact .refl s

theorem keeps_memIn (s : State) (line : Nat) : Keeps s (s.memIn line) := by
  unfold State.memIn
  split
  · exact keeps_memRead s line
  · exact .refl s

theorem keeps_wakePath (s : State) (line : Nat) : Keeps s (s.wakePath line) := by
  have await : ∀ (t : State) n, Keeps t (t.awaitSlice n) := by
    intro t n
    unfold State.awaitSlice
    split
    · exact .refl t
    · exact (keeps_setFld t _ _ rfl).trans (keeps_setFld _ _ _ rfl)
  exact ((keeps_wake s _).trans (await _ _)).trans (keeps_wake _ _)

theorem claspOf_moved (s : State) (pa : Nat) : moved (s.claspOf pa) = true := by
  unfold State.claspOf; split <;> rfl

theorem keeps_underClasp (s : State) (line : Nat) (wr : Bool) : Keeps s (s.underClasp line wr) := by
  unfold State.underClasp
  extract_lets s1
  have h1 : Keeps s s1 := keeps_count s _ (claspOf_moved s _)
  split
  · split
    · exact h1.trans (keeps_recordOwed _ _)
    · exact h1
  · exact h1

theorem keeps_cutIn (s : State) (line : Nat) : Keeps s (s.cutIn line) := by
  unfold State.cutIn
  split
  · exact (keeps_underClasp s line false).trans (keeps_m _ _)
  · exact keeps_memIn s line

theorem keeps_readHome (s : State) (line key : Nat) : Keeps s (s.readHome line key).2.2 := by
  unfold State.readHome
  extract_lets cut s1 dp s2
  have h2 : Keeps s1 s2 := by
    simp only [s2]
    split
    · exact keeps_underClasp _ _ _
    · exact .refl _
  exact ((keeps_memIn s line).trans h2).trans (keeps_withCs _ _)

theorem keeps_writeNc (s : State) (line key : Nat) (mask : BitVec 64) (data : Line) (dp : BitVec 2) (whole : Bool) :
    Keeps s (s.writeNc line key mask data dp whole) := by
  have partner : ∀ t : State, Keeps t (t.wakePartner line) := by
    intro t
    unfold State.wakePartner
    split
    · exact keeps_wake t _
    · exact .refl t
  unfold State.writeNc
  extract_lets s1 s2 s3
  have h2 : Keeps s1 s2 := by
    simp only [s2]
    split
    · exact keeps_m _ _
    · exact keeps_memRead _ _
  exact ((((keeps_withCs s _).trans (partner _)).trans h2).trans (keeps_withCs _ _)).trans (keeps_m _ _)

theorem keeps_discard (s : State) (line : Nat) : Keeps s (s.discard line) := by
  unfold State.discard
  split
  · exact .refl s
  · exact keeps_m s _

theorem keeps_writeHome (s : State) (line key : Nat) (mask : BitVec 64) (data : Line) (dp : BitVec 2) (whole : Bool) :
    Keeps s (s.writeHome line key mask data dp whole) := by
  unfold State.writeHome
  split
  · exact ((keeps_withCs s _).trans (keeps_discard _ line)).trans (keeps_underClasp _ _ _)
  · exact keeps_writeNc _ _ _ _ _ _ _

/-! ### Accesses of agents -/

theorem keeps_ownAsk (s : State) (l : List (Nat × Nat)) (page : Nat) : Keeps s (s.ownAsk l page) := by
  unfold State.ownAsk
  split
  · exact .refl s
  · exact keeps_wake s _

theorem keeps_ownSeen (s : State) (src : Stop) (page : Nat) : Keeps s (s.ownSeen src page) :=
  (keeps_ownAsk s _ page).trans (.of_same rfl rfl rfl rfl rfl rfl)

theorem keeps_ownCore (s : State) (c page : Nat) : Keeps s (s.ownCore c page) :=
  (keeps_ownAsk s _ page).trans (keeps_onUcore _ c fun h => h)

section Agent
variable {s t : State} {sec : Bool} {src : Stop} {id : Ident} {key : Nat}

/-- An agent's check, its query of the SEC and the wake of the way to a line. -/
theorem keeps_agentWay (s : State) (sec : Bool) (src : Stop) (line : Nat) :
    Keeps s ((if sec then s else s.ownSeen src (line / 64)).wakePath line) := by
  split
  · exact keeps_wakePath s line
  · exact (keeps_ownSeen s src _).trans (keeps_wakePath _ line)

theorem keeps_agentLine {line : Nat} {l : Line} {p : Bool} (h : s.agentLine sec src id line key = .ok (l, p, t)) : Keeps s t := by
  unfold State.agentLine at h
  split at h
  · cases h
  · split at h
    · cases h
    · cases h
      exact ((keeps_agentWay s sec src line).trans (keeps_readHome _ _ _)).trans (keeps_statAgent _ _ _)

theorem keeps_agentRead {f pa n : Nat} {bs : List Byte} {p : Bool} (h : s.agentRead sec src id key f pa n = .ok (bs, p, t)) :
    Keeps s t := by
  induction f generalizing s pa n bs p with
  | zero => cases h; exact .refl _
  | succ f ih =>
    rw [State.agentRead] at h
    split at h
    · cases h; exact .refl _
    · extract_lets k at h
      split at h
      · cases h
      · next l q s1 hl =>
        extract_lets b at h
        split at h
        · cases h
        · next r q2 s2 hr =>
          cases h
          exact (keeps_agentLine hl).trans (ih hr)

theorem keeps_agentNat {pa n v : Nat} {p : Bool} (h : s.agentNat sec src id key pa n = .ok (v, p, t)) : Keeps s t := by
  unfold State.agentNat at h
  split at h
  · cases h
  · next hr => cases h; exact keeps_agentRead hr

theorem keeps_agentWriteLine {line : Nat} {mask : BitVec 64} {data : Line} {p : Bool}
    (h : s.agentWriteLine sec src id line key mask data p = .ok t) : Keeps s t := by
  unfold State.agentWriteLine at h
  split at h
  · cases h
  · split at h
    · cases h
    · cases h
      exact ((keeps_agentWay s sec src line).trans (keeps_writeHome _ _ _ _ _ _ _)).trans (keeps_statAgent _ _ _)

theorem keeps_agentWrite {f pa : Nat} {bs : List Byte} {p : Bool} (h : s.agentWrite sec src id key p f pa bs = .ok t) :
    Keeps s t := by
  induction f generalizing s pa bs with
  | zero => cases h; exact .refl _
  | succ f ih =>
    rw [State.agentWrite] at h
    split at h
    · cases h; exact .refl _
    · extract_lets k data at h
      split at h
      · cases h
      · next hw => exact (keeps_agentWriteLine hw).trans (ih h)

theorem keeps_agentAtomic {pa n v : Nat} {p : Bool} {f : Nat → Nat} (h : s.agentAtomic sec src id key pa n f = .ok (v, p, t)) :
    Keeps s t := by
  unfold State.agentAtomic at h
  split at h
  · cases h
  · next hn =>
    split at h
    · cases h; exact keeps_agentNat hn
    · split at h
      · cases h
      · next hw => cases h; exact (keeps_agentNat hn).trans (keeps_agentWrite hw)

theorem keeps_coreNat {c pa n v : Nat} {p : Bool} (h : s.coreNat c id key pa n = .ok (v, p, t)) : Keeps s t := by
  unfold State.coreNat State.coreAsk at h
  split at h
  · cases h
  · split at h
    · cases h
    · next k _ _ _ =>
      dsimp only at h
      cases hn : (s.ownCore c (pa / 4096)).agentNat true (tileStop (c / 2)) id k pa n with
      | error e => rw [hn] at h; cases h
      | ok r =>
        rw [hn] at h
        cases h
        exact ((keeps_ownCore s c _).trans (keeps_agentNat hn)).trans (keeps_statCore _ _ _)

theorem keeps_coreAtomic {c pa n v : Nat} {p : Bool} {f : Nat → Nat} (h : s.coreAtomic c id key pa n f = .ok (v, p, t)) :
    Keeps s t := by
  unfold State.coreAtomic State.coreAsk at h
  split at h
  · cases h
  · split at h
    · cases h
    · next k _ _ _ =>
      dsimp only at h
      cases hn : (s.ownCore c (pa / 4096)).agentAtomic true (tileStop (c / 2)) id k pa n f with
      | error e => rw [hn] at h; cases h
      | ok r =>
        rw [hn] at h
        cases h
        exact ((keeps_ownCore s c _).trans (keeps_agentAtomic hn)).trans (keeps_statCore _ _ _)

end Agent

/-! ### Interrupts -/

theorem keeps_agentGone (s : State) (e : Fail) (cmd key pa : Nat) : Keeps s (s.agentGone e cmd key pa) := by
  unfold State.agentGone
  split
  · exact keeps_recordOwed s _
  · exact .refl s

theorem keeps_swapWord (s : State) (c off n : Nat) : Keeps s (s.swapWord c off n).2 := by
  unfold State.swapWord
  extract_lets co key pa
  split
  · exact keeps_agentGone _ _ _ _ _
  · next h => exact keeps_coreNat h
  · next h =>
    split
    · exact (keeps_coreNat h).trans (keeps_agentGone _ _ _ _ _)
    · next h' => exact (keeps_coreNat h).trans (keeps_coreAtomic h')

theorem keeps_harvest (s : State) (c : Nat) : Keeps s (s.harvest c) := by
  refine (keeps_swapWord s c _ _).trans (.foldl (fun t k => ?_) _ _)
  unfold State.harvestClass
  have h := keeps_swapWord t c (4 * k) 4
  split
  · next e => rw [e] at h; exact h
  · next e => rw [e] at h; exact h.trans (keeps_onCore _ c fun h => h)

theorem keeps_endWait (s : State) (c : Nat) : Keeps s (s.endWait c) := by
  unfold State.endWait
  extract_lets k virt
  have set : ∀ q, k.run ≠ .held → Keeps s (s.setCore c q) := fun q hr => keeps_setCore s c q fun h => absurd h hr
  split
  · next hr =>
    split
    · exact set _ (by simp [hr])
    · exact .refl s
  · next hr =>
    split
    · exact set _ (by simp [hr])
    · split
      · exact set _ (by simp [hr])
      · exact .refl s
  · exact .refl s

theorem keeps_intArrive (s : State) (c : Nat) (w : Bool) (vec prio lvl : Nat) : Keeps s (s.intArrive c w vec prio lvl).1 := by
  unfold State.intArrive
  split
  · exact .refl s
  · split
    · exact .of_same rfl rfl rfl rfl rfl rfl
    · extract_lets s1 k
      have h1 : Keeps s s1 := by
        simp only [s1]
        split
        · exact keeps_onCore s c fun h => by split <;> exact h
        · exact .refl s
      split
      · exact h1.trans (keeps_endWait _ _)
      · split
        · dsimp only
          have h2 := keeps_endWait (s1.harvest c) c
          exact (h1.trans (keeps_harvest s1 c)).trans h2
        · split
          · exact h1.trans ((keeps_count s1 F.liuMerged.COUNT (r := .liuMerged _) rfl).trans (keeps_endWait _ _))
          · refine h1.trans (.trans ?_ (keeps_endWait _ _))
            exact keeps_setCore _ c _ fun h => h

theorem keeps_intRaw (s : State) (src : Stop) (c : Nat) (w : Bool) (vec prio lvl : Nat) :
    Keeps s (s.intRaw src c w vec prio lvl).1 := by
  unfold State.intRaw
  extract_lets s1 p
  have h1 : Keeps s s1 := keeps_statSent s src w
  split
  · exact h1
  · split
    · exact h1.trans ((keeps_cross _ _ _ _).trans (keeps_intArrive _ _ _ _ _ _))
    · exact h1.trans (keeps_come _ _ _ _)
    · exact h1

theorem keeps_virtDeliver (s : State) (src : IntSrc) (v : Nat) : Keeps s (s.virtDeliver src v).1 := by
  unfold State.virtDeliver
  extract_lets hi key pa st bad
  split
  · exact keeps_agentGone _ _ _ _ _
  · next h => exact keeps_agentAtomic h
  · next h1 =>
    replace h1 := keeps_agentAtomic h1
    split
    · exact h1.trans (keeps_agentGone _ _ _ _ _)
    · next h2 => exact h1.trans (keeps_agentAtomic h2)
    · next h2 =>
      replace h2 := h1.trans (keeps_agentAtomic h2)
      split
      · exact h2
      · split
        · exact h2.trans (keeps_agentGone _ _ _ _ _)
        · next h3 => exact h2.trans (keeps_agentNat h3)
        · next h3 => exact h2.trans ((keeps_agentNat h3).trans (keeps_intRaw _ _ _ _ _ _ _))

theorem keeps_routeRaw (s : State) (src : IntSrc) : Keeps s (s.routeRaw src).1 := by
  unfold State.routeRaw
  extract_lets lo w vec
  split
  · exact .refl s
  · split
    · exact keeps_virtDeliver _ _ _
    · exact keeps_intRaw _ _ _ _ _ _ _

theorem keeps_notice (s : State) (k : Nat) : Keeps s (s.notice k) := by
  unfold State.notice
  have h := keeps_routeRaw s (.stw (BitVec.ofNat 8 k))
  split
  · next e => rw [e] at h; exact h
  · next e => rw [e] at h; exact h.trans (keeps_recordOwed _ _)

/-- An error event, recorded with its notice. -/
theorem keeps_logErr (s : State) (e : Event) : Keeps s (s.logErr e) := by
  unfold State.logErr State.logErrSlot
  have h := keeps_record s e
  generalize s.record e = r at h ⊢
  dsimp only
  split
  · exact h
  · exact h.trans (keeps_notice _ _)

theorem Keeps.logged {s : State} {r : State × Option Event} (h : Keeps s r.1) : Keeps s (logged r) := by
  unfold Machine.logged
  split
  · exact h
  · exact h.trans (keeps_logErr _ _)

theorem keeps_noAgent (s : State) (dst : Stop) (port cmd : Nat) (addr : Option (Nat × Nat)) :
    Keeps s (s.noAgent dst port cmd addr) := keeps_logErr s _

end Sys2Proof.Proofs
end

section
/-! PROOFS. What stores on their way leave alone: expansion windows, lines owned, merge buffers, a core taken OFF. -/

namespace Sys2Proof.Proofs
open Sys2Proof.Machine Sys2Proof.Laws

/-! ### Expansion windows -/

theorem keeps_rpActive (s : State) (p r : Nat) : Keeps s (s.rpActive p r) := by
  unfold State.rpActive
  split
  case h_5 => exact .refl s
  all_goals exact keeps_onRp s p r _

theorem keeps_onPort (s : State) (p : Nat) (f : IoState → IoState) : Keeps s (s.onPort p f) := keeps_io s _

theorem keeps_epTraffic (s : State) (p : Nat) : Keeps s (s.epTraffic p) := by
  unfold State.epTraffic
  split
  case h_5 => exact .refl s
  all_goals exact keeps_onPort s p _

theorem keeps_hostBme (s : State) (p f : Nat) : Keeps s (s.hostBme p f) := by
  unfold State.hostBme
  split
  · exact ((keeps_fresh s).trans (keeps_onPort _ _ _)).trans (keeps_setFld _ _ _ rfl)
  · exact .refl s

theorem keeps_freshBytes (s : State) (n : Nat) : Keeps s (s.freshBytes n).2 := by
  induction n generalizing s with
  | zero => exact .refl s
  | succ n ih => exact (keeps_fresh s).trans (ih _)

theorem keeps_aerErr (s : State) (p r : Nat) : Keeps s (s.aerErr p r).2 := by
  unfold State.aerErr
  dsimp only
  exact keeps_logErr s _

theorem keeps_deviceRead (s : State) (p r n : Nat) (cfg : Bool) : Keeps s (s.deviceRead p r n cfg).2 := by
  unfold State.deviceRead
  have h1 := keeps_fresh s
  generalize s.fresh = a at h1 ⊢
  dsimp only
  split
  · split
    · exact h1
    · exact h1.trans (keeps_aerErr _ _ _)
  · exact h1.trans (keeps_freshBytes _ _)

theorem keeps_outbound (s : State) (p r n : Nat) (cfg : Bool) (wr : Option Nat) : Keeps s (s.outbound p r n cfg wr).2 := by
  unfold State.outbound
  split
  · exact keeps_count s _ rfl
  · extract_lets s1
    have h1 : Keeps s s1 := keeps_rpActive s p r
    split
    · exact h1
    · exact h1.trans (keeps_deviceRead _ _ _ _ _)

theorem keeps_setHdrByte (s : State) (p r a b : Nat) : Keeps s (s.setHdrByte p r a b) := keeps_io s _

theorem keeps_cfgAccess (s : State) (p off n : Nat) (wr : Option Nat) : Keeps s (s.cfgAccess p off n wr).2 := by
  unfold State.cfgAccess
  extract_lets bus dev fn reg
  split
  · split
    · split
      · dsimp only
        exact .foldl (fun t i => keeps_setHdrByte t p dev _ _) _ s
      · exact .refl s
    · exact .refl s
  · split
    · exact keeps_outbound _ _ _ _ _ _
    · exact .refl s

theorem keeps_hostAccess (s : State) (p off n : Nat) (wr : Option Nat) : Keeps s (s.hostAccess p off n wr).2 := by
  unfold State.hostAccess
  extract_lets w s1
  have h1 : Keeps s s1 := by
    simp only [s1]
    split
    · exact keeps_hostBme _ _ _
    · exact .refl s
  split
  · have h2 : Keeps s (s1.epTraffic p) := h1.trans (keeps_epTraffic _ _)
    split
    · exact h2
    · exact h2.trans (keeps_deviceRead _ _ _ _ _)
  · exact h1

theorem keeps_windowAccess (s : State) (src : Stop) (cmd pa n : Nat) (wr : Option Nat) :
    Keeps s (s.windowAccess src cmd pa n wr).2 := by
  unfold State.windowAccess
  extract_lets none_ port
  have hn : Keeps s none_.2 := by
    simp only [none_]
    exact keeps_noAgent s _ _ _ _
  have hp : ∀ p role f, (∀ t, Keeps t (f t).2) → Keeps s (port p role f).2 := by
    intro p role f hf
    simp only [port]
    split
    · exact hn
    · split
      · exact .refl s
      · exact (keeps_wake s _).trans (hf _)
  clear_value port none_
  split
  case h_5 =>
    apply hp
    intro t
    split
    · exact keeps_outbound _ _ _ _ _ _
    · exact keeps_aerErr _ _ _
  case h_6 => exact hp _ _ _ fun t => keeps_cfgAccess _ _ _ _ _
  case h_7 => exact hp _ _ _ fun t => keeps_hostAccess _ _ _ _ _
  all_goals exact hn

theorem keeps_windowMask (s : State) (src : Stop) (cmd block : Nat) (mask : BitVec 64) (data : Line) :
    Keeps s (s.windowMask src cmd block mask data).2 := by
  unfold State.windowMask
  extract_lets own runs
  refine List.foldlRecOn (motive := fun r : DevEnd × State => Keeps s r.2) _ _ (.refl s) fun r h q _ => ?_
  split
  · exact h
  · exact h.trans (keeps_windowAccess _ _ _ _ _ _)

/-! ### A core's stores -/

theorem keeps_clearErr (s : State) (c line st flits : Nat) : Keeps s (s.clearErr c line st flits) := by
  unfold State.clearErr
  split
  · exact keeps_onMesh s _
  · exact keeps_statErr _ _ _ _ _

theorem keeps_mcNotify (s : State) (c : Nat) (w : Bool) : Keeps s (s.mcNotify c w) := .logged (keeps_intArrive _ _ _ _ _ _)

theorem keeps_storeFailed (s : State) (c : Nat) (e : MbEntry) (st : Nat) : Keeps s (s.storeFailed c e st) :=
  (keeps_logErr s _).trans (keeps_mcNotify _ _ _)

theorem keeps_saw (s : State) (c ev : Nat) : Keeps s (s.saw c ev) := keeps_onUcore s c fun h => h
theorem keeps_sawPast (s : State) (c ev : Nat) : Keeps s (s.sawPast c ev) := keeps_onUcore s c fun h => h

theorem keeps_grantData (s : State) (c : Nat) : Keeps s (s.grantData c) := by
  unfold State.grantData
  extract_lets s1
  have h1 : Keeps s s1 := by
    simp only [s1]
    split
    · exact (keeps_saw s c _).trans (keeps_onUcore _ c fun h => h)
    · exact .refl s
  exact h1.trans (keeps_saw _ _ _)

theorem keeps_fillL1 (s : State) (c line : Nat) (instr : Bool) : Keeps s (s.fillL1 c line instr) := by
  unfold State.fillL1
  extract_lets x wb s1
  have h1 : Keeps s s1 := keeps_withCs s x
  split
  · exact h1.trans (keeps_grantData _ _)
  · exact h1

theorem keeps_getUnique (s : State) (c line key : Nat) : Keeps s (s.getUnique c line key) := by
  unfold State.getUnique
  extract_lets hold
  split
  · exact .refl s
  · exact (keeps_withCs s _).trans (keeps_statCore _ _ _)

theorem keeps_ownLine (s : State) (c line key : Nat) (past : Bool) : Keeps s (s.ownLine c line key past) := by
  unfold State.ownLine
  extract_lets note in1 s1 s2 s3
  have hnote : ∀ t ev, Keeps t (note t ev) := by
    intro t ev
    simp only [note]
    split
    · exact keeps_sawPast _ _ _
    · exact keeps_saw _ _ _
  have h1 : Keeps s s1 := by
    simp only [s1]
    split
    · exact .refl s
    · exact hnote _ _
  have h2 : Keeps s1 s2 := by
    simp only [s2]
    split
    · exact .refl _
    · exact keeps_grantData _ _
  have h3 : Keeps s2 s3 := by
    simp only [s3]
    split
    · exact .refl _
    · exact hnote _ _
  exact (((h1.trans h2).trans h3).trans (keeps_getUnique _ _ _ _)).trans (keeps_fillL1 _ _ _ _)

theorem keeps_storeLine (s : State) (c line key : Nat) (mask : BitVec 64) (data : Line) :
    Keeps s (s.storeLine c line key mask data) := .of_same rfl rfl rfl rfl rfl rfl

theorem keeps_performStore (s : State) (c : Nat) (e : MbEntry) : Keeps s (s.performStore c e) := by
  unfold State.performStore
  split
  · exact (keeps_clearErr _ _ _ _ _).trans (keeps_storeFailed _ _ _ _)
  · extract_lets s1
    have h1 : Keeps s s1 := keeps_wakePath s _
    split
    · have h2 : Keeps s1 (if s1.hasLine c e.line then s1 else s1.cutIn e.line) := by
        split
        · exact .refl _
        · exact keeps_cutIn _ _
      exact ((h1.trans h2).trans (keeps_ownLine _ _ _ _ _)).trans (keeps_storeLine _ _ _ _ _ _)
    · exact (h1.trans (keeps_statCore _ _ _)).trans (keeps_writeHome _ _ _ _ _ _ _)

theorem keeps_gathSend (s : State) (c : Nat) (g : Gathered) : Keeps s (s.gathSend c g).2 := by
  unfold State.gathSend
  split
  · split
    · exact keeps_clearErr _ _ _ _ _
    · exact ((keeps_wakePath s _).trans (keeps_statCore _ _ _)).trans (keeps_writeHome _ _ _ _ _ _ _)
  · exact keeps_windowMask _ _ _ _ _ _

theorem keeps_flushGath (s : State) (c : Nat) : Keeps s (s.flushGath c) := by
  unfold State.flushGath
  split
  · exact .refl s
  · next g _ =>
    extract_lets s1
    have h1 : Keeps s s1 := keeps_onUcore s c fun h => h
    have h2 := h1.trans (keeps_gathSend s1 c g)
    split
    · next e => rw [e] at h2; exact h2
    · next e => rw [e] at h2; exact h2.trans (keeps_storeFailed _ _ _ _)

/-- The merge buffer emptied, before its stores are performed. -/
theorem keeps_emptyBuf (s : State) (c : Nat) : Keeps s (s.onUcore c fun u => { u with mbuf := [] }) := keeps_onUcore s c fun _ => rfl

theorem keeps_drainBuf (s : State) (c : Nat) : Keeps (s.onUcore c fun u => { u with mbuf := [] }) (s.drainBuf c) :=
  .foldl (fun s e => keeps_performStore s c e) _ _

theorem keeps_drain (s : State) (c : Nat) : Keeps s (s.drain c) :=
  ((keeps_emptyBuf s c).trans (keeps_drainBuf s c)).trans (keeps_flushGath _ c)

theorem drain_mbuf (s : State) (c : Nat) : ((s.drain c).ucore c).mbuf = [] :=
  ((keeps_drainBuf s c).trans (keeps_flushGath _ c)).mbuf c (by rw [ucore_onUcore, if_pos rfl])

/-! ### A core taken OFF -/

theorem keeps_flushCore (s : State) (c : Nat) : Keeps s (s.flushCore c) := keeps_withCs s _

theorem keeps_dropOwn (s : State) (n : Nat) : Keeps s (s.dropOwn n) := by
  unfold State.dropOwn
  extract_lets gone
  have hg : ∀ t st, Keeps t (gone t st) := fun _ _ => .of_same rfl rfl rfl rfl rfl rfl
  split
  · exact keeps_onUcore s n fun h => h
  · split
    · exact hg _ _
    · split
      · exact hg _ _
      · split
        · exact hg _ _
        · exact .refl s

theorem keeps_breakClaims (s : State) (holder : Nat → Bool) : Keeps s (s.breakClaims holder) := by
  refine .foldl (fun t p => ?_) _ s
  split
  · split
    · extract_lets rest _ _ t1
      have h1 : Keeps t t1 := .of_same rfl rfl rfl rfl rfl rfl
      exact h1.trans (keeps_count t1 F.qstat.BROKEN (r := .qstat _ _) rfl)
    · exact .refl t
  · exact .refl t

theorem keeps_lose (s : State) (n : Nat) : Keeps s (s.lose n) := by
  have reset : ∀ t : State, Keeps t (t.setUcore n { UCore.reset with seen := (t.ucore n).seen }) := fun t =>
    keeps_onUcore t n (f := fun _ => { UCore.reset with seen := (t.ucore n).seen }) fun _ => rfl
  have coh : ∀ (t : State) (x : CohState), Keeps t { t with coh := x } := fun _ _ => .of_same rfl rfl rfl rfl rfl rfl
  have h1 : Keeps s { s with pwr := { s.pwr with unpowered := s.pwr.unpowered.filter (· != n) ++ [n] } } :=
    .of_same rfl rfl rfl rfl rfl rfl
  unfold State.lose
  refine h1.trans ?_
  generalize { s with pwr := _ } = s1
  dsimp only
  split
  · exact (((((keeps_flushCore s1 n).trans (coh _ _)).trans (reset _)).trans (keeps_setFld _ _ _ rfl)).trans
      (keeps_setFld _ _ _ rfl)).trans (keeps_setFld _ _ _ rfl)
  · split
    · exact ((coh s1 _).trans (keeps_setFld _ _ _ rfl)).trans (keeps_setFld _ _ _ rfl)
    · split
      · exact keeps_onMc s1 _ _
      · split
        · exact keeps_io s1 _
        · split
          · exact .of_same rfl rfl rfl rfl rfl rfl
          · exact .refl s1

/-- The stores performed, caches written back and everything that lives in the domain lost, before its switch opens. -/
def emptied (s : State) (n : Nat) : State :=
  let s := ((((s.drain n).flushCore n).dropOwn n).breakClaims fun h => claimDom h == n).lose n
  { s with pwr := { s.pwr with saved := s.pwr.saved.erase n } }

theorem takeOff_eq (s : State) (n : Nat) : s.takeOff n = (emptied s n).powerOffCore n := rfl

theorem keeps_emptied (s : State) (n : Nat) : Keeps s (emptied s n) :=
  (((((keeps_drain s n).trans (keeps_flushCore _ n)).trans (keeps_dropOwn _ n)).trans (keeps_breakClaims _ _)).trans
    (keeps_lose _ n)).trans (.of_same rfl rfl rfl rfl rfl rfl)

end Sys2Proof.Proofs
end

section
/-! PROOFS. Fences, monitors, in-field tests, the error log and register writes. -/

namespace Sys2Proof.Proofs
open Sys2Proof.Machine Sys2Proof.Laws

/-! ### What the frame keeps -/

namespace Keeps
variable {s t : State}

theorem ift (h : Keeps s t) : t.ras.ift = s.ras.ift := by rw [h.ras]
theorem alert (h : Keeps s t) : t.ras.alert = s.ras.alert := by rw [h.ras]
theorem throttled (h : Keeps s t) : t.ras.throttled = s.ras.throttled := by rw [h.ras]
theorem read (h : Keeps s t) : t.ras.read = s.ras.read := by rw [h.ras]
theorem fences (h : Keeps s t) : t.log.fences = s.log.fences := by rw [h.log]
theorem fencedCore (h : Keeps s t) (c : Nat) : t.fencedCore c = s.fencedCore c := by
  rw [State.fencedCore, State.fencedCore, h.reg (.fenceCore _) rfl]
theorem fencedTile (h : Keeps s t) (n : Nat) : t.fencedTile n = s.fencedTile n := by
  rw [State.fencedTile, State.fencedTile, h.reg (.fenceTile _) rfl]
theorem dstate (h : Keeps s t) (n : Nat) : t.dstate n = s.dstate n := by
  rw [State.dstate, State.dstate, State.fld, State.fld, h.reg (rDom n) rfl]
theorem twinCfg (h : Keeps s t) (n : Nat) : t.twinCfg n = s.twinCfg n := by rw [State.twinCfg, State.twinCfg, h.boot]
theorem survivor (h : Keeps s t) (n : Nat) : t.survivor n = s.survivor n := by
  rw [State.survivor, State.survivor, h.twinCfg, h.fencedCore, h.fencedCore]

end Keeps

/-! ### Fences (R446) -/

/-- A fence entered in its register and in the log's list, before its records. -/
def fenceMarked (s : State) (c : Nat) : State :=
  let r := Reg.fenceCore (ix 8 (c / 32))
  let s := s.setReg r (s.reg r ||| (1#64 <<< (c % 32)))
  { s with log := { s.log with fences := s.log.fences ++ [(false, c)] } }

theorem keeps_fence (s : State) (c sev : Nat) : Keeps (fenceMarked s c) (s.fence c sev) :=
  (keeps_logErr _ _).trans (keeps_toLog _ _ _ _ _)

theorem fencedCore_fenceMarked (s : State) {c d : Nat} (hc : c < 256) (hd : d < 256) :
    (fenceMarked s c).fencedCore d = (s.fencedCore d || decide (d = c)) := by
  have hr : (fenceMarked s c).reg (.fenceCore (ix 8 (d / 32))) = if ix 8 (d / 32) = ix 8 (c / 32)
      then s.reg (.fenceCore (ix 8 (c / 32))) ||| (1#64 <<< (c % 32)) else s.reg (.fenceCore (ix 8 (d / 32))) := by
    refine (reg_setReg _ _ _ _).trans ?_
    simp only [Reg.fenceCore.injEq]
  have hix : ix 8 (d / 32) = ix 8 (c / 32) ↔ d / 32 = c / 32 := by
    simp only [ix, Fin.ofNat, Fin.mk.injEq]
    omega
  rw [State.fencedCore, hr, State.fencedCore]
  by_cases h : d / 32 = c / 32
  · rw [if_pos (hix.2 h), h, BitVec.getLsbD_or, BitVec.getLsbD_shiftLeft]
    by_cases e : d = c
    · subst e
      have : d % 32 < 64 := by omega
      simp [this]
    · have hne : d % 32 ≠ c % 32 := by omega
      have h64 : d % 32 < 64 := by omega
      by_cases hlt : d % 32 < c % 32
      · simp [hlt, e]
      · have hz : d % 32 - c % 32 ≠ 0 := by omega
        simp [hlt, hz, e, BitVec.getLsbD_one]
  · have e : d ≠ c := by rintro rfl; exact h rfl
    rw [if_neg (mt hix.1 h), decide_eq_false e, Bool.or_false]

/-! ### A core taken OFF -/

theorem powerOffCore_reg (s : State) (c : Nat) {r : Reg} (h : r ≠ rDom c) : (s.powerOffCore c).reg r = s.reg r := by
  refine (reg_setReg_other _ _ h).trans ?_
  rw [reg_setFld_other _ _ _ h, reg_setFld_other _ _ _ h, reg_onCore]

theorem powerOffCore_held (s : State) (c : Nat) : ((s.powerOffCore c).core c).run = .held := by
  refine (congrArg Core.run (core_onCore s c c fun k => { k with run := .held })).trans ?_
  rw [if_pos rfl]

theorem getF_clearReady (w : DWord) : getF (w &&& ~~~(0xF000#64)) F.dom.STATE = getF w F.dom.STATE := by
  apply Nat.eq_of_testBit_eq
  intro i
  rw [testBit_getF, testBit_getF, BitVec.getLsbD_and]
  by_cases hi : i < 2
  · interval_cases i <;> simp
  · simp [hi]

theorem powerOffCore_dstate (s : State) (c : Nat) : (s.powerOffCore c).dstate c = 0 := by
  refine (congrArg (getF · F.dom.STATE) (reg_setReg _ _ _ _)).trans ?_
  rw [if_pos rfl, getF_clearReady]
  show State.fld _ _ _ = 0
  rw [fld_setFld_place _ _ _ _ _ (by decide), fld_setFld_same _ _ _ _ (by decide), Nat.zero_mod]

theorem powerOffCore_fencedCore (s : State) (c d : Nat) : (s.powerOffCore c).fencedCore d = s.fencedCore d := by
  rw [State.fencedCore, powerOffCore_reg s c (by simp), State.fencedCore]

theorem takeOff_ift (s : State) (n : Nat) : (s.takeOff n).ras.ift = s.ras.ift := (keeps_emptied s n).ift

theorem fence_ift (s : State) (c sev : Nat) : (s.fence c sev).ras.ift = s.ras.ift := (keeps_fence s c sev).ift

theorem fenceAny_ift (s : State) (c sev : Nat) : (s.fenceAny c sev).ras.ift = s.ras.ift :=
  (takeOff_ift _ _).trans (fence_ift s c sev)

/-- A core fenced: its mark and its list entry stand, and the domain that is the fenced one's opens. -/
theorem fenceAny_fences (s : State) {c : Nat} (sev : Nat) {n : Nat} (hc : c < 256)
    (hn : (if (s.fence c sev).survivor (c / 2) then 2 * (c / 2) + 1 else c) = n) :
    (s.fenceAny c sev).fencedCore c = true ∧ (false, c) ∈ (s.fenceAny c sev).log.fences ∧
      (s.fenceAny c sev).dstate n = 0 ∧ ((s.fenceAny c sev).core n).run = .held := by
  have hk := (keeps_fence s c sev).trans (keeps_emptied (s.fence c sev) n)
  have he : s.fenceAny c sev = (emptied (s.fence c sev) n).powerOffCore n := by rw [State.fenceAny, hn, takeOff_eq]
  rw [he]
  refine ⟨?_, ?_, powerOffCore_dstate _ _, powerOffCore_held _ _⟩
  · rw [powerOffCore_fencedCore, hk.fencedCore, fencedCore_fenceMarked s hc hc]
    simp
  · show _ ∈ (emptied (s.fence c sev) n).log.fences
    rw [hk.fences]
    simp [fenceMarked]

/-! ### In-field test (R445) -/

theorem moveAll_ras (s : State) (t : Nat) : (s.moveAll t).ras = s.ras := by
  refine List.foldlRecOn (motive := fun u : State => u.ras = s.ras) _ _ rfl fun u hu h _ => ?_
  unfold State.moveIdx
  split
  · exact hu
  · exact hu

theorem retireDone_ift (s : State) (t : Nat) : (s.retireDone t).ras.ift = s.ras.ift := by
  refine ((keeps_logErr _ _).trans (keeps_toLog _ _ _ _ _)).ift.trans ?_
  exact congrArg RasState.ift (moveAll_ras s t)

theorem fenceTile_ift (s : State) (t sev : Nat) : (s.fenceTile t sev).ras.ift = s.ras.ift := by
  unfold State.fenceTile
  extract_lets s1 s2 s3 r s4 _ s5
  have h1 : s1.ras.ift = s.ras.ift := by
    refine List.foldlRecOn (motive := fun u : State => u.ras.ift = s.ras.ift) _ _ rfl fun u hu c _ => ?_
    split
    · exact hu
    · exact (fenceAny_ift u c sev).trans hu
  have h2 : s2.ras.ift = s1.ras.ift := (takeOff_ift _ _).trans (takeOff_ift _ _)
  have h3 : s3.ras.ift = s2.ras.ift := retireDone_ift s2 t
  exact (keeps_toLog s5 _ _ _ _).ift.trans (h3.trans (h2.trans h1))

end Sys2Proof.Proofs
end

section
/-! PROOFS. Monitors (R441-R443): the thermal trip, samples and steps, droops. -/

namespace Sys2Proof.Proofs
open Sys2Proof.Machine Sys2Proof.Laws

/-! ### Maps -/

section Maps
variable {κ α : Type} [DecidableEq κ]

theorem find_mapV (m : Map κ α) (f : κ → α → α) (k : κ) : (Map.mapV m f).find k = (m.find k).map (f k) := by
  induction m with
  | nil => rfl
  | cons p m ih =>
    obtain ⟨j, a⟩ := p
    show Map.find ((j, f j a) :: Map.mapV m f) k = (Map.find ((j, a) :: m) k).map (f k)
    rw [Map.find, Map.find]
    split
    · next h => rw [h]; rfl
    · exact ih

theorem find_map_mem (l : List Nat) (f : Nat → α) {k : Nat} (h : k ∈ l) : Map.find (l.map fun i => (i, f i)) k = some (f k) := by
  induction l with
  | nil => cases h
  | cons j l ih =>
    rw [List.map_cons, Map.find]
    split
    · next e => rw [e]
    · next e => exact ih ((List.mem_cons.1 h).resolve_left (Ne.symm e))

/-- A map of the numbers below a bound gives the value of each. -/
theorem getD_range {n k : Nat} (f : Nat → α) (d : α) (h : k < n) :
    Map.getD ((List.range n).map fun i => (i, f i)) k d = f k := by
  rw [Map.getD, find_map_mem _ f (List.mem_range.2 h), Option.getD_some]

/-- Setting keys in turn, each by its own value, leaves each with that value. -/
theorem getD_foldl_set (l : List Nat) (key : Nat → κ) (f : Nat → α) (m : Map κ α) (d : α) {k : Nat} (h : k ∈ l)
    (hkey : Function.Injective key) : Map.getD (l.foldl (fun m i => Map.set m (key i) (f i)) m) (key k) d = f k := by
  induction l using List.reverseRecOn with
  | nil => cases h
  | append_singleton l j ih =>
    rw [List.foldl_append, List.foldl_cons, List.foldl_nil]
    by_cases e : k = j
    · subst e; rw [getD_set_same]
    · rw [getD_set_other _ _ _ (fun h' => e (hkey h'))]
      exact ih ((List.mem_append.1 h).resolve_right (by simpa using e))

end Maps

/-! ### Thermal monitors -/

theorem count_sec (s : State) (r : Reg) (p : Place) : (s.count r p).sec = s.sec := by
  unfold State.count
  dsimp only
  split <;> rfl

/-- A fatal event starts the fatal sequence (R434). -/
theorem record_fatal (s : State) (e : Event) (he : e.sev = 3) (h : s.sec.fatal = 0) : (s.record e).2.sec.fatal = 1 := by
  unfold State.record
  rw [he]
  extract_lets cnt words _ _ _ s1
  have h1 : s1.sec.fatal = 1 := by
    simp only [s1]
    rw [if_pos h]
  split
  · rw [count_sec]; exact h1
  · split
    · exact h1
    · split
      · exact h1
      · exact List.foldlRecOn (motive := fun t : State => t.sec.fatal = 1) _ _ h1 fun t ht _ _ => ht

/-- Every register of a range of domains at its reset value. -/
theorem foldl_domReset (s : State) {k n : Nat} (hk : k ≤ 417) (hn : n < k) :
    ((List.range k).foldl (fun s n => s.setReg (rDom n) (rDom n).reset) s).reg (rDom n) = (rDom n).reset := by
  induction k with
  | zero => omega
  | succ k ih =>
    rw [List.range_succ, List.foldl_append, List.foldl_cons, List.foldl_nil, reg_setReg]
    split
    · next e => rw [e]
    · next e => exact ih (by omega) (by rcases Nat.lt_succ_iff_lt_or_eq.1 hn with h | h; exact h; exact absurd (by rw [h]) e)

/-- The readings with one sample entered. -/
def sampled (s : State) (e : Bool) (i : Nat) (c : Int) : State :=
  { s with ras := { s.ras with read := s.ras.read.set (if e then (1, i % 32) else (0, i)) (BitVec.ofInt 64 c) } }

/-- Writes of registers leave everything else. -/
theorem foldl_setReg_csr (l : List Nat) (r : Nat → Reg) (w : Nat → DWord) (s : State) :
    l.foldl (fun s n => s.setReg (r n) (w n)) s = { s with csr := (l.foldl (fun s n => s.setReg (r n) (w n)) s).csr } := by
  induction l generalizing s with
  | nil => rfl
  | cons n l ih => rw [List.foldl_cons, ih]; rfl

theorem core_mapV_held (m : Map Nat Core) (d : Nat) :
    (Map.getD (m.mapV fun _ k => { k with run := .held }) d Core.reset).run = .held := by
  rw [Map.getD, find_mapV]
  cases m.find d <;> rfl

/-- The record and the opened switches of a thermal trip. -/
def tripped (s : State) : State :=
  (List.range 416).foldl (fun s n => s.setReg (rDom n) (rDom n).reset) (s.record { bank := 160, cls := 0x50, sev := 3 }).2

/-- What stops with the switches open, and the pin that says so. -/
def stopped (s : State) : State :=
  let s := { s with
    cores := s.cores.mapV fun _ k => { k with run := .held }
    pwr := { s.pwr with entry := [], waking := [], wakeReq := [] } }
  { s with boot := { s.boot with pins := { s.boot.pins with thermTrip := true } } }

theorem thermTrip_eq (s : State) : s.thermTrip = stopped (tripped s) := rfl

theorem tripped_csr (s : State) :
    tripped s = { (s.record { bank := 160, cls := 0x50, sev := 3 }).2 with csr := (tripped s).csr } :=
  foldl_setReg_csr _ (fun n => rDom n) (fun n => (rDom n).reset) _

theorem thermTrip_effects (s : State) :
    s.thermTrip.boot.pins.thermTrip = true ∧ (∀ n, n < 416 → s.thermTrip.reg (rDom n) = (rDom n).reset) ∧
      (∀ d, (s.thermTrip.core d).run = .held) ∧ s.thermTrip.pwr.entry = [] ∧ s.thermTrip.pwr.waking = [] ∧
      (s.sec.fatal = 0 → s.thermTrip.sec.fatal = 1) ∧ s.thermTrip.ras.read = s.ras.read ∧ s.thermTrip.m = s.m := by
  have hreg : ∀ n, n < 416 → (tripped s).reg (rDom n) = (rDom n).reset := fun n => foldl_domReset _ (by decide)
  have hcsr := tripped_csr s
  rw [thermTrip_eq]
  generalize tripped s = u at hreg hcsr ⊢
  have hsec : u.sec = (s.record { bank := 160, cls := 0x50, sev := 3 }).2.sec := by rw [hcsr]
  have hras : u.ras = (s.record { bank := 160, cls := 0x50, sev := 3 }).2.ras := by rw [hcsr]
  have hm : u.m = (s.record { bank := 160, cls := 0x50, sev := 3 }).2.m := by rw [hcsr]
  refine ⟨rfl, hreg, core_mapV_held u.cores, rfl, rfl, fun h => ?_, ?_, ?_⟩
  · exact hsec ▸ record_fatal s _ rfl h
  · exact hras ▸ (keeps_record s _).read
  · exact hm.trans (record_m s _)

theorem thermalSample_trips (s : State) (e : Bool) (i : Nat) (c : Int) (h : 12000 ≤ c) :
    s.thermalSample e i c = (sampled s e i c).thermTrip := by
  unfold State.thermalSample
  extract_lets s1
  rw [if_pos h]
  rfl

theorem contains_filter_false {l : List Nat} {p : Nat → Bool} {k : Nat} (h : l.contains k = false) :
    (l.filter p).contains k = false := by
  rw [List.contains_eq_mem, decide_eq_false_iff_not] at *
  exact fun h' => h (List.mem_filter.1 h').1

/-- A sample below every limit, with no alert standing, enters a reading and can only end a throttling (R441). -/
theorem thermalSample_below (s : State) (e : Bool) (i : Nat) (c : Int)
    (ht : c < 100 * (s.fld .therm F.therm.THROTTLE : Int)) (ha : c < 100 * (s.fld .therm F.therm.ALERT : Int)) (hc : c < 12000)
    (h : s.ras.alert = false) :
    (s.thermalSample e i c).ras.read = (sampled s e i c).ras.read ∧ (s.thermalSample e i c).ras.alert = false ∧
      (∀ cl, s.ras.throttled.contains cl = false → (s.thermalSample e i c).ras.throttled.contains cl = false) ∧
      (s.thermalSample e i c).csr = s.csr ∧ (s.thermalSample e i c).m = s.m ∧ (s.thermalSample e i c).cores = s.cores := by
  unfold State.thermalSample
  extract_lets _ s1 th al hy cl _ s2
  have hth : ¬ (th ≤ c ∧ (!s1.ras.throttled.contains cl) = true) := fun h' => absurd h'.1 (not_le.2 ht)
  rw [if_neg (not_le.2 hc), if_neg (fun h' => absurd h'.1 (not_le.2 ha))]
  have h2 : s2.ras.read = s1.ras.read ∧ s2.ras.alert = s.ras.alert ∧
      (∀ cl, s.ras.throttled.contains cl = false → s2.ras.throttled.contains cl = false) ∧
      s2.csr = s.csr ∧ s2.m = s.m ∧ s2.cores = s.cores := by
    simp only [s2]
    split
    · exact ⟨rfl, rfl, fun _ h => h, rfl, rfl, rfl⟩
    · split
      · exact ⟨rfl, rfl, fun _ h => contains_filter_false h, rfl, rfl, rfl⟩
      · exact ⟨rfl, rfl, fun _ h => h, rfl, rfl, rfl⟩
  obtain ⟨hr, hal, htr, hcsr, hm, hk⟩ := h2
  rw [if_neg (by rw [hal, h]; simp)]
  exact ⟨hr, hal.trans h, htr, hcsr, hm, hk⟩

/-- A tile sensor at the throttle limit throttles its cluster (R441). -/
theorem thermalSample_throttles (s : State) (i : Nat) (c : Int)
    (ht : 100 * (s.fld .therm F.therm.THROTTLE : Int) ≤ c) (ha : c < 100 * (s.fld .therm F.therm.ALERT : Int)) (hc : c < 12000)
    (h : s.ras.alert = false) (hcl : s.ras.throttled.contains (clusterOf (i / 2)) = false) :
    (s.thermalSample false i c).ras.throttled.contains (clusterOf (i / 2)) = true := by
  unfold State.thermalSample
  extract_lets _ s1 th al hy cl _ s2
  have hth : th ≤ c ∧ (!s1.ras.throttled.contains cl) = true := ⟨ht, by show (!s.ras.throttled.contains _) = true; rw [hcl]; rfl⟩
  rw [if_neg (not_le.2 hc), if_neg (fun h' => absurd h'.1 (not_le.2 ha))]
  have h2 : s2.ras.alert = false ∧ s2.ras.throttled.contains cl = true := by
    simp only [s2]
    rw [if_neg Bool.false_ne_true, if_pos hth]
    have hk := keeps_logErr { s1 with ras := { s1.ras with throttled := s1.ras.throttled ++ [cl] } }
      { bank := 160, cls := 0x50, sev := 0, src := i }
    rw [hk.alert, hk.throttled]
    exact ⟨h, by simp⟩
  rw [if_neg (by rw [h2.1]; simp)]
  exact h2.2

/-! ### Steps of the monitors -/

theorem thermalStep_effects (s : State) : Answers (exec .thermalStep s) fun t =>
    (∀ cl, cl < 16 → t.ras.thermCeil.getD cl 3700 =
      (if s.ras.throttled.contains cl then max 800 (s.ras.thermCeil.getD cl 3700 - 100)
        else min 3700 (s.ras.thermCeil.getD cl 3700 + 100))) ∧
    (s.ras.alert = true → t.ras.tlim = s.ras.tlim.map (· - 10)) ∧ t = { s with ras := t.ras } := by
  refine ⟨_, rfl, fun cl hcl => ?_, fun h => if_pos h, rfl⟩
  refine (getD_range _ _ hcl).trans ?_
  split <;> rfl

theorem droopEvent_effects (s : State) (cl : BitVec 4) :
    ∃ s1 : State, s1.ras.droopCnt.getD cl.toNat 0 = s.ras.droopCnt.getD cl.toNat 0 + 1 ∧ cl.toNat ∈ s1.ras.drooping ∧
      s1 = { s with ras := s1.ras } ∧
      exec (.droopEvent cl) s = .next (s1.logErr { bank := 160, cls := 0x51, sev := 0, src := cl.toNat }) := by
  refine ⟨_, ?_, ?_, rfl, rfl⟩
  · exact getD_set_same _ _ _ _
  · dsimp only
    split
    · next h => exact List.contains_iff_mem.1 h
    · simp

theorem droopRecovery_effects (s : State) (cl : BitVec 4) :
    Answers (exec (.droopRecovery cl) s) fun t => cl.toNat ∉ t.ras.drooping ∧ t = { s with ras := t.ras } :=
  ⟨_, rfl, by simp, rfl⟩

theorem droopWindowEnd_effects (s : State) : Answers (exec .droopWindowEnd s) fun t =>
    t = { s with ras := t.ras } ∧ t.ras.droopCnt = [] ∧
    ∀ cl, cl < 16 → t.ras.read.getD (2, cl) 0 = dw (s.ras.droopCnt.getD cl 0) ∧
      t.ras.droopCeil.getD cl 3700 = (if s.fld .droop F.droop.COUNT < s.ras.droopCnt.getD cl 0
        then max 800 (s.ras.droopCeil.getD cl 3700 - 100) else min 3700 (s.ras.droopCeil.getD cl 3700 + 100)) := by
  refine ⟨_, rfl, rfl, rfl, fun cl hcl => ⟨?_, ?_⟩⟩
  · dsimp only
    exact getD_foldl_set (List.range 16) (fun k => ((2, k) : Nat × Nat)) (fun k => dw (s.ras.droopCnt.getD k 0)) s.ras.read 0
      (List.mem_range.2 hcl) fun a b h => (Prod.mk.inj h).2
  · refine (getD_range _ _ hcl).trans ?_
    simp only [decide_eq_true_eq]
    split <;> rfl

end Sys2Proof.Proofs
end

section
/-! PROOFS. In-field tests (R445), fences and handovers (R446, R439), the error log (R448-R450) and register writes (R469). -/

namespace Sys2Proof.Proofs
open Sys2Proof.Machine Sys2Proof.Laws

/-! ### Register accesses -/

theorem regErr_served {q : Req} {r : Reg} {s : State} (h : Served q r s) : s.regErr q r = none := by
  obtain ⟨hdm, hlk, hagent, hpath⟩ := h
  unfold State.regErr
  extract_lets dm
  have hd : dm = false := by simp only [dm]
  simp [hd, hlk, hagent, hpath]

theorem access_served {q : Req} {r : Reg} {s : State} (f : State → State) (h : Served q r s) :
    s.access q r f = f (s.wake (regDom r)) := by rw [State.access, regErr_served h]

theorem fencedTile_setFld (s : State) {r : Reg} (p : Place) (v t : Nat) (h : ∀ k, r ≠ .fenceTile k) :
    (s.setFld r p v).fencedTile t = s.fencedTile t := by
  rw [State.fencedTile, reg_setFld_other _ _ _ (h _).symm, State.fencedTile]

theorem fencedCore_setFld (s : State) {r : Reg} (p : Place) (v c : Nat) (h : ∀ k, r ≠ .fenceCore k) :
    (s.setFld r p v).fencedCore c = s.fencedCore c := by
  rw [State.fencedCore, reg_setFld_other _ _ _ (h _).symm, State.fencedCore]

/-! ### In-field test (R445) -/

section Ift
variable {s : State} {t part : Nat} (h : s.ras.ift = none)
include h

theorem iftStart_fenced (ht : s.fencedTile t = true) : s.iftStart t part = s.setFld .iftCtl F.iftCtl.STATUS 4 := by
  simp [State.iftStart, h, ht]

theorem iftStart_refused (ht : s.fencedTile t = false) (he : s.iftEligible t part = false) :
    s.iftStart t part = s.setFld .iftCtl F.iftCtl.STATUS 2 := by
  simp [State.iftStart, h, ht, he]

theorem iftStart_runs (ht : s.fencedTile t = false) (he : s.iftEligible t part = true) :
    (s.iftStart t part).ras.ift = some (t, part) ∧ (s.iftStart t part).fld .iftCtl F.iftCtl.STATUS = 3 := by
  unfold State.iftStart
  rw [if_neg (by simp [h]), if_neg (by simp [ht]), if_neg (by simp [he])]
  exact ⟨rfl, fld_setFld_same _ .iftCtl F.iftCtl.STATUS 3 (by decide)⟩

end Ift

/-- The operands of a test entered in their fields. -/
def iftAsked (s : State) (tile : BitVec 7) (part : BitVec 2) : State :=
  ((s.wake 416).setFld .iftCtl F.iftCtl.PART part.toNat).setFld .iftCtl F.iftCtl.TILE tile.toNat

theorem iftGo_normal {q : Req} (s : State) (tile : BitVec 7) (part : BitVec 2) (h : Served q .iftCtl s) (hw : q.world = false) :
    exec (.iftGo q tile part) s = .next (s.wake 416) := by
  show Host.Outcome.next (s.access q .iftCtl _) = _
  rw [access_served _ h, if_neg (by simp [hw])]
  rfl

theorem iftGo_trusted {q : Req} (s : State) (tile : BitVec 7) {part : BitVec 2} (h : Served q .iftCtl s) (hw : q.world = true)
    (hp : part ≠ 0) : exec (.iftGo q tile part) s = .next ((iftAsked s tile part).iftStart tile.toNat part.toNat) := by
  have hf : (iftAsked s tile part).fld .iftCtl F.iftCtl.PART = part.toNat := by
    rw [iftAsked, fld_setFld_place _ _ _ _ _ (by decide), fld_setFld_same _ _ _ _ (by decide)]
    exact Nat.mod_eq_of_lt part.isLt
  show Host.Outcome.next (s.access q .iftCtl _) = _
  rw [access_served _ h, if_pos hw, if_neg hp]
  show Host.Outcome.next ((iftAsked s tile part).iftStart tile.toNat ((iftAsked s tile part).fld .iftCtl F.iftCtl.PART)) = _
  rw [hf]

theorem iftAsked_ift (s : State) (tile : BitVec 7) (part : BitVec 2) : (iftAsked s tile part).ras.ift = s.ras.ift :=
  (keeps_wake s 416).ift

theorem iftAsked_fencedTile (s : State) (tile : BitVec 7) (part : BitVec 2) (t : Nat) :
    (iftAsked s tile part).fencedTile t = s.fencedTile t := by
  rw [iftAsked, fencedTile_setFld _ _ _ _ (by simp), fencedTile_setFld _ _ _ _ (by simp), (keeps_wake s 416).fencedTile]

theorem iftPick_ok {s : State} {t : Nat} (h : s.iftPick = some t) : s.fencedTile t = false ∧ s.iftEligible t 1 = true := by
  have ok : ∀ l, firstOf (fun t => !s.twin t && !s.fencedTile t && s.iftEligible t 1) l = some t →
      s.fencedTile t = false ∧ s.iftEligible t 1 = true := fun l hl => by
    have := List.find?_some hl
    simp only [Bool.and_eq_true, Bool.not_eq_true'] at this
    exact ⟨this.1.2, this.2⟩
  unfold State.iftPick at h
  extract_lets o at h
  split at h
  · next e => exact ok _ (by rw [e, h])
  · exact ok _ h

/-- A test of cores asks for the cores alone, so it does not depend on the monitors. -/
theorem iftEligible_cores (s : State) (x : RasState) (t : Nat) :
    State.iftEligible { s with ras := x } t 1 = s.iftEligible t 1 := by
  have h : Nat.testBit 1 1 = false := rfl
  unfold State.iftEligible
  rw [h, Bool.not_false, Bool.true_or, Bool.true_or]
  rfl

theorem iftAutoTest_off (s : State) (h : s.flag .iftCtl F.iftCtl.AUTO = false) : exec .iftAutoTest s = .next s := by
  show Host.Outcome.next _ = _
  rw [if_neg (by simp [h])]

theorem iftAutoTest_runs (s : State) {t : Nat} (ha : s.flag .iftCtl F.iftCtl.AUTO = true) (hi : s.ras.ift = none)
    (hp : s.iftPick = some t) :
    Answers (exec .iftAutoTest s) fun u => u.ras.ift = some (t, 1) ∧ u.fld .iftCtl F.iftCtl.STATUS = 3 := by
  obtain ⟨hf, he⟩ := iftPick_ok hp
  refine ⟨State.iftStart { s with ras := { s.ras with
    first := s.ras.first.filter (· != t), iftNext := if s.ras.first.contains t then s.ras.iftNext else (t + 1) % 128 } } t 1,
    ?_, iftStart_runs hi hf ((iftEligible_cores s _ t).trans he)⟩
  show Host.Outcome.next _ = _
  rw [if_pos (show s.flag .iftCtl F.iftCtl.AUTO = true ∧ s.ras.ift.isNone = true from ⟨ha, by rw [hi]; rfl⟩), hp]

theorem iftDone_ift (s : State) (t part : Nat) (f0 f1 fu : Bool) : (s.iftDone t part f0 f1 fu).ras.ift = none := by
  unfold State.iftDone
  extract_lets g0 g1 gu idx _ _ s2 s3 s4 s5 s6
  have h2 : s2.ras.ift = none := by
    simp only [s2]
    split
    · rfl
    · exact List.foldlRecOn (motive := fun u : State => u.ras.ift = none) _ _ rfl fun u hu _ _ => hu
  have h3 : s3.ras.ift = none := by
    simp only [s3]
    split
    · rw [(keeps_logErr _ _).ift]; exact h2
    · exact h2
  have h4 : s4.ras.ift = none := by
    simp only [s4]
    split
    · rw [fenceAny_ift]; exact h3
    · exact h3
  have h5 : s5.ras.ift = none := by
    simp only [s5]
    split
    · rw [fenceAny_ift]; exact h4
    · exact h4
  show s6.ras.ift = none
  simp only [s6]
  split
  · rw [fenceTile_ift]; exact h5
  · exact h5

theorem iftDone_status (s : State) (t part : Nat) (f0 f1 fu : Bool) :
    (s.iftDone t part f0 f1 fu).fld .iftCtl F.iftCtl.STATUS =
      b2n (f0 && part.testBit 0 || f1 && part.testBit 0 || fu && part.testBit 1) := by
  refine (fld_setFld_same _ .iftCtl F.iftCtl.STATUS _ (by decide)).trans (Nat.mod_eq_of_lt ?_)
  generalize (_ || _) = b
  cases b <;> decide

/-- A test that passes gives the tile its hash indices back and touches nothing else. -/
theorem iftDone_passed (s : State) (t part : Nat) :
    (s.iftDone t part false false false).cores = s.cores ∧ (s.iftDone t part false false false).m = s.m := by
  unfold State.iftDone
  simp only [Bool.false_and, Bool.false_eq_true, or_self, if_false]
  exact List.foldlRecOn (motive := fun u : State => u.cores = s.cores ∧ u.m = s.m) _ _ ⟨rfl, rfl⟩ fun u hu _ _ => hu

theorem iftComplete_effects (s : State) {t part : Nat} (f0 f1 fu : Bool) (h : s.ras.ift = some (t, part)) :
    Answers (exec (.iftComplete f0 f1 fu) s) fun u => u.ras.ift = none ∧
      ((f0 && part.testBit 0) || (f1 && part.testBit 0) || (fu && part.testBit 1) → u.fld .iftCtl F.iftCtl.STATUS = 1) ∧
      (f0 = false → f1 = false → fu = false → u.fld .iftCtl F.iftCtl.STATUS = 0 ∧ u.cores = s.cores ∧ u.m = s.m) := by
  refine ⟨s.iftDone t part f0 f1 fu, ?_, iftDone_ift _ _ _ _ _ _, fun hf => ?_, ?_⟩
  · show Host.Outcome.next _ = _
    rw [h]
  · rw [iftDone_status, hf]; rfl
  · rintro rfl rfl rfl
    exact ⟨(iftDone_status _ _ _ _ _ _).trans rfl, iftDone_passed s t part⟩

/-! ### Fences by request (R446) -/

/-- The operands of a fence request entered in their fields. -/
def fenceAsked (s : State) (tk un : Bool) (n : Nat) : State :=
  (((s.wake 416).setFld .fenceReq F.fenceReq.KIND (b2n tk)).setFld .fenceReq F.fenceReq.UNFENCE (b2n un)).setFld .fenceReq
    F.fenceReq.INDEX n

theorem fenceRequest_normal {q : Req} (s : State) (tk un : Bool) (i : BitVec 8) (h : Served q .fenceReq s) (hw : q.world = false) :
    exec (.fenceRequest q tk un i) s = .next (s.wake 416) := by
  show Host.Outcome.next (s.access q .fenceReq _) = _
  rw [access_served _ h, if_neg (by simp [hw])]
  rfl

theorem fenceRequest_trusted {q : Req} (s : State) (tk un : Bool) (i : BitVec 8) (h : Served q .fenceReq s)
    (hw : q.world = true) : exec (.fenceRequest q tk un i) s = .next ((s.wake 416).fenceReq tk un i.toNat) := by
  show Host.Outcome.next (s.access q .fenceReq _) = _
  rw [access_served _ h, if_pos hw]
  rfl

theorem fenceReq_noTile (s : State) (un : Bool) {n : Nat} (hn : 128 ≤ n) :
    (s.wake 416).fenceReq true un n = (fenceAsked s true un n).setFld .fenceReq F.fenceReq.STATUS 3 := if_pos ⟨rfl, hn⟩

theorem fenceReq_unfence (s : State) (n : Nat) : (s.wake 416).fenceReq false true n =
    State.setFld (State.toLog { fenceAsked s false true n with
      log := { (fenceAsked s false true n).log with unfence := (fenceAsked s false true n).log.unfence ++ [(false, n)] } }
      0x0006 0 false [dw n, 2]) .fenceReq F.fenceReq.STATUS 0 := by
  unfold State.fenceReq
  simp only [Bool.false_eq_true, false_and, if_false, if_true]
  rfl

/-- A request for a core goes on once the core is OFF and some other core stays unfenced. -/
theorem fenceReq_core (s : State) (n : Nat) : (s.wake 416).fenceReq false false n =
    let s2 := fenceAsked s false false n
    if s2.coreOff n = false then s2.setFld .fenceReq F.fenceReq.STATUS 1
    else if (s2.unfenced.filter fun c => !([n].contains c)).isEmpty then s2.setFld .fenceReq F.fenceReq.STATUS 2
    else (if s2.fencedCore n then s2 else s2.fenceAny n 0).setFld .fenceReq F.fenceReq.STATUS 0 := by
  unfold State.fenceReq
  simp only [Bool.false_eq_true, false_and, if_false, or_false, List.all_cons, List.all_nil, Bool.and_true, Bool.not_eq_true']
  rfl

theorem fenceReq_goes {s : State} {n : Nat} (hoff : (fenceAsked s false false n).coreOff n = true)
    (hne : ((fenceAsked s false false n).unfenced.filter fun c => !([n].contains c)).isEmpty = false)
    (hf : (fenceAsked s false false n).fencedCore n = false) :
    (s.wake 416).fenceReq false false n = ((fenceAsked s false false n).fenceAny n 0).setFld .fenceReq F.fenceReq.STATUS 0 := by
  rw [fenceReq_core]
  simp only [hoff, hne, hf, Bool.true_eq_false, Bool.false_eq_true, if_false]

theorem fenceAsked_fencedCore (s : State) (tk un : Bool) (n c : Nat) : (fenceAsked s tk un n).fencedCore c = s.fencedCore c := by
  rw [fenceAsked, fencedCore_setFld _ _ _ _ (by simp), fencedCore_setFld _ _ _ _ (by simp), fencedCore_setFld _ _ _ _ (by simp),
    (keeps_wake s 416).fencedCore]

theorem fenceMarked_twinCfg (s : State) (c t : Nat) : (fenceMarked s c).twinCfg t = s.twinCfg t := rfl

theorem fenceAsked_twinCfg (s : State) (tk un : Bool) (n t : Nat) : (fenceAsked s tk un n).twinCfg t = s.twinCfg t :=
  (keeps_wake s 416).twinCfg t

theorem fenceReq_fences (s : State) {n : Nat} (hn : n < 256) (hoff : (fenceAsked s false false n).coreOff n = true)
    (hf : s.fencedCore n = false) (hc : ∃ c ∈ (fenceAsked s false false n).unfenced, c ≠ n) (ht : s.twinCfg (n / 2) = false) :
    let t := (s.wake 416).fenceReq false false n
    t.fld .fenceReq F.fenceReq.STATUS = 0 ∧ t.fencedCore n = true ∧ (false, n) ∈ t.log.fences ∧ t.dstate n = 0 ∧
      (t.core n).run = .held := by
  have hne : ((fenceAsked s false false n).unfenced.filter fun c => !([n].contains c)).isEmpty = false := by
    obtain ⟨c, hc, hcn⟩ := hc
    rw [List.isEmpty_eq_false_iff_exists_mem]
    exact ⟨c, List.mem_filter.2 ⟨hc, by simpa using hcn⟩⟩
  have hs : (if ((fenceAsked s false false n).fence n 0).survivor (n / 2) then 2 * (n / 2) + 1 else n) = n := by
    rw [(keeps_fence _ n 0).survivor, State.survivor, fenceMarked_twinCfg, fenceAsked_twinCfg, ht, Bool.false_and]
    exact if_neg Bool.false_ne_true
  obtain ⟨h1, h2, h3, h4⟩ := fenceAny_fences (fenceAsked s false false n) 0 hn hs
  rw [fenceReq_goes hoff hne ((fenceAsked_fencedCore s _ _ _ _).trans hf)]
  refine ⟨fld_setFld_same _ .fenceReq F.fenceReq.STATUS 0 (by decide), ?_, h2, ?_, h4⟩
  · rw [fencedCore_setFld _ _ _ _ (by simp)]; exact h1
  · exact (fld_setFld_other _ _ _ _ (by simp)).trans h3

/-! ### A handover (R439) -/

theorem handover_effects (s : State) {k : Nat} (hk : k < 256) (h : s.twin (k / 2) = true) :
    let u := (s.fenceAny k 0).drain (2 * (k / 2))
    u.fencedCore k = true ∧ (false, k) ∈ u.log.fences ∧ (u.ucore (2 * (k / 2))).mbuf = [] ∧
      (u.core (2 * (k / 2) + 1)).run = .held ∧ u.dstate (2 * (k / 2) + 1) = 0 := by
  have hs : (if (s.fence k 0).survivor (k / 2) then 2 * (k / 2) + 1 else k) = 2 * (k / 2) + 1 := by
    have h2 : k = 2 * (k / 2) ∨ k = 2 * (k / 2) + 1 := by omega
    simp only [State.twin, Bool.and_eq_true, Bool.not_eq_true'] at h
    obtain ⟨⟨ht, h0⟩, h1⟩ := h
    rw [(keeps_fence s k 0).survivor, State.survivor, fenceMarked_twinCfg, ht, fencedCore_fenceMarked s hk (by omega),
      fencedCore_fenceMarked s hk (by omega), h0, h1]
    refine if_pos ?_
    rcases h2 with e | e
    · rw [decide_eq_true e.symm, decide_eq_false (by omega)]; rfl
    · rw [decide_eq_false (by omega), decide_eq_true e.symm]; rfl
  obtain ⟨h1, h2, h3, h4⟩ := fenceAny_fences s 0 hk hs
  have hd := keeps_drain (s.fenceAny k 0) (2 * (k / 2))
  exact ⟨(hd.fencedCore _).trans h1, hd.fences ▸ h2, drain_mbuf _ _, hd.held _ h4, (hd.dstate _).trans h3⟩

/-! ### The error log (R448-R450) -/

theorem seal_short {l : LogState} (now : DWord) (h : l.count < logSlots) : l.seal now = l := if_pos h

theorem logEntryWrite_next (s : State) {e : LogEntry} {l : List LogEntry} (h : s.log.queue = e :: l)
    (hc : s.log.count + 1 < logSlots) : exec .logEntryWrite s =
      .next { s with log := { s.log with queue := l, entries := s.log.entries ++ [{ e with num := s.log.next }]
                                         next := s.log.next + 1, count := s.log.count + 1 } } := by
  show Host.Outcome.next (s.logWrite) = _
  unfold State.logWrite
  simp only [h]
  rw [seal_short _ hc]
  rfl

theorem logEntryWrite_idle (s : State) (h : s.log.queue = []) (hl : s.log.lost = 0) : exec .logEntryWrite s = .next s := by
  show Host.Outcome.next (s.logWrite) = _
  unfold State.logWrite
  simp only [h, hl, if_true]

theorem logEntryWrite_lost (s : State) (h : s.log.queue = []) (hl : s.log.lost ≠ 0) (hc : s.log.count + 1 < logSlots) :
    Answers (exec .logEntryWrite s) fun t =>
      t.log.lost = 0 ∧ t.log.entries = s.log.entries ++ [⟨s.log.next, 0x000B, 0, false, s.now, [dw s.log.lost]⟩] := by
  refine ⟨_, rfl, ?_⟩
  unfold State.logWrite
  simp only [h, if_neg hl]
  rw [seal_short _ hc]
  exact ⟨rfl, rfl⟩

theorem toLog_csr (s : State) (typ sev : Nat) (tr : Bool) (l : List DWord) : (s.toLog typ sev tr l).csr = s.csr := by
  unfold State.toLog
  split <;> rfl

theorem summarise_frame (s : State) (b n : Nat) (l : List DWord) : (s.summarise b n l).csr = s.csr ∧ (s.summarise b n l).m = s.m := by
  induction n generalizing s l with
  | zero => exact ⟨rfl, rfl⟩
  | succ n ih =>
    rw [State.summarise]
    split
    · exact ⟨rfl, rfl⟩
    · exact ⟨(ih _ _).1.trans (toLog_csr _ _ _ _ _), (ih _ _).2.trans (toLog_m _ _ _ _ _)⟩

theorem correctedSummary_same (s : State) (b : Fin 161) (h : s.ras.summed.getD b.val 0 = s.fld (.ebCnt b) F.ebCnt.CORR) :
    exec (.correctedSummary b) s = .next s := congrArg Host.Outcome.next (if_pos h)

theorem correctedSummary_effects (s : State) (b : Fin 161) : Answers (exec (.correctedSummary b) s) fun t =>
    t.ras.summed.getD b.val 0 = s.fld (.ebCnt b) F.ebCnt.CORR ∧ t.csr = s.csr ∧ t.m = s.m := by
  by_cases h : s.ras.summed.getD b.val 0 = s.fld (.ebCnt b) F.ebCnt.CORR
  · exact ⟨s, correctedSummary_same s b h, h, rfl, rfl⟩
  · have hs := summarise_frame s b.val 256 (s.classWords b.val)
    exact ⟨_, congrArg Host.Outcome.next (if_neg h), getD_set_same _ _ _ _, hs.1, hs.2⟩

/-! ### Register writes (R469) -/

section Write
variable {s : State} (q : Req) {off : BitVec 28} (v : BitVec 64) (ho : off.toNat % 8 = 0)
include ho

theorem ccsWrite_served {r : Reg} (hr : slotAt off.toNat = .at_ r) (hs : Served q r s) :
    (s.ccsWrite q off.toNat 8 v).2 = (s.wake (regDom r)).writeCcs q r (BitVec.allOnes 64) v := by
  have hl : lowOnly r (lanes true false) = false := rfl
  unfold State.ccsWrite
  simp [ho, hr, regErr_served hs, hl]
  rfl

theorem registerWrite_refused {r : Reg} {x : Nat} (hr : slotAt off.toNat = .at_ r) (hx : s.regErr q r = some x) :
    exec (.registerWrite q off true v) s =
      .next (if x = 0x02 then s.noAgent (regStop r) (regPort r) 0x05 none else s) := by
  show Host.Outcome.next (s.ccsWrite q off.toNat 8 v).2 = _
  unfold State.ccsWrite
  simp [ho, hr, hx, State.ccsRefused, State.regRefused]

theorem registerWrite_hole (hr : slotAt off.toNat = .none_) : exec (.registerWrite q off true v) s =
    .next (s.noAgent stwStop 3 0x05 (some (0, 0x10000000 + off.toNat))) := by
  show Host.Outcome.next (s.ccsWrite q off.toNat 8 v).2 = _
  unfold State.ccsWrite
  simp [ho, hr, State.ccsHole]

theorem registerWrite_empty (hr : slotAt off.toNat = .empty) : exec (.registerWrite q off true v) s = .next s := by
  show Host.Outcome.next (s.ccsWrite q off.toNat 8 v).2 = _
  unfold State.ccsWrite
  simp [ho, hr]

end Write

/-- Registers that a write enters as their field table says, with no further effect. -/
def plainRegs : List Reg :=
  [.tmoRd, .tmoWr, .tmoAtom, .tmoQ, .tmoDev, .tmoSnp, .ageCtl, .wakeLimit, .therm, .droop, .hyst, .fatalctl, .l3Thresh, .l2Thresh]

theorem plainRegs_not_moved : ∀ r ∈ plainRegs, moved r = false := by decide

theorem writeCcs_plain (s : State) (q : Req) {r : Reg} (mask v : DWord)
    (h : r ∈ plainRegs) : s.writeCcs q r mask v = s.writeReg r q.world mask v := by
  simp only [plainRegs, List.mem_cons, List.not_mem_nil, or_false] at h
  rcases h with rfl | rfl | rfl | rfl | rfl | rfl | rfl | rfl | rfl | rfl | rfl | rfl | rfl | rfl <;> rfl

theorem registerWrite_plain {s : State} (q : Req) {off : BitVec 28} (v : BitVec 64) (ho : off.toNat % 8 = 0) {r : Reg}
    (hr : slotAt off.toNat = .at_ r) (hs : Served q r s)
    (h : r ∈ plainRegs) :
    exec (.registerWrite q off true v) s = .next ((s.wake (regDom r)).setReg r
      (writeFields r.fields q.world (BitVec.allOnes 64) (s.reg r) v)) := by
  have hw : (s.wake (regDom r)).reg r = s.reg r := (keeps_wake s _).reg r (plainRegs_not_moved r h)
  show Host.Outcome.next (s.ccsWrite q off.toNat 8 v).2 = _
  rw [ccsWrite_served q v ho hr hs, writeCcs_plain _ q _ v h, State.writeReg, hw]

/-! ### The statement -/

/-- Settles O60: the monitors, tests, fences and the log each by their own lemmas above; what a fence's record, notice and
drained stores leave alone is `Keeps`. -/
theorem reliabilityCommands : Obligations.ReliabilityCommands := by
  unfold Obligations.ReliabilityCommands
  intro s
  refine ⟨fun e i c => ⟨fun hc => ?_, fun ht ha hc h => ?_, ?_⟩, thermalStep_effects s,
    fun cl => ⟨droopEvent_effects s cl, droopRecovery_effects s cl⟩, droopWindowEnd_effects s, fun _ _ => rfl,
    fun q tile part hs => ⟨iftGo_normal s tile part hs, fun hw hp hi => ⟨fun ht => ?_, fun ht he => ?_, fun ht he => ?_⟩⟩,
    iftAutoTest_off s, fun t => iftAutoTest_runs s, fun t part f0 f1 fu => iftComplete_effects s f0 f1 fu,
    fun q tk un i hs => ⟨fenceRequest_normal s tk un i hs, fun hw => ⟨?_, ?_, ?_, ?_⟩⟩, fun c ht => ?_,
    fun e l => logEntryWrite_next s, fun h => ⟨logEntryWrite_idle s h, logEntryWrite_lost s h⟩, correctedSummary_same s,
    correctedSummary_effects s, fun q off v ho => ⟨fun r hr hs h => registerWrite_plain q v ho hr hs h,
      fun r x => registerWrite_refused q v ho, registerWrite_hole q v ho, registerWrite_empty q v ho⟩⟩
  case refine_1 =>
    obtain ⟨hpin, hreg, hrun, hentry, hwaking, hfatal, hread, hm⟩ := thermTrip_effects (sampled s e i.toNat c.toInt)
    exact ⟨_, congrArg Host.Outcome.next (thermalSample_trips s e _ _ hc), hpin, hreg, hrun, hentry, hwaking, hfatal, hread, hm⟩
  case refine_2 => exact ⟨_, rfl, thermalSample_below s e _ _ ht ha hc h⟩
  case refine_3 =>
    rintro cl rfl ht ha hc h hcl
    exact ⟨_, rfl, thermalSample_throttles s _ _ ht ha hc h hcl⟩
  case refine_4 =>
    rw [iftGo_trusted s tile hs hw hp,
      iftStart_fenced ((iftAsked_ift s tile part).trans hi) ((iftAsked_fencedTile s tile part _).trans ht)]
    rfl
  case refine_5 =>
    rw [iftGo_trusted s tile hs hw hp,
      iftStart_refused ((iftAsked_ift s tile part).trans hi) ((iftAsked_fencedTile s tile part _).trans ht) he]
    rfl
  case refine_6 =>
    exact ⟨_, iftGo_trusted s tile hs hw hp,
      iftStart_runs ((iftAsked_ift s tile part).trans hi) ((iftAsked_fencedTile s tile part _).trans ht) he⟩
  case refine_7 =>
    rintro rfl hn
    rw [fenceRequest_trusted s _ _ _ hs hw, fenceReq_noTile s un hn]
    rfl
  case refine_8 =>
    rintro rfl rfl
    rw [fenceRequest_trusted s _ _ _ hs hw, fenceReq_unfence]
    rfl
  case refine_9 =>
    rintro rfl rfl hoff
    rw [fenceRequest_trusted s _ _ _ hs hw, fenceReq_core]
    exact congrArg Host.Outcome.next (if_pos hoff)
  case refine_10 =>
    rintro rfl rfl hoff hf hc ht
    exact ⟨_, fenceRequest_trusted s _ _ _ hs hw, fenceReq_fences s i.isLt hoff hf hc ht⟩
  case refine_11 =>
    exact ⟨_, congrArg Host.Outcome.next (if_pos ht), handover_effects s c.isLt ht⟩

end Sys2Proof.Proofs
end

section
/-! PROOFS. The phases of start-up: the boot status register, recovery (R50), failed banks (R36, R49), and phases 1 to 6 and 9. -/

namespace Sys2Proof.Proofs
open Sys2Proof.Machine Sys2Proof.Laws

/-! ### Folds -/

/-- What each step establishes for its own element and later steps keep holds of every element in the end. -/
theorem foldl_establishes {α β : Type} {f : β → α → β} {P : α → β → Prop} (hset : ∀ s a, P a (f s a))
    (hkeep : ∀ s a b, P b s → P b (f s a)) {l : List α} {a : α} (h : a ∈ l) (s : β) : P a (l.foldl f s) := by
  induction l generalizing s with
  | nil => cases h
  | cons b l ih =>
    rw [List.foldl_cons]
    rcases List.mem_cons.1 h with rfl | h
    · exact List.foldlRecOn (motive := P a) l f (hset s a) fun t ht b _ => hkeep t b a ht
    · exact ih h _

/-! ### The boot status register -/

theorem phase_setPhase (s : State) {n : Nat} (h : n < 16) : (s.setPhase n).phase = n :=
  (fld_setFld_same s .stwBootstat F.stwBootstat.PHASE n (by decide)).trans (Nat.mod_eq_of_lt h)

/-- A field of the register above PHASE. -/
theorem phase_bstat (s : State) (p : Place) (v : Nat) (h : 3 < p.2 ∧ p.2 ≤ p.1) : (s.bstat p v).phase = s.phase :=
  fld_setFld_place s _ p F.stwBootstat.PHASE v ⟨h.2, by decide, .inr h.1⟩

theorem fld_setPhase (s : State) (n : Nat) (q : Place) (h : 3 < q.2 ∧ q.2 ≤ q.1) :
    (s.setPhase n).fld .stwBootstat q = s.fld .stwBootstat q :=
  fld_setFld_place s _ F.stwBootstat.PHASE q n ⟨by decide, h.2, .inl h.1⟩

theorem reg_setPhase (s : State) (n : Nat) {r : Reg} (h : r ≠ .stwBootstat) : (s.setPhase n).reg r = s.reg r :=
  reg_setFld_other s _ _ h

theorem phase_of_inPhase {s : State} {n : Nat} (h : s.inPhase n = true) : s.phase = n := by
  simp only [State.inPhase, Bool.and_eq_true, beq_iff_eq] at h
  exact h.1.1.1.1.1.2

/-- The phase, memory and the cores stay, and no register moves but those of links. -/
structure KeepsBoot (s t : State) : Prop where
  bstat : t.reg .stwBootstat = s.reg .stwBootstat
  cores : t.cores = s.cores
  m : t.m = s.m

theorem KeepsBoot.trans {s t u : State} (h : KeepsBoot s t) (h' : KeepsBoot t u) : KeepsBoot s u :=
  ⟨h'.bstat.trans h.bstat, h'.cores.trans h.cores, h'.m.trans h.m⟩

theorem keepsBoot_setFld (s : State) {r : Reg} (p : Place) (v : Nat) (h : .stwBootstat ≠ r) : KeepsBoot s (s.setFld r p v) :=
  ⟨reg_setFld_other s p v h, rfl, rfl⟩

theorem keepsBoot_onRp (s : State) (p r : Nat) (f : RootPort → RootPort) : KeepsBoot s (s.onRp p r f) := ⟨rfl, rfl, rfl⟩

/-! ### Recovery (R50) -/

/-- One root port of the 32 down. -/
def linkDown (s : State) (i : Nat) : State :=
  let r := rClasp (i / 4) (i % 4)
  if s.flag r F.clasp.LINKUP then (s.onRp (i / 4) (i % 4) fun k => { k with link := .down }).setFld r F.clasp.LINKUP 0
  else s

theorem keepsBoot_linkDown (s : State) (i : Nat) : KeepsBoot s (linkDown s i) := by
  unfold linkDown
  extract_lets r
  split
  · exact (keepsBoot_onRp s _ _ _).trans (keepsBoot_setFld (r := r) _ _ _ (by simp [r]))
  · exact ⟨rfl, rfl, rfl⟩

theorem flag_setFld_zero (s : State) (r : Reg) (n : Nat) (h : n < 64) : (s.setFld r (n, n) 0).flag r (n, n) = false :=
  flag_setFld_b2n s r n false h

theorem flag_setFld_other (s : State) {r q : Reg} (p f : Place) (v : Nat) (h : q ≠ r) :
    (s.setFld r p v).flag q f = s.flag q f := by rw [State.flag, fld_setFld_other s p f v h, State.flag]

theorem linkDown_same (s : State) (i : Nat) : (linkDown s i).flag (rClasp (i / 4) (i % 4)) F.clasp.LINKUP = false := by
  unfold linkDown
  extract_lets r
  split
  · exact flag_setFld_zero _ r 30 (by decide)
  · next h => exact Bool.eq_false_iff.2 h

theorem linkDown_keeps (s : State) (i : Nat) {q : Reg} (h : s.flag q F.clasp.LINKUP = false) :
    (linkDown s i).flag q F.clasp.LINKUP = false := by
  by_cases e : q = rClasp (i / 4) (i % 4)
  · rw [e]; exact linkDown_same s i
  · unfold linkDown
    extract_lets r
    split
    · rw [flag_setFld_other _ _ _ _ e]; exact h
    · exact h

/-- The links of endpoint ports down. -/
def hostsDown (s : State) : State :=
  [0, 4].foldl (fun s p =>
    let r := Reg.epStat (ix 8 p)
    if s.flag r F.epStat.LINKUP then s.setFld r F.epStat.LINKUP 0 else s) s

theorem portsDown_eq (s : State) : s.portsDown = (hostsDown ((List.range 32).foldl linkDown s)).onBoot fun b =>
    { b with pins := { b.pins with perstHigh := [] } } := rfl

theorem hostsDown_frame (s : State) : KeepsBoot s (hostsDown s) ∧ ∀ p r, (hostsDown s).reg (.clasp p r) = s.reg (.clasp p r) := by
  refine List.foldlRecOn (motive := fun t : State => KeepsBoot s t ∧ ∀ p r, t.reg (.clasp p r) = s.reg (.clasp p r)) _ _
    ⟨⟨rfl, rfl, rfl⟩, fun _ _ => rfl⟩ fun t ht p _ => ?_
  dsimp only
  split
  · exact ⟨ht.1.trans (keepsBoot_setFld (r := .epStat (ix 8 p)) t _ _ (by simp)),
      fun p r => (reg_setFld_other _ _ _ (by simp)).trans (ht.2 p r)⟩
  · exact ht

theorem portsDown_frame (s : State) : KeepsBoot s s.portsDown := by
  have hl : KeepsBoot s ((List.range 32).foldl linkDown s) :=
    List.foldlRecOn (motive := KeepsBoot s) _ _ ⟨rfl, rfl, rfl⟩ fun t ht i _ => ht.trans (keepsBoot_linkDown t i)
  have h := hl.trans (hostsDown_frame _).1
  rw [portsDown_eq]
  generalize hostsDown _ = u at h ⊢
  exact ⟨h.bstat, h.cores, h.m⟩

theorem portsDown_linkup (s : State) (p : Fin 8) (r : Fin 4) : s.portsDown.flag (.clasp p r) F.clasp.LINKUP = false := by
  have hi : 4 * p.val + r.val ∈ List.range 32 := List.mem_range.2 (by omega)
  have h := foldl_establishes (f := linkDown)
    (P := fun i (t : State) => t.flag (rClasp (i / 4) (i % 4)) F.clasp.LINKUP = false) linkDown_same
    (fun t i j hj => linkDown_keeps t i hj) hi s
  have hp : ix 8 ((4 * p.val + r.val) / 4) = p := Fin.ext (by simp only [ix, Fin.ofNat]; omega)
  have hr : ix 4 ((4 * p.val + r.val) % 4) = r := Fin.ext (by simp only [ix, Fin.ofNat]; omega)
  have hk := (hostsDown_frame ((List.range 32).foldl linkDown s)).2 p r
  rw [rClasp, hp, hr] at h
  rw [portsDown_eq]
  generalize hostsDown _ = u at hk ⊢
  rw [State.flag, State.fld] at h ⊢
  exact (congrArg (fun w => getF w F.clasp.LINKUP == 1) hk).trans h

/-- What recovery for a cause leaves behind. -/
theorem recover_effects (s : State) {cause : Nat} (hc : cause < 256) :
    (s.recover cause).flag .stwBootstat F.stwBootstat.RCVR = true ∧
      (s.recover cause).fld .stwBootstat F.stwBootstat.CAUSE = cause ∧ (s.recover cause).phase = s.phase ∧
      (∀ p r, (s.recover cause).flag (.clasp p r) F.clasp.LINKUP = false) ∧ (s.recover cause).cores = s.cores ∧
      (s.recover cause).m = s.m := by
  have hd := portsDown_frame s
  have hl := portsDown_linkup s
  unfold State.recover
  generalize s.portsDown = u at hd hl ⊢
  refine ⟨?_, ?_, ?_, fun p r => ?_, hd.cores, hd.m⟩
  · rw [State.flag, State.bstat, State.bstat, fld_setFld_place _ _ _ _ _ (by decide), fld_setFld_same _ _ _ _ (by decide)]
    rfl
  · exact (fld_setFld_same _ .stwBootstat F.stwBootstat.CAUSE cause (by decide)).trans (Nat.mod_eq_of_lt hc)
  · rw [phase_bstat _ _ _ (by decide), phase_bstat _ _ _ (by decide)]
    exact congrArg (getF · F.stwBootstat.PHASE) hd.bstat
  · rw [State.bstat, State.bstat, flag_setFld_other _ _ _ _ (by simp), flag_setFld_other _ _ _ _ (by simp)]
    exact hl p r

/-! ### A bank that fails (R36, R49) -/

theorem toLog_boot (s : State) (typ sev : Nat) (tr : Bool) (l : List DWord) : (s.toLog typ sev tr l).boot = s.boot :=
  (keeps_toLog s typ sev tr l).boot

theorem copyRecords_boot (s : State) : s.copyRecords.boot = s.boot := by
  refine List.foldlRecOn (motive := fun t : State => t.boot = s.boot) _ _ rfl fun t ht p _ => ?_
  split
  · split
    · exact (toLog_boot _ _ _ _ _).trans ht
    · exact ht
  · exact ht

theorem logWrite_boot (s : State) : s.logWrite.boot = s.boot := by
  unfold State.logWrite
  extract_lets l
  split
  · split <;> rfl
  · rfl

theorem logFlush_boot (s : State) : s.logFlush.boot = s.boot :=
  List.foldlRecOn (motive := fun t : State => t.boot = s.boot) _ _ rfl fun t ht _ _ => (logWrite_boot t).trans ht

theorem discard_boot (s : State) (line : Nat) : (s.discard line).boot = s.boot := by
  unfold State.discard
  split <;> rfl

theorem memCold_boot (s : State) : s.memCold.boot = s.boot :=
  List.foldlRecOn (motive := fun t : State => t.boot = s.boot) _ _ rfl fun t ht _ _ => (discard_boot t _).trans ht

theorem dropUpdate_failed (s : State) :
    s.dropUpdate.boot.cfgFailed = s.boot.cfgFailed ∧ s.dropUpdate.boot.fwFailed = s.boot.fwFailed := by
  unfold State.dropUpdate
  split <;> exact ⟨rfl, rfl⟩

theorem resetAll_cold (s : State) : (s.resetAll .cold).cores = [] ∧ (s.resetAll .cold).boot.resetting = some .cold ∧
    (s.resetAll .cold).boot.cfgFailed = s.boot.cfgFailed ∧ (s.resetAll .cold).boot.fwFailed = s.boot.fwFailed := by
  have hm := memCold_boot s.dropUpdate
  obtain ⟨hc, hf⟩ := dropUpdate_failed s
  exact ⟨rfl, rfl, (congrArg BootState.cfgFailed hm).trans hc, (congrArg BootState.fwFailed hm).trans hf⟩

/-- A cold reset goes back to phase 3 with no core left, and remembers which banks failed. -/
theorem coldReset_effects (s : State) (cause : Nat) : (s.coldReset cause).phase = 3 ∧
    (s.coldReset cause).boot.resetting = some .cold ∧ (s.coldReset cause).cores = [] ∧
    (s.coldReset cause).boot.cfgFailed = s.boot.cfgFailed ∧ (s.coldReset cause).boot.fwFailed = s.boot.fwFailed := by
  unfold State.coldReset
  extract_lets s1 s2 keep w
  have hb : s1.boot = s.boot := (logFlush_boot _).trans ((copyRecords_boot _).trans (toLog_boot _ _ _ _ _))
  obtain ⟨hk, hr, hc, hf⟩ := resetAll_cold s1
  rw [hb] at hc hf
  change s2.cores = [] at hk
  change s2.boot.resetting = _ at hr
  change s2.boot.cfgFailed = _ at hc
  change s2.boot.fwFailed = _ at hf
  clear_value s2 w
  exact ⟨phase_setPhase _ (by decide), hr, hk, hc, hf⟩

theorem bankFailed_cfg (s : State) (b : Bool) : (s.bankFailed .cfg b).phase = 3 ∧
    (s.bankFailed .cfg b).boot.resetting = some .cold ∧
    (if b then (s.bankFailed .cfg b).boot.cfgFailed.2 else (s.bankFailed .cfg b).boot.cfgFailed.1) = true ∧
    (s.bankFailed .cfg b).cores = [] := by
  unfold State.bankFailed
  extract_lets mark s1
  obtain ⟨hp, hr, hk, hc, -⟩ := coldReset_effects (s1.toLog 0x0005 2 false
    [dw (if Img.cfg = .cfg then 0 else 1), dw (b2n b)]) 3
  refine ⟨hp, hr, ?_, hk⟩
  rw [hc, toLog_boot]
  cases b <;> rfl

theorem bankFailed_fw (s : State) (b : Bool) : (s.bankFailed .fw b).phase = 3 ∧
    (s.bankFailed .fw b).boot.resetting = some .cold ∧
    (if b then (s.bankFailed .fw b).boot.fwFailed.2 else (s.bankFailed .fw b).boot.fwFailed.1) = true ∧
    (s.bankFailed .fw b).cores = [] := by
  unfold State.bankFailed
  extract_lets mark s1
  obtain ⟨hp, hr, hk, -, hf⟩ := coldReset_effects (s1.toLog 0x0005 2 false
    [dw (if Img.fw = .cfg then 0 else 1), dw (b2n b)]) 3
  refine ⟨hp, hr, ?_, hk⟩
  rw [hf, toLog_boot]
  cases b <;> rfl

/-! ### Phases 1 to 3 -/

theorem pwrokRise_effects (s : State) (lo hi : Bool) (h : s.boot.pins.pwrok = false) :
    Answers (exec (.pwrokRise lo hi) s) fun t =>
      t.boot.pins.pwrok = true ∧ t.phase = 1 ∧ t.boot.resetting = some .powerOn ∧
      t.flag .stwBootstat F.stwBootstat.STRAP_TEST = hi ∧ t.flag .stwBootstat F.stwBootstat.STRAP_RCVR = !lo ∧
      t.log.powerOns = s.log.powerOns + 1 ∧ (∀ r, r ≠ .stwBootstat → t.reg r = s.reg r) ∧
      t = { s with boot := { s.boot with pins := { s.boot.pins with pwrok := true }, resetting := some .powerOn }
                   log := { s.log with powerOns := s.log.powerOns + 1 }, csr := t.csr } := by
  refine ⟨_, congrArg Host.Outcome.next (if_neg (by simp [h])), rfl, phase_setPhase _ (by decide), rfl, ?_, ?_, rfl,
    fun r hr => (reg_setPhase _ _ hr).trans (reg_setReg_other _ _ hr), rfl⟩
  · rw [State.flag, fld_setPhase _ _ _ (by decide), State.fld, reg_setReg, if_pos rfl, getF_setF_other _ _ _ _ (by decide),
      getF_setF_same _ _ _ (by decide)]
    cases hi <;> rfl
  · rw [State.flag, fld_setPhase _ _ _ (by decide), State.fld, reg_setReg, if_pos rfl, getF_setF_same _ _ _ (by decide)]
    cases lo <;> rfl

theorem fuseLoad_effects (s : State) (h : s.inPhase 1 = true) : Answers (exec .fuseLoad s) fun t =>
    t.phase = 2 ∧ t.reg .stwDevid = (if s.boot.fuses.engineering then 0x92561021 else 0x92561010) ∧
    (∀ r, r ≠ .stwDevid → r ≠ .stwBootstat → t.reg r = s.reg r) ∧ t = { s with csr := t.csr } := by
  refine ⟨_, congrArg Host.Outcome.next (if_pos h), phase_setPhase _ (by decide), ?_,
    fun r hd hb => (reg_setPhase _ _ hb).trans (reg_setReg_other _ _ hd), rfl⟩
  rw [reg_setPhase _ _ (by simp), reg_setReg, if_pos rfl, State.devid, BootState.devid]
  split <;> rfl

theorem flashDiscovery_effects (s : State) (o : Bool) (h : s.inPhase 2 = true) : Answers (exec (.flashDiscovery o) s) fun t =>
    t.phase = 3 ∧ (∀ r, r ≠ .stwBootstat → t.reg r = s.reg r) ∧
    t = { s with boot := { s.boot with octal := o }, csr := t.csr } :=
  ⟨_, congrArg Host.Outcome.next (if_pos h), phase_setPhase _ (by decide), fun _ hr => reg_setPhase _ _ hr, rfl⟩

section Select
variable {s : State} (h : s.inPhase 3 = true)
include h

theorem imageSelection_test (ht : s.boot.resetting = some .powerOn ∧ s.flag .stwBootstat F.stwBootstat.STRAP_TEST = true) :
    exec .imageSelection s = .next (s.recover 4) :=
  congrArg Host.Outcome.next ((if_neg (by simp [h])).trans (if_pos ht))

variable (ht : ¬(s.boot.resetting = some .powerOn ∧ s.flag .stwBootstat F.stwBootstat.STRAP_TEST = true))
include ht

theorem imageSelection_strap (hs : s.boot.resetting = some .powerOn ∧ s.flag .stwBootstat F.stwBootstat.STRAP_RCVR = false) :
    exec .imageSelection s = .next (s.recover 3) :=
  congrArg Host.Outcome.next ((if_neg (by simp [h])).trans ((if_neg ht).trans (if_pos (by simpa using hs))))

variable (hs : ¬(s.boot.resetting = some .powerOn ∧ s.flag .stwBootstat F.stwBootstat.STRAP_RCVR = false))
include hs

theorem imageSelection_none (hb : s.pickBank .cfg (s.bankOk .cfg) = none) : exec .imageSelection s = .next (s.recover 1) := by
  refine congrArg Host.Outcome.next ((if_neg (by simp [h])).trans ((if_neg ht).trans ((if_neg (by simpa using hs)).trans ?_)))
  rw [hb]

theorem imageSelection_bank {b : Bool} (hb : s.pickBank .cfg (s.bankOk .cfg) = some b) :
    Answers (exec .imageSelection s) fun t => t.phase = 4 ∧ t.boot.cfgSel = b ∧
      t.flag .stwBootstat F.stwBootstat.CFG_BANK = b ∧ t = { s with boot := { s.boot with cfgSel := b }, csr := t.csr } := by
  let u := s.unknownRecs b
  let s1 := ((s.bstat F.stwBootstat.CFG_BANK (b2n b)).bstat F.stwBootstat.UNK_TYPE (u.getLast?.getD 0)).bstat
    F.stwBootstat.UNK_COUNT (min u.length 255)
  refine ⟨(s1.onBoot fun x => { x with cfgSel := b }).setPhase 4, ?_, phase_setPhase _ (by decide), rfl, ?_, rfl⟩
  · refine congrArg Host.Outcome.next ((if_neg (by simp [h])).trans ((if_neg ht).trans ((if_neg (by simpa using hs)).trans ?_)))
    rw [hb]
  · rw [State.flag, fld_setPhase _ _ _ (by decide)]
    show (s1.fld _ _ == 1) = b
    simp only [s1, State.bstat]
    rw [fld_setFld_place _ _ _ _ _ (by decide), fld_setFld_place _ _ _ _ _ (by decide), fld_setFld_same _ _ _ _ (by decide)]
    cases b <;> rfl

end Select

/-! ### Phases 4 to 6 -/

theorem applyFences_frame (s : State) : s.applyFences.boot = s.boot ∧ s.applyFences.ras = s.ras := by
  unfold State.applyFences
  extract_lets l _ s1 s2 s3
  have h2 : s2.boot = s1.boot ∧ s2.ras = s1.ras :=
    List.foldlRecOn (motive := fun t : State => t.boot = s1.boot ∧ t.ras = s1.ras) _ _ ⟨rfl, rfl⟩ fun _ h _ _ => h
  have h3 : s3.boot = s1.boot ∧ s3.ras = s1.ras :=
    List.foldlRecOn (motive := fun t : State => t.boot = s1.boot ∧ t.ras = s1.ras) _ _ h2 fun _ h _ _ => h
  exact List.foldlRecOn (motive := fun t : State => t.boot = s.boot ∧ t.ras = s.ras) _ _ h3 fun _ h _ _ => h

theorem domainsOn_frame (s : State) : s.domainsOn.boot = s.boot ∧ s.domainsOn.ras = s.ras := by
  refine List.foldlRecOn (motive := fun t : State => t.boot = s.boot ∧ t.ras = s.ras) _ _ ⟨rfl, rfl⟩ fun t h n _ => ?_
  split
  · exact h
  · exact h

theorem compareRings_frame (s : State) : s.compareRings.boot = s.boot ∧ s.compareRings.ras.pkg = s.ras.pkg := by
  unfold State.compareRings
  refine List.foldlRecOn (motive := fun t : State => t.boot = s.boot ∧ t.ras.pkg = s.ras.pkg) _ _ ⟨rfl, rfl⟩ fun t h n _ => ?_
  split
  · exact h
  · extract_lets z _ t1
    have h1 : t1.boot = s.boot ∧ t1.ras.pkg = s.ras.pkg := by
      simp only [t1]
      split
      · have hk := keeps_logErr { t with ras := { t.ras with slow := t.ras.slow ++ [n] } } { bank := 160, cls := 0x52, sev := 0, src := n }
        exact ⟨hk.boot.trans h.1, (congrArg RasState.pkg hk.ras).trans h.2⟩
      · exact h
    split
    · exact h1
    · exact h1

theorem applyImage_effects (s : State) :
    s.applyImage.boot.cfg = s.cfgOf s.boot.cfgSel ∧ s.applyImage.ras.pkg = (s.cfgOf s.boot.cfgSel).power := by
  unfold State.applyImage
  extract_lets b a c s1 _ s2 s3 s4
  have h4 : s4.boot = s3.boot ∧ s4.ras = s3.ras :=
    List.foldlRecOn (motive := fun t : State => t.boot = s3.boot ∧ t.ras = s3.ras) _ _ ⟨rfl, rfl⟩ fun _ h _ _ => h
  have hf := applyFences_frame s4
  have hd := domainsOn_frame s4.applyFences
  have hr := compareRings_frame s4.applyFences.domainsOn
  refine ⟨congrArg BootState.cfg (hr.1.trans (hd.1.trans (hf.1.trans h4.1))), ?_⟩
  exact hr.2.trans (congrArg RasState.pkg (hd.2.trans (hf.2.trans h4.2)))

theorem imageApply_applied (s : State) (h : s.inPhase 4 = true) : Answers (exec (.imageApply true) s) fun t =>
    t = s.applyImage.setPhase 5 ∧ t.phase = 5 ∧ t.boot.cfg = s.cfgOf s.boot.cfgSel ∧
      t.ras.pkg = (s.cfgOf s.boot.cfgSel).power := by
  have ha := applyImage_effects s
  refine ⟨_, congrArg Host.Outcome.next ((if_neg (by simp [h])).trans (if_pos rfl)), rfl, ?_⟩
  generalize s.applyImage = u at ha ⊢
  exact ⟨phase_setPhase _ (by decide), ha⟩

theorem imageApply_failed (s : State) (h : s.inPhase 4 = true) :
    exec (.imageApply false) s = .next (s.bankFailed .cfg s.boot.cfgSel) :=
  congrArg Host.Outcome.next ((if_neg (by simp [h])).trans (if_neg Bool.false_ne_true))

theorem firmwareSelection_none (s : State) (h : s.inPhase 5 = true) (hb : s.pickBank .fw (s.bankOk .fw) = none) :
    exec .firmwareSelection s = .next (s.recover 2) := by
  refine congrArg Host.Outcome.next ((if_neg (by simp [h])).trans ?_)
  rw [hb]

/-- The firmware bank of phase 5 entered, before the runtime is verified. -/
def firmwareChosen (s : State) (b : Bool) : State :=
  (s.bstat F.stwBootstat.FW_BANK (b2n b)).onBoot fun x => { x with
    fwSel := b, fwSvn := s.flashNat (Img.fw.base b + 0x12) 2, fwSlot := s.flashNat (Img.fw.base b + 6) 1 }

theorem firmwareSelection_bank (s : State) (h : s.inPhase 5 = true) {b : Bool} (hb : s.pickBank .fw (s.bankOk .fw) = some b) :
    exec .firmwareSelection s =
      .next (if s.componentOk b 0x8101 then (firmwareChosen s b).setPhase 6 else (firmwareChosen s b).bankFailed .fw b) := by
  refine congrArg Host.Outcome.next ((if_neg (by simp [h])).trans ?_)
  rw [hb]
  rfl

theorem firmwareSelection_ok (s : State) (h : s.inPhase 5 = true) {b : Bool} (hb : s.pickBank .fw (s.bankOk .fw) = some b)
    (hc : s.componentOk b 0x8101 = true) : Answers (exec .firmwareSelection s) fun t =>
      t.phase = 6 ∧ t.boot.fwSel = b ∧ t.flag .stwBootstat F.stwBootstat.FW_BANK = b ∧ t.m = s.m ∧ t.cores = s.cores := by
  refine ⟨_, (firmwareSelection_bank s h hb).trans (congrArg Host.Outcome.next (if_pos hc)), phase_setPhase _ (by decide), rfl,
    ?_, rfl, rfl⟩
  rw [State.flag, fld_setPhase _ _ _ (by decide)]
  exact flag_setFld_b2n s .stwBootstat 33 b (by decide)

theorem secStart_effects (s : State) (h : s.inPhase 6 = true) : Answers (exec .secStart s) fun t =>
    t.phase = (if s.boot.resetting = some .warm then 8 else 7) ∧
    t.boot.measures = ([0x8101, 0x8102, 0x8103, 0x8104].map fun c =>
      BitVec.ofNat 384 (beNat ((s.component s.boot.fwSel c).drop 24))) ∧
    t = { s with boot := { s.boot with measures := t.boot.measures }, csr := t.csr } :=
  ⟨_, congrArg Host.Outcome.next (if_neg (by simp [h])), phase_setPhase _ (by split <;> decide), rfl, rfl⟩

/-! ### Phase 9 -/

/-- A root port whose link has trained leaves clasp. -/
def leaveClasp (s : State) (i : Nat) : State :=
  let r := rClasp (i / 4) (i % 4)
  if s.isRp (i / 4) (i % 4) ∧ s.flag r F.clasp.LINKUP then (s.setFld r F.clasp.CLASPED 0).setFld r F.clasp.DROPPED 0 else s

/-- The windows of an endpoint port open. -/
def openWindow (s : State) (p : Nat) : State :=
  if s.role p = .endpoint then s.onPort p fun i => { i with ep := { i.ep with winOpen := true } } else s

theorem openPorts_eq (s : State) : s.openPorts = [0, 4].foldl openWindow ((List.range 32).foldl leaveClasp s) := rfl

/-- Ports opened: nothing but root ports' clasp registers and expansion ports change. -/
structure KeepsRelease (s t : State) : Prop where
  boot : t.boot = s.boot
  ras : t.ras = s.ras
  cores : t.cores = s.cores
  m : t.m = s.m
  reg : ∀ r, (∀ p k, r ≠ .clasp p k) → t.reg r = s.reg r

theorem keepsRelease_leaveClasp (s : State) (i : Nat) : KeepsRelease s (leaveClasp s i) := by
  unfold leaveClasp
  extract_lets r
  split
  · exact ⟨rfl, rfl, rfl, rfl, fun q hq => (reg_setFld_other _ _ _ (hq _ _)).trans (reg_setFld_other _ _ _ (hq _ _))⟩
  · exact ⟨rfl, rfl, rfl, rfl, fun _ _ => rfl⟩

theorem keepsRelease_openWindow (s : State) (p : Nat) : KeepsRelease s (openWindow s p) := by
  unfold openWindow
  split <;> exact ⟨rfl, rfl, rfl, rfl, fun _ _ => rfl⟩

theorem KeepsRelease.trans {s t u : State} (h : KeepsRelease s t) (h' : KeepsRelease t u) : KeepsRelease s u :=
  ⟨h'.boot.trans h.boot, h'.ras.trans h.ras, h'.cores.trans h.cores, h'.m.trans h.m,
    fun r hr => (h'.reg r hr).trans (h.reg r hr)⟩

theorem keepsRelease_openPorts (s : State) : KeepsRelease s s.openPorts := by
  have h : KeepsRelease s ((List.range 32).foldl leaveClasp s) :=
    List.foldlRecOn (motive := KeepsRelease s) _ _ ⟨rfl, rfl, rfl, rfl, fun _ _ => rfl⟩
      fun t ht i _ => ht.trans (keepsRelease_leaveClasp t i)
  rw [openPorts_eq]
  generalize (List.range 32).foldl leaveClasp s = u at h ⊢
  exact List.foldlRecOn (motive := KeepsRelease s) _ _ h fun t ht p _ => ht.trans (keepsRelease_openWindow t p)

theorem openWindow_same (s : State) (p : Nat) : (openWindow s p).role p = .endpoint → ((openWindow s p).port p).ep.winOpen = true := by
  intro hr
  have hs : s.role p = .endpoint := by
    rw [State.role, State.portByte, (keepsRelease_openWindow s p).boot] at hr
    exact hr
  rw [openWindow, if_pos hs, State.port, State.onPort, getD_set_same]

theorem openWindow_keeps (s : State) (p q : Nat) (h : s.role q = .endpoint → (s.port q).ep.winOpen = true) :
    (openWindow s p).role q = .endpoint → ((openWindow s p).port q).ep.winOpen = true := by
  by_cases e : q = p
  · subst e; exact openWindow_same s q
  · unfold openWindow
    split
    · intro hr
      rw [State.port, State.onPort, getD_set_other _ _ _ e]
      exact h hr
    · exact h

theorem openPorts_windows (s : State) : ∀ p ∈ [0, 4], s.role p = .endpoint → (s.openPorts.port p).ep.winOpen = true := by
  intro p hp hr
  have hk := keepsRelease_openPorts s
  have h := foldl_establishes (f := openWindow)
    (P := fun p (t : State) => t.role p = .endpoint → (t.port p).ep.winOpen = true) openWindow_same
    (fun t a b hb => openWindow_keeps t a b hb) hp ((List.range 32).foldl leaveClasp s)
  rw [← openPorts_eq] at h
  refine h ?_
  rw [State.role, State.portByte, hk.boot]
  exact hr

/-- The ports open and the reset ended, before the boot core is released. -/
def readied (s : State) : State := (s.openPorts.onBoot fun b => { b with resetting := none }).setPhase 10

theorem readied_cfg (s : State) : (readied s).boot.cfg = s.boot.cfg ∧ (readied s).boot.twEntry = s.boot.twEntry := by
  have h := (keepsRelease_openPorts s).boot
  unfold readied
  generalize s.openPorts = u at h ⊢
  rw [← h]
  exact ⟨rfl, rfl⟩

theorem readied_reg (s : State) {r : Reg} (hc : ∀ p k, r ≠ .clasp p k) (hb : r ≠ .stwBootstat) : (readied s).reg r = s.reg r :=
  (reg_setPhase _ _ hb).trans ((keepsRelease_openPorts s).reg r hc)

theorem readied_frame (s : State) : (readied s).cores = s.cores ∧ (readied s).m = s.m ∧ (readied s).ras = s.ras := by
  have h := keepsRelease_openPorts s
  unfold readied
  generalize s.openPorts = u at h ⊢
  exact ⟨h.cores, h.m, h.ras⟩

theorem noCore_readied (s : State) (c : Nat) : (readied s).noCore c = s.noCore c := by
  have hf : ∀ d, (readied s).fencedCore d = s.fencedCore d := fun d => by
    rw [State.fencedCore, readied_reg s (by simp) (by simp), State.fencedCore]
  have ht : ∀ d, (readied s).fencedTile d = s.fencedTile d := fun d => by
    rw [State.fencedTile, readied_reg s (by simp) (by simp), State.fencedTile]
  have hw : ∀ d, (readied s).twinCfg d = s.twinCfg d := fun d => by rw [State.twinCfg, (readied_cfg s).1, State.twinCfg]
  unfold State.noCore State.disabled State.shadow State.survivor State.underTest
  simp only [hf, ht, hw, (readied_cfg s).1, (readied_frame s).2.2]

theorem bootCore_readied (s : State) : (readied s).bootCore = s.bootCore := by
  unfold State.bootCore
  simp only [noCore_readied, (readied_cfg s).1]

theorem request_cores (s : State) (n : Nat) : (s.request n).cores = s.cores := by
  unfold State.request
  split
  · rfl
  · split
    · dsimp only
      split <;> rfl
    · rfl

theorem wake_io (s : State) (n : Nat) : (s.wake n).io = s.io := by
  unfold State.wake State.request
  split
  · rfl
  · split
    · dsimp only
      split <;> rfl
    · rfl

theorem readied_windows (s : State) : ∀ p ∈ [0, 4], s.role p = .endpoint → ((readied s).port p).ep.winOpen = true := by
  have h := openPorts_windows s
  unfold readied
  generalize s.openPorts = u at h ⊢
  exact h

theorem readied_ends (s : State) : (readied s).boot.resetting = none ∧ (readied s).phase = 10 := by
  unfold readied
  generalize s.openPorts = u
  exact ⟨rfl, phase_setPhase _ (by decide)⟩

section Release
variable {s : State} (h : s.inPhase 9 = true)
include h

theorem bootCoreRelease_core {c : Nat} (hc : s.bootCore = some c) :
    exec .bootCoreRelease s = .next ((readied s).release c (dw s.boot.twEntry)) := by
  refine congrArg Host.Outcome.next ((if_neg (by simp [h])).trans ?_)
  have hb : (readied s).bootCore = some c := (bootCore_readied s).trans hc
  have he := (readied_cfg s).2
  unfold readied at hb he ⊢
  generalize s.openPorts = u at hb he ⊢
  dsimp only
  rw [hb, ← he]

theorem bootCoreRelease_none (hc : s.bootCore = none) : exec .bootCoreRelease s = .next (readied s) := by
  refine congrArg Host.Outcome.next ((if_neg (by simp [h])).trans ?_)
  have hb : (readied s).bootCore = none := (bootCore_readied s).trans hc
  unfold readied at hb ⊢
  generalize s.openPorts = u at hb ⊢
  dsimp only
  rw [hb]

end Release

/-- A core released starts at its entry, at level L3 of the trusted world. -/
theorem release_core (s : State) (c d : Nat) (entry : DWord) : (s.release c entry).core d =
    if d = c then { Core.reset with run := .running, pc := entry } else s.core d := by
  have h : (s.release c entry).cores = (s.setCore c { Core.reset with run := .running, pc := entry }).cores := request_cores _ _
  rw [State.core, h]
  exact core_setCore _ _ _ _

end Sys2Proof.Proofs
end

section
/-! PROOFS. Start-up phase 7, the training of memory and the address map, phase 8, the firmware reserve, and the statement about all
phases. -/

namespace Sys2Proof.Proofs
open Sys2Proof.Machine Sys2Proof.Laws

/-! ### Phase 7 -/

/-- Sets placed from a multiple of 1 GiB start on multiples of 1 GiB, none of them below it (R465). -/
theorem placeSets_aligned {base : Nat} {l : List (Nat × List Nat)} (h : base % 2 ^ 30 = 0) :
    ∀ e ∈ placeSets base l, e.base % 2 ^ 30 = 0 ∧ base ≤ e.base := by
  induction l generalizing base with
  | nil => intro e he; cases he
  | cons p l ih =>
    intro e he
    rw [placeSets] at he
    rcases List.mem_cons.1 he with rfl | he
    · exact ⟨h, le_rfl⟩
    · have hg : gib = 2 ^ 30 := rfl
      obtain ⟨h1, h2⟩ := ih (by rw [hg]; exact Nat.mul_mod_left _ _) e he
      refine ⟨h1, le_trans ?_ h2⟩
      rw [hg]
      omega

theorem keepsBoot_toLog (s : State) (typ sev : Nat) (tr : Bool) (l : List DWord) : KeepsBoot s (s.toLog typ sev tr l) := by
  unfold State.toLog
  split <;> exact ⟨rfl, rfl, rfl⟩

theorem KeepsBoot.refl (s : State) : KeepsBoot s s := ⟨rfl, rfl, rfl⟩

theorem mirrorTrain_m (s : State) (mask : Nat) (trained : Nat → Bool) : (s.mirrorTrain mask trained).m = s.m := by
  refine List.foldlRecOn (motive := fun t : State => t.m = s.m) _ _ rfl fun t h k _ => ?_
  extract_lets both m
  have hb : ∀ (u : State) p v, (both u p v).m = u.m := fun _ _ _ => rfl
  split
  · split
    · exact h
    · exact h
  · split
    · split
      · exact h
      · exact h
    · split
      · exact h
      · exact h

theorem hardPpr_m (s : State) : s.hardPpr.m = s.m :=
  List.foldlRecOn (motive := fun t : State => t.m = s.m) _ _ rfl fun _ h _ _ => (toLog_m _ _ _ _ _).trans h

/-- Some channel is left to train exactly where some DIMM is. -/
theorem channels_empty (good : List Dimm) :
    ((List.range 16).filter fun n => good.any fun d => d.mc.toNat == n).isEmpty = true ↔ good = [] := by
  rw [List.isEmpty_iff, List.filter_eq_nil_iff]
  constructor
  · intro h
    by_contra hne
    obtain ⟨d, hd⟩ := List.exists_mem_of_ne_nil good hne
    exact h d.mc.toNat (List.mem_range.2 d.mc.isLt) (List.any_eq_true.2 ⟨d, hd, beq_self_eq_true _⟩)
  · rintro rfl n _
    simp

/-- Where the firmware reserve starts: the last 256 MiB of the set placed last (R466). -/
def reserveBase (sets : List MemSet) : Nat :=
  match sets.getLast? with
  | some e => e.base + e.size - 0x10000000
  | none => 0

/-- What phase 7 answers: with no channel trained start-up stops, else the sets are placed and the reserve is at their end. -/
theorem trainMemory_effects (s : State) (ds : List Dimm) (bad un : BitVec 16) (cxl : List CxlDev) :
    let t := s.trainMemory ds bad un cxl
    let good := (trainable ds).filter fun d => !un.getLsbD d.mc.toNat
    t.m.mem = s.m.mem ∧
      (good = [] → t.flag .stwBootstat F.stwBootstat.FAIL = true ∧ t.fld .stwBootstat F.stwBootstat.CAUSE = 5 ∧
        t.phase = s.phase ∧ t.m = s.m) ∧
      (good ≠ [] → t.phase = 8 ∧ (∀ e ∈ t.m.dram, e.base % 2 ^ 30 = 0 ∧ 0x100000000 ≤ e.base) ∧
        t.m.fr = some (reserveBase t.m.dram)) := by
  intro t good
  have ht : t = s.trainMemory ds bad un cxl := rfl
  clear_value t
  subst ht
  unfold State.trainMemory
  extract_lets ok good' fail0 bank has chans usedCache spare mask
  split
  next caps cutCh _ =>
  extract_lets fail s1 s2 s3 sel b seq img s4 capv rate s5 s6 sets cx fr s7 s8 _
  have h1 : KeepsBoot s s1 :=
    List.foldlRecOn (motive := KeepsBoot s) _ _ (.refl s) fun t h n _ => h.trans (keepsBoot_toLog t _ _ _ _)
  have h4 : KeepsBoot s3 s4 := by
    simp only [s4]
    split <;> exact ⟨rfl, rfl, rfl⟩
  have hm4 : s4.m = s.m := h4.m.trans h1.m
  have hp4 : s4.phase = s.phase := by
    have h3 : s3.phase = s1.phase := by
      simp only [s3, s2]
      rw [phase_bstat _ _ _ (by decide), phase_bstat _ _ _ (by decide), phase_bstat _ _ _ (by decide)]
    exact (congrArg (getF · F.stwBootstat.PHASE) h4.bstat).trans (h3.trans (congrArg (getF · F.stwBootstat.PHASE) h1.bstat))
  have hm8 : s8.m = s4.m := by
    have h5 : s5.m = s4.m := List.foldlRecOn (motive := fun t : State => t.m = s4.m) _ _ rfl fun _ h _ _ => h
    have h7 : s7.m = s6.m :=
      List.foldlRecOn (motive := fun t : State => t.m = s6.m) _ _ rfl fun _ h _ _ => (toLog_m _ _ _ _ _).trans h
    exact (hardPpr_m s7).trans (h7.trans ((mirrorTrain_m s5 _ _).trans h5))
  have hsets : ∀ e ∈ sets, e.base % 2 ^ 30 = 0 ∧ 0x100000000 ≤ e.base := placeSets_aligned (by decide)
  have hfr : fr = reserveBase sets := rfl
  have hempty : chans.isEmpty = true ↔ good = [] := channels_empty good
  have hmem : s8.m.mem = s.m.mem := congrArg MemState.mem (hm8.trans hm4)
  clear_value s4 s8 sets cx fr chans
  by_cases hg : good = []
  · rw [if_pos (hempty.2 hg)]
    refine ⟨congrArg MemState.mem hm4, fun _ => ⟨?_, ?_, ?_, hm4⟩, fun h => absurd hg h⟩
    · rw [State.bstat, State.bstat, State.flag, fld_setFld_place _ _ _ _ _ (by decide), fld_setFld_same _ _ _ _ (by decide)]
      rfl
    · exact fld_setFld_same _ _ F.stwBootstat.CAUSE 5 (by decide)
    · rw [phase_bstat _ _ _ (by decide), phase_bstat _ _ _ (by decide), hp4]
  · rw [if_neg (mt hempty.1 hg)]
    exact ⟨hmem, fun h => absurd h hg, fun _ => ⟨phase_setPhase _ (by decide), hsets,
      congrArg some hfr⟩⟩

/-! ### Phase 8 -/

/-- Setting up arrays and the reserve keeps what the firmware is read from and where a state save goes. -/
structure KeepsReserve (s t : State) : Prop where
  boot : t.boot = s.boot
  log : t.log = s.log
  savebase : t.reg .savebase = s.reg .savebase

theorem KeepsReserve.trans {s t u : State} (h : KeepsReserve s t) (h' : KeepsReserve t u) : KeepsReserve s u :=
  ⟨h'.boot.trans h.boot, h'.log.trans h.log, h'.savebase.trans h.savebase⟩

theorem KeepsReserve.refl (s : State) : KeepsReserve s s := ⟨rfl, rfl, rfl⟩

theorem KeepsReserve.foldl {α : Type} {f : State → α → State} (h : ∀ s a, KeepsReserve s (f s a)) (l : List α) (s : State) :
    KeepsReserve s (l.foldl f s) :=
  List.foldlRecOn (motive := KeepsReserve s) l f (.refl s) fun t ht a _ => ht.trans (h t a)

theorem keepsReserve_setFld (s : State) {r : Reg} (p : Place) (v : Nat) (h : .savebase ≠ r) : KeepsReserve s (s.setFld r p v) :=
  ⟨rfl, rfl, reg_setFld_other s p v h⟩

theorem keepsReserve_moveIdx (s : State) (t h : Nat) : KeepsReserve s (s.moveIdx t h) := by
  unfold State.moveIdx
  split
  · exact .refl s
  · extract_lets mine x y z s1 r
    have h1 : KeepsReserve s s1 := ⟨rfl, rfl, rfl⟩
    exact (h1.trans (keepsReserve_setFld (r := r) s1 _ _ (by simp [r]))).trans (keepsReserve_setFld (r := r) _ _ _ (by simp [r]))

theorem keepsReserve_initArrays (s : State) : KeepsReserve s s.initArrays := by
  unfold State.initArrays
  extract_lets s1 s2
  have h1 : KeepsReserve s s1 := by
    refine .foldl (fun t n => ?_) _ _
    split
    · exact .refl t
    · extract_lets r t1
      have ht : KeepsReserve t t1 :=
        (keepsReserve_setFld (r := r) t _ _ (by simp [r])).trans (keepsReserve_setFld (r := r) _ _ _ (by simp [r]))
      exact ht.trans (keepsReserve_setFld _ _ _ (by simp))
  have h2 : KeepsReserve s1 s2 := by
    simp only [s2]
    split
    · exact .refl _
    · exact .foldl (fun t n => (KeepsReserve.foldl (fun u h => keepsReserve_moveIdx u n h) _ t).trans
        (keepsReserve_setFld _ _ _ (by simp))) _ _
  exact (h1.trans h2).trans (.foldl (fun t n => keepsReserve_setFld t _ _ (by simp)) _ _)

theorem componentOk_of_flash {s t : State} (hf : t.boot.flash = s.boot.flash) (hl : t.log = s.log) (b : Bool) (c : Nat) :
    t.componentOk b c = s.componentOk b c := by
  have h : ∀ a n, t.flash a n = s.flash a n := fun a n => by rw [State.flash, State.flash, hf, hl]
  unfold State.componentOk State.componentData State.component State.recsAt State.flashNat
  simp only [h]

/-- A whole write of PWR.SAVEBASE enters the address, and only the first one of a reset does (R11, R406). -/
theorem saveBaseSet_kept (s : State) (mask v : DWord) (h : s.boot.saveSet = true) : s.saveBaseSet mask v = s := if_pos (.inl h)

theorem saveBaseSet_addr (s : State) (v : DWord) (h : s.boot.saveSet = false) :
    (s.saveBaseSet (BitVec.allOnes 64) v).fld .savebase F.savebase.ADDR = getF v F.savebase.ADDR := by
  have hm : BitVec.allOnes 64 &&& maskF F.savebase.ADDR = maskF F.savebase.ADDR := by decide
  have hset : s.saveBaseSet (BitVec.allOnes 64) v = { s.setReg .savebase
      ((s.reg .savebase &&& ~~~(maskF F.savebase.ADDR)) ||| (v &&& maskF F.savebase.ADDR)) with
      boot := { s.boot with saveSet := true } } := by
    unfold State.saveBaseSet
    rw [hm, if_neg (by rw [h]; decide)]
  rw [hset]
  refine (congrArg (getF · F.savebase.ADDR) ((reg_setReg _ _ _ _).trans (if_pos rfl))).trans ?_
  apply Nat.eq_of_testBit_eq
  intro i
  rw [testBit_getF, testBit_getF, BitVec.getLsbD_or, BitVec.getLsbD_and, BitVec.getLsbD_and, BitVec.getLsbD_not, getLsbD_maskF]
  by_cases hi : i < 30
  · have h1 : 22 + i < 64 := by omega
    simp [hi, h1]
  · simp [hi]

/-- The owners and addresses of the reserve entered, before the state save's address is (R466). -/
def owned (s : State) (fr : Nat) : State :=
  let page := fun o => (fr + o) / 4096
  let lo := setF (setF 0 F.twrangeLo.BASE (page 0x4000000)) F.twrangeLo.V 1
  let s := (s.setReg (.twrangeLo 0) lo).setReg (.twrangeHi 0) (setF 0 F.twrangeHi.LAST (page 0xC000000 - 1))
  let s := { s with sec := { s.sec with
    pages := [(page 0xC000000, page 0xFC00000 - 1), (page 0xFC00000, page 0x10000000 - 1)] } }
  let map := [⟨fr, 0x4000000, .unowned⟩, ⟨fr + 0x4000000, 0x8000000, .trusted⟩, ⟨fr + 0xC000000, 0x3C00000, .sec⟩,
    ⟨fr + 0xFC00000, 0x400000, .sec⟩]
  s.onBoot fun b => { b with memMap := map }

theorem reserveOwners_eq (s : State) (fr : Nat) :
    s.reserveOwners fr = (owned s fr).saveBaseSet (BitVec.allOnes 64) (dw (fr + 0xFC00000)) := rfl

theorem owned_source (s : State) (fr : Nat) : (owned s fr).boot.flash = s.boot.flash ∧ (owned s fr).boot.fwSel = s.boot.fwSel ∧
    (owned s fr).boot.saveSet = s.boot.saveSet ∧ (owned s fr).log = s.log := ⟨rfl, rfl, rfl, rfl⟩

theorem owned_savebase (s : State) (fr : Nat) : (owned s fr).reg .savebase = s.reg .savebase := by
  refine (reg_setReg_other _ _ (by simp)).trans (reg_setReg_other _ _ (by simp))

theorem owned_range (s : State) (fr : Nat) : (owned s fr).flag (.twrangeLo 0) F.twrangeLo.V = true := by
  have h : (owned s fr).reg (.twrangeLo 0) = setF (setF 0 F.twrangeLo.BASE ((fr + 0x4000000) / 4096)) F.twrangeLo.V 1 :=
    (reg_setReg_other _ _ (by simp)).trans ((reg_setReg _ _ _ _).trans (if_pos rfl))
  rw [State.flag, State.fld, h, getF_setF_same _ _ _ (by decide)]
  rfl

/-- What a write of PWR.SAVEBASE leaves alone. -/
theorem saveBaseSet_frame (s : State) (mask v : DWord) : (s.saveBaseSet mask v).boot.flash = s.boot.flash ∧
    (s.saveBaseSet mask v).boot.fwSel = s.boot.fwSel ∧ (s.saveBaseSet mask v).log = s.log ∧
    (s.saveBaseSet mask v).sec = s.sec ∧ ∀ r, r ≠ .savebase → (s.saveBaseSet mask v).reg r = s.reg r := by
  unfold State.saveBaseSet
  extract_lets m
  split
  · exact ⟨rfl, rfl, rfl, rfl, fun _ _ => rfl⟩
  · exact ⟨rfl, rfl, rfl, rfl, fun r hr => reg_setReg_other s _ hr⟩

/-- The reserve set up, before its components are placed. -/
def reserved (s : State) (fr : Nat) : State := s.initArrays.reserveOwners fr

theorem reserved_source (s : State) (fr : Nat) : (reserved s fr).boot.flash = s.boot.flash ∧
    (reserved s fr).boot.fwSel = s.boot.fwSel ∧ (reserved s fr).log = s.log := by
  have hk := keepsReserve_initArrays s
  unfold reserved
  rw [reserveOwners_eq]
  generalize s.initArrays = u at hk ⊢
  obtain ⟨hf, hs, hl, -, -⟩ := saveBaseSet_frame (owned u fr) (BitVec.allOnes 64) (dw (fr + 0xFC00000))
  obtain ⟨hf', hs', -, hl'⟩ := owned_source u fr
  rw [hf, hs, hl, hf', hs', hl', hk.boot, hk.log]
  exact ⟨rfl, rfl, rfl⟩

theorem reserved_owners (s : State) (fr : Nat) :
    (reserved s fr).sec.pages = [((fr + 0xC000000) / 4096, (fr + 0xFC00000) / 4096 - 1),
      ((fr + 0xFC00000) / 4096, (fr + 0x10000000) / 4096 - 1)] ∧
    (reserved s fr).flag (.twrangeLo 0) F.twrangeLo.V = true := by
  unfold reserved
  rw [reserveOwners_eq]
  generalize s.initArrays = u
  obtain ⟨-, -, -, hsec, hreg⟩ := saveBaseSet_frame (owned u fr) (BitVec.allOnes 64) (dw (fr + 0xFC00000))
  refine ⟨congrArg SecState.pages hsec, ?_⟩
  rw [State.flag, State.fld, hreg _ (by simp)]
  exact owned_range u fr

theorem reserved_savebase (s : State) (fr : Nat) :
    (s.boot.saveSet = true → (reserved s fr).reg .savebase = s.reg .savebase) ∧
    (s.boot.saveSet = false →
      (reserved s fr).fld .savebase F.savebase.ADDR = (fr + 0xFC00000) / 2 ^ 22 % 2 ^ 30) := by
  have hk := keepsReserve_initArrays s
  unfold reserved
  rw [reserveOwners_eq]
  generalize s.initArrays = u at hk ⊢
  have hs : (owned u fr).boot.saveSet = s.boot.saveSet := by rw [(owned_source u fr).2.2.1, hk.boot]
  constructor
  · intro h
    rw [saveBaseSet_kept _ _ _ (hs.trans h), owned_savebase, hk.savebase]
  · intro h
    rw [saveBaseSet_addr _ _ (hs.trans h), getF, dw, BitVec.toNat_ofNat, Nat.shiftRight_eq_div_pow]
    generalize fr + 0xFC00000 = a
    show a % 2 ^ 64 / 2 ^ 22 % 2 ^ 30 = _
    omega

/-- Components placed in the reserve: memory alone changes. -/
theorem foldl_placeComponent_m (l : List Nat) (fr : Nat) (s : State) :
    l.foldl (fun s t => s.placeComponent fr t) s = { s with m := (l.foldl (fun s t => s.placeComponent fr t) s).m } := by
  induction l generalizing s with
  | nil => rfl
  | cons t l ih => rw [List.foldl_cons, ih]; rfl

/-- The reserve with its components in place. -/
def placed (s : State) (fr : Nat) : State := [0x8102, 0x8103, 0x8104].foldl (fun s t => s.placeComponent fr t) (reserved s fr)

theorem placed_m (s : State) (fr : Nat) : placed s fr = { reserved s fr with m := (placed s fr).m } :=
  foldl_placeComponent_m _ _ _

/-- The placed state is the reserved one but for memory. -/
theorem placed_frame (s : State) (fr : Nat) : (placed s fr).boot = (reserved s fr).boot ∧
    (placed s fr).log = (reserved s fr).log ∧ (placed s fr).sec = (reserved s fr).sec ∧
    ∀ r, (placed s fr).reg r = (reserved s fr).reg r := by
  have h := placed_m s fr
  generalize placed s fr = u at h ⊢
  generalize reserved s fr = v at h ⊢
  rw [h]
  exact ⟨rfl, rfl, rfl, fun _ => rfl⟩

theorem placed_componentOk (s : State) (fr : Nat) (b : Bool) (c : Nat) : (placed s fr).componentOk b c = s.componentOk b c := by
  obtain ⟨hb, hl, -, -⟩ := placed_frame s fr
  obtain ⟨hf, -, hl'⟩ := reserved_source s fr
  exact componentOk_of_flash ((congrArg BootState.flash hb).trans hf) (hl.trans hl') b c

theorem placed_fwSel (s : State) (fr : Nat) : (placed s fr).boot.fwSel = s.boot.fwSel :=
  (congrArg BootState.fwSel (placed_frame s fr).1).trans (reserved_source s fr).2.1

/-- The entry of the trusted firmware, noted once its components are placed (R37). -/
def entered (s : State) (fr : Nat) : State :=
  let v := (placed s fr).component (placed s fr).boot.fwSel 0x8103
  (placed s fr).onBoot fun b => { b with twEntry := (fr + sub v 0 8 + sub v 12 4) / 4 * 4 }

theorem entered_frame (s : State) (fr : Nat) :
    (entered s fr).sec = (reserved s fr).sec ∧ ∀ r, (entered s fr).reg r = (reserved s fr).reg r := by
  obtain ⟨-, -, hsec, hreg⟩ := placed_frame s fr
  unfold entered
  generalize placed s fr = u at hsec hreg ⊢
  exact ⟨hsec, hreg⟩

theorem firmwareReserveSetup_eq {s : State} {fr : Nat} (h : s.inPhase 8 = true) (hfr : s.m.fr = some fr) :
    exec .firmwareReserveSetup s = .next
      (if [0x8102, 0x8103, 0x8104].all (s.componentOk s.boot.fwSel) then (entered s fr).setPhase 9
      else (placed s fr).bankFailed .fw s.boot.fwSel) := by
  have hc : [0x8102, 0x8103, 0x8104].all ((placed s fr).componentOk (placed s fr).boot.fwSel) =
      [0x8102, 0x8103, 0x8104].all (s.componentOk s.boot.fwSel) := by
    rw [placed_fwSel]
    exact congrArg _ (funext (placed_componentOk s fr _))
  refine congrArg Host.Outcome.next ((if_neg (by simp [h])).trans ?_)
  rw [hfr, ← hc, ← placed_fwSel s fr]
  rfl

theorem firmwareReserveSetup_effects {s : State} {fr : Nat} (h : s.inPhase 8 = true) (hfr : s.m.fr = some fr) :
    Answers (exec .firmwareReserveSetup s) fun t =>
      ([0x8102, 0x8103, 0x8104].all (s.componentOk s.boot.fwSel) = true →
        t.phase = 9 ∧ (s.boot.saveSet = true → t.reg .savebase = s.reg .savebase) ∧
        (s.boot.saveSet = false → t.fld .savebase F.savebase.ADDR = (fr + 0xFC00000) / 2 ^ 22 % 2 ^ 30) ∧
        t.sec.pages = [((fr + 0xC000000) / 4096, (fr + 0xFC00000) / 4096 - 1),
          ((fr + 0xFC00000) / 4096, (fr + 0x10000000) / 4096 - 1)] ∧
        t.flag (.twrangeLo 0) F.twrangeLo.V = true) ∧
      ([0x8102, 0x8103, 0x8104].all (s.componentOk s.boot.fwSel) = false →
        t.phase = 3 ∧ t.boot.resetting = some .cold ∧ (if s.boot.fwSel then t.boot.fwFailed.2 else t.boot.fwFailed.1) = true) := by
  refine ⟨_, firmwareReserveSetup_eq h hfr, fun hc => ?_, fun hc => ?_⟩
  · rw [if_pos hc]
    obtain ⟨hsec, hreg⟩ := entered_frame s fr
    obtain ⟨hkept, haddr⟩ := reserved_savebase s fr
    obtain ⟨hpages, hrange⟩ := reserved_owners s fr
    generalize entered s fr = u at hsec hreg ⊢
    have hr : ∀ r, r ≠ .stwBootstat → (u.setPhase 9).reg r = (reserved s fr).reg r := fun r hr =>
      (reg_setPhase _ _ hr).trans (hreg r)
    refine ⟨phase_setPhase _ (by decide), fun h => (hr _ (by simp)).trans (hkept h), fun h => ?_,
      (congrArg SecState.pages hsec).trans hpages, ?_⟩
    · rw [State.fld, hr _ (by simp)]; exact haddr h
    · rw [State.flag, State.fld, hr _ (by simp)]; exact hrange
  · rw [if_neg (by rw [hc]; decide)]
    obtain ⟨hp, hr, hf, -⟩ := bankFailed_fw (placed s fr) s.boot.fwSel
    exact ⟨hp, hr, hf⟩

/-! ### The statement -/

/-- Recovery answered by a command of start-up. -/
theorem answers_recover {o : Result} {s : State} {cause : Nat} (h : o = .next (s.recover cause)) (hc : cause < 256) :
    Answers o fun t => t.flag .stwBootstat F.stwBootstat.RCVR = true ∧ t.fld .stwBootstat F.stwBootstat.CAUSE = cause ∧
      t.phase = s.phase ∧ (∀ p r, t.flag (.clasp p r) F.clasp.LINKUP = false) ∧ t.cores = s.cores ∧ t.m = s.m :=
  ⟨_, h, recover_effects s hc⟩

/-- Phase 9 with a boot core: it runs from the entry of the trusted firmware. -/
theorem bootCoreRelease_effects {s : State} (h : s.inPhase 9 = true) {c : Nat} (hc : s.bootCore = some c) :
    Answers (exec .bootCoreRelease s) fun t =>
      t.boot.resetting = none ∧ t.phase = 10 ∧ (t.core c).run = .running ∧ (t.core c).pc = dw s.boot.twEntry ∧
      (t.core c).lvl = 3 ∧ (t.core c).world = true ∧ (∀ d, d ≠ c → t.core d = s.core d) ∧ t.m = s.m ∧
      ∀ p ∈ [0, 4], s.role p = .endpoint → (t.port p).ep.winOpen = true := by
  refine ⟨_, bootCoreRelease_core h hc, ?_⟩
  obtain ⟨hend, hphase⟩ := readied_ends s
  obtain ⟨hcores, hm, -⟩ := readied_frame s
  have hwin := readied_windows s
  generalize readied s = u at hend hphase hcores hm hwin ⊢
  have hw := keeps_wake (u.setCore c { Core.reset with run := .running, pc := dw s.boot.twEntry }) (domCore c)
  have hio : (u.release c (dw s.boot.twEntry)).io = u.io := wake_io _ _
  have hown : (u.release c (dw s.boot.twEntry)).core c = { Core.reset with run := .running, pc := dw s.boot.twEntry } :=
    (release_core u c c _).trans (if_pos rfl)
  refine ⟨(congrArg BootState.resetting hw.boot).trans hend, ?_, by rw [hown], by rw [hown], by rw [hown]; rfl, by rw [hown]; rfl,
    fun d hd => ?_, (wake_m _ _).trans hm, fun p hp hr => ?_⟩
  · exact (congrArg (getF · F.stwBootstat.PHASE) (hw.reg _ rfl)).trans hphase
  · rw [release_core, if_neg hd, State.core, hcores, State.core]
  · rw [State.port, hio]
    exact hwin p hp hr

/-- Settles O43, phase by phase: recovery is `recover_effects`, a failed bank `bankFailed_cfg` and `bankFailed_fw`, and each
phase has its own lemma above. -/
theorem startUpPhases : Obligations.StartUpPhases := by
  unfold Obligations.StartUpPhases
  intro s R C
  refine ⟨pwrokRise_effects s, fuseLoad_effects s, flashDiscovery_effects s,
    fun h => ⟨fun ht => answers_recover (imageSelection_test h ht) (by decide),
      fun ht hs => answers_recover (imageSelection_strap h ht hs) (by decide),
      fun ht hs hb => answers_recover (imageSelection_none h ht hs hb) (by decide),
      fun b ht hs hb => imageSelection_bank h ht hs hb⟩,
    fun h => ⟨imageApply_applied s h, ?_⟩,
    fun h => ⟨fun hb => answers_recover (firmwareSelection_none s h hb) (by decide),
      fun b hb => ⟨firmwareSelection_ok s h hb, fun hc => ?_⟩⟩,
    secStart_effects s, fun ds bad un cxl h => ?_, fun fr h hfr => firmwareReserveSetup_effects h hfr,
    fun h => ⟨fun c hc => bootCoreRelease_effects h hc, fun hc => ?_⟩⟩
  case refine_1 =>
    obtain ⟨hp, hr, hf, hk⟩ := bankFailed_cfg s s.boot.cfgSel
    exact ⟨_, imageApply_failed s h, hp, hr, hf, hk⟩
  case refine_2 =>
    obtain ⟨hp, hr, hf, hk⟩ := bankFailed_fw (firmwareChosen s b) b
    refine ⟨_, (firmwareSelection_bank s h hb).trans (congrArg Host.Outcome.next (if_neg ?_)), hp, hr, hf, hk⟩
    rw [hc]
    exact Bool.false_ne_true
  case refine_3 =>
    obtain ⟨hmem, hstop, hgo⟩ := trainMemory_effects s ds bad un cxl
    refine ⟨_, congrArg Host.Outcome.next (if_pos h), rfl, hmem, fun hg => ?_, fun hg => ?_⟩
    · obtain ⟨hfail, hcause, hphase, hm⟩ := hstop hg
      exact ⟨hfail, hcause, hphase.trans (phase_of_inPhase h), hm⟩
    · obtain ⟨hphase, hsets, hfr⟩ := hgo hg
      exact ⟨hphase, hsets, hfr⟩
  case refine_4 =>
    obtain ⟨hend, hphase⟩ := readied_ends s
    obtain ⟨hcores, hm, -⟩ := readied_frame s
    exact ⟨_, bootCoreRelease_none h hc, hend, hphase, hcores, hm⟩

end Sys2Proof.Proofs
end

section
/-! PROOFS. The block as a whole: every command answers a next state, and what power-on reset holds. -/

namespace Sys2Proof.Proofs
open Sys2Proof.Machine Sys2Proof.Laws

/-! ### Every run goes on -/

/-- The function of every constructor is a `.next` at its head, whatever the operands and the state. -/
theorem exec_next (i : Instr) (s : State) : ∃ t, exec i s = .next t := by
  cases i <;> exact ⟨_, rfl⟩

theorem step_next (s : State) : ∃ t, step s = .next t := by
  unfold step
  split
  · exact ⟨s.idle, rfl⟩
  · exact exec_next _ _

/-- A run takes its first step, where that one does not stop it. -/
theorem run_succ {M : Host.Core} {s t : M.State} (h : M.step s = .next t) (k : Nat) : M.run (k + 1) s = M.run k t := by
  rw [Host.Core.run, h]

theorem safeRun (k : Nat) (s : State) : SafeRun k s := by
  induction k generalizing s with
  | zero => exact ⟨s, rfl⟩
  | succ k ih =>
    obtain ⟨t, ht⟩ := step_next s
    obtain ⟨u, hu⟩ := ih t
    exact ⟨u, (run_succ (M := core) ht k).trans hu⟩

theorem idle_stopped (s : State) (h : s.boot.pins.pwrok = false ∨ s.boot.pins.thermTrip = true) : s.idle = s := by
  have hrun : ¬(s.boot.pins.pwrok && !s.boot.pins.thermTrip) = true := by
    rcases h with h | h <;> simp [h]
  exact if_neg hrun

theorem step_idle (s : State) (h : s.pending = []) : step s = .next s.idle := by rw [step, h]

/-- Settles O2, by induction on the length of the run: each step is an idle one or a command, and both answer a next
state. -/
theorem everyRunGoesOn : Obligations.EveryRunGoesOn := by
  unfold Obligations.EveryRunGoesOn
  refine ⟨exec_next, safeRun, fun s hp hs => ?_⟩
  rw [step_idle s hp, idle_stopped s hs]

/-! ### Power-on reset -/

/-- Two domains have a register entry of their own in power-on reset (R393); the rest read as they are reset. -/
theorem reg_reset {r : Reg} (hr : r ≠ .dom 415) (hs : r ≠ .dom 416) : State.reset.reg r = r.reset := by
  rw [State.reg, State.reset, State.resetCsr, Map.getD, Map.find, if_neg hr.symm, Map.find, if_neg hs.symm]
  rfl

theorem rDom_ne {n k : Nat} (hn : n < 417) (h : n ≠ k) (hk : k < 417) : rDom n ≠ rDom k := by
  intro e
  have hix : ix 417 n = ix 417 k := Reg.dom.inj e
  have hval : n % 417 = k % 417 := congrArg Fin.val hix
  omega

theorem dstate_reset {n : Nat} (h : n < 415) : State.reset.dstate n = 0 := by
  rw [State.dstate, State.fld, reg_reset (rDom_ne (k := 415) (by omega) (by omega) (by decide))
    (rDom_ne (k := 416) (by omega) (by omega) (by decide))]
  have hr : (rDom n).reset = (Reg.dom 0).reset := rfl
  rw [hr]
  decide

/-- Settles O5: the registers by `reg_reset`, the domains by `dstate_reset`; the rest is how the state is written. -/
theorem resetState : Obligations.ResetState := by
  unfold Obligations.ResetState
  exact ⟨rfl, rfl, fun _ => rfl, by decide, by decide, fun _ h => dstate_reset h, rfl, rfl, rfl, rfl, rfl, rfl,
    fun _ hr hs => reg_reset hr hs, rfl, rfl⟩

end Sys2Proof.Proofs
end

section
/-! PROOFS. What starts a reset and what it leaves (R30-R33, R182, R434), and images taken in recovery (R50-R53). -/

namespace Sys2Proof.Proofs
open Sys2Proof.Machine Sys2Proof.Laws

/-! ### Banks (R48, R50) -/

section Banks
variable {s : State} {k : Img}

theorem recoveryBank_neither (ha : s.bankOk k false = false) (hb : s.bankOk k true = false) :
    s.recoveryBank k = some (false, false) := by
  rw [State.recoveryBank, ha, hb]
  rfl

theorem recoveryBank_one {b : Bool} (h : s.bankOk k b = false) (ho : s.bankOk k (!b) = true) :
    s.recoveryBank k = if 3 ≤ s.fld .stwBootstat F.stwBootstat.CAUSE then some (b, false) else none := by
  unfold State.recoveryBank
  cases b
  case false =>
    rw [Bool.not_false] at ho
    by_cases hs : 3 ≤ s.fld .stwBootstat F.stwBootstat.CAUSE <;> simp [h, ho, hs]
  case true =>
    rw [Bool.not_true] at ho
    by_cases hs : 3 ≤ s.fld .stwBootstat F.stwBootstat.CAUSE <;> simp [h, ho, hs]

theorem recoveryBank_both {b : Bool} (ha : s.bankOk k false = true) (hb : s.bankOk k true = true)
    (hp : s.pickBank k (s.bankOk k) = some b) :
    s.recoveryBank k = if 3 ≤ s.fld .stwBootstat F.stwBootstat.CAUSE then some (!b, true) else none := by
  unfold State.recoveryBank
  by_cases hs : 3 ≤ s.fld .stwBootstat F.stwBootstat.CAUSE <;> simp [ha, hb, hp, hs]

theorem pickBank_neither {ok : Bool → Bool} (ha : ok false = false) (hb : ok true = false) : s.pickBank k ok = none := by
  rw [State.pickBank, ha, hb]

theorem pickBank_one {ok : Bool → Bool} {b : Bool} (h : ok b = false) (ho : ok (!b) = true) :
    s.pickBank k ok = some (!b) := by
  unfold State.pickBank
  cases b
  case false => rw [Bool.not_false] at ho; rw [h, ho]; rfl
  case true => rw [Bool.not_true] at ho; rw [h, ho]; rfl

theorem pickBank_both {ok : Bool → Bool} (ha : ok false = true) (hb : ok true = true) :
    s.pickBank k ok = some (newer (s.seqOf k true) (s.seqOf k false)) := by
  rw [State.pickBank, ha, hb]

/-- R50: the bank that recovery lets an image go to is never the one that a start would choose. -/
theorem recoveryBank_not_picked {b new : Bool} (h : s.recoveryBank k = some (b, new)) :
    s.pickBank k (s.bankOk k) ≠ some b := by
  have one : ∀ c, s.bankOk k c = false → s.bankOk k (!c) = true → s.pickBank k (s.bankOk k) ≠ some b := by
    intro c hc ho
    rw [recoveryBank_one hc ho] at h
    obtain ⟨rfl, -⟩ := Prod.mk.inj (Option.some.inj (Option.ite_none_right_eq_some.1 h).2)
    rw [pickBank_one hc ho]
    cases c <;> decide
  cases ha : s.bankOk k false <;> cases hb : s.bankOk k true
  case false.false => rw [pickBank_neither ha hb]; exact (Option.some_ne_none b).symm
  case false.true => exact one false ha hb
  case true.false => exact one true hb ha
  case true.true =>
    rw [recoveryBank_both ha hb (pickBank_both ha hb)] at h
    obtain ⟨rfl, -⟩ := Prod.mk.inj (Option.some.inj (Option.ite_none_right_eq_some.1 h).2)
    rw [pickBank_both ha hb]
    cases newer (s.seqOf k true) (s.seqOf k false) <;> decide

end Banks

/-! ### What only writes the log -/

/-- Nothing but the log has changed. -/
def LogOnly (s t : State) : Prop := t = { s with log := t.log }

theorem LogOnly.refl (s : State) : LogOnly s s := rfl

theorem LogOnly.trans {s t u : State} (h : LogOnly s t) (h' : LogOnly t u) : LogOnly s u := by
  rw [LogOnly, h', h]

theorem LogOnly.foldl {α : Type} {f : State → α → State} (h : ∀ s a, LogOnly s (f s a)) (l : List α) (s : State) :
    LogOnly s (l.foldl f s) :=
  List.foldlRecOn (motive := LogOnly s) l f (.refl s) fun t ht a _ => ht.trans (h t a)

theorem logOnly_toLog (s : State) (typ sev : Nat) (tr : Bool) (l : List DWord) : LogOnly s (s.toLog typ sev tr l) := by
  unfold State.toLog
  split <;> rfl

theorem toLog_queue (s : State) (typ sev : Nat) (tr : Bool) (l : List DWord) (h : s.log.queue.length < 4096) :
    (s.toLog typ sev tr l).log.queue.length = s.log.queue.length + 1 := by
  rw [State.toLog, if_pos h]
  exact List.length_append

theorem logOnly_logWrite (s : State) : LogOnly s s.logWrite := by
  unfold State.logWrite
  extract_lets l
  split
  · split <;> rfl
  · rfl

theorem logOnly_logFlush (s : State) : LogOnly s s.logFlush := .foldl (fun s _ => logOnly_logWrite s) _ _

theorem logOnly_copyRecords (s : State) : LogOnly s s.copyRecords := by
  refine .foldl (fun t p => ?_) _ _
  split
  · split
    · exact logOnly_toLog _ _ _ _ _
    · exact .refl t
  · exact .refl t

theorem logOnly_drainLoss (s : State) : LogOnly s s.drainLoss := by
  refine .foldl (fun t p => ?_) _ _
  dsimp only
  split
  · exact .refl t
  · exact logOnly_toLog _ _ _ _ _

/-! ### Registers after a reset (R497) -/

/-- The value that a reset leaves in a register of which it keeps fields. -/
def keptWord (t : ResetType) (r : Reg) (w : DWord) : DWord :=
  (keptFields t r).foldl (fun v p => setF v p (getF w p)) r.reset

theorem keptReg_eq (t : ResetType) (r : Reg) (w : DWord) :
    keptReg t r w = if keptFields t r = [] then none else some (r, keptWord t r w) := by
  unfold keptReg keptWord
  split
  · next h => rw [if_pos h]
  · next h => rw [if_neg h]

theorem find_keptReg (t : ResetType) (m : Map Reg DWord) (r : Reg) :
    Map.find (m.filterMap fun p => keptReg t p.1 p.2) r =
      if keptFields t r = [] then none else (m.find r).map (keptWord t r) := by
  induction m with
  | nil => exact (ite_self _).symm
  | cons p m ih =>
    obtain ⟨q, w⟩ := p
    rw [List.filterMap_cons]
    dsimp only
    rw [keptReg_eq, Map.find]
    by_cases hq : keptFields t q = []
    · rw [if_pos hq]
      dsimp only
      rw [ih]
      by_cases e : q = r
      · rw [← e, if_pos hq, if_pos hq]
      · rw [if_neg e]
    · rw [if_neg hq]
      dsimp only
      rw [Map.find, ih]
      by_cases e : q = r
      · subst e; rw [if_pos rfl, if_pos rfl, if_neg hq]; rfl
      · rw [if_neg e, if_neg e]

/-- A word whose every bit is a field's. -/
theorem setF_getF_whole (v w : DWord) : setF v (63, 0) (getF w (63, 0)) = w := by
  apply BitVec.eq_of_getLsbD_eq
  intro i hi
  have hm : (maskF (63, 0)).getLsbD i = true := by rw [getLsbD_maskF]; simp [hi]
  rw [getLsbD_setF, if_pos hm, testBit_getF]
  simp [hi]

/-- What is stored for the registers after a reset of a type. -/
def keptCsr (s : State) (t : ResetType) : Map Reg DWord := s.csr.filterMap fun p => keptReg t p.1 p.2

theorem keptCsr_lost (s : State) {t : ResetType} {r : Reg} (h : keptFields t r = []) :
    Map.getD (keptCsr s t) r r.reset = r.reset := by
  rw [Map.getD, keptCsr, find_keptReg, if_pos h, Option.getD_none]

theorem keptCsr_whole (s : State) {t : ResetType} {r : Reg} (h : keptFields t r = [(63, 0)]) :
    Map.getD (keptCsr s t) r r.reset = s.reg r := by
  have hw : ∀ w, keptWord t r w = w := fun w => by rw [keptWord, h]; exact setF_getF_whole _ _
  rw [Map.getD, keptCsr, find_keptReg, if_neg (by rw [h]; exact List.cons_ne_nil _ _), State.reg, Map.getD]
  cases s.csr.find r with
  | none => rfl
  | some w => exact hw w

theorem keptFields_powerOn (r : Reg) : keptFields .powerOn r = [] := by
  cases r <;> exact rfl

theorem keptCsr_powerOn (s : State) : keptCsr s .powerOn = [] := by
  rw [keptCsr, List.filterMap_eq_nil_iff]
  intro p _
  rw [keptReg_eq, if_pos (keptFields_powerOn _)]

/-! ### The parts of a reset (R31) -/

theorem dropUpdate_eq (s : State) :
    s.dropUpdate = { s with boot := { s.boot with flash := s.dropUpdate.boot.flash, update := none } } := by
  unfold State.dropUpdate
  split
  · next h => rw [← h]
  · rfl

theorem dropUpdate_none {s : State} (h : s.boot.update = none) : s.dropUpdate = s := by rw [State.dropUpdate, h]

theorem back_epoch (m : MemState) (line : Nat) (b : Below) : (m.back line b).epoch = m.epoch := by
  rw [MemState.back]

/-- A discarded line: memory alone changes, and no key. -/
theorem discard_frame (s : State) (line : Nat) : s.discard line = { s with m := (s.discard line).m } ∧
    (s.discard line).m.epoch = s.m.epoch := by
  unfold State.discard
  split
  · exact ⟨rfl, rfl⟩
  · refine ⟨rfl, ?_⟩
    dsimp only
    exact back_epoch _ _ _

theorem memCold_frame (s : State) : s.memCold = { s with m := s.memCold.m } ∧ s.memCold.m.epoch = s.m.epoch := by
  unfold State.memCold
  extract_lets s1 cx
  have h1 : s1 = { s with m := s1.m } ∧ s1.m.epoch = s.m.epoch := by
    refine List.foldlRecOn (motive := fun t : State => t = { s with m := t.m } ∧ t.m.epoch = s.m.epoch) _ _ ⟨rfl, rfl⟩
      fun t ht p _ => ?_
    obtain ⟨hd, he⟩ := discard_frame t p.1
    exact ⟨by rw [hd, ht.1], he.trans ht.2⟩
  clear_value s1
  exact ⟨by rw [h1.1], h1.2⟩

/-- No DRAM is preserved (R31): what memory still lists lies at or above the end of its addresses. -/
theorem memCold_above (s : State) : ∀ c ∈ s.memCold.m.mem, 0x100000000000 ≤ c.1 := by
  intro c hc
  have h := (List.mem_filter.1 hc).2
  simpa [isDram] using h

/-- Memory, the update cut short and the keys at a reset of a type, before the rest of it. -/
def resetMem (s : State) (t : ResetType) : State :=
  State.clearKeys (if t = .warm then { s.dropUpdate with m := { s.dropUpdate.m with stale := [], latent := s.dropUpdate.m.unmet [] } }
    else s.dropUpdate.memCold)

theorem resetMem_frame (s : State) (t : ResetType) :
    resetMem s t = { s with m := (resetMem s t).m, boot := { s.boot with flash := s.dropUpdate.boot.flash, update := none } } ∧
    (resetMem s t).m.epoch = s.m.epoch + 1 ∧ (resetMem s t).m.keyGen = [] := by
  have hd := dropUpdate_eq s
  obtain ⟨hm, he⟩ := memCold_frame s.dropUpdate
  have hepoch : s.dropUpdate.m.epoch = s.m.epoch := by rw [hd]
  unfold resetMem
  generalize s.dropUpdate = u at hd hm he hepoch ⊢
  split
  · exact ⟨by rw [hd]; rfl, congrArg (· + 1) hepoch, rfl⟩
  · exact ⟨by rw [hm, hd]; rfl, congrArg (· + 1) (he.trans hepoch), rfl⟩

/-- What each reset takes away: cores with their caches and stores, queues, channels, lockets, transactions, keys. -/
def Gone (s t : State) : Prop :=
  t.cores = [] ∧ t.ucores = [] ∧ t.qs.q = [] ∧ t.dm.chans = [] ∧ t.sec.lockets = [] ∧ t.mesh.txns = [] ∧
  t.coh.priv = [] ∧ t.coh.l3 = [] ∧ t.m.epoch = s.m.epoch + 1 ∧ t.m.keyGen = [] ∧ t.boot.update = none ∧
  t.boot.fuses = s.boot.fuses ∧ t.pending = s.pending

theorem gone_boot {s t : State} (h : Gone s t) {b : BootState} (hu : b.update = none) (hf : b.fuses = s.boot.fuses) :
    Gone s { t with boot := b } := by
  obtain ⟨hcores, hucores, hqs, hdm, hsec, hmesh, hpriv, hl3, hepoch, hkeys, -, -, hpending⟩ := h
  exact ⟨hcores, hucores, hqs, hdm, hsec, hmesh, hpriv, hl3, hepoch, hkeys, hu, hf, hpending⟩

theorem gone_resetBase (s : State) (t : ResetType) : Gone s (s.resetBase t) := by
  obtain ⟨hframe, hepoch, hkeys⟩ := resetMem_frame s t
  have hm : (s.resetBase t).m = (resetMem s t).m := rfl
  have hfuses : (s.resetBase t).boot.fuses = (resetMem s t).boot.fuses := rfl
  have hpending : (s.resetBase t).pending = (resetMem s t).pending := rfl
  refine ⟨rfl, rfl, rfl, rfl, rfl, rfl, rfl, rfl, ?_, ?_, rfl, ?_, ?_⟩
  · rw [hm, hepoch]
  · rw [hm, hkeys]
  · rw [hfuses, hframe]
  · rw [hpending, hframe]

theorem reg_resetBase (s : State) (t : ResetType) (r : Reg) : (s.resetBase t).reg r = Map.getD (keptCsr s t) r r.reset := by
  have hcsr : (resetMem s t).csr = s.csr := by rw [(resetMem_frame s t).1]
  exact congrArg (fun m : Map Reg DWord => Map.getD (m.filterMap fun p => keptReg t p.1 p.2) r r.reset) hcsr

/-- Nothing but registers has changed, and of those only registers of domains and of channels. -/
def DomainsOnly (s t : State) : Prop :=
  t = { s with csr := t.csr } ∧ ∀ r, (∀ n, r ≠ .dom n) → (∀ n, r ≠ .mcRas n) → t.reg r = s.reg r

theorem DomainsOnly.refl (s : State) : DomainsOnly s s := ⟨rfl, fun _ _ _ => rfl⟩

theorem DomainsOnly.trans {s t u : State} (h : DomainsOnly s t) (h' : DomainsOnly t u) : DomainsOnly s u :=
  ⟨by rw [h'.1, h.1], fun r hd hm => (h'.2 r hd hm).trans (h.2 r hd hm)⟩

theorem DomainsOnly.foldl {α : Type} {f : State → α → State} (h : ∀ s a, DomainsOnly s (f s a)) (l : List α) (s : State) :
    DomainsOnly s (l.foldl f s) :=
  List.foldlRecOn (motive := DomainsOnly s) l f (.refl s) fun t ht a _ => ht.trans (h t a)

theorem domainsOnly_dom (s : State) (n : Fin 417) (w : DWord) : DomainsOnly s (s.setReg (.dom n) w) :=
  ⟨rfl, fun _ hd _ => reg_setReg_other s w (hd n)⟩

theorem domainsOnly_mcRas (s : State) (n : Fin 16) (w : DWord) : DomainsOnly s (s.setReg (.mcRas n) w) :=
  ⟨rfl, fun _ _ hm => reg_setReg_other s w (hm n)⟩

theorem domainsOnly_domainsOn (s : State) : DomainsOnly s s.domainsOn := by
  refine .foldl (fun t n => ?_) _ _
  split
  · exact .refl t
  · exact domainsOnly_dom t _ _

/-- A cold or warm reset enters what is ON after the rest. -/
theorem domainsOnly_resetAll (s : State) {t : ResetType} (h : t ≠ .powerOn) : DomainsOnly (s.resetBase t) (s.resetAll t) := by
  cases t with
  | powerOn => exact absurd rfl h
  | cold => exact (domainsOnly_dom (s.resetBase .cold) _ _).trans (domainsOnly_dom _ _ _)
  | warm =>
    refine (domainsOnly_domainsOn (s.resetBase .warm)).trans (.foldl (fun u n => ?_) _ _)
    split
    · exact domainsOnly_mcRas u _ _
    · exact .refl u

/-- Registers alone are set after the rest of a reset. -/
theorem resetAll_eq (s : State) (t : ResetType) : s.resetAll t = { s.resetBase t with csr := (s.resetAll t).csr } := by
  by_cases h : t = .powerOn
  · subst h; rfl
  · exact (domainsOnly_resetAll s h).1

theorem gone_resetAll (s : State) (t : ResetType) : Gone s (s.resetAll t) := by
  rw [resetAll_eq]
  exact gone_resetBase s t

/-- A register after a cold or warm reset, where the reset keeps it whole, and where it keeps nothing of it. -/
theorem resetAll_reg_kept (s : State) {t : ResetType} (h : t ≠ .powerOn) {r : Reg} (hr : keptFields t r = [(63, 0)])
    (hd : ∀ n, r ≠ .dom n) (hm : ∀ n, r ≠ .mcRas n) : (s.resetAll t).reg r = s.reg r :=
  ((domainsOnly_resetAll s h).2 r hd hm).trans ((reg_resetBase s t r).trans (keptCsr_whole s hr))

theorem resetAll_reg_lost (s : State) {t : ResetType} (h : t ≠ .powerOn) {r : Reg} (hr : keptFields t r = [])
    (hd : ∀ n, r ≠ .dom n) (hm : ∀ n, r ≠ .mcRas n) : (s.resetAll t).reg r = r.reset :=
  ((domainsOnly_resetAll s h).2 r hd hm).trans ((reg_resetBase s t r).trans (keptCsr_lost s hr))

/-- No DRAM is left by a reset broader than a warm one. -/
theorem resetAll_above (s : State) {t : ResetType} (h : t ≠ .warm) : ∀ c ∈ (s.resetAll t).m.mem, 0x100000000000 ≤ c.1 := by
  have hm : (resetMem s t).m.mem = s.dropUpdate.memCold.m.mem := by rw [resetMem, if_neg h]; rfl
  rw [resetAll_eq]
  change ∀ c ∈ (resetMem s t).m.mem, _
  rw [hm]
  exact memCold_above _

theorem resetAll_log (s : State) (t : ResetType) : (s.resetAll t).log = s.log := by
  have hbase : (s.resetBase t).log = (resetMem s t).log := rfl
  rw [resetAll_eq]
  exact hbase.trans (by rw [(resetMem_frame s t).1])

theorem now_resetAll (s : State) {t : ResetType} (h : t ≠ .powerOn) : (s.resetAll t).now = s.now := by
  have hbase : (s.resetBase t).rtu.cnt = (resetMem s t).rtu.cnt := by
    cases t with
    | powerOn => exact absurd rfl h
    | cold => rfl
    | warm => rfl
  have hrtu : (resetMem s t).rtu = s.rtu := by rw [(resetMem_frame s t).1]
  rw [resetAll_eq]
  exact hbase.trans (congrArg RtuState.cnt hrtu)

theorem resetAll_boot (s : State) (t : ResetType) : (s.resetAll t).boot = { s.boot with
    flash := s.dropUpdate.boot.flash, resetting := some t, draining := false, update := none, saveSet := false
    pins := { s.boot.pins with perstHigh := [], thermAlert := s.ras.alert && t != .powerOn } } := by
  have hbase : (s.resetBase t).boot = { (resetMem s t).boot with
      resetting := some t, draining := false, update := none, saveSet := false
      pins := { (resetMem s t).boot.pins with perstHigh := [], thermAlert := (resetMem s t).ras.alert && t != .powerOn } } := rfl
  rw [resetAll_eq]
  exact hbase.trans (by rw [(resetMem_frame s t).1])

/-! ### Power-on reset (R30) -/

/-- What a power-on reset leaves. -/
def PowerOnReset (s t : State) : Prop :=
  Gone s t ∧ t.boot.pins.pwrok = false ∧ t.now = 0 ∧ (∀ c ∈ t.m.mem, 0x100000000000 ≤ c.1) ∧
  t.log.entries = s.log.entries ∧ ∀ r, r ≠ .dom 415 → r ≠ .dom 416 → r ≠ .stwDevid → t.reg r = r.reset

theorem resetAll_powerOn_csr (s : State) : (s.resetAll .powerOn).csr = State.resetCsr := by
  have hcsr : (resetMem s .powerOn).csr = s.csr := by rw [(resetMem_frame s .powerOn).1]
  have hkept : (s.resetBase .powerOn).csr = [] :=
    (congrArg (List.filterMap fun p : Reg × DWord => keptReg .powerOn p.1 p.2) hcsr).trans (keptCsr_powerOn s)
  change State.resetCsr ++ (s.resetBase .powerOn).csr = _
  rw [hkept, List.append_nil]

theorem powerOnReset_effects (s : State) : PowerOnReset s s.powerOnReset := by
  have hgone := gone_resetAll s .powerOn
  have hmem := resetAll_above s (t := .powerOn) (by decide)
  have hcsr := resetAll_powerOn_csr s
  have hlog := resetAll_log s .powerOn
  have hnow : (s.resetAll .powerOn).now = 0 := rfl
  have hboot := resetAll_boot s .powerOn
  unfold State.powerOnReset
  generalize s.resetAll .powerOn = u at hgone hmem hcsr hlog hnow hboot ⊢
  refine ⟨gone_boot hgone rfl (congrArg BootState.fuses hboot :), rfl, hnow, hmem, (congrArg LogState.entries hlog :),
    fun r h415 h416 hid => (reg_setReg_other _ _ hid).trans ?_⟩
  exact (congrArg (fun m : Map Reg DWord => m.getD r r.reset) hcsr).trans (reg_reset h415 h416)

/-! ### Cold reset (R39) -/

/-- What a cold reset leaves. -/
def ColdReset (s t : State) : Prop :=
  Gone s t ∧ t.boot.resetting = some .cold ∧ t.phase = 3 ∧ (∀ c ∈ t.m.mem, 0x100000000000 ≤ c.1) ∧ t.now = s.now ∧
  t.reg .rtuLoad = s.reg .rtuLoad ∧ t.reg .stwDevid = s.reg .stwDevid ∧ ∀ b i, t.reg (.ebStat b i) = (Reg.ebStat b i).reset

/-- A cold reset but for its log entries is the common part and a boot status that goes back to phase 3. -/
theorem coldReset_eq (s : State) (cause : Nat) : ∃ l w,
    s.coldReset cause = ((({ s with log := l } : State).resetAll .cold).setReg .stwBootstat w).setPhase 3 := by
  have hlog : LogOnly s (((s.toLog 0x0003 0 false [1, dw cause]).copyRecords).logFlush) :=
    ((logOnly_toLog s _ _ _ _).trans (logOnly_copyRecords _)).trans (logOnly_logFlush _)
  unfold State.coldReset
  generalize ((s.toLog 0x0003 0 false [1, dw cause]).copyRecords).logFlush = u at hlog
  exact ⟨u.log, _, by rw [← hlog]⟩

theorem resetAll_cold_leaves (s : State) (w : DWord) : ColdReset s (((s.resetAll .cold).setReg .stwBootstat w).setPhase 3) := by
  have hgone := gone_resetAll s .cold
  have hmem := resetAll_above s (t := .cold) (by decide)
  have hnow := now_resetAll s (t := .cold) (by decide)
  have hboot := resetAll_boot s .cold
  have hload := resetAll_reg_kept s (t := .cold) (by decide) (r := .rtuLoad) rfl (by simp) (by simp)
  have hid := resetAll_reg_kept s (t := .cold) (by decide) (r := .stwDevid) rfl (by simp) (by simp)
  have hstat := fun b i => resetAll_reg_lost s (t := .cold) (by decide) (r := .ebStat b i) rfl (by simp) (by simp)
  generalize s.resetAll .cold = u at hgone hmem hnow hboot hload hid hstat
  have hreg : ∀ r, r ≠ .stwBootstat → ((u.setReg .stwBootstat w).setPhase 3).reg r = u.reg r := fun r hr =>
    (reg_setPhase _ _ hr).trans (reg_setReg_other _ _ hr)
  exact ⟨hgone, congrArg BootState.resetting hboot, phase_setPhase _ (by decide), hmem, hnow, (hreg _ (by simp)).trans hload,
    (hreg _ (by simp)).trans hid, fun b i => (hreg _ (by simp)).trans (hstat b i)⟩

theorem coldReset_leaves (s : State) (cause : Nat) : ColdReset s (s.coldReset cause) := by
  obtain ⟨l, w, heq⟩ := coldReset_eq s cause
  rw [heq]
  exact resetAll_cold_leaves { s with log := l } w

/-- With no update open a cold reset leaves the flash as it is. -/
theorem coldReset_flash {s : State} (cause : Nat) (h : s.boot.update = none) : (s.coldReset cause).boot.flash = s.boot.flash := by
  obtain ⟨l, w, heq⟩ := coldReset_eq s cause
  have hboot := resetAll_boot { s with log := l } .cold
  rw [dropUpdate_none (s := { s with log := l }) h] at hboot
  rw [heq]
  exact (congrArg BootState.flash hboot :)

/-! ### Warm reset (R31, R32, R182) -/

/-- What a warm reset leaves. -/
def WarmReset (s t : State) : Prop :=
  Gone s t ∧ t.boot.resetting = some .warm ∧ t.boot.draining = false ∧ t.phase = 6 ∧
  t.m.mem = s.m.mem ∧ t.now = s.now ∧ t.reg .rtuLoad = s.reg .rtuLoad ∧ t.reg .stwDevid = s.reg .stwDevid ∧
  (∀ b i, t.reg (.ebStat b i) = s.reg (.ebStat b i)) ∧ t.boot.cfg = s.boot.cfg ∧ t.boot.fwSel = s.boot.fwSel ∧
  (∀ n, (t.mcAt n).trained = (s.mcAt n).trained) ∧
  ∀ p, s.role p = .endpoint → (t.port p).ep = { (s.port p).ep with winOpen := false }

theorem warmReset_eq (s : State) : ∃ l, s.warmReset = (({ s with log := l } : State).resetAll .warm).setPhase 6 := by
  have hlog := logOnly_drainLoss s
  unfold State.warmReset
  generalize s.drainLoss = u at hlog
  exact ⟨u.log, by rw [← hlog]⟩

theorem resetAll_warm_mem (s : State) : (s.resetAll .warm).m.mem = s.m.mem := by
  have hbase : (s.resetBase .warm).m.mem = s.dropUpdate.m.mem := rfl
  rw [resetAll_eq]
  exact hbase.trans (by rw [dropUpdate_eq])

theorem resetAll_warm_trained (s : State) (n : Nat) : ((s.resetAll .warm).mcAt n).trained = (s.mcAt n).trained := by
  have hbase : (s.resetBase .warm).mc = s.dropUpdate.mc.mapV fun _ m => m.at .warm := rfl
  have hmc : (s.resetAll .warm).mc = s.mc.mapV fun _ m => m.at .warm := by
    rw [resetAll_eq]
    exact hbase.trans (by rw [dropUpdate_eq])
  rw [State.mcAt, hmc, Map.getD, find_mapV, State.mcAt, Map.getD]
  cases s.mc.find n <;> rfl

theorem resetAll_warm_endpoint (s : State) (p : Nat) (h : s.role p = .endpoint) :
    ((s.resetAll .warm).port p).ep = { (s.port p).ep with winOpen := false } := by
  have hbase : (s.resetBase .warm).io = s.dropUpdate.ioWarm := rfl
  have hio : (s.resetAll .warm).io = s.ioWarm := by
    rw [resetAll_eq]
    exact hbase.trans (by rw [dropUpdate_eq]; rfl)
  rw [State.port, hio, State.ioWarm, Map.getD, find_mapV, State.port, Map.getD]
  cases s.io.find p with
  | none => rfl
  | some i =>
    rw [Option.map_some, if_pos h]
    rfl

theorem resetAll_warm_leaves (s : State) : WarmReset s ((s.resetAll .warm).setPhase 6) := by
  have kept := fun r => resetAll_reg_kept s (t := .warm) (by decide) (r := r)
  have hgone := gone_resetAll s .warm
  have hmem := resetAll_warm_mem s
  have hnow := now_resetAll s (t := .warm) (by decide)
  have hboot := resetAll_boot s .warm
  have hload := kept .rtuLoad rfl (by simp) (by simp)
  have hid := kept .stwDevid rfl (by simp) (by simp)
  have hstat := fun b i => kept (.ebStat b i) rfl (by simp) (by simp)
  have htrained := resetAll_warm_trained s
  have hep := resetAll_warm_endpoint s
  generalize s.resetAll .warm = u at hgone hmem hnow hboot hload hid hstat htrained hep
  have hreg : ∀ r, r ≠ .stwBootstat → (u.setPhase 6).reg r = u.reg r := fun r hr => reg_setPhase _ _ hr
  exact ⟨hgone, congrArg BootState.resetting hboot, congrArg BootState.draining hboot, phase_setPhase _ (by decide), hmem, hnow,
    (hreg _ (by simp)).trans hload, (hreg _ (by simp)).trans hid, fun b i => (hreg _ (by simp)).trans (hstat b i),
    (congrArg BootState.cfg hboot :), (congrArg BootState.fwSel hboot :), htrained, hep⟩

theorem warmReset_leaves (s : State) : WarmReset s s.warmReset := by
  obtain ⟨l, heq⟩ := warmReset_eq s
  rw [heq]
  exact resetAll_warm_leaves { s with log := l }

/-! ### A warm reset requested (R33, R182) -/

/-- Endpoint windows closed, and no other part of a port changed. -/
theorem closeWindows_ep (s : State) (p : Nat) : (s.closeWindows.port p).ep = { (s.port p).ep with winOpen := false } := by
  rw [State.port, State.closeWindows, Map.getD, find_mapV, State.port, Map.getD]
  cases s.io.find p <;> rfl

/-- A warm reset requested where none is under way, before the stores drain. -/
def warmAsked (s : State) (cause : Nat) : State := (s.toLog 0x0003 0 false [0, dw cause]).closeWindows

theorem warmAsked_eq (s : State) (cause : Nat) : ∃ l, warmAsked s cause = State.closeWindows { s with log := l } := by
  have hlog := logOnly_toLog s 0x0003 0 false [0, dw cause]
  unfold warmAsked
  generalize s.toLog 0x0003 0 false [0, dw cause] = u at hlog
  exact ⟨u.log, by rw [← hlog]⟩

section Request
variable {s : State} (hp : s.boot.pins.pwrok = true) (ht : s.boot.pins.thermTrip = false)
include hp ht

theorem live_hears : ¬((!s.boot.pins.pwrok) = true ∨ s.boot.pins.thermTrip = true) := by
  rw [hp, ht]
  decide

/-- Log entry 22: a warm reset asked for where start-up has stopped is a cold one. -/
theorem requestReset_stopped (hs : s.stoppedBoot = true) (cause : Nat) : s.requestReset .warm cause = s.coldReset cause := by
  rw [State.requestReset, if_neg (live_hears hp ht)]
  simp only [hs, and_self, if_true]

variable (hs : s.stoppedBoot = false)
include hs

theorem requestReset_warm (hr : s.boot.resetting = none) (cause : Nat) : s.requestReset .warm cause =
    if s.drained then (warmAsked s cause).warmReset
    else { warmAsked s cause with boot := { (warmAsked s cause).boot with resetting := some .warm, draining := true } } := by
  have hd : (warmAsked s cause).drained = s.drained := by
    obtain ⟨l, heq⟩ := warmAsked_eq s cause
    rw [heq]
    rfl
  rw [State.requestReset, if_neg (live_hears hp ht), ← hd]
  simp only [hs, hr, Bool.false_eq_true, and_false, if_false]
  rfl

/-- R33: a request during an equal or broader reset is recorded and discarded. -/
theorem requestReset_discarded (hr : s.boot.resetting ≠ none) (cause : Nat) :
    s.requestReset .warm cause = s.toLog 0x0003 0 false [0, dw (256 + cause)] := by
  obtain ⟨r, hr⟩ := Option.ne_none_iff_exists'.1 hr
  rw [State.requestReset, if_neg (live_hears hp ht)]
  simp [hs, hr]

end Request

theorem warmAsked_warmReset (s : State) (cause : Nat) : WarmReset s (warmAsked s cause).warmReset := by
  obtain ⟨l, heq⟩ := warmAsked_eq s cause
  have hep := closeWindows_ep { s with log := l }
  have hleaves := warmReset_leaves (State.closeWindows { s with log := l })
  rw [heq]
  generalize (State.closeWindows { s with log := l }).warmReset = t at hleaves
  obtain ⟨hgone, hreset, hdrain, hphase, hmem, hnow, hload, hid, hstat, hcfg, hsel, htrained, hports⟩ := hleaves
  refine ⟨hgone, hreset, hdrain, hphase, hmem, hnow, hload, hid, hstat, hcfg, hsel, htrained, fun p hr => (hports p hr).trans ?_⟩
  rw [hep]
  rfl

theorem warmAsked_drains (s : State) (cause : Nat) :
    let t := { warmAsked s cause with boot := { (warmAsked s cause).boot with resetting := some .warm, draining := true } }
    t.boot.resetting = some .warm ∧ t.boot.draining = true ∧ t.cores = s.cores ∧ t.ucores = s.ucores ∧ t.m = s.m ∧
      t.csr = s.csr ∧ ∀ p, (t.port p).ep.winOpen = false := by
  obtain ⟨l, heq⟩ := warmAsked_eq s cause
  have hep := closeWindows_ep { s with log := l }
  rw [heq]
  exact ⟨rfl, rfl, rfl, rfl, rfl, rfl, fun p => (congrArg EpState.winOpen (hep p) :)⟩

/-! ### The fatal sequence (R434) -/

theorem fatalSequence_acts {s : State} (h : s.sec.fatal = 1) : exec .fatalSequence s = .next (
    let v := (s.stopCores.claspAll).stopChans
    let w := (v.toLog 0x0001 3 false v.sec.fatalRec).logFlush
    if w.fld .fatalctl F.fatalctl.ACT = 1 then { w with sec := { w.sec with fatal := 2 } }
    else State.requestReset { w with sec := { w.sec with fatal := 0 } } .cold 2) := by
  change execFatalSequence s = _
  unfold execFatalSequence
  rw [if_neg (not_not.2 h)]

/-! ### Images received in recovery (R50) -/

section Recovery
variable {s : State} {k : Img}

/-- The flash with an image written into a bank. -/
def imageWritten (s : State) (k : Img) (b : Bool) (img : List Byte) : State :=
  (s.eraseFlash (k.base b) k.size).program (k.base b) (img.take k.size)

/-- The bank taken into use: its mark of failure goes. -/
def imageTaken (s : State) (k : Img) (b : Bool) (img : List Byte) : State :=
  let clear := fun (p : Bool × Bool) => if b then (p.1, false) else (false, p.2)
  (imageWritten s k b img).onBoot fun x => match k with
    | .cfg => { x with cfgFailed := clear x.cfgFailed }
    | _ => { x with fwFailed := clear x.fwFailed }

theorem imageTaken_boot (s : State) (k : Img) (b : Bool) (img : List Byte) :
    (imageTaken s k b img).boot.flash = (imageWritten s k b img).boot.flash ∧
      (imageTaken s k b img).boot.update = s.boot.update := by
  cases k <;> exact ⟨rfl, rfl⟩

/-- The image in its bank is valid, fits, and is newer than the other bank's where it must be. -/
def ImageGood (s : State) (k : Img) (b new : Bool) (img : List Byte) : Prop :=
  (imageWritten s k b img).valid k b = true ∧ img.length ≤ k.size ∧
    (new = true → newer ((imageWritten s k b img).seqOf k b) (s.seqOf k (!b)) = true)

theorem imageGood_iff (s : State) (k : Img) (b new : Bool) (img : List Byte) : ImageGood s k b new img ↔
    (imageWritten s k b img).valid k b = true ∧ img.length ≤ k.size ∧
      ((!new) = true ∨ newer ((imageWritten s k b img).seqOf k b) (s.seqOf k (!b)) = true) := by
  have hnew : ∀ q : Bool, (new = true → q = true) ↔ ((!new) = true ∨ q = true) := by cases new <;> simp
  rw [ImageGood, hnew]

theorem recoveryImage_nowhere (h : s.recoveryBank k = none) (img : List Byte) : s.recoveryImage k img = s := by
  unfold State.recoveryImage
  rw [h]

theorem recoveryImage_taken {b new : Bool} (h : s.recoveryBank k = some (b, new)) {img : List Byte}
    (hg : ImageGood s k b new img) : s.recoveryImage k img = (imageTaken s k b img).coldReset 4 := by
  unfold State.recoveryImage
  rw [h]
  exact if_pos ((imageGood_iff s k b new img).1 hg)

theorem recoveryImage_bad {b new : Bool} (h : s.recoveryBank k = some (b, new)) {img : List Byte}
    (hg : ¬ImageGood s k b new img) : s.recoveryImage k img = s := by
  unfold State.recoveryImage
  rw [h]
  exact if_neg fun hgood => hg ((imageGood_iff s k b new img).2 hgood)

theorem recoveryFrame_addressed {f : NetFrame} {n : NetIf} (hn : s.recoveryNet = some n) (hv : f.vlan.toNat = n.vlan)
    (hd : f.dest = n.linkLocal) : s.recoveryFrame f = true := by
  unfold State.recoveryFrame
  rw [hn]
  exact Bool.and_eq_true_iff.2 ⟨beq_iff_eq.2 hv, beq_iff_eq.2 hd⟩

/-- The Steward listens: a frame, where one brings the image, is addressed to it (R47). -/
theorem recoveryImageReceived_heard {fw : Bool} {tftp : Option NetFrame} (hp : s.boot.pins.pwrok = true)
    (hr : s.flag .stwBootstat F.stwBootstat.RCVR = true)
    (hf : ∀ f, tftp = some f → ∃ n, s.recoveryNet = some n ∧ f.vlan.toNat = n.vlan ∧ f.dest = n.linkLocal) (img : List Byte) :
    exec (.recoveryImageReceived fw tftp img) s = .next (s.recoveryImage (if fw then .fw else .cfg) img) := by
  have heard : (tftp.map s.recoveryFrame).getD true = true := by
    cases tftp with
    | none => rfl
    | some f =>
      obtain ⟨n, hn, hv, hd⟩ := hf f rfl
      exact recoveryFrame_addressed hn hv hd
  exact congrArg Host.Outcome.next (if_pos ⟨hp, hr, heard⟩)

end Recovery

/-! ### An update that times out (R51, R53) -/

theorem cellGet_filter_out (d : Byte) (m : List Host.Cell) {p : Host.Cell → Bool} {a : Nat} (h : ∀ v, p (a, v) = false) :
    cellGet d (m.filter p) a = d := by
  induction m with
  | nil => rfl
  | cons c m ih =>
    obtain ⟨j, v⟩ := c
    by_cases hp : p (j, v) = true
    · have hj : j ≠ a := by rintro rfl; rw [h] at hp; exact Bool.false_ne_true hp
      rw [List.filter_cons_of_pos hp, cellGet, if_neg hj, ih]
    · rw [List.filter_cons_of_neg hp, ih]

theorem cellGet_filter_in (d : Byte) (m : List Host.Cell) {p : Host.Cell → Bool} {a : Nat} (h : ∀ v, p (a, v) = true) :
    cellGet d (m.filter p) a = cellGet d m a := by
  induction m with
  | nil => rfl
  | cons c m ih =>
    obtain ⟨j, v⟩ := c
    by_cases hp : p (j, v) = true
    · rw [List.filter_cons_of_pos hp, cellGet, cellGet, ih]
    · have hj : j ≠ a := by rintro rfl; exact hp (h v)
      rw [List.filter_cons_of_neg hp, cellGet, if_neg hj, ih]

/-- The image banks and the error log share no byte of the flash (R40). -/
theorem bank_below_log {k : Img} (hk : k ≠ .tc) (b : Bool) : k.base b + k.size ≤ logBase := by
  cases k with
  | tc => exact absurd rfl hk
  | cfg => cases b <;> decide
  | fw => cases b <;> decide

theorem flash_byte (s : State) (a : Nat) :
    s.flash a 1 = if logBase ≤ a ∧ a < logEnd then s.log.bytes a 1 else [cellGet 0xFF s.boot.flash a] := rfl

theorem eraseFlash_in (s : State) {a n i : Nat} (h : a ≤ i ∧ i < a + n) (hl : a + n ≤ logBase) :
    (s.eraseFlash a n).flash i 1 = [0xFF] := by
  rw [flash_byte, if_neg (by omega)]
  exact congrArg (fun v => [v]) (cellGet_filter_out 0xFF s.boot.flash fun v => by simp; omega)

theorem eraseFlash_out (s : State) {a n i : Nat} (h : i < a ∨ a + n ≤ i) : (s.eraseFlash a n).flash i 1 = s.flash i 1 := by
  have hcell : cellGet 0xFF (s.eraseFlash a n).boot.flash i = cellGet 0xFF s.boot.flash i :=
    cellGet_filter_in 0xFF s.boot.flash fun v => by simpa using h
  rw [flash_byte, flash_byte, hcell]
  rfl

theorem flash_same {s t : State} (hf : t.boot.flash = s.boot.flash) (hl : t.log = s.log) (a n : Nat) :
    t.flash a n = s.flash a n := by rw [State.flash, State.flash, hf, hl]

/-- The image of an update's region. -/
def updateImg (u : Update) : Img := if u.region = 0 then .cfg else .fw

theorem dropUpdate_some {s : State} {u : Update} (h : s.boot.update = some u) : s.dropUpdate =
    (s.eraseFlash ((updateImg u).base u.bank) (updateImg u).size).onBoot fun b => { b with update := none } := by
  rw [State.dropUpdate, h]
  rfl

theorem dropUpdate_erases {s : State} {u : Update} (h : s.boot.update = some u) :
    let k := updateImg u
    (∀ a, k.base u.bank ≤ a → a < k.base u.bank + k.size → s.dropUpdate.flash a 1 = [0xFF]) ∧
    ∀ a, a < k.base u.bank ∨ k.base u.bank + k.size ≤ a → s.dropUpdate.flash a 1 = s.flash a 1 := by
  have hk : updateImg u ≠ .tc := by
    unfold updateImg
    split <;> decide
  have hflash : ∀ a, s.dropUpdate.flash a 1 = (s.eraseFlash ((updateImg u).base u.bank) (updateImg u).size).flash a 1 := by
    rw [dropUpdate_some h]
    exact fun a => flash_same rfl rfl a 1
  intro k
  exact ⟨fun a hl hu => (hflash a).trans (eraseFlash_in s ⟨hl, hu⟩ (bank_below_log hk _)),
    fun a ha => (hflash a).trans (eraseFlash_out s ha)⟩

/-! ### The statement -/

/-- Settles O45: what each reset leaves by `powerOnReset_effects`, `coldReset_leaves` and `warmReset_leaves`, which one a
request starts by the lemmas on `requestReset`, and images by those on `recoveryImage` and `dropUpdate`. -/
theorem resetEffects : Obligations.ResetEffects := by
  unfold Obligations.ResetEffects
  refine ⟨fun s => ?_, fun s fw tftp img => ?_⟩
  · intro Gone PowerOn Cold Warm
    refine ⟨⟨_, rfl, powerOnReset_effects s⟩, fun _ => ⟨_, rfl, powerOnReset_effects s⟩, fun hp ht => ⟨fun hs => ?_,
      fun hr hs => ⟨fun hd => ?_, fun hd => ?_⟩, fun hr hs => ?_⟩, fun hd => ?_, fun hd => ?_, fun hf => ?_⟩
    · exact ⟨_, congrArg Host.Outcome.next (requestReset_stopped hp ht hs 0), coldReset_leaves s 0⟩
    · exact ⟨_, congrArg Host.Outcome.next ((requestReset_warm hp ht hs hr 0).trans (if_pos hd)), warmAsked_warmReset s 0⟩
    · exact ⟨_, congrArg Host.Outcome.next ((requestReset_warm hp ht hs hr 0).trans (if_neg (by rw [hd]; decide))),
        warmAsked_drains s 0⟩
    · exact ⟨_, congrArg Host.Outcome.next (requestReset_discarded hp ht hs hr 0), logOnly_toLog _ _ _ _ _,
        fun hq => toLog_queue _ _ _ _ _ hq⟩
    · exact ⟨_, congrArg Host.Outcome.next (if_pos hd), warmReset_leaves s⟩
    · exact congrArg Host.Outcome.next (if_neg (by rw [hd]; decide))
    · exact fatalSequence_acts hf
  · intro k strap
    refine ⟨fun hp hr hf => ⟨fun hb => ?_, fun b new hb => ⟨fun hbad => ?_, fun hgood hu => ?_⟩⟩,
      recoveryBank_neither, fun b => recoveryBank_one, fun b => recoveryBank_both, fun u hu => ?_, fun hu => ?_⟩
    · rw [recoveryImageReceived_heard hp hr hf, recoveryImage_nowhere hb]
    · rw [recoveryImageReceived_heard hp hr hf, recoveryImage_bad hb hbad]
    · obtain ⟨hflash, hupdate⟩ := imageTaken_boot s k b img
      obtain ⟨⟨hcores, -⟩, hreset, hphase, -⟩ := coldReset_leaves (imageTaken s k b img) 4
      refine ⟨(imageTaken s k b img).coldReset 4, ?_, hphase, hreset, hcores,
        (coldReset_flash 4 (hupdate.trans hu)).trans hflash⟩
      rw [recoveryImageReceived_heard hp hr hf, recoveryImage_taken hb hgood]
    · obtain ⟨hin, hout⟩ := dropUpdate_erases hu
      refine ⟨_, rfl, ?_, hin, hout, dropUpdate_eq s⟩
      rw [dropUpdate_some hu]
      rfl
    · exact congrArg Host.Outcome.next (dropUpdate_none hu)

end Sys2Proof.Proofs
end

section
/-! PROOFS. The Steward's mailboxes (R56-R66): completion, and each command served. -/

namespace Sys2Proof.Proofs
open Sys2Proof.Machine Sys2Proof.Laws

/-! ### Completion (R57, R58) -/

/-- The first `n` results put into the mailbox. -/
def mbResults (s : State) (m : Fin 5) (res : List DWord) (n : Nat) : State :=
  (List.range n).foldl (fun s k => s.setReg (.mbRes m (ix 8 k)) (res.getD k 0)) s

theorem mbResults_succ (s : State) (m : Fin 5) (res : List DWord) (n : Nat) :
    mbResults s m res (n + 1) = (mbResults s m res n).setReg (.mbRes m (ix 8 n)) (res.getD n 0) := by
  rw [mbResults, List.range_succ, List.foldl_append]
  rfl

theorem mbResults_frame (s : State) (m : Fin 5) (res : List DWord) (n : Nat) :
    mbResults s m res n = { s with csr := (mbResults s m res n).csr } ∧
      ∀ q, (∀ k, q ≠ .mbRes m k) → (mbResults s m res n).reg q = s.reg q := by
  induction n with
  | zero => exact ⟨rfl, fun _ _ => rfl⟩
  | succ n ih =>
    rw [mbResults_succ]
    exact ⟨congrArg (State.setReg · (.mbRes m (ix 8 n)) (res.getD n 0)) ih.1,
      fun q hq => (reg_setReg_other _ _ (hq _)).trans (ih.2 q hq)⟩

theorem reg_mbResults (s : State) (m : Fin 5) (res : List DWord) {n : Nat} (hn : n ≤ 8) (k : Fin 8) :
    (mbResults s m res n).reg (.mbRes m k) = if k.val < n then res.getD k.val 0 else s.reg (.mbRes m k) := by
  induction n with
  | zero => rfl
  | succ n ih =>
    have hix : (ix 8 n).val = n := Nat.mod_eq_of_lt hn
    rw [mbResults_succ, reg_setReg, ih (by omega)]
    by_cases e : k.val = n
    · have hk : k = ix 8 n := Fin.ext (e.trans hix.symm)
      rw [if_pos (by rw [hk]), if_pos (by omega), e]
    · have hk : Reg.mbRes m k ≠ .mbRes m (ix 8 n) := fun h => e ((congrArg Fin.val (Reg.mbRes.inj h).2).trans hix)
      rw [if_neg hk]
      by_cases hlt : k.val < n
      · rw [if_pos hlt, if_pos (by omega)]
      · rw [if_neg hlt, if_neg (by omega)]

theorem reg_onBoot (s : State) (f : BootState → BootState) (r : Reg) : (s.onBoot f).reg r = s.reg r := rfl
theorem fld_onBoot (s : State) (f : BootState → BootState) (r : Reg) (p : Place) : (s.onBoot f).fld r p = s.fld r p := rfl
theorem flag_onBoot (s : State) (f : BootState → BootState) (r : Reg) (p : Place) : (s.onBoot f).flag r p = s.flag r p := rfl

/-- Results and status entered, GO cleared and DONE set: all of a completion but its signal. -/
def mbEntered (s : State) (m : Fin 5) (st : Nat) (res : List DWord) : State :=
  let s := mbResults s m res 8
  let s := ((s.setFld (.mbSts m) F.mbSts.STATUS st).setFld (.mbSts m) F.mbSts.TAG (s.fld (rMb m) F.mbCmd.TAG)).setFld
    (.mbSts m) F.mbSts.DONE 1
  (s.setFld (rMb m) F.mbCmd.GO 0).onBoot fun b => { b with mbLast := m }

theorem mbDone_eq (s : State) (m : Fin 5) (st : Nat) (res : List DWord) : s.mbDone m st res =
    if (mbEntered s m st res).flag (rMb m) F.mbCmd.IRQ_EN then (mbEntered s m st res).mbSignal m else mbEntered s m st res := rfl

theorem mbEntered_effects (s : State) (m : Fin 5) {st : Nat} (res : List DWord) (hst : st < 2 ^ 16) :
    let t := mbEntered s m st res
    t.flag (rMb m) F.mbCmd.IRQ_EN = s.flag (rMb m) F.mbCmd.IRQ_EN ∧
    t.fld (.mbSts m) F.mbSts.STATUS = st ∧ t.fld (.mbSts m) F.mbSts.TAG = s.fld (.mbCmd m) F.mbCmd.TAG ∧
    t.flag (.mbSts m) F.mbSts.DONE = true ∧ t.flag (.mbCmd m) F.mbCmd.GO = false ∧
    (∀ k : Fin 8, t.reg (.mbRes m k) = res.getD k.val 0) ∧ t = { s with csr := t.csr, boot := { s.boot with mbLast := m } } := by
  intro t
  obtain ⟨hframe, hreg⟩ := mbResults_frame s m res 8
  have hres := reg_mbResults s m res (le_refl 8)
  simp only [t, mbEntered]
  generalize mbResults s m res 8 = u at hframe hreg hres ⊢
  have hcmd : u.reg (rMb m) = s.reg (rMb m) := hreg _ (by simp)
  have htag : u.fld (rMb m) F.mbCmd.TAG < 2 ^ 8 := Nat.mod_lt _ (by decide)
  rw [flag_onBoot, fld_onBoot, fld_onBoot, flag_onBoot, flag_onBoot]
  refine ⟨?_, ?_, ?_, ?_, flag_setFld_zero _ _ 31 (by decide), fun k => ?_, ?_⟩
  · rw [State.flag, fld_setFld_place _ _ _ _ _ (by decide), fld_setFld_other _ _ _ _ (by simp),
      fld_setFld_other _ _ _ _ (by simp), fld_setFld_other _ _ _ _ (by simp), State.fld, hcmd, State.flag, State.fld]
  · rw [fld_setFld_other _ _ _ _ (by simp), fld_setFld_place _ _ _ _ _ (by decide), fld_setFld_place _ _ _ _ _ (by decide),
      fld_setFld_same _ _ _ _ (by decide)]
    exact Nat.mod_eq_of_lt hst
  · rw [fld_setFld_other _ _ _ _ (by simp), fld_setFld_place _ _ _ _ _ (by decide), fld_setFld_same _ _ _ _ (by decide)]
    exact (Nat.mod_eq_of_lt htag).trans (congrArg (getF · F.mbCmd.TAG) hcmd)
  · rw [flag_setFld_other _ _ _ _ (by simp)]
    exact flag_setFld_b2n _ _ 31 true (by decide)
  · rw [reg_onBoot, reg_setFld_other _ _ _ (by simp), reg_setFld_other _ _ _ (by simp), reg_setFld_other _ _ _ (by simp),
      reg_setFld_other _ _ _ (by simp), hres, if_pos k.isLt]
  · rw [hframe]
    rfl

/-- A completion without an interrupt asked for. -/
theorem mbDone_quiet (s : State) (m : Fin 5) {st : Nat} (res : List DWord) (hst : st < 2 ^ 16)
    (h : s.flag (.mbCmd m) F.mbCmd.IRQ_EN = false) : s.mbDone m st res = mbEntered s m st res := by
  rw [mbDone_eq, (mbEntered_effects s m res hst).1, h]
  rfl

/-! ### A command that is served -/

section Served
variable {m : Fin 5} {s : State}

/-- The one thing a command that waits does: its own meaning, then its completion. -/
theorem mbRun_waits {code : Nat} (h : MailWaits m code s) (f : State → Nat × List DWord × State) :
    s.mbRun m code f = (f s).2.2.mbDone m (f s).1 (f s).2.1 := by
  obtain ⟨hserves, hlisted⟩ := h
  rw [State.mbRun, if_neg (by rw [hserves]; decide), if_neg (by rw [hlisted]; decide)]

/-- The same where the meaning is known. -/
theorem mbRun_answers {code : Nat} (h : MailWaits m code s) {f : State → Nat × List DWord × State} {st : Nat}
    {res : List DWord} {t : State} (hf : f s = (st, res, t)) : s.mbRun m code f = t.mbDone m st res := by
  rw [mbRun_waits h, hf]


/-! ### Information -/

/-- Installed memory as GET_INFO counts it, in MiB. -/
def installedMib (s : State) : Nat :=
  s.mc.foldl (fun n p => n + p.2.dimms.foldl (fun n d => n + 1024 * d.gib.toNat) 0) 0

theorem getInfo_serves (h : MailWaits m 0x01 s) : exec (.getInfo m) s = .next (s.mbDone m stOk
    [s.reg .stwDevid, Config.coreSummary ((List.range 256).filter fun c => !s.noCore c), dw (installedMib s)]) :=
  congrArg Host.Outcome.next (mbRun_answers h rfl)

theorem getBootstat_serves (h : MailWaits m 0x02 s) : exec (.getBootstat m) s = .next (s.mbDone m stOk [s.reg .stwBootstat,
    Config.bankSummary s.boot.cfgSel s.boot.fwSel (s.seqOf .cfg s.boot.cfgSel) (s.seqOf .fw s.boot.fwSel)]) :=
  congrArg Host.Outcome.next (mbRun_answers h rfl)

theorem telemetryRead_serves (h : MailWaits m 0x09 s) (hc : s.mbArg m 0 ≤ 6) : exec (.telemetryRead m) s =
    .next (s.mbDone m stOk ((List.range 8).map fun k => s.telemetry (s.mbArg m 0) (s.mbArg m 1 + k))) :=
  congrArg Host.Outcome.next (mbRun_answers h (if_pos (by simpa using hc)))

theorem errlogRead_serves (h : MailWaits m 0x0A s) {e : LogEntry}
    (he : (s.log.entries.filter fun e => m.val != 0 || !e.trusted).reverse[s.mbArg m 0]? = some e) :
    exec (.errlogRead m) s = .next (s.mbDone m stOk e.words) := by
  refine congrArg Host.Outcome.next (mbRun_answers h ?_)
  dsimp only
  rw [he]

/-- The 56 bytes of a certificate from an offset, as GET_SIGNET answers them. -/
def signetWords (s : State) (c off : Nat) : List DWord :=
  let len := Config.certificateLen s.boot.fuses.engineering s.boot.measures c
  let byte := fun i => if i < len then Config.certificate s.boot.fuses.engineering s.boot.measures c i else 0
  (List.range 7).map fun w => dw (leNat ((List.range 8).map fun k => byte (off + 8 * w + k)))

theorem getSignet_refused (h : MailWaits m 0x0B s) (hc : 3 ≤ s.mbArg m 0) :
    exec (.getSignet m) s = .next (s.mbDone m stBadarg []) :=
  congrArg Host.Outcome.next (mbRun_answers h (if_pos hc))

theorem getSignet_serves (h : MailWaits m 0x0B s) (hc : s.mbArg m 0 < 3) : exec (.getSignet m) s = .next (s.mbDone m stOk
    (dw (Config.certificateLen s.boot.fuses.engineering s.boot.measures (s.mbArg m 0)) ::
      signetWords s (s.mbArg m 0) (s.mbArg m 1))) :=
  congrArg Host.Outcome.next (mbRun_answers h (if_neg (Nat.not_le.2 hc)))

/-! ### Reset, cores, power -/

theorem reset_serves (h : MailWaits m 0x06 s) (ha : s.mbArg m 0 ≤ 1) : exec (.reset m) s =
    .next ((s.mbDone m stOk []).requestReset (if s.mbArg m 0 = 1 then .cold else .warm) 1) := by
  have hgo : (s.mbServes m 0x06 && mbListed 0x06 m.val s.boot.cfg.nwReset && decide (s.mbArg m 0 ≤ 1)) = true := by
    rw [h.1, h.2, decide_eq_true ha]
    rfl
  refine congrArg Host.Outcome.next ((if_pos hgo).trans ?_)
  rw [mbRun_answers h rfl, if_pos ha]

theorem coreRelease_serves (h : MailWaits m 0x07 s) (hc : s.mbArg m 0 < 256) (ha : s.mbArg m 1 % 4 = 0) :
    exec (.coreRelease m) s = .next (
      if 6 < s.phase ∧ s.stoppedBoot = false ∧ s.noCore (s.mbArg m 0) = false ∧ (s.core (s.mbArg m 0)).run = .held
      then (s.release (s.mbArg m 0) (dw (s.mbArg m 1))).mbDone m stOk [] else s.mbDone m stDenied []) := by
  have hmay : ((!s.mayRelease) = true ∨ s.noCore (s.mbArg m 0) = true ∨ (s.core (s.mbArg m 0)).run ≠ .held) ↔
      ¬(6 < s.phase ∧ s.stoppedBoot = false ∧ s.noCore (s.mbArg m 0) = false ∧ (s.core (s.mbArg m 0)).run = .held) := by
    simp only [State.mayRelease, Bool.not_eq_true', Bool.and_eq_false_iff, decide_eq_false_iff_not, Bool.not_eq_false',
      ne_eq, not_and_or, Bool.not_eq_false, or_assoc]
  refine congrArg Host.Outcome.next ?_
  split
  · next hok =>
    exact mbRun_answers h ((if_neg (by omega)).trans ((if_neg (by omega)).trans (if_neg (fun hn => hmay.1 hn hok))))
  · next hno => exact mbRun_answers h ((if_neg (by omega)).trans ((if_neg (by omega)).trans (if_pos (hmay.2 hno))))

theorem setPower_serves (h : MailWaits m 0x08 s) : exec (.setPower m) s = .next (
    if 380 ≤ s.mbArg m 0 ∧ s.mbArg m 0 ≤ 700 then State.mbDone { s with ras := { s.ras with pkg := s.mbArg m 0 } } m stOk []
    else s.mbDone m stBadarg []) := by
  have hr : inRange 380 700 (s.mbArg m 0) = true ↔ 380 ≤ s.mbArg m 0 ∧ s.mbArg m 0 ≤ 700 := by
    rw [inRange, Bool.and_eq_true, decide_eq_true_eq, decide_eq_true_eq]
  refine congrArg Host.Outcome.next ?_
  split
  · next hok => exact mbRun_answers h (if_pos (hr.2 hok))
  · next hno => exact mbRun_answers h (if_neg (fun hn => hno (hr.1 hn)))

theorem twRestart_serves (h : MailWaits m 0x0F s) : exec (.twRestart m) s =
    .next ((State.setFld { (if s.avail then s.servicesLost else s) with
      sec := { (if s.avail then s.servicesLost else s).sec with autoReload := false } } .twstate
        F.twstate.RESTARTING 1).mbDone m stOk []) :=
  congrArg Host.Outcome.next (mbRun_answers h rfl)

/-! ### Image update (R51-R53, R64) -/

/-- With no update open, the selected bank in recovery is the one that a start would choose. -/
theorem selected_recovery (k : Img) (hr : s.flag .stwBootstat F.stwBootstat.RCVR = true) (hu : s.boot.update = none) :
    s.selected k = s.pickBank k (s.bankOk k) := by
  unfold State.selected
  extract_lets chosen
  have hc : chosen = false := by simp only [chosen, hr]; rfl
  rw [if_neg (by rw [hc]; decide), hu]
  simp only [Bool.and_true]

/-- An update never writes the selected bank (R51). -/
theorem updateBank_not_selected {k : Img} (hu : s.boot.update = none) {b : Bool} (h : s.updateBank k = some b) :
    s.selected k ≠ some b := by
  unfold State.updateBank at h
  split at h
  · next hr =>
    obtain ⟨⟨b', new⟩, hbank, rfl⟩ := Option.map_eq_some_iff.1 h
    rw [selected_recovery k hr hu]
    exact recoveryBank_not_picked hbank
  · split at h
    · next hn => rw [hn]; exact (Option.some_ne_none b).symm
    · next b' hs =>
      obtain rfl := Option.some.inj h
      rw [hs]
      cases b' <;> decide


section Begin
variable (h : MailWaits m 0x03 s) (ha : s.mbArg m 0 ≤ 1) (hm : m.val = 0 → s.mbArg m 0 = 0) (f : Bool)
include h ha hm

theorem imageBegin_busy {u : Update} (hu : s.boot.update = some u) (hother : u.mb ≠ m.val) :
    exec (.imageBegin m f) s = .next (s.mbDone m stBusy []) := by
  refine congrArg Host.Outcome.next (mbRun_answers h ?_)
  dsimp only
  rw [if_neg (by omega), if_neg (by omega), hu]
  exact if_pos (bne_iff_ne.2 hother)

variable (hu : s.boot.update = none)
include hu

theorem imageBegin_nowhere (hb : s.updateBank (imgOf (s.mbArg m 0)) = none) :
    exec (.imageBegin m f) s = .next (s.mbDone m stDenied []) := by
  refine congrArg Host.Outcome.next (mbRun_answers h ?_)
  dsimp only
  rw [if_neg (by omega), if_neg (by omega), dropUpdate_none hu, hu, hb]
  rfl

theorem imageBegin_erases {b : Bool} (hb : s.updateBank (imgOf (s.mbArg m 0)) = some b) :
    let k := imgOf (s.mbArg m 0)
    let e := s.eraseFlash (k.base b) k.size
    exec (.imageBegin m f) s = .next (
      if f then State.mbDone { e with boot := { e.boot with update := some ⟨m.val, s.mbArg m 0, b⟩ } } m stOk [dw (b2n b)]
      else e.mbDone m stFlash []) := by
  refine congrArg Host.Outcome.next ((mbRun_waits h _).trans ?_)
  dsimp only
  rw [if_neg (by omega), if_neg (by omega), dropUpdate_none hu, hu, hb]
  cases f <;> rfl

end Begin

section Chunk
variable (h : MailWaits m 0x04 s) {u : Update} (hu : s.boot.update = some u) (hm : u.mb = m.val) (f : Bool)
include h hu hm

theorem imageChunk_selected (hs : s.selected (imgOf u.region) = some u.bank) :
    exec (.imageChunk m f) s = .next (s.mbDone m stBankActive []) := by
  refine congrArg Host.Outcome.next (mbRun_answers h ?_)
  dsimp only
  rw [hu]
  exact (if_neg (not_not.2 hm)).trans (if_pos hs)

theorem imageChunk_programs (hs : s.selected (imgOf u.region) ≠ some u.bank) {bs : List Byte} {s1 : State}
    (hc : s.chunk m = .ok (bs, s1)) (hn : s.mbArg m 0 + bs.length ≤ (imgOf u.region).size) :
    exec (.imageChunk m f) s = .next (
      if f then (s1.program ((imgOf u.region).base u.bank + s.mbArg m 0) bs).mbDone m stOk []
      else s1.dropUpdate.mbDone m stFlash []) := by
  refine congrArg Host.Outcome.next ((mbRun_waits h _).trans ?_)
  dsimp only
  rw [hu]
  dsimp only
  rw [if_neg (not_not.2 hm), if_neg hs, hc]
  dsimp only
  rw [if_neg (Nat.not_lt.2 hn)]
  cases f <;> rfl

end Chunk

section End
/-- In recovery a cold reset follows an image that is taken (R50). -/
theorem imageEnd_answers (h : MailWaits m 0x05 s) {f : Bool} {st : Nat} {res : List DWord} {t : State}
    (he : s.imageEnd m f = (st, res, t)) :
    exec (.imageEnd m f) s = .next (if s.flag .stwBootstat F.stwBootstat.RCVR = true ∧ st = stOk
      then (t.mbDone m st res).coldReset 4 else t.mbDone m st res) := by
  have htaken : (s.mbServes m 0x05 && mbListed 0x05 m.val s.boot.cfg.nwReset && (s.imageEnd m f).1 == stOk) = (st == stOk) := by
    rw [h.1, h.2, he]
    rfl
  change execImageEnd m f s = _
  unfold execImageEnd
  rw [htaken, mbRun_answers h he]
  simp only [beq_iff_eq]

theorem imageEnd_failed (h : MailWaits m 0x05 s) {f : Bool} {st : Nat} {res : List DWord} {t : State}
    (he : s.imageEnd m f = (st, res, t)) (hst : st ≠ stOk) : exec (.imageEnd m f) s = .next (t.mbDone m st res) := by
  rw [imageEnd_answers h he, if_neg fun hn => hst hn.2]

/-- The newest valid bank but for the one that an update has written. -/
def otherBank (s : State) (u : Update) : Option Bool :=
  s.pickBank (imgOf u.region) fun b => b != u.bank && s.bankOk (imgOf u.region) b

/-- An image newer than the other bank's, if that is valid (R52). -/
def Fresh (s : State) (u : Update) : Prop :=
  ∀ b, otherBank s u = some b → newer (s.seqOf (imgOf u.region) u.bank) (s.seqOf (imgOf u.region) b) = true

def staleImage (s : State) (u : Update) : Bool :=
  match otherBank s u with
  | some b => !newer (s.seqOf (imgOf u.region) u.bank) (s.seqOf (imgOf u.region) b)
  | none => false

theorem staleImage_iff (s : State) (u : Update) : staleImage s u = true ↔ ¬Fresh s u := by
  unfold Fresh staleImage
  cases otherBank s u <;> simp

/-- The update closed and its bank no longer marked failed. -/
def updateTaken (s : State) (u : Update) : State :=
  let clear := fun (p : Bool × Bool) => if u.bank then (p.1, false) else (false, p.2)
  { s with boot := { s.boot with
      update := none, cfgFailed := if u.region = 0 then clear s.boot.cfgFailed else s.boot.cfgFailed
      fwFailed := if u.region = 0 then s.boot.fwFailed else clear s.boot.fwFailed } }

/-- The boot state with an update closed, as IMAGE_END leaves it. -/
def closedBoot (u : Update) (x : BootState) : BootState :=
  match imgOf u.region with
  | .cfg => { x with update := none, cfgFailed := if u.bank then (x.cfgFailed.1, false) else (false, x.cfgFailed.2) }
  | _ => { x with update := none, fwFailed := if u.bank then (x.fwFailed.1, false) else (false, x.fwFailed.2) }

theorem closedBoot_eq (s : State) (u : Update) : s.onBoot (closedBoot u) = updateTaken s u := by
  unfold updateTaken closedBoot imgOf
  by_cases h : u.region = 0
  · simp only [if_pos h]; rfl
  · simp only [if_neg h]; rfl

variable {u : Update} (hu : s.boot.update = some u) (hm : u.mb = m.val)
  (hs : s.flag .stwBootstat F.stwBootstat.RCVR = false → s.selected (imgOf u.region) ≠ some u.bank)
include hu hm hs

/-- IMAGE_END of the mailbox whose update is open, for a bank that is not the selected one. -/
theorem imageEnd_open (f : Bool) : s.imageEnd m f =
    if (!f) = true then (stFlash, [], s.dropUpdate)
    else if (!s.valid (imgOf u.region) u.bank) = true then (stVerify, [], s.dropUpdate)
    else if staleImage s u = true then (stStale, [], s.dropUpdate)
    else (stOk, [dw (s.seqOf (imgOf u.region) u.bank)], updateTaken s u) := by
  have hsel : ¬(s.selected (imgOf u.region) = some u.bank ∧ (!s.flag .stwBootstat F.stwBootstat.RCVR) = true) :=
    fun hn => hs (by simpa using hn.2) hn.1
  unfold State.imageEnd
  rw [hu]
  dsimp only
  rw [if_neg (not_not.2 hm), if_neg hsel, ← closedBoot_eq]
  rfl

theorem imageEnd_flash : s.imageEnd m false = (stFlash, [], s.dropUpdate) :=
  (imageEnd_open hu hm hs false).trans (if_pos rfl)

theorem imageEnd_verify (hv : s.valid (imgOf u.region) u.bank = false) :
    s.imageEnd m true = (stVerify, [], s.dropUpdate) := by
  rw [imageEnd_open hu hm hs, if_neg (by decide), hv]
  rfl

theorem imageEnd_stale (hv : s.valid (imgOf u.region) u.bank = true) (hf : ¬Fresh s u) :
    s.imageEnd m true = (stStale, [], s.dropUpdate) := by
  rw [imageEnd_open hu hm hs, if_neg (by decide), hv, if_neg (by decide), if_pos ((staleImage_iff s u).2 hf)]

theorem imageEnd_fresh (hv : s.valid (imgOf u.region) u.bank = true) (hf : Fresh s u) :
    s.imageEnd m true = (stOk, [dw (s.seqOf (imgOf u.region) u.bank)], updateTaken s u) := by
  rw [imageEnd_open hu hm hs, if_neg (by decide), hv, if_neg (by decide), if_neg fun hn => (staleImage_iff s u).1 hn hf]

end End

/-! ### Fuses (R45, R63) -/

/-- The thermometer code of a version, as the fuses hold it. -/
theorem thermometer (n : Nat) : (1#64 <<< n - 1#64 : DWord) = BitVec.ofNat 64 (2 ^ n - 1) := by
  have hshift : (1#64 <<< n : DWord) = BitVec.ofNat 64 (2 ^ n) := by
    apply BitVec.eq_of_toNat_eq
    rw [BitVec.toNat_shiftLeft, Nat.shiftLeft_eq, BitVec.toNat_ofNat, BitVec.toNat_ofNat, Nat.one_mod, Nat.one_mul]
  obtain ⟨k, hk⟩ : ∃ k, 2 ^ n = k + 1 := ⟨2 ^ n - 1, (Nat.sub_add_cancel (Nat.two_pow_pos n)).symm⟩
  rw [hshift, hk, BitVec.ofNat_add, BitVec.add_sub_cancel, Nat.add_sub_cancel]

theorem svnCommit_serves (h : MailWaits m 0x0C s) : exec (.svnCommit m) s = .next (
    if s.boot.fwSvn < s.boot.cfgSvn then s.mbDone m stDenied []
    else State.mbDone { s with boot := { s.boot with fuses :=
      { s.boot.fuses with svnFuses := s.boot.fuses.svnFuses ||| BitVec.ofNat 64 (2 ^ s.boot.cfgSvn - 1) } } } m stOk []) := by
  rw [← thermometer]
  refine congrArg Host.Outcome.next ?_
  split
  · next hlt => exact mbRun_answers h (if_pos hlt)
  · next hge => exact mbRun_answers h (if_neg hge)

theorem keyRevoke_serves (h : MailWaits m 0x0D s) (hl : 1 ≤ s.mbArg m 0) (hu : s.mbArg m 0 ≤ 4)
    (hc : s.mbArg m 0 ≠ s.boot.cfgSlot) (hf : s.mbArg m 0 ≠ s.boot.fwSlot)
    (hr : s.boot.fuses.revoked.contains (s.mbArg m 0) = false) :
    exec (.keyRevoke m) s = .next (State.mbDone { s with boot := { s.boot with fuses :=
      { s.boot.fuses with revoked := s.boot.fuses.revoked ++ [s.mbArg m 0] } } } m stOk []) := by
  refine congrArg Host.Outcome.next (mbRun_answers h ?_)
  dsimp only
  rw [if_neg (by omega), if_neg (by simp [hc, hf]), State.onBoot, hr]
  rfl

/-- The hash that KEY_PROGRAM takes from its arguments. -/
def programmedHash (s : State) (m : Fin 5) : BitVec 384 :=
  BitVec.ofNat 384 (beNat ((List.range 6).flatMap fun i => leBytes 8 (s.mbArg m (1 + i))))

theorem keyProgram_denied (h : MailWaits m 0x0E s) (hl : 1 ≤ s.mbArg m 0) (hu : s.mbArg m 0 ≤ 4)
    (hk : s.boot.fuses.ownerHash.find (s.mbArg m 0) ≠ none) : exec (.keyProgram m) s = .next (s.mbDone m stDenied []) :=
  congrArg Host.Outcome.next (mbRun_answers h ((if_neg (by omega)).trans (if_pos (Option.isSome_iff_ne_none.2 hk))))

theorem keyProgram_serves (h : MailWaits m 0x0E s) (hl : 1 ≤ s.mbArg m 0) (hu : s.mbArg m 0 ≤ 4)
    (hk : s.boot.fuses.ownerHash.find (s.mbArg m 0) = none) :
    exec (.keyProgram m) s = .next (State.mbDone { s with boot := { s.boot with fuses :=
      { s.boot.fuses with ownerHash := s.boot.fuses.ownerHash.set (s.mbArg m 0) (programmedHash s m) } } } m stOk []) :=
  congrArg Host.Outcome.next (mbRun_answers h ((if_neg (by omega)).trans (if_neg (by simp [hk]))))

end Served

/-! ### The bytes of a hash (R63) -/

theorem leBytes_length (n v : Nat) : (leBytes n v).length = n := by
  induction n generalizing v with
  | zero => rfl
  | succ n ih => rw [leBytes, List.length_cons, ih]

theorem leBytes_getElem? {n v i : Nat} (h : i < n) : (leBytes n v)[i]? = some (BitVec.ofNat 8 (v / 256 ^ i)) := by
  induction n generalizing v i with
  | zero => omega
  | succ n ih =>
    cases i with
    | zero => rw [leBytes, List.getElem?_cons_zero, pow_zero, Nat.div_one]
    | succ i => rw [leBytes, List.getElem?_cons_succ, ih (by omega), Nat.div_div_eq_div_mul, pow_succ']

/-- Byte by byte, lists of one length in a row. -/
theorem flatMap_range_getElem? {α : Type} {f : Nat → List α} {w : Nat} (hw : ∀ i, (f i).length = w) {n i : Nat}
    (h : i < n * w) : ((List.range n).flatMap f)[i]? = (f (i / w))[i % w]? := by
  have hlen : ∀ n, ((List.range n).flatMap f).length = n * w := fun n => by simp [List.length_flatMap, hw]
  induction n with
  | zero => omega
  | succ n ih =>
    rw [List.range_succ, List.flatMap_append, List.flatMap_singleton]
    by_cases hi : i < n * w
    · rw [List.getElem?_append_left (by rw [hlen]; exact hi), ih hi]
    · have hlt : i - n * w < w := by rw [Nat.succ_mul] at h; omega
      have hdiv : i / w = n := by
        refine Nat.div_eq_of_lt_le ?_ h
        omega
      have hmod : i % w = i - n * w := by rw [Nat.mod_eq_sub, hdiv, Nat.mul_comm]
      rw [List.getElem?_append_right (by rw [hlen]; omega), hlen, hdiv, hmod]

/-- A byte of a big-endian number. -/
theorem beNat_byte {bs : List Byte} {i : Nat} {b : Byte} (h : bs[i]? = some b) :
    BitVec.ofNat 8 (beNat bs / 256 ^ (bs.length - 1 - i)) = b := by
  induction bs using List.reverseRecOn with
  | nil => cases h
  | append_singleton bs a ih =>
    have hnat : beNat (bs ++ [a]) = 256 * beNat bs + a.toNat := by rw [beNat, List.foldl_append]; rfl
    have ha : a.toNat < 256 := a.isLt
    rw [hnat, List.length_append, List.length_singleton, Nat.add_sub_cancel]
    by_cases hi : i < bs.length
    · rw [List.getElem?_append_left hi] at h
      obtain ⟨k, hk⟩ : ∃ k, bs.length = i + (k + 1) := ⟨bs.length - i - 1, by omega⟩
      have hprev := ih h
      have hdiv : (256 * beNat bs + a.toNat) / 256 = beNat bs := by omega
      rw [show bs.length - 1 - i = k by omega] at hprev
      rw [show bs.length - i = k + 1 by omega, pow_succ', ← Nat.div_div_eq_div_mul, hdiv, hprev]
    · rw [List.getElem?_append_right (Nat.not_lt.1 hi)] at h
      obtain ⟨hlast, hb⟩ := List.getElem?_eq_some_iff.1 h
      rw [List.length_singleton] at hlast
      rw [List.getElem_singleton] at hb
      rw [show bs.length - i = 0 by omega, pow_zero, Nat.div_one, ← hb]
      apply BitVec.eq_of_toNat_eq
      rw [BitVec.toNat_ofNat]
      omega

/-- A byte of a wide word. -/
theorem extractLsb'_ofNat_byte {w j : Nat} (h : j + 8 ≤ w) (v : Nat) :
    (BitVec.ofNat w v).extractLsb' j 8 = BitVec.ofNat 8 (v / 2 ^ j) := by
  apply BitVec.eq_of_getLsbD_eq
  intro i hi
  rw [BitVec.getLsbD_extractLsb', BitVec.getLsbD_ofNat, BitVec.getLsbD_ofNat, Nat.testBit_div_two_pow]
  simp only [hi, decide_true, Bool.true_and, Nat.add_comm]
  rw [decide_eq_true (by omega), Bool.true_and]

theorem programmedHash_byte (s : State) (m : Fin 5) {i : Nat} (hi : i < 48) :
    (programmedHash s m).extractLsb' (8 * (47 - i)) 8 =
      (s.reg (.mbArg m (ix 8 (1 + i / 8)))).extractLsb' (8 * (i % 8)) 8 := by
  have hlen : ∀ k, (leBytes 8 (s.mbArg m (1 + k))).length = 8 := fun k => leBytes_length 8 _
  have hbyte : ((List.range 6).flatMap fun k => leBytes 8 (s.mbArg m (1 + k)))[i]? =
      some (BitVec.ofNat 8 (s.mbArg m (1 + i / 8) / 256 ^ (i % 8))) :=
    (flatMap_range_getElem? hlen hi).trans (leBytes_getElem? (Nat.mod_lt _ (by decide)))
  have hall : ((List.range 6).flatMap fun k => leBytes 8 (s.mbArg m (1 + k))).length = 48 := by
    rw [List.length_flatMap]
    simp only [hlen]
    rfl
  have hpow : ∀ n, 2 ^ (8 * n) = 256 ^ n := fun n => by rw [Nat.pow_mul]
  have hhash := beNat_byte hbyte
  rw [hall] at hhash
  rw [programmedHash, extractLsb'_ofNat_byte (by omega), hpow, hhash]
  have hword : s.reg (.mbArg m (ix 8 (1 + i / 8))) = BitVec.ofNat 64 (s.mbArg m (1 + i / 8)) :=
    ((BitVec.ofNat_toNat 64 _).trans (BitVec.setWidth_eq _)).symm
  rw [hword, extractLsb'_ofNat_byte (by omega), hpow]

/-! ### The statement -/

/-- Settles O46, command by command; what a completion leaves is `mbEntered_effects`. -/
theorem mailboxCommands : Obligations.MailboxCommands := by
  unfold Obligations.MailboxCommands
  intro m s a
  refine ⟨fun h => ⟨_, getInfo_serves h⟩, fun h => ⟨_, getBootstat_serves h⟩, fun h ha hm => ?_,
    fun u f h hu hm hs => imageChunk_selected h hu hm f hs,
    fun u bs s1 h hu hm hs hc hn => ⟨imageChunk_programs h hu hm true hs hc hn, imageChunk_programs h hu hm false hs hc hn⟩,
    fun u h hu hm => ?_, fun h ha => reset_serves h ha, fun h hc ha => coreRelease_serves h hc ha, fun h => setPower_serves h,
    fun h hc => telemetryRead_serves h hc, fun e h he => errlogRead_serves h he, fun h hc => getSignet_refused h hc,
    fun h hc => ⟨_, by rfl, by rfl, getSignet_serves h hc⟩, fun h => svnCommit_serves h,
    fun h hl hu hc hf hr => keyRevoke_serves h hl hu hc hf hr, fun h hl hu => ⟨fun hk => keyProgram_denied h hl hu hk,
      fun hk => ⟨_, fun i hi => programmedHash_byte s m hi, keyProgram_serves h hl hu hk⟩⟩,
    fun h => twRestart_serves h, fun hcode hserves => ?_, fun hgo => ?_, fun _ => rfl, fun st res hst hirq => ?_⟩
  case refine_1 =>
    exact ⟨fun u f hu hother => imageBegin_busy h ha hm f hu hother, fun hu => ⟨fun f hb => imageBegin_nowhere h ha hm f hu hb,
      fun b hb => ⟨updateBank_not_selected hu hb, imageBegin_erases h ha hm true hu hb, imageBegin_erases h ha hm false hu hb⟩⟩⟩
  case refine_2 =>
    intro k old fresh hs
    refine ⟨?_, fun hv => ?_, fun hv hf => ?_, fun hv hf => ?_⟩
    · exact imageEnd_failed h (imageEnd_flash hu hm hs) (by decide)
    · exact imageEnd_failed h (imageEnd_verify hu hm hs hv) (by decide)
    · exact imageEnd_failed h (imageEnd_stale hu hm hs hv hf) (by decide)
    · rw [imageEnd_answers h (imageEnd_fresh hu hm hs hv hf)]
      simp only [and_true]
      rfl
  case refine_3 => exact congrArg Host.Outcome.next (if_pos ⟨hcode, hserves⟩)
  case refine_4 => exact congrArg Host.Outcome.next (if_pos hgo)
  case refine_5 =>
    intro t
    obtain ⟨-, heffects⟩ := mbEntered_effects s m res hst
    rw [← mbDone_quiet s m res hst hirq] at heffects
    exact heffects

end Sys2Proof.Proofs
end

section
/-! PROOFS. Fences and prediction control (R121, R122, R139, R165-R171), a counter that wraps (R146-R148), and what a core
does between instructions (R129-R132, R140, R169-R171, R180, R196-R202, R217). -/

namespace Sys2Proof.Proofs
open Sys2Proof.Machine Sys2Proof.Laws

/-! ### Barriers (R165, R168, R170, R171) -/

theorem map_set_set {κ α : Type} [DecidableEq κ] (m : Map κ α) (k : κ) (a b : α) :
    Map.set (Map.set m k a) k b = Map.set m k b := by
  induction m with
  | nil => exact if_pos rfl
  | cons p m ih =>
    obtain ⟨j, d⟩ := p
    by_cases h : j = k
    · rw [Map.set, if_pos h, Map.set, if_pos rfl, Map.set, if_pos h]
    · rw [Map.set, if_neg h, Map.set, if_neg h, ih, Map.set, if_neg h]

theorem onUcore_onUcore (s : State) (c : Nat) (f g : UCore → UCore) :
    (s.onUcore c f).onUcore c g = s.onUcore c fun u => g (f u) := by
  have hu : (s.onUcore c f).ucore c = f (s.ucore c) := by rw [ucore_onUcore, if_pos rfl]
  have hmap : (s.onUcore c f).ucores.set c (g (f (s.ucore c))) = s.ucores.set c (g (f (s.ucore c))) := map_set_set _ _ _ _
  rw [State.onUcore, hu]
  exact congrArg (fun us => { s with ucores := us }) hmap

/-- How an entry is performed does not depend on whether it was still open: closing the buffer first changes nothing. -/
theorem barrier_eq_drain (s : State) (c : Nat) : s.barrier c = s.drain c := by
  have hbuf : ((s.closeBuf c).ucore c).mbuf = (s.ucore c).mbuf.map fun e => { e with closed := true } := by
    rw [State.closeBuf, ucore_onUcore, if_pos rfl]
  have hempty : (s.closeBuf c).onUcore c (fun u => { u with mbuf := [] }) = s.onUcore c fun u => { u with mbuf := [] } :=
    onUcore_onUcore _ _ _ _
  rw [State.barrier, State.drain, State.drain, State.drainBuf, State.drainBuf, hbuf, List.foldl_map, hempty]
  rfl

/-! ### Instructions that write no register -/

section Instruction
variable {s s1 : State} {x : Issue} {sh : Shape}

/-- An instruction that goes on with `s2` writes no register: committing it moves pc and the counts (`commit_spec`). -/
theorem run_writesNone {s2 : State} {body : Nat → Act Done} {d : Done} (h : Begins s x s1) (hb : body x.c s1 = (.ok d, s2)) :
    WritesNone x s2 d.pc (.next (s.run x sh body)) := by
  obtain ⟨u, line, hrun⟩ := run_ok (sh := sh) h hb
  obtain ⟨hchip, hcore, hpc, hg, hv⟩ := commit_spec s2 x.c u sh line d
  exact ⟨_, congrArg Host.Outcome.next hrun, hpc, hg, hv, hcore, hchip⟩

/-- Work that cannot fail, after which the next instruction follows. -/
theorem run_finish (f : State → State) (evs : List (Nat × Nat)) (h : Begins s x s1) :
    WritesNone x (f s1) ((s1.core x.c).pc + 4) (.next (s.run x sh (finish f evs))) :=
  run_writesNone (d := { pc := (s1.core x.c).pc + 4, evs := evs }) h rfl

/-- A barrier that orders stores performs every store of its core that waits. -/
theorem run_barrier (evs : List (Nat × Nat)) (h : Begins s x s1) :
    WritesNone x (s1.drain x.c) ((s1.core x.c).pc + 4) (.next (s.run x sh (finish (fun s => s.barrier x.c) evs))) := by
  rw [← barrier_eq_drain]
  exact run_finish _ evs h

/-- Work on the core's own state alone (PRED.BAR and PRED.UNBAR, R122). -/
theorem run_setCore (f : Core → Core) (h : Begins s x s1) :
    WritesNone x (s1.setCore x.c (f (s1.core x.c))) ((s1.core x.c).pc + 4) (.next (s.run x sh (plain fun _ k => f k))) :=
  run_writesNone (d := { pc := (s1.core x.c).pc + 4 }) h rfl

/-- PRED.FLUSH at L1 or above, where HTRAP does not trap it (R122, R276). -/
theorem predFlush_flushes (h : Begins s x s1) (hlvl : 1 ≤ (s1.core x.c).lvl) (htrap : s1.traps x.c G.htrap.TPRED = false) :
    WritesNone x (s1.onUcore x.c fun u => { u with pred := u.pred.flush (s1.core x.c).world }) ((s1.core x.c).pc + 4)
      (exec (.predFlush x) s) := by
  have hallowed : atLeast x.c 1 s1 = (.ok (), s1) := by simp [atLeast, Act.with, Act.check, Act.pure, hlvl]
  refine run_writesNone (d := { pc := (s1.core x.c).pc + 4, evs := [(0x16, 1)] }) h ?_
  simp [Act.bind, hallowed, Act.with, Act.check, Act.pure, htrap, finish]

end Instruction

/-- Settles O30. A barrier is a drain (`barrier_eq_drain`); each instruction's work is left as it is by its commit
(`run_writesNone`). -/
theorem fencesAndPrediction : Obligations.FencesAndPrediction := by
  unfold Obligations.FencesAndPrediction
  refine ⟨fun x s s1 h => ⟨run_finish _ _ h, run_barrier _ h, run_barrier _ h, run_barrier _ h⟩, fun x s s1 h => ⟨?_, ?_, ?_⟩⟩
  · exact predFlush_flushes h
  · exact run_setCore (fun k => { k with barred := true }) h
  · exact run_setCore (fun k => { k with barred := false }) h

/-! ### Counters (R146-R148) -/

theorem pmcReg_eq (n : Fin 10) : pmcReg n.val = 0x60 + n.val := by
  revert n; decide

/-- The core after a counter at its greatest value has counted once more. -/
def wrapped (k : Core) (num bit : Nat) : Core :=
  (k.ws num false 0).ws Sys.pmovf false (k.rs Sys.pmovf ||| 1#64 <<< bit)

theorem pmAdd_wraps {s : State} {c num : Nat} (bit : Nat) (hmax : (s.core c).rs num = BitVec.allOnes 64)
    (hovf : (s.core c).sflag Sys.pmctl false G.pmctl.OVF_IE = false) :
    s.pmAdd c num bit 1 = s.setCore c (wrapped (s.core c) num bit) := by
  rw [State.pmAdd, hmax, hovf]
  rfl

theorem keptCore_wrapped (b : Nat → Bool) (k : Core) {num : Nat} (bit : Nat) (h : counterReg num = true) :
    KeptCore b k (wrapped k num bit) :=
  keptCore_trans (keptCore_ws b k num 0 h) (keptCore_ws b _ Sys.pmovf _ rfl)

/-- The counter reads 0 (R146). -/
theorem wrapped_reads_zero (k : Core) {num : Nat} (bit : Nat) (h : num ≠ Sys.pmovf) : (wrapped k num bit).rs num = 0 := by
  rw [wrapped, rs_ws, if_neg fun e => h e.1, rs_ws_same]

/-- The counter's bit of PMOVF is set (R147). -/
theorem wrapped_overflows (k : Core) (num : Nat) {bit : Nat} (h : bit < 64) :
    ((wrapped k num bit).rs Sys.pmovf).getLsbD bit = true := by
  rw [wrapped, rs_ws_same, BitVec.getLsbD_or, BitVec.getLsbD_shiftLeft]
  simp [h]

section Overflow
variable {core : BitVec 8} {n : Fin 10} {s : State}

theorem counterReg_pmc : counterReg (0x60 + n.val) = true := by
  revert n; decide

theorem pmc_ne_pmovf : 0x60 + n.val ≠ Sys.pmovf := by
  revert n; decide

/-- The command, for a counter that counts what the core does now, where no overflow interrupt is asked for. -/
theorem pmcOverflow_wraps (hrun : s.canRun core.toNat = true) (hcounts : (s.core core.toNat).counts = true)
    (hmax : (s.core core.toNat).rs (0x60 + n.val) = BitVec.allOnes 64)
    (hovf : (s.core core.toNat).sflag Sys.pmctl false G.pmctl.OVF_IE = false)
    (hsel : (s.core core.toNat).pmSelected n.val = true) :
    exec (.pmcOverflow core n) s =
      .next (s.setCore core.toNat (wrapped (s.core core.toNat) (0x60 + n.val) n.val)) := by
  refine congrArg Host.Outcome.next ?_
  rw [pmcReg_eq, if_pos (by simp [hrun, hcounts, hsel, hmax]), pmAdd_wraps _ hmax hovf]

end Overflow

/-- Settles O41: the counter's step is `pmcOverflow_wraps`, and the core it leaves is `wrapped`. -/
theorem counterOverflow : Obligations.CounterOverflow := by
  unfold Obligations.CounterOverflow
  intro core n s hrun hcounts hmax hovf hev
  have hsel : (s.core core.toNat).pmSelected n.val = true := by
    by_cases hn : n.val < 8
    · obtain ⟨hevent, hlvl⟩ := hev hn
      simp [Core.pmSelected, hevent, hlvl]
    · simp [Core.pmSelected, Nat.not_lt.1 hn]
  refine ⟨_, pmcOverflow_wraps hrun hcounts hmax hovf hsel, ?_⟩
  simp only [core_setCore, if_true]
  exact ⟨wrapped_reads_zero _ _ pmc_ne_pmovf, wrapped_overflows _ _ (by omega), keptCore_wrapped _ _ _ counterReg_pmc,
    keptChip_setCore _ _ _⟩

/-! ### The L2 request port and the prefetcher (R129-R132, R217) -/

theorem canRun_present {s : State} {c : Nat} (h : s.canRun c = true) : s.isOn c = true ∧ s.noCore c = false := by
  simp only [State.canRun, Bool.and_eq_true, Bool.not_eq_true'] at h
  obtain ⟨⟨⟨⟨-, hon⟩, -⟩, -⟩, hpresent⟩ := h
  exact ⟨hon, hpresent⟩

section Port
variable {s : State} {c : Nat}

/-- The port of a core whose domain is ON moves, and the event is counted. -/
theorem onL2Port_portEvent (f : L2Port → L2Port) (code : Nat) (hon : s.isOn c = true) (hpresent : s.noCore c = false) :
    (s.onL2Port c f).portEvent c code =
      (s.onUcore c fun u => { u with port := f u.port }).pmEvents c (s.core c) [(code, 1)] := by
  have hcond : (s.isOn c && !s.noCore c) = true := by rw [hon, hpresent]; rfl
  exact if_pos hcond

/-- The rows of R131 and R132: while the core's domain is ON and the core is there. -/
theorem l2Port_row (f : L2Port → L2Port) (code : Nat) (hon : s.isOn c = true) (hpresent : s.noCore c = false) :
    (if s.isOn (domCore c) && !s.noCore c then (s.onL2Port c f).portEvent c code else s) =
      (s.onUcore c fun u => { u with port := f u.port }).pmEvents c (s.core c) [(code, 1)] := by
  rw [if_pos (by simp [domCore, hon, hpresent]), onL2Port_portEvent f code hon hpresent]

/-- The prefetch that the port serves: a line of the page that trained the prefetcher last, which may be read under the
identity and key of that access, with no request of another class ahead of it and nothing wrong on its way. -/
structure Prefetches (s : State) (c i : Nat) (page key : Nat) (id : Ident) : Prop where
  trained : (s.ucore c).trained.getLast? = some (page, key, id)
  free : (s.ucore c).port.instr = 0
  owned : s.mayReach id page = true
  keyed : s.settleKey id.world page key = some key
  way : s.lineErr (tileStop (c / 2)) (64 * page + i) = none

theorem prefetch_reads {i page key : Nat} {id : Ident} (hon : s.isOn c = true) (hpresent : s.noCore c = false)
    (h : Prefetches s c i page key id) :
    let l := 64 * page + i
    let s1 := (s.onUcore c fun u => { u with port := { u.port with prefetch := 0 } }).pmEvents c (s.core c) [(0x42, 1)]
    let s2 := s1.wakePath l
    s.prefetch c i = if s1.hasLine c l then s1 else (s2.withCs (s2.rdShared s2.cs c l key false)).statCore c 2 := by
  obtain ⟨htrained, hfree, howned, hkeyed, hway⟩ := h
  have hport := onL2Port_portEvent (fun p => { p with prefetch := 0 }) 0x42 hon hpresent
  simp [State.prefetch, htrained, hfree, howned, hkeyed, hway, hport]

end Port

/-! ### The merge buffer (R164, R169-R171, R180) -/

section Buffer
variable {s : State} {c i : Nat} {e : MbEntry}

theorem mbReady_of_mayLeave (hgo : s.boot.resetting = none ∨ s.boot.draining = true)
    (hleave : mayLeave (s.ucore c).mbuf i = true) : s.mbReady c i = true := by
  rcases hgo with h | h <;> simp [State.mbReady, h, hleave]

theorem mbReady_past_end (hend : (s.ucore c).mbuf.length = i) : s.mbReady c i = false := by
  have hnone : (s.ucore c).mbuf[i]? = none := List.getElem?_eq_none hend.le
  rw [State.mbReady, mayLeave, hnone, Bool.and_false]

theorem gathReady_at_end (hgo : s.boot.resetting = none ∨ s.boot.draining = true) (hend : (s.ucore c).mbuf.length = i) :
    s.gathReady c i = true := by
  rcases hgo with h | h <;> simp [State.gathReady, h, hend]

theorem writeOut_performs (he : (s.ucore c).mbuf[i]? = some e) :
    s.writeOut c i = (s.onUcore c fun u => { u with mbuf := u.mbuf.eraseIdx i }).performStore c e := by
  rw [State.writeOut, he]

end Buffer

section Writeout
variable {s : State} {core : BitVec 8} {i : Fin 8} {e : MbEntry}

theorem mergeBufferWriteout_performs (hgo : s.boot.resetting = none ∨ s.boot.draining = true)
    (he : (s.ucore core.toNat).mbuf[i.val]? = some e) (hleave : mayLeave (s.ucore core.toNat).mbuf i.val = true) :
    exec (.mergeBufferWriteout core i) s =
      .next ((s.onUcore core.toNat fun u => { u with mbuf := u.mbuf.eraseIdx i.val }).performStore core.toNat e).afterDrain := by
  refine congrArg Host.Outcome.next ?_
  rw [if_pos (mbReady_of_mayLeave hgo hleave), writeOut_performs he]

theorem mergeBufferWriteout_flushes (hgo : s.boot.resetting = none ∨ s.boot.draining = true)
    (hend : (s.ucore core.toNat).mbuf.length = i.val) :
    exec (.mergeBufferWriteout core i) s = .next (s.flushGath core.toNat).afterDrain := by
  refine congrArg Host.Outcome.next ?_
  rw [mbReady_past_end hend, if_neg Bool.false_ne_true, if_pos (gathReady_at_end hgo hend)]

theorem committedStoreFailure_records (status : BitVec 8) (hgo : s.boot.resetting = none ∨ s.boot.draining = true)
    (he : (s.ucore core.toNat).mbuf[i.val]? = some e) (hleave : mayLeave (s.ucore core.toNat).mbuf i.val = true) :
    exec (.committedStoreFailure core i status) s =
      .next ((s.onUcore core.toNat fun u => { u with mbuf := u.mbuf.eraseIdx i.val }).storeFailed core.toNat e
        status.toNat).afterDrain := by
  refine congrArg Host.Outcome.next ?_
  rw [he]
  exact if_pos (mbReady_of_mayLeave hgo hleave)

end Writeout

/-! ### Walks and marks (R140, R190, R196-R202) -/

/-- A mark row whose walk and marks go on leaves the state after them. -/
theorem markRow_marks {s s1 s2 : State} {c : Nat} {va : DWord} {acc : Acc} {p : Mark → Bool} {t : Tr} {ok : MarkEnd}
    (hrun : s.canRun c = true) (hwalk : translate c (accFx va acc false) s = (.ok t, s1))
    (hmarks : setMarks c (accFx va acc false) (acc == .write) (t.marks.filter p) s1 = (.ok ok, s2)) :
    s.markRow c va acc p = s2 := by
  have hboth : (translate c (accFx va acc false)).bind
      (fun t => setMarks c (accFx va acc false) (acc == .write) (t.marks.filter p)) s = (.ok ok, s2) := by
    simp only [Act.bind, hwalk, hmarks]
  rw [State.markRow, if_pos hrun]
  simp only [hboth]

/-- Settles O42: the port by `l2Port_row` and `prefetch_reads`, the merge buffer by the lemmas of its commands, the marks by
`markRow_marks`. -/
theorem coreEvents : Obligations.CoreEvents := by
  unfold Obligations.CoreEvents
  refine ⟨fun core line s => ⟨fun hon hpresent => ?_, fun p key id hrun htrained hfree howned hkeyed hway => ?_, ?_⟩,
    fun core i st s e hgo => ⟨fun he hleave => ?_, mergeBufferWriteout_flushes hgo⟩, fun core va acc s hrun => ?_⟩
  case refine_1 =>
    exact ⟨congrArg Host.Outcome.next (l2Port_row _ _ hon hpresent), congrArg Host.Outcome.next (l2Port_row _ _ hon hpresent)⟩
  case refine_2 =>
    obtain ⟨hon, hpresent⟩ := canRun_present hrun
    have hreads := prefetch_reads hon hpresent ⟨htrained, hfree, howned, hkeyed, hway⟩
    exact congrArg Host.Outcome.next ((if_pos hrun).trans hreads)
  case refine_3 =>
    obtain ⟨hchip, -⟩ := pmEvents_counts s core.toNat (s.core core.toNat) [(0x43, 1)]
    exact hchip
  case refine_4 => exact ⟨mergeBufferWriteout_performs hgo he hleave, committedStoreFailure_records st hgo he hleave, rfl⟩
  case refine_5 =>
    exact ⟨congrArg Host.Outcome.next (if_pos hrun),
      fun t s1 ok s2 hwalk => ⟨fun hmarks => congrArg Host.Outcome.next (markRow_marks hrun hwalk hmarks),
        fun hmarks => congrArg Host.Outcome.next (markRow_marks hrun hwalk hmarks)⟩,
      fun t s1 ok s2 hwalk hmarks => congrArg Host.Outcome.next (markRow_marks hrun hwalk hmarks)⟩

end Sys2Proof.Proofs
end

section
/-! PROOFS. The bytes that a write of a line puts into memory: a committed store through the private hierarchy of its core or
at the home, and a write by another agent. -/

namespace Sys2Proof.Proofs
open Sys2Proof.Machine Sys2Proof.Laws

/-! ### The cells of a line -/

/-- A masked write of a line of canonical memory: the bytes that the mask names take the data, every other byte is kept. -/
theorem cellSetMask_line {m : List Host.Cell} (hwf : Memory.wf m = true) (line : Nat) (mask : BitVec 64) (data : Line) :
    let m' := cellSetMask m (64 * line) 64 mask.toNat data.toNat
    Memory.wf m' = true ∧
    (∀ i, i < 64 → memGet m' (64 * line + i) =
      if mask.getLsbD i then data.extractLsb' (8 * i) 8 else memGet m (64 * line + i)) ∧
    ∀ a, a < 64 * line ∨ 64 * line + 64 ≤ a → memGet m' a = memGet m a := by
  refine ⟨cellSetMask_ok _ _ _ _ _ hwf, fun i hi => ?_, fun a ha => ?_⟩
  · have hbyte : data.extractLsb' (8 * i) 8 = BitVec.ofNat 8 (data.toNat / 256 ^ i) := by
      rw [BitVec.extractLsb', Nat.shiftRight_eq_div_pow, pow_mul]
      norm_num
    rw [memGet_setMask _ _ _ _ _ _ hwf, hbyte, Nat.add_sub_cancel_left, BitVec.testBit_toNat]
    simp [hi]
  · rw [memGet_setMask _ _ _ _ _ _ hwf, if_neg (by omega)]

section Cells
variable (m : MemState) {line key : Nat} (mask : BitVec 64) (data : Line)

/-- A line that reads right under the key of a write takes the bytes of the write only. -/
theorem write_mem (h : m.keyOk line key = true) :
    (m.write line key mask data).mem = cellSetMask m.mem (64 * line) 64 mask.toNat data.toNat := by
  rw [MemState.write, if_pos h]

theorem markHalf_mem (half : Nat) (bytes : BitVec 32) (bad whole : Bool) : (m.markHalf half bytes bad whole).mem = m.mem := by
  unfold MemState.markHalf
  split
  · rfl
  · split <;> rfl

theorem markLine_mem (line : Nat) (dp : BitVec 2) (whole : Bool) : (m.markLine line mask dp whole).mem = m.mem := by
  rw [MemState.markLine, markHalf_mem, markHalf_mem]

theorem cover_mem (half : Nat) (bytes : BitVec 32) : (m.cover half bytes).mem = m.mem := by
  unfold MemState.cover
  split
  · rfl
  · split <;> rfl

theorem coverLine_mem (line : Nat) : (m.coverLine line mask).mem = m.mem := by
  rw [MemState.coverLine, cover_mem, cover_mem]

end Cells

/-! ### A write at the home (R220) -/

section Home
variable {s : State} {line key : Nat}

theorem find_keep_none {κ α : Type} [DecidableEq κ] (m : Map κ α) (f : κ → α → Bool) {k : κ} (h : m.find k = none) :
    (m.keep f).find k = none := by
  induction m with
  | nil => rfl
  | cons p m ih =>
    obtain ⟨j, a⟩ := p
    have hj : j ≠ k := by rintro rfl; simp [Map.find] at h
    have hm : Map.find m k = none := by simpa [Map.find, hj] using h
    by_cases hf : f j a = true
    · simpa [Map.keep, Map.find, hf, hj] using ih hm
    · simpa [Map.keep, hf] using ih hm

theorem cleanDram_withCs (x : Cs) (h : CleanDram s line) : CleanDram (s.withCs x) line :=
  ⟨fun n => by
    simp only [withCs_m, MemState.unmet]
    exact find_keep_none _ _ (h.1 n), h.2⟩

theorem memRead_clean (h : CleanDram s line) : s.memRead line = s := by
  obtain ⟨hlatent, hmember⟩ := h
  unfold State.memRead
  split
  · next k hk =>
    rw [if_pos (hmember k hk)]
    simp [State.dramRead, hlatent]
  · rfl

/-- A line of DRAM lies behind no clasped root port. -/
theorem cxlClasped_clean (h : CleanDram s line) : s.cxlClasped (64 * line) = false := by
  unfold State.cxlClasped
  split
  · next k hk =>
    have hlt : k < 16 := h.2 k hk
    simp [hlt]
  · rfl

theorem cutOff_clean (h : CleanDram s line) : s.cutOff line = false := by
  rw [State.cutOff, cxlClasped_clean h, Bool.false_and]

theorem wakePartner_m : (s.wakePartner line).m = s.m := by
  unfold State.wakePartner
  split
  · exact wake_m s _
  · rfl

/-- A write at the home of a line with no error in DRAM: the copies go and nothing is read wrong, so memory changes by the
bytes of the write. -/
theorem writeNc_mem (mask : BitVec 64) (data : Line) (dp : BitVec 2) (whole : Bool) (hclean : CleanDram s line)
    (hkey : s.m.keyOk line key = true) :
    (s.writeNc line key mask data dp whole).m.mem = cellSetMask s.m.mem (64 * line) 64 mask.toNat data.toNat := by
  unfold State.writeNc
  extract_lets s1 s2 s3
  have hs1 : SameBytes s s1 := (sameBytes_withCs s _).trans (.of_eq wakePartner_m)
  have hclean1 : CleanDram s1 line := cleanDram_of_m wakePartner_m (cleanDram_withCs _ hclean)
  have hs2 : SameBytes s1 s2 := by
    simp only [s2]
    split
    · rfl
    · exact .of_eq (congrArg State.m (memRead_clean hclean1))
  have hs3 : SameBytes s s3 := (hs1.trans hs2).trans (sameBytes_withCs s2 _)
  rw [markLine_mem, write_mem _ _ _ ((hs3.keyOk _ _).trans hkey), hs3.mem]

theorem writeHome_mem (mask : BitVec 64) (data : Line) (dp : BitVec 2) (whole : Bool) (hclean : CleanDram s line)
    (hkey : s.m.keyOk line key = true) :
    (s.writeHome line key mask data dp whole).m.mem = cellSetMask s.m.mem (64 * line) 64 mask.toNat data.toNat := by
  rw [State.writeHome, cxlClasped_clean hclean, if_neg Bool.false_ne_true, writeNc_mem _ _ _ _ hclean hkey]

end Home

/-! ### The write of an agent -/

theorem statAgent_m (s : State) (src : Stop) (id : Ident) : (s.statAgent src id).m = s.m := by
  unfold State.statAgent
  split
  · exact statOf_m _ _ _ _
  · rfl

theorem ownSeen_m (s : State) (src : Stop) (page : Nat) : (s.ownSeen src page).m = s.m := by
  unfold State.ownSeen State.ownAsk
  dsimp only
  split
  · rfl
  · exact wake_m s _

theorem agentWay_m (s : State) (sec : Bool) (src : Stop) (line : Nat) :
    ((if sec then s else s.ownSeen src (line / 64)).wakePath line).m = s.m := by
  rw [wakePath_m]
  split
  · rfl
  · exact ownSeen_m s src _

/-- A write of a line that an agent may make, under a key that is right for the line. -/
theorem agentWriteLine_mem {s t : State} {sec : Bool} {src : Stop} {id : Ident} {line key : Nat} {mask : BitVec 64} {data : Line}
    {poison : Bool} (hdone : s.agentWriteLine sec src id line key mask data poison = .ok t)
    (hkey : ∀ k, s.agentKey sec id line key = some k → s.m.keyOk line k = true) (hclean : CleanDram s line) :
    t.m.mem = cellSetMask s.m.mem (64 * line) 64 mask.toNat data.toNat := by
  unfold State.agentWriteLine at hdone
  split at hdone
  · cases hdone
  · next k hk =>
    split at hdone
    · cases hdone
    · cases hdone
      have hway := agentWay_m s sec src line
      rw [statAgent_m, writeHome_mem _ _ _ _ (cleanDram_of_m hway hclean) (by rw [hway]; exact hkey k hk), hway]

/-! ### A line held unique keeps the key of its copy (R216, R220) -/

/-- No private hierarchy gains or changes a copy; copies may go. -/
def OnlyDrops (x y : Cs) : Prop := ∀ k p, y.coh.priv.find k = some p → x.coh.priv.find k = some p

theorem OnlyDrops.of_priv {x y : Cs} (h : y.coh.priv = x.coh.priv) : OnlyDrops x y := fun _ _ hy => h ▸ hy

theorem OnlyDrops.trans {x y z : Cs} (hxy : OnlyDrops x y) (hyz : OnlyDrops y z) : OnlyDrops x z :=
  fun k p hz => hxy k p (hyz k p hz)

theorem onlyDrops_snoopInv (x : Cs) (c line : Nat) : OnlyDrops x (x.snoopInv c line) := by
  intro k p h
  by_cases hk : k = (c, line)
  · subst hk
    cases (find_erase_same x.coh.priv _).symm.trans h
  · exact (find_erase_other x.coh.priv hk).symm.trans h

theorem onlyDrops_invOthers (x : Cs) (line : Nat) (keep : Option Nat) : OnlyDrops x (x.invOthers line keep) := by
  unfold Cs.invOthers
  split
  · exact .of_priv rfl
  · exact List.foldlRecOn (motive := OnlyDrops x) _ _ (.of_priv rfl) fun y hy c _ => hy.trans (onlyDrops_snoopInv y c line)

theorem onlyDrops_keyConflict (s : State) (x : Cs) (line key : Nat) : OnlyDrops x (s.keyConflict x line key) := by
  unfold State.keyConflict
  extract_lets other l3Other
  split
  · exact (onlyDrops_invOthers x line none).trans (.of_priv rfl)
  · exact .of_priv rfl

theorem onlyDrops_dirRoom (s : State) (x : Cs) (line : Nat) : OnlyDrops x (s.dirRoom x line) := by
  unfold State.dirRoom
  dsimp only
  split
  · exact .of_priv rfl
  split
  · exact .of_priv rfl
  split
  · exact .of_priv rfl
  · next vl _ _ =>
    refine (onlyDrops_invOthers x vl none).trans (.of_priv ?_)
    split <;> simp

/-- RD_UNIQUE gives the core a copy under the key of its request, or leaves the copy it had with its key. -/
theorem rdUnique_key (s : State) (x : Cs) (c line key : Nat) (h : ∀ p, x.coh.priv.find (c, line) = some p → p.key = key) :
    ((s.rdUnique x c line key).coh.priv.find (c, line)).map (·.key) = some key := by
  unfold State.rdUnique
  extract_lets x1 n x2 x3 kept coarse x4 x5 st d
  have h3 : OnlyDrops x x3 :=
    ((OnlyDrops.of_priv (by simp)).trans (onlyDrops_keyConflict s (s.ownVictim x c line) line key)).trans
      ((OnlyDrops.of_priv (by simp [x2, x1])).trans (onlyDrops_dirRoom s x2 line))
  have h5 : OnlyDrops x x5 := by
    refine (h3.trans (onlyDrops_invOthers x3 line (some c))).trans (.of_priv ?_)
    simp only [x5]
    split
    · split
      · rfl
      · split <;> rfl
    · rfl
  split
  · next p hp => simp [Cs.privSet, h p (h5 _ p hp)]
  · simp [Cs.privSet]

section Own
variable {s : State} {c line key : Nat}

theorem keyAt_eq_iff : s.keyAt c line key = key ↔ ∀ p, s.coh.priv.find (c, line) = some p → p.key = key := by
  unfold State.keyAt
  cases s.coh.priv.find (c, line) <;> simp

theorem sameBytes_getUnique : SameBytes s (s.getUnique c line key) := by
  unfold State.getUnique
  extract_lets hold
  split
  · exact .refl s
  · exact (sameBytes_withCs s _).trans (.of_eq (statCore_m _ _ _))

theorem keyAt_getUnique (h : s.keyAt c line key = key) : (s.getUnique c line key).keyAt c line key = key := by
  unfold State.getUnique
  extract_lets hold
  split
  · exact h
  · have hgives := rdUnique_key s s.cs c line key (keyAt_eq_iff.1 h)
    simp [State.keyAt, hgives]

/-- What precedes a core's request for a line to own: events counted and the request port granted. -/
theorem ownLine_asks (past : Bool) :
    ∃ t : State, t.m = s.m ∧ t.coh = s.coh ∧ s.ownLine c line key past = (t.getUnique c line key).fillL1 c line false := by
  unfold State.ownLine
  extract_lets note in1 s1 s2 s3
  have hnote : ∀ t ev, (note t ev).m = t.m ∧ (note t ev).coh = t.coh := by
    intro t ev
    simp only [note]
    split <;> exact ⟨rfl, rfl⟩
  have hs1 : s1.m = s.m ∧ s1.coh = s.coh := by
    simp only [s1]
    split
    · exact ⟨rfl, rfl⟩
    · exact hnote s _
  have hs2 : s2.m = s1.m ∧ s2.coh = s1.coh := by
    simp only [s2]
    split
    · exact ⟨rfl, rfl⟩
    · exact ⟨grant_m s1 c false, grant_coh s1 c false⟩
  have hs3 : s3.m = s2.m ∧ s3.coh = s2.coh := by
    simp only [s3]
    split
    · exact ⟨rfl, rfl⟩
    · exact hnote s2 _
  exact ⟨s3, hs3.1.trans (hs2.1.trans hs1.1), hs3.2.trans (hs2.2.trans hs1.2), rfl⟩

theorem sameBytes_ownLine (past : Bool) : SameBytes s (s.ownLine c line key past) := by
  obtain ⟨t, hm, -, hown⟩ := ownLine_asks (s := s) (c := c) (line := line) (key := key) past
  rw [hown]
  exact (SameBytes.of_eq hm).trans (sameBytes_getUnique.trans sameBytes_fillL1)

/-- A line held unique for a store is held under the key of the store, where the core had no copy under another key. -/
theorem keyAt_ownLine (past : Bool) (h : s.keyAt c line key = key) : (s.ownLine c line key past).keyAt c line key = key := by
  obtain ⟨t, -, hcoh, hown⟩ := ownLine_asks (s := s) (c := c) (line := line) (key := key) past
  rw [hown, keyAt_fillL1]
  exact keyAt_getUnique ((keyAt_of_coh hcoh).trans h)

end Own

/-! ### A committed store (R155, R156, R169) -/

theorem storeLine_mem {s : State} {line key : Nat} (c : Nat) (mask : BitVec 64) (data : Line) (h : s.m.keyOk line key = true) :
    (s.storeLine c line key mask data).m.mem = cellSetMask s.m.mem (64 * line) 64 mask.toNat data.toNat :=
  (coverLine_mem _ _ _).trans (write_mem { s.m with stale := s.markStale line } mask data h)

/-- A store to Normal-WB: the line comes in and is owned with memory as before, under the key of the store. -/
theorem storeOwned_mem {s : State} {c line key : Nat} (mask : BitVec 64) (data : Line) (hclean : CleanDram s line)
    (hkeyAt : s.keyAt c line key = key) (hkey : s.m.keyOk line key = true) :
    let own := (if s.hasLine c line then s else s.cutIn line).ownLine c line key true
    (own.storeLine c line (own.keyAt c line key) mask data).m.mem =
      cellSetMask s.m.mem (64 * line) 64 mask.toNat data.toNat := by
  have hin : (if s.hasLine c line then s else s.cutIn line) = s := by rw [cutIn_clean (cutOff_clean hclean) hclean, ite_self]
  have hown : SameBytes s (s.ownLine c line key true) := sameBytes_ownLine true
  rw [hin]
  dsimp only
  rw [keyAt_ownLine true hkeyAt, storeLine_mem _ _ _ ((hown.keyOk _ _).trans hkey), hown.mem]

/-- A committed store with nothing wrong on its way changes the cells of its line by its masked bytes. -/
theorem performStore_mem {s : State} {c : Nat} {e : MbEntry}
    (herr : s.coreErr c e.line (e.mtype == 3 && s.hasUnique c e.line) (e.mtype != 3) = none)
    (hkeyAt : s.keyAt c e.line e.key = e.key) (hkey : s.m.keyOk e.line e.key = true) (hclean : CleanDram s e.line) :
    (s.performStore c e).m.mem = cellSetMask s.m.mem (64 * e.line) 64 e.mask.toNat e.data.toNat := by
  have hm : (s.wakePath e.line).m = s.m := wakePath_m s e.line
  simp only [State.performStore, herr]
  split
  · have hkeyAt' : (s.wakePath e.line).keyAt c e.line e.key = e.key := (keyAt_of_coh (wakePath_coh s e.line)).trans hkeyAt
    rw [storeOwned_mem _ _ (cleanDram_of_m hm hclean) hkeyAt' (by rw [hm]; exact hkey), hm]
  · have hstat : ((s.wakePath e.line).statCore c 2).m = s.m := (statCore_m _ c 2).trans hm
    rw [writeHome_mem _ _ _ _ (cleanDram_of_m hstat hclean) (by rw [hstat]; exact hkey), hstat]

/-- Settles O31: either write changes the cells of its line by its masked bytes (`performStore_mem`, `agentWriteLine_mem`),
which `cellSetMask_line` reads back. -/
theorem performedStoreWritesMemory : Obligations.PerformedStoreWritesMemory := by
  unfold Obligations.PerformedStoreWritesMemory
  constructor
  · intro c e s herr _ hwf hkeyAt hkey hclean
    rw [performStore_mem herr hkeyAt hkey hclean]
    exact cellSetMask_line hwf e.line e.mask e.data
  · intro sec src id line key mask data poison s t hdone _ hwf hkey hclean
    rw [agentWriteLine_mem hdone hkey hclean]
    exact cellSetMask_line hwf line mask data

end Sys2Proof.Proofs
end

section
/-! PROOFS. What each TINV leaves in the translation buffer of its core (R203, R206, R207). -/

namespace Sys2Proof.Proofs
open Sys2Proof.Machine Sys2Proof.Laws

/-! ### The entries that stay (R206, log entry 118)

The model says which entries a TINV removes; these say which ones it keeps. -/

section Kept
variable (u : UCore) (world : Bool) (vmid asid va ipa : Nat)

theorem not_covers (e : TlbEntry) (addr : Nat) : (!e.covers addr) = (e.vpage >>> (e.bits - 12) != addr >>> e.bits) := rfl

theorem tinvVa_tlb : (u.tinvVa world vmid va asid).tlb = u.tlb.filter fun e => e.s2only || e.world != world || e.vmid != vmid ||
    (!e.glob && e.asid != asid) || e.vpage >>> (e.bits - 12) != va >>> e.bits := by
  refine List.filter_congr fun e _ => ?_
  simp only [Bool.not_and, Bool.not_or, Bool.not_not, not_covers, bne]

theorem tinvAsid_tlb : (u.tinvAsid world vmid asid).tlb = u.tlb.filter fun e => e.s2only || e.world != world || e.vmid != vmid ||
    e.glob || e.asid != asid := by
  refine List.filter_congr fun e _ => ?_
  simp only [Bool.not_and, Bool.not_not, bne]

theorem tinvIpa_tlb : (u.tinvIpa ipa vmid).tlb = u.tlb.filter fun e => e.world || e.vmid != vmid ||
    (e.s2only && e.vpage >>> (e.bits - 12) != ipa >>> e.bits) := by
  refine List.filter_congr fun e _ => ?_
  simp only [Bool.not_and, Bool.not_or, Bool.not_not, not_covers, bne]

theorem tinvAll1_tlb : (u.tinvAll1 world vmid).tlb = u.tlb.filter fun e => e.world != world || e.vmid != vmid :=
  List.filter_congr fun _ _ => Bool.not_and ..

end Kept

/-! ### The instructions -/

theorem atLeast_passes {s : State} {c lvl : Nat} (h : lvl ≤ (s.core c).lvl) : atLeast c lvl s = (.ok (), s) := by
  simp [atLeast, Act.with, Act.check, Act.pure, h]

section Instruction
variable {s s1 : State} {x : Issue} {lvl : Nat}

/-- A TINV at its level, and in a mode that defines it, changes the structures of its own core alone (R102, R206). -/
theorem tinv_changes {f : State → Core → UCore → UCore} {g : UCore → UCore} (h : Begins s x s1) (hlvl : lvl ≤ (s1.core x.c).lvl)
    (hmode : lvl = 2 → s1.iso ≠ .lk) (hg : f s1 (s1.core x.c) = g) :
    WritesNone x (s1.onUcore x.c g) ((s1.core x.c).pc + 4) (.next (s.tinv x lvl f)) := by
  have hdefined : (!(lvl == 2 && s1.iso == .lk)) = true := by simpa [imp_iff_not_or] using hmode
  refine run_writesNone (d := { pc := (s1.core x.c).pc + 4 }) h ?_
  simp [Act.bind, Act.with, Act.check, Act.pure, hdefined, atLeast_passes hlvl, finish, hg]

/-- The TINVs that L1 may execute are defined in every mode. -/
theorem tinv_changes_l1 {f : State → Core → UCore → UCore} {g : UCore → UCore} (h : Begins s x s1) (hlvl : 1 ≤ (s1.core x.c).lvl)
    (hg : f s1 (s1.core x.c) = g) :
    WritesNone x (s1.onUcore x.c g) ((s1.core x.c).pc + 4) (.next (s.tinv x 1 f)) :=
  tinv_changes h hlvl (fun h2 => absurd h2 (by decide)) hg

end Instruction

/-- Settles O34: each TINV changes its own core's structures alone (`tinv_changes`), and what it keeps there is what it
does not name (`tinvVa_tlb` and the lemmas beside it). -/
theorem tlbInvalidation : Obligations.TlbInvalidation := by
  unfold Obligations.TlbInvalidation
  intro x rs1 rs2 s s1 h k vm a b T hl1
  refine ⟨?va, ?asid, fun heq => ?allL1, fun hl2 => ?allAbove, ?tsync, fun hl2 hmode => ⟨?vmid, ?ipa⟩⟩
  case va => exact ⟨tinv_changes_l1 h hl1 rfl, tinvVa_tlb ..⟩
  case asid => exact ⟨tinv_changes_l1 h hl1 rfl, tinvAsid_tlb ..⟩
  case allL1 => exact ⟨tinv_changes_l1 h hl1 (funext fun _ => if_pos heq), tinvAll1_tlb ..⟩
  case allAbove =>
    have hne : k.lvl ≠ 1 := by omega
    exact ⟨tinv_changes_l1 h hl1 (funext fun _ => if_neg hne), rfl⟩
  case tsync => exact ⟨tinv_changes_l1 h hl1 rfl, (List.filter_eq_self.mpr fun _ _ => rfl).symm⟩
  case vmid => exact ⟨tinv_changes h hl2 (fun _ => hmode) rfl, rfl⟩
  case ipa => exact ⟨tinv_changes h hl2 (fun _ => hmode) rfl, tinvIpa_tlb ..⟩

end Sys2Proof.Proofs
end

section
/-! PROOFS. Cache maintenance by address and by set and way, preloading (R231-R233, R235), and what maintenance leaves of a
line (R231). -/

namespace Sys2Proof.Proofs
open Sys2Proof.Machine Sys2Proof.Laws

/-! ### Maintenance by address (R231, R232) -/

/-- The chip when the core's own stores to a line have been performed and its request port is granted. -/
def storesDone (s : State) (c line : Nat) : State := (s.drainLine c line).grant c false

section Address
variable {s s1 s2 : State} {x : Issue} {rs1 : BitVec 5} {lvl : Nat} {o : Cmo} {t : Tr}

/-- Where nothing is wrong on the way, the core's own stores to the line are performed and every cache is maintained. -/
theorem cmoAt_maintains {s : State} {c line : Nat} (key mtype : Nat)
    (herr : (storesDone s c line).coreErr c line false = none) :
    s.cmoAt c o line key mtype = (((storesDone s c line).wakePath line).statCore c 0).cmoLine o line key := by
  unfold storesDone at *
  simp only [State.cmoAt, herr]

/-- A CMO by address that its level permits and whose address is translated leaves what it does to the line of `t`. -/
theorem cmoVa_runs (h : Begins s x s1) (hlvl : lvl ≤ (s1.core x.c).lvl)
    (ht : translate x.c (cmoFx ((s1.core x.c).rg rs1) (o != .clean)) s1 = (.ok t, s2)) :
    WritesNone x (if t.mtype ≤ 1 ∨ s2.physDevice t.pa then s2 else s2.cmoAt x.c o (t.pa / 64) t.key t.mtype)
      ((s2.core x.c).pc + 4) (.next (s.run x {} (cmoVa o rs1 lvl))) := by
  refine run_writesNone (d := { pc := (s2.core x.c).pc + 4 }) h ?_
  simp [cmoVa, Act.bind, Act.with, atLeast_passes hlvl, ht, finish]

/-- It does nothing to Device memory; of Normal memory it maintains the line. -/
theorem cmoVa_maintains (h : Begins s x s1) (hlvl : lvl ≤ (s1.core x.c).lvl)
    (ht : translate x.c (cmoFx ((s1.core x.c).rg rs1) (o != .clean)) s1 = (.ok t, s2)) :
    (t.mtype ≤ 1 ∨ s2.physDevice t.pa = true →
      WritesNone x s2 ((s2.core x.c).pc + 4) (.next (s.run x {} (cmoVa o rs1 lvl)))) ∧
    (2 ≤ t.mtype → s2.physDevice t.pa = false →
      (storesDone s2 x.c (t.pa / 64)).coreErr x.c (t.pa / 64) false = none →
      WritesNone x ((((storesDone s2 x.c (t.pa / 64)).wakePath (t.pa / 64)).statCore x.c 0).cmoLine o (t.pa / 64) t.key)
        ((s2.core x.c).pc + 4) (.next (s.run x {} (cmoVa o rs1 lvl)))) := by
  have hrun := cmoVa_runs h hlvl ht
  refine ⟨fun hdev => ?_, fun hnormal hmem herr => ?_⟩
  · rwa [if_pos hdev] at hrun
  · rwa [if_neg (by simp [hmem]; omega), cmoAt_maintains _ _ herr] at hrun

end Address

/-! ### Maintenance by set and way (R233) -/

section SetWay
variable {s s1 : State} {x : Issue} (rs1 : BitVec 5)

/-- A set and way form that its level permits and that HTRAP does not trap (R276). -/
theorem cmoSw_runs (o : Cmo) (fn : Nat) (h : Begins s x s1) (hlvl : 1 ≤ (s1.core x.c).lvl)
    (htrap : s1.traps x.c G.htrap.TSW = false) :
    WritesNone x (s1.cmoSw x.c o ((s1.core x.c).rg rs1)) ((s1.core x.c).pc + 4)
      (.next (s.run x { ser := true } (cmoSwBody o fn rs1))) := by
  refine run_writesNone (d := { pc := (s1.core x.c).pc + 4 }) h ?_
  simp [cmoSwBody, Act.bind, Act.with, Act.check, Act.pure, atLeast_passes hlvl, htrap, finish]

/-- What a set and way form does: below L3 an invalidation cleans too. -/
theorem cmoSw_eq (s : State) (c : Nat) (o : Cmo) (w : DWord) :
    s.cmoSw c o w =
      let o := if o = .inv ∧ (s.core c).lvl < 3 then .clinv else o
      match w.toNat % 8 with
      | 0 => s.swL1d c o (w.toNat / 2 ^ 16 % 2 ^ 11) (w.toNat / 2 ^ 4 % 16)
      | 1 => s.swL1i c (w.toNat / 2 ^ 16 % 2 ^ 11) (w.toNat / 2 ^ 4 % 16)
      | 2 => s.swL2 c o (w.toNat / 2 ^ 16 % 2 ^ 11) (w.toNat / 2 ^ 4 % 16)
      | 3 => s.swL3 (c / 2) o (w.toNat / 2 ^ 16 % 2 ^ 11) (w.toNat / 2 ^ 4 % 16)
      | _ => s := rfl

end SetWay

/-! ### Preloading (R235) -/

section Preload
variable {s s1 s2 : State} {x : Issue} {sh : Shape} {rd rs1 : BitVec 5} {t : Tr}

/-- An instruction that changes the chip into `s2` and then writes one general register. -/
theorem run_register {w : DWord} {body : Nat → Act Done} {d : Done} (h : Begins s x s1)
    (hb : body x.c s1 = (.ok d, s2.onCore x.c fun k => k.wg rd w)) : WritesG x s2 rd w d.pc (.next (s.run x sh body)) := by
  obtain ⟨u, line, hrun⟩ := run_ok (sh := sh) h hb
  obtain ⟨hchip, hcore, hpc, hg, hv⟩ := commit_spec (s2.onCore x.c fun k => k.wg rd w) x.c u sh line d
  simp only [core_onCore, if_true] at hcore hg hv
  exact ⟨_, congrArg Host.Outcome.next hrun, hpc, fun r => (hg r).trans (rg_wg _ _ _ _), fun r => (hv r).trans (rv_wg _ _ _ _),
    keptCore_trans (keptCore_wg _ _ rd w) hcore, keptChip_trans (keptChip_onCore x.c s2 _) hchip⟩

variable (h : Begins s x s1) (hlvl : 1 ≤ (s1.core x.c).lvl)
  (ht : translate x.c (cmoFx ((s1.core x.c).rg rs1) false) s1 = (.ok t, s2))
include h hlvl ht

/-- A line that is not Normal-WB is not preloaded. -/
theorem cmoPreload_other (hother : t.mtype ≠ 3 ∨ s2.physDevice t.pa = true) :
    WritesG x s2 rd 3 ((s2.core x.c).pc + 4) (exec (.cmoPreload x rd rs1) s) := by
  refine run_register (d := { pc := (s2.core x.c).pc + 4 }) h ?_
  simp only [Act.bind, Act.with, atLeast_passes hlvl, ht, if_pos hother]
  rfl

/-- A Normal-WB line with nothing wrong on the way is preloaded after the core's own stores to it. -/
theorem cmoPreload_line (hwb : t.mtype = 3) (hmem : s2.physDevice t.pa = false)
    (herr : (storesDone s2 x.c (t.pa / 64)).coreErr x.c (t.pa / 64) false = none) :
    let p := (((storesDone s2 x.c (t.pa / 64)).wakePath (t.pa / 64)).statCore x.c 0).preload (t.pa / 64) t.key
    WritesG x p.2 rd (dw p.1) ((s2.core x.c).pc + 4) (exec (.cmoPreload x rd rs1) s) := by
  have hwbmem : ¬(t.mtype ≠ 3 ∨ s2.physDevice t.pa = true) := by simp [hwb, hmem]
  refine run_register (d := { pc := (s2.core x.c).pc + 4 }) h ?_
  unfold storesDone at *
  simp only [Act.bind, Act.with, atLeast_passes hlvl, ht, if_neg hwbmem, herr]
  rfl

end Preload

/-- Settles O32: by address `cmoVa_maintains`, by set and way `cmoSw_runs`, preloading `cmoPreload_line`. -/
theorem cacheMaintenance : Obligations.CacheMaintenance := by
  unfold Obligations.CacheMaintenance
  refine ⟨fun x rs1 s s1 s2 t h => ⟨?clean, ?inv, ?clinv⟩, fun x rs1 s s1 h hlvl htrap => ⟨?cleanSw, ?clinvSw, ?invSw⟩,
    fun x rd rs1 s s1 s2 t h hlvl ht => ⟨cmoPreload_other h hlvl ht, cmoPreload_line h hlvl ht⟩⟩
  case clean => exact fun hlvl ht => cmoVa_maintains (o := .clean) h hlvl ht
  case inv => exact fun hlvl ht => cmoVa_maintains (o := .inv) h hlvl ht
  case clinv => exact fun hlvl ht => cmoVa_maintains (o := .clinv) h hlvl ht
  case cleanSw => exact cmoSw_runs rs1 .clean 0x14 h hlvl htrap
  case clinvSw => exact cmoSw_runs rs1 .clinv 0x16 h hlvl htrap
  case invSw =>
    have hrun := cmoSw_runs rs1 .inv 0x15 h hlvl htrap
    simp only [cmoSw_eq, true_and] at hrun
    exact hrun

/-! ### What maintenance leaves of a line (R231) -/

section Left
variable (line : Nat)

theorem settle_stale (x : Cs) : (x.settle line).stale = x.stale := by
  unfold Cs.settle
  split
  · rfl
  · split
    · rfl
    · split <;> rfl

theorem cleanVa_stale (x : Cs) : (x.cleanVa line).stale.find line = none := by
  unfold Cs.cleanVa
  rw [settle_stale]
  exact find_erase_same _ _

theorem purge_stale (x : Cs) : (x.purge line).stale.find line = none := find_erase_same _ _
theorem purge_l3 (x : Cs) : (x.purge line).coh.l3.find line = none := find_erase_same _ _
theorem purge_dir (x : Cs) : (x.purge line).coh.dir.find line = none := find_erase_same _ _

end Left

/-- Settles O33: a clean and a clean-and-invalidate change the caches alone; the second is a `Cs.purge` of the line. -/
theorem maintainedLine : Obligations.MaintainedLine := by
  unfold Obligations.MaintainedLine
  intro s line key
  exact ⟨rfl, rfl, purge_l3 line _, purge_dir line _, purge_stale line _, cleanVa_stale line _⟩

end Sys2Proof.Proofs
end

section
/-! PROOFS. Request packets that reach their target at once: the way (R253-R266), what each command does there (R218-R231,
R248-R252, R328, R331), and an INT at its core (R303). -/

namespace Sys2Proof.Proofs
open Sys2Proof.Machine Sys2Proof.Laws

/-! ### A packet on its way to its target -/

/-- A packet that carries a request and nothing else. -/
def BearsOnly (p : HeldPacket) (q : Ask) : Prop := p.req = some q ∧ p.int = none ∧ p.rsp = none ∧ p.snoop = none

section Request
variable {s : State} {h : Hdr} {pa : BitVec 52} {q : Ask} {p : HeldPacket}

theorem bearsOnly_sends (dst : Stop × Nat) (vc : BitVec 2) (cmd a aux bmask : Nat) (data : List (BitVec 256)) :
    BearsOnly (s.sends h (some q) dst vc cmd a aux bmask data) q := ⟨rfl, rfl, rfl, rfl⟩

theorem bearsOnly_asks {vc : BitVec 2} {cmd a aux bmask : Nat} {data : List (BitVec 256)}
    (hp : s.asks h q vc cmd a aux bmask data = some p) : BearsOnly p q := by
  obtain ⟨k, -, rfl⟩ := Option.map_eq_some_iff.1 hp
  exact bearsOnly_sends ..

theorem bearsOnly_victimAsks {line : Nat} {dirty : Bool} (hp : s.victimAsks h q line dirty = some p) : BearsOnly p q := by
  unfold State.victimAsks at hp
  split at hp
  · split at hp
    · cases hp
      exact bearsOnly_sends ..
    · cases hp
  · cases hp

/-- The packet of a request row carries that request. -/
theorem bearsOnly_requestOf (hp : s.requestOf h pa q = some p) : BearsOnly p q := by
  unfold State.requestOf at hp
  cases q with
  | rdShared _ _ | rdUnique => exact bearsOnly_asks (Option.ite_none_right_eq_some.1 hp).2
  | rdNc _ | wrLine _ | wrPartial _ _ | cmoClean | cmoInv | cmoClinv | preload => exact bearsOnly_asks hp
  | victim _ _ => exact bearsOnly_victimAsks hp
  | atomic _ _ _ _ _ => exact bearsOnly_asks (Option.ite_none_left_eq_some.1 hp).2
  | msg _ _ _ _ =>
    cases (Option.ite_none_left_eq_some.1 hp).2
    exact bearsOnly_sends ..
  | qread _ _ =>
    cases hp
    exact bearsOnly_sends ..
  | doorbell _ _ =>
    cases (Option.ite_none_right_eq_some.1 hp).2
    exact bearsOnly_sends ..

end Request

/-! ### Wakes on the way (R265) -/

theorem request_frame (s : State) (n : Nat) : s.request n = { s with pwr := (s.request n).pwr, free := (s.request n).free } := by
  unfold State.request
  split
  · rfl
  · split
    · dsimp only
      split <;> rfl
    · rfl

/-- A wake moves the power controllers' state alone; whether it meets a commit window is a free value. -/
theorem wake_frame (s : State) (n : Nat) : s.wake n = { s with pwr := (s.wake n).pwr, free := (s.wake n).free } := by
  rw [State.wake, request_frame]
  rfl

theorem ownSeen_mesh (s : State) (src : Stop) (page : Nat) : (s.ownSeen src page).mesh = s.mesh := by
  unfold State.ownSeen State.ownAsk
  dsimp only
  split
  · rfl
  · rw [wake_frame]

/-! ### At the target (R21, R240, R251) -/

section Served
variable {s s1 s2 : State} {h : Hdr} {pa : BitVec 52} {q : Ask} {p : HeldPacket}

theorem goes_arrives {front others : List HeldPacket} (quiet : Bool)
    (hway : (s.way (s.queueFull p) front others p).2 = .arrives) :
    s.goes quiet front others p = (s.cross p.pkt p.vc (p.legs.filterMap (·.1))).atTarget p := by
  unfold State.goes
  generalize s.way (s.queueFull p) front others p = w at hway
  obtain ⟨b, w⟩ := w
  cases hway
  rfl

/-- A request row whose packet has nothing in its way comes to its target's port. -/
theorem issue_reaches (hreach : Reaches h pa q p s s1) : s.issue h pa q = s1.atTarget p := by
  obtain ⟨hask, s0, hopen, hfree, hway, rfl⟩ := hreach
  rw [State.issue, hask]
  dsimp only
  rw [hopen]
  dsimp only
  split_ifs with hcheck hstands
  · simp [hfree] at hstands
  · rw [if_pos hcheck] at hway
    exact goes_arrives false hway
  · next hstands => simp [ownSeen_mesh, hfree] at hstands
  · rw [if_neg hcheck] at hway
    exact goes_arrives false hway

/-- An agent at a port performs a request that is meant for it, and answers. -/
theorem atTarget_served (hp : BearsOnly p q) (hserve : ServedAt p s1 s2) :
    s1.atTarget p = (s2.perform p q).2.answer p p.pkt.dst (s2.perform p q).1 := by
  obtain ⟨hreq, hint, hrsp, hsnoop⟩ := hp
  obtain ⟨harrays, hport, hfits, hline, rfl⟩ := hserve
  have hmeant : ¬((!cmdFits p.pkt.dst p.pkt.dport.toNat p.pkt.cmd.toNat) = true ∨
      (lineOnly p.pkt.cmd.toNat = true ∧ s1.physDevice p.pkt.addr.toNat = true)) := by
    rintro (hn | ⟨hl, hd⟩)
    · simp [hfits] at hn
    · simp [hline hl] at hd
  simp only [State.atTarget, hreq, hint, hrsp, hsnoop, harrays, State.serveAt, hport, if_neg hmeant, Bool.false_eq_true,
    if_false]

/-- A request that reaches its port and is served there is performed and answered. -/
theorem request_served (hserved : ∃ s1, Reaches h pa q p s s1 ∧ ServedAt p s1 s2) :
    s.issue h pa q = (s2.perform p q).2.answer p p.pkt.dst (s2.perform p q).1 := by
  obtain ⟨s1, hreach, hserve⟩ := hserved
  rw [issue_reaches hreach, atTarget_served (bearsOnly_requestOf hreach.1) hserve]

theorem request_answers {a : Answer} {t : State} (hserved : ∃ s1, Reaches h pa q p s s1 ∧ ServedAt p s1 s2)
    (hdone : s2.perform p q = (a, t)) :
    Host.Outcome.next (s.issue h pa q) = (Host.Outcome.next (t.answer p p.pkt.dst a) : Result) := by
  rw [request_served hserved, hdone]

/-- A request for a line at its home, which memory answers where it is asked: the home wakes the way to memory and performs
it in the same step (log entries 34 and 78). -/
theorem request_atHome (hhome : AtHome h pa q p s s2) {f : Nat → Nat → State → Answer × State}
    (hf : s2.perform p q = s2.atHome p f) :
    let r := f (p.pkt.addr.toNat / 64) p.pkt.key.toNat (s2.wake (s2.memStop (64 * (p.pkt.addr.toNat / 64))).2)
    Host.Outcome.next (s.issue h pa q) = (Host.Outcome.next (r.2.answer p p.pkt.dst r.1) : Result) := by
  obtain ⟨-, hmem, hserved⟩ := hhome
  simp only [request_served hserved, hf, State.atHome, hmem]

end Served

/-! ### What the home does for each command (R220, R231, R235) -/

section Home
variable (s : State) (p : HeldPacket)

theorem perform_rdShared (instr : Bool) (e : SliceErr) : s.perform p (.rdShared instr e) =
    s.readFor p e fun s line k => s.rdShared s.cs p.init line k instr := rfl
theorem perform_rdUnique : s.perform p .rdUnique = s.readFor p .none fun s line k => s.rdUnique s.cs p.init line k := rfl
theorem perform_rdNc (n : BitVec 7) (hmem : s.physDevice p.pkt.addr.toNat = false) : s.perform p (.rdNc n) =
    s.atHome p fun line k s => (.data 3 (s.readHome line k).2.1 (lineFlits (s.readHome line k).1), (s.readHome line k).2.2) := by
  rw [State.perform, hmem]
  rfl
theorem perform_wrLine (d : BitVec 512) (hmem : s.physDevice p.pkt.addr.toNat = false) : s.perform p (.wrLine d) =
    s.atHome p fun line k s => (.ack 0, s.writeHome line k fullMask d (p.pkt.dpoison.truncate 2) true) := by
  rw [State.perform, hmem]
  rfl
theorem perform_wrPartial (d : BitVec 512) (m : BitVec 64) (hmem : s.physDevice p.pkt.addr.toNat = false) :
    s.perform p (.wrPartial d m) =
      s.atHome p fun line k s => (.ack 0, s.writeHome line k m d (p.pkt.dpoison.truncate 2) false) := by
  rw [State.perform, hmem]
  rfl
theorem perform_atomic (op : BitVec 4) (o : BitVec 2) (sz : Bool) (v c : BitVec 128) : s.perform p (.atomic op o sz v c) =
    s.atHome p fun _ k s =>
      let n := atomicSize op sz
      let r := s.atomicHome k p.pkt.addr.toNat n
        fun old => (atomicNew op.toNat n old (v.toNat % 256 ^ n) (c.toNat % 256 ^ n)).getD old
      (.data 3 (if r.2.1.getLsbD (p.pkt.addr.toNat % 64 / 32) then 1 else 0) [BitVec.ofNat 256 r.1], r.2.2) := rfl
theorem perform_cmoClean : s.perform p .cmoClean = s.atHome p fun line k s => (.ack 0, s.cmoLine .clean line k) := rfl
theorem perform_cmoInv : s.perform p .cmoInv = s.atHome p fun line k s => (.ack 0, s.cmoLine .inv line k) := rfl
theorem perform_cmoClinv : s.perform p .cmoClinv = s.atHome p fun line k s => (.ack 0, s.cmoLine .clinv line k) := rfl
theorem perform_preload : s.perform p .preload =
    s.atHome p fun line k s => (.ack (BitVec.ofNat 32 (s.preload line k).1), (s.preload line k).2) := rfl

end Home

/-! ### What a read gives its core (R220) -/

section Reads
variable (s : State) (x : Cs) (c line key : Nat)

/-- After RD_SHARED the core holds the line. -/
theorem rdShared_holds (instr : Bool) : ((s.rdShared x c line key instr).coh.priv.find (c, line)).isSome = true := by
  unfold State.rdShared
  extract_lets x1 n x2 x3 x4 d x5 dirty others had
  have hhad : had = x5.coh.priv.find (c, line) := rfl
  clear_value had
  cases had with
  | some p => exact congrArg Option.isSome hhad.symm
  | none => simp [Cs.privSet]

/-- A directory entry with an owner stays. -/
theorem dirSet_owned {d : DirEntry} (y : Cs) (hd : d.owner = some c) : (y.dirSet line d).coh.dir.find line = some d := by
  simp [Cs.dirSet, hd]

/-- After RD_UNIQUE the core holds the line in E or M, and the directory lists it as the owner and no sharer. -/
theorem rdUnique_owns :
    (∃ q, (s.rdUnique x c line key).coh.priv.find (c, line) = some q ∧ (q.st = .e ∨ q.st = .m)) ∧
    ∃ d, (s.rdUnique x c line key).coh.dir.find line = some d ∧ d.owner = some c ∧ d.sharers = [] := by
  unfold State.rdUnique
  extract_lets x1 n x2 x3 kept coarse x4 x5 st d
  have hst : st = .e ∨ st = .m := by
    simp only [st]
    split
    · exact .inr rfl
    · exact .inl rfl
  split
  · exact ⟨⟨_, find_set_same _ _ _, hst⟩, d, dirSet_owned c line x5 (d := d) rfl, rfl, rfl⟩
  · generalize s.l2Way x5 c line = r
    exact ⟨⟨_, find_set_same _ _ _, hst⟩, d, dirSet_owned c line r.2 (d := d) rfl, rfl, rfl⟩

end Reads

/-- A read of a line that DRAM gives without error, into a hierarchy, changes no byte. -/
theorem taken_mem {s : State} (c line : Nat) (hclean : CleanDram s line) :
    (if s.hasLine c line then s else s.cutIn line).m.mem = s.m.mem := by
  rw [cutIn_clean (cutOff_clean hclean) hclean, ite_self]

/-- An uncached read where nothing is cut off: what memory finds, with the halves poisoned that are (R220, R249). -/
theorem readHome_open {s : State} {line : Nat} (key : Nat) (hopen : s.cutOff line = false) :
    s.readHome line key = ((s.memIn line).m.under line key, (s.memIn line).linePoison line,
      (s.memIn line).withCs ((s.memIn line).rdNc (s.memIn line).cs line key)) := by
  simp [State.readHome, hopen]

theorem writeHome_open {s : State} {line : Nat} (key : Nat) (mask : BitVec 64) (data : Line) (dp : BitVec 2) (whole : Bool)
    (hopen : s.cxlClasped (64 * line) = false) :
    s.writeHome line key mask data dp whole = s.writeNc line key mask data dp whole := by
  rw [State.writeHome, hopen, if_neg Bool.false_ne_true]

/-! ### Outside Normal memory (R371, R464) -/

/-- A write of the Chip Control Space opens no request at a port's link. -/
theorem outOpen_ccs {s : State} {p : HeldPacket} (wr : Bool) (h : region p.pkt.addr.toNat = .ccs) : s.outOpen p wr = s := by
  simp [State.outOpen, State.outPort, State.hostOut, h]

section Device
variable {s s' : State} {p : HeldPacket} {v : Nat} {bad : Bool}

theorem devRead_answers (n : BitVec 7)
    (h : s.devAccess p.req_ 0x03 p.pkt.addr.toNat (if n = 0 then 64 else min 64 n.toNat) none = (.ok (v, bad), s')) :
    s.devRead p n = (.data 3 (if bad then 3 else 0) (Machine.placed p.pkt.addr.toNat v), s'.outOpen p false) := by
  rw [State.devRead, h]
  rfl

/-- A write of bytes of the Chip Control Space that follow one another (R469). -/
theorem devWrite_ccs {cmd o n : Nat} {mask : BitVec 64} {d : Line} {r : Nat × Bool} (hccs : region p.pkt.addr.toNat = .ccs)
    (hrun : maskRuns mask = [(o, n)])
    (h : s.devAccess p.req_ cmd (p.pkt.addr.toNat + o) n (some (d.toNat / 2 ^ (8 * o) % 256 ^ n)) = (.ok r, s')) :
    s.devWrite p cmd mask d = (.ack 0, s') := by
  simp only [State.devWrite, hccs, hrun, Nat.shiftRight_eq_div_pow, h]
  exact congrArg (Prod.mk _) (outOpen_ccs true hccs)

theorem perform_rdNcDevice (s : State) (p : HeldPacket) (n : BitVec 7) (hdev : s.physDevice p.pkt.addr.toNat = true) :
    s.perform p (.rdNc n) = s.devRead p n := by
  rw [State.perform, hdev]
  rfl

theorem perform_wrPartialDevice (s : State) (p : HeldPacket) (d : BitVec 512) (m : BitVec 64)
    (hdev : s.physDevice p.pkt.addr.toNat = true) : s.perform p (.wrPartial d m) = s.devWrite p 0x05 m d := by
  rw [State.perform, hdev]
  rfl

end Device

/-! ### Queue packets (R328, R331) -/

/-- A whole message that passes the checks of a queue without notices, and for which it has room, is appended. -/
theorem qPut_appends {s : State} {src : Nat} {id : Ident} {hd : Word} {ws : List (BitVec 56)}
    (hcheck : s.qCheck src id hd true = 0)
    (hroom : (s.queue (hStation hd) (hIndex hd)).words.length + ws.length ≤
      2 ^ getF (s.reg (rQcfg (hStation hd) (hIndex hd))) F.qcfg.CAP)
    (hkind : getF (s.reg (rQcfg (hStation hd) (hIndex hd))) F.qcfg.KIND = 0)
    (hquiet : getF (s.reg (rQcfg (hStation hd) (hIndex hd))) F.qcfg.NMODE = 0) :
    s.qPut src id hd ws false false = (0, s.setQueue (hStation hd) (hIndex hd)
      { s.queue (hStation hd) (hIndex hd) with words := (s.queue (hStation hd) (hIndex hd)).words ++ tagWords ws }) := by
  have hnotice : ∀ x, (s.setQueue (hStation hd) (hIndex hd) x).qNotice (hStation hd) (hIndex hd) =
      s.setQueue (hStation hd) (hIndex hd) x := by
    intro x
    have hreg : (s.setQueue (hStation hd) (hIndex hd) x).reg (rQcfg (hStation hd) (hIndex hd)) =
        s.reg (rQcfg (hStation hd) (hIndex hd)) := rfl
    simp [State.qNotice, hreg, hkind, hquiet]
  have hfits : ¬(2 ^ s.fld (rQcfg (hStation hd) (hIndex hd)) F.qcfg.CAP <
      (s.queue (hStation hd) (hIndex hd)).words.length + ws.length) := by rw [State.fld]; omega
  simp [State.qPut, hcheck, State.qAppend, hfits, hnotice]

/-- The word at the head of a queue that no one claims is taken; a word of a message that goes on claims the queue. -/
theorem qGet_takes {s : State} {src : Nat} {id : Ident} {hd : Word} {w : DWord} {r : List DWord}
    (hcheck : s.qCheck src id hd false = 0) (hq : s.queue (hStation hd) (hIndex hd) = ⟨w :: r, none⟩) :
    s.qGet src id hd false = (.ok w, s.setQueue (hStation hd) (hIndex hd)
      ⟨r, if w.toNat / 2 ^ 56 = 1 then some src else none⟩) := by
  simp only [State.qGet, hcheck, State.qTake, hq]
  rfl

section Queue
variable {s t : State} {p : HeldPacket} {hd : Word}

theorem perform_msg {ws : List (BitVec 56)} {more part1 : Bool}
    (hput : s.qPut (s.srcPort p.init hd) ⟨p.pkt.world, p.pkt.vmid.toNat, p.pkt.locket.toNat⟩ hd ws more part1 = (0, t)) :
    s.perform p (.msg hd ws more part1) = (.ack 0, t) := by
  simp only [State.perform, hput]
  rfl

theorem perform_qread {bad : Bool} {w : DWord}
    (hget : s.qGet (s.srcPort p.init hd) ⟨p.pkt.world, p.pkt.vmid.toNat, p.pkt.locket.toNat⟩ hd bad = (.ok w, t)) :
    s.perform p (.qread hd bad) = (.data 3 0 [w.zeroExtend 256], t) := by
  simp only [State.perform, hget]
  rfl

end Queue

/-! ### An INT (R303) -/

theorem statSent_frame (s : State) (src : Stop) (w : Bool) : s.statSent src w = { s with mesh := (s.statSent src w).mesh } := by
  unfold State.statSent
  split
  · split <;> rfl
  · rfl

/-- An INT on its way, counted and over its links, changes the mesh alone. -/
theorem sentCross_frame (s : State) (src : Stop) (w : Bool) (p : Packet) (vc : BitVec 2) (ls : List LinkId) :
    (s.statSent src w).cross p vc ls = { s with mesh := ((s.statSent src w).cross p vc ls).mesh } := by
  rw [statSent_frame]
  rfl

/-- An INT at a running core that no virtual CPU takes over: it becomes pending. -/
theorem intArrive_pends {s : State} {c : Nat} {world : Bool} {vec prio lvl : Nat} (hlvl : s.levelOk world lvl = true)
    (hkept : s.sec.discard = false) (hvec : vec ≠ 2) (hprio : prio ≠ 0) (hvcpu : (s.core c).vcpuOn = false)
    (hnew : ((s.core c).pend.any fun b => b.world == world && b.vec == vec) = false) (hrun : (s.core c).run = .running) :
    s.intArrive c world vec prio lvl =
      (s.setCore c { s.core c with pend := (s.core c).pend ++ [⟨world, vec, lvl, prio, 0⟩] }, none) := by
  have hnotice : (s.core c).noticed world vec lvl = false := by simp [Core.noticed, hvcpu]
  have hwait : (s.setCore c { s.core c with pend := (s.core c).pend ++ [⟨world, vec, lvl, prio, 0⟩] }).endWait c =
      s.setCore c { s.core c with pend := (s.core c).pend ++ [⟨world, vec, lvl, prio, 0⟩] } := by
    simp [State.endWait, hrun]
  simp [State.intArrive, hlvl, hkept, hvec, hprio, hnotice, hnew, hwait]

/-- An INT whose way is free arrives at its core. -/
theorem sendInt_arrives {s : State} {src : Stop} {c : Nat} {world : Bool} {vec prio lvl : Nat} {t : State}
    (hcore : s.noCore c = false) :
    let x := intPacket src c world vec prio lvl
    let s1 := s.statSent src world
    let w := s1.way false s1.mesh.held s1.mesh.held x
    w.2 = .arrives → (s1.cross x.pkt x.vc (x.crossed w.1)).intArrive c world vec prio lvl = (t, none) →
      s.sendInt src c world vec prio lvl = t := by
  intro x s1 w hway hint
  have hcore1 : s1.noCore c = false := by
    rw [show s1 = _ from statSent_frame s src world]
    exact hcore
  have hraw : s.intRaw src c world vec prio lvl = (t, none) := by
    rw [← hint]
    unfold State.intRaw
    dsimp only
    rw [if_neg (by simpa [s1] using hcore1)]
    split
    · next hw => simp only [w, x, s1, hw]
    · next hw => simp [w, x, s1, hw] at hway
    · next hw => simp [w, x, s1, hw] at hway
  rw [State.sendInt, hraw]
  rfl

/-- An INT whose way is free, at a running core where it is new. -/
theorem int_pends {s : State} {src : Stop} {c : Nat} {world : Bool} {vec prio lvl : Nat} (hcore : s.noCore c = false)
    (hlvl : s.levelOk world lvl = true) (hkept : s.sec.discard = false) (hvec : vec ≠ 2) (hprio : prio ≠ 0)
    (hvcpu : (s.core c).vcpuOn = false)
    (hnew : ((s.core c).pend.any fun b => b.world == world && b.vec == vec) = false) (hrun : (s.core c).run = .running) :
    let x := intPacket src c world vec prio lvl
    let s1 := s.statSent src world
    let w := s1.way false s1.mesh.held s1.mesh.held x
    w.2 = .arrives → s.sendInt src c world vec prio lvl = (s1.cross x.pkt x.vc (x.crossed w.1)).setCore c
      { s.core c with pend := (s.core c).pend ++ [⟨world, vec, lvl, prio, 0⟩] } := by
  intro x s1 w hway
  refine sendInt_arrives hcore hway ?_
  obtain ⟨m, hm⟩ : ∃ m, s1.cross x.pkt x.vc (x.crossed w.1) = { s with mesh := m } :=
    ⟨_, sentCross_frame s src world x.pkt x.vc (x.crossed w.1)⟩
  rw [hm]
  exact intArrive_pends hlvl hkept hvec hprio hvcpu hnew hrun

/-- Settles O47. A request that reaches its port is performed there (`request_served`, `request_atHome`); what each command
does is its `State.perform`. -/
theorem meshRequests : Obligations.MeshRequests := by
  unfold Obligations.MeshRequests
  intro h pa p s s2 c k at_ line s3 D H V mine
  refine ⟨?rdShared, ?rdUnique, ?rdNc, ?rdNcDevice, ?wrPartial, ?wrPartialDevice, ?wrLine, ?victim, ?victimClean, ?atomic,
    fun hh => ?clean, fun hh => ?inv, fun hh => ?clinv, fun hh => ?preload, ?msg, ?qread, ?doorbell, ?int⟩
  case rdShared =>
    intro instr e hh
    exact ⟨request_atHome hh (perform_rdShared s2 p instr e), rdShared_holds _ _ _ _ _ _⟩
  case rdUnique =>
    intro hh v
    obtain ⟨hcopy, hdir⟩ := rdUnique_owns mine mine.cs c line k
    exact ⟨request_atHome hh (perform_rdUnique s2 p), taken_mem c line, hcopy, hdir⟩
  case rdNc =>
    intro n hh hopen u
    exact (request_atHome hh (perform_rdNc s2 p n hh.1)).trans
      (congrArg (fun r : Line × BitVec 2 × State => D (.data 3 r.2.1 (lineFlits r.1)) r.2.2) (readHome_open k hopen))
  case rdNcDevice =>
    intro n v bad s4 hh hdev hacc
    exact request_answers hh ((perform_rdNcDevice s2 p n hdev).trans (devRead_answers n hacc))
  case wrPartial =>
    intro d m hh hopen
    exact (request_atHome hh (perform_wrPartial s2 p d m hh.1)).trans
      (congrArg (D (.ack 0)) (writeHome_open k m d _ false hopen))
  case wrPartialDevice =>
    intro d m o n r s4 hh hdev hccs hrun hacc
    exact request_answers hh ((perform_wrPartialDevice s2 p d m hdev).trans (devWrite_ccs hccs hrun hacc))
  case wrLine =>
    intro d hh hopen
    exact (request_atHome hh (perform_wrLine s2 p d hh.1)).trans
      (congrArg (D (.ack 0)) (writeHome_open k fullMask d _ true hopen))
  case victim => exact fun d hh => request_answers hh rfl
  case victimClean => exact fun e hh => request_answers hh rfl
  case atomic =>
    intro op o sz v x hh n f old bad s4 hatomic
    exact (request_atHome hh (perform_atomic s2 p op o sz v x)).trans
      (congrArg (fun r : Nat × BitVec 2 × State =>
        D (.data 3 (if r.2.1.getLsbD (at_ % 64 / 32) then 1 else 0) [BitVec.ofNat 256 r.1]) r.2.2) hatomic)
  case clean => exact request_atHome hh (perform_cmoClean s2 p)
  case inv => exact request_atHome hh (perform_cmoInv s2 p)
  case clinv => exact request_atHome hh (perform_cmoClinv s2 p)
  case preload => exact request_atHome hh (perform_preload s2 p)
  case msg =>
    intro hd ws s1 hreach hserve t q cfg hcheck hroom hkind hquiet
    exact request_answers ⟨s1, hreach, hserve⟩ (perform_msg (qPut_appends hcheck hroom hkind hquiet))
  case qread =>
    intro hd w r s1 hreach hserve t src hcheck hq
    exact request_answers ⟨s1, hreach, hserve⟩ (perform_qread (qGet_takes hcheck hq))
  case doorbell =>
    intro mask aux s1 hreach hserve
    exact ⟨_, request_answers ⟨s1, hreach, hserve⟩ rfl⟩
  case int =>
    intro src core world vec prio lvl d x s1 w hcore hway hvec hprio hlvl hkept hvcpu hnew hrun
    exact congrArg Host.Outcome.next (int_pends hcore hlvl hkept (fun hv => hvec (BitVec.eq_of_toNat_eq hv))
      (fun hp => hprio (BitVec.eq_of_toNat_eq hp)) hvcpu hnew hrun hway)

end Sys2Proof.Proofs
end

section
/-! PROOFS. L3 slices: power and locks of ways (R234, R237, R238), failing ways (R242), the initialisation of the arrays (R240)
and the retirement of a slice (R447). -/

namespace Sys2Proof.Proofs
open Sys2Proof.Machine Sys2Proof.Laws

/-! ### Bits of a way mask -/

/-- A mask of eight ways without one of them. -/
theorem testBit_butOne : ∀ j < 8, ∀ k < 8, (255 - 2 ^ j : Nat).testBit k = (k != j) := by decide

theorem testBit_two_pow_way : ∀ j < 8, ∀ k < 8, (2 ^ j : Nat).testBit k = (k == j) := by decide

/-- One way of a mask set to its request. -/
theorem testBit_oneWay (off : Nat) (on : Bool) {j k : Nat} (hj : j < 8) (hk : k < 8) :
    (if on then off ||| 2 ^ j else off &&& (255 - 2 ^ j)).testBit k = if k = j then on else off.testBit k := by
  cases on
  · simp [Nat.testBit_and, testBit_butOne j hj k hk]
    by_cases h : k = j <;> simp [h]
  · simp [Nat.testBit_or, testBit_two_pow_way j hj k hk]
    by_cases h : k = j <;> simp [h]

/-- A mask with the ways of a list cleared. -/
def clearWays (v : Nat) (l : List Nat) : Nat := l.foldl (fun v k => v &&& (255 - 2 ^ k)) v

theorem testBit_clearWays (v : Nat) (l : List Nat) (k : Nat) :
    (clearWays v l).testBit k = (v.testBit k && l.all fun j => (255 - 2 ^ j : Nat).testBit k) := by
  unfold clearWays
  induction l generalizing v with
  | nil => simp
  | cons j l ih => simp [ih, Nat.testBit_and, Bool.and_assoc]

theorem testBit_cleared (v : Nat) {l : List Nat} {k : Nat} (hk : k ∈ l) (h8 : k < 8) : (clearWays v l).testBit k = false := by
  have hout : (l.all fun j => (255 - 2 ^ j : Nat).testBit k) = false :=
    List.all_eq_false.2 ⟨k, hk, by simp [testBit_butOne k h8 k h8]⟩
  rw [testBit_clearWays, hout, Bool.and_false]

/-! ### Registers after a wake -/

@[simp] theorem wake_reg (s : State) (n : Nat) (r : Reg) : (s.wake n).reg r = s.reg r := by rw [wake_frame]; rfl
@[simp] theorem wake_fld (s : State) (n : Nat) (r : Reg) (p : Place) : (s.wake n).fld r p = s.fld r p := by
  rw [State.fld, wake_reg, State.fld]

theorem regDom_slice (n : BitVec 7) : domTile (ix 128 n.toNat).val = domTile n.toNat :=
  congrArg domTile (Nat.mod_eq_of_lt n.isLt)

/-! ### Power of ways (R237, R238) -/

/-- L3.WAYPWR of a slice. -/
abbrev wayReg (n : Nat) : Reg := .l3Waypwr (ix 128 n)

/-- What a slice's work on the power of its ways leaves: memory, cores, the lines of the slices, every register but
L3.WAYPWR, and there the ways that are off and those asked to be. -/
structure WayStep (n : Nat) (s t : State) : Prop where
  m : t.m = s.m
  cores : t.cores = s.cores
  l3 : t.coh.l3 = s.coh.l3
  reg : ∀ r, r ≠ wayReg n → t.reg r = s.reg r
  off : t.fld (wayReg n) F.l3Waypwr.OFF = s.fld (wayReg n) F.l3Waypwr.OFF
  req : t.fld (wayReg n) F.l3Waypwr.REQ = s.fld (wayReg n) F.l3Waypwr.REQ

theorem WayStep.refl (n : Nat) (s : State) : WayStep n s s := ⟨rfl, rfl, rfl, fun _ _ => rfl, rfl, rfl⟩

theorem WayStep.trans {n : Nat} {s t u : State} (h : WayStep n s t) (h' : WayStep n t u) : WayStep n s u where
  m := h'.m.trans h.m
  cores := h'.cores.trans h.cores
  l3 := h'.l3.trans h.l3
  reg r hr := (h'.reg r hr).trans (h.reg r hr)
  off := h'.off.trans h.off
  req := h'.req.trans h.req

theorem wayStep_status (n : Nat) (s : State) (v : Nat) :
    WayStep n s (s.setFld (wayReg n) F.l3Waypwr.STATUS v) where
  m := rfl
  cores := rfl
  l3 := rfl
  reg _ hr := reg_setFld_other s _ _ hr
  off := fld_setFld_place s _ _ _ v (by decide)
  req := fld_setFld_place s _ _ _ v (by decide)

theorem wayStep_busy (n : Nat) (s : State) (b : Map Nat Nat) : WayStep n s { s with coh := { s.coh with wayBusy := b } } :=
  ⟨rfl, rfl, rfl, fun _ _ => rfl, rfl, rfl⟩

theorem wayStep_wayNext (s : State) (n : Nat) : WayStep n s (s.wayNext n) := by
  unfold State.wayNext
  extract_lets r _ s1
  split
  · exact (wayStep_busy n s _).trans (wayStep_status n _ _)
  · have h1 : WayStep n s s1 := wayStep_busy n s _
    split
    · exact h1.trans (wayStep_status n _ _)
    · exact h1

/-- A field of eight ways just written. -/
theorem fld_setFld_ways (s : State) (r : Reg) {p : Place} (v : Nat) (h : p.2 + 7 = p.1 ∧ p.1 < 64) :
    (s.setFld r p v).fld r p = v % 256 := by
  obtain ⟨hp, h64⟩ := h
  rw [fld_setFld_same s r p v ⟨by omega, h64⟩, show p.1 - p.2 + 1 = 8 by omega]
  rfl

/-- A request that is not refused. -/
theorem wayPower_granted {s : State} {n req : Nat}
    (hlock : (anyBelow 8 fun k => req.testBit k && !(s.fld (wayReg n) F.l3Waypwr.OFF).testBit k &&
      s.l3Locked n (8 + k)) = false) (huse : 8 ≤ s.l3Usable n req) :
    WayStep n (s.setFld (wayReg n) F.l3Waypwr.REQ req) (s.wayPower n req) := by
  unfold State.wayPower
  extract_lets r off locked s1
  have hlocked : locked = false := hlock
  have h1 : WayStep n (s.setFld (wayReg n) F.l3Waypwr.REQ req) s1 := wayStep_status n _ 0
  rw [hlocked, if_neg Bool.false_ne_true, if_neg (by omega)]
  split
  · exact h1.trans (wayStep_status n _ _)
  · exact h1.trans (wayStep_wayNext _ n)

theorem l3WriteBack_coh (x : Cs) (line : Nat) (l : L3Line) : (x.l3WriteBack line l).coh = x.coh := by
  unfold Cs.l3WriteBack
  split
  · split <;> rfl
  · rfl

/-- A line that is still held after lines have been cleaned out is none of them. -/
theorem mem_cleaned {l : List (Nat × L3Line)} {x : Cs} {p : Nat × L3Line}
    (h : p ∈ (l.foldl (fun x q => (x.l3WriteBack q.1 q.2).l3Erase q.1) x).coh.l3) : p ∈ x.coh.l3 ∧ ∀ q ∈ l, q.1 ≠ p.1 := by
  induction l generalizing x with
  | nil => exact ⟨h, by simp⟩
  | cons q l ih =>
    obtain ⟨hin, hout⟩ := ih h
    obtain ⟨hmem, hne⟩ := List.mem_filter.1 hin
    rw [l3WriteBack_coh] at hmem
    exact ⟨hmem, List.forall_mem_cons.2 ⟨fun e => (of_decide_eq_true hne) e.symm, hout⟩⟩

/-- A way that has been cleaned is empty (R237, R242). -/
theorem l3CleanWay_empty (s : State) (n w : Nat) :
    ∀ p ∈ (s.l3CleanWay n w).coh.l3, p.2.way = w → (s.l3CleanWay n w).home p.1 ≠ n := by
  intro p hp hw hn
  obtain ⟨hmem, hout⟩ := mem_cleaned hp
  have hhome : s.home p.1 = n := hn
  exact hout p (List.mem_filter.2 ⟨hmem, by simp [hw, hhome]⟩) rfl

/-- A line's home depends on the remap table alone (R225). -/
theorem home_of_reg {s t : State} (h : ∀ k, t.reg (.l3Remap k) = s.reg (.l3Remap k)) (line : Nat) : t.home line = s.home line := by
  unfold State.home State.fld
  rw [h]

/-- The slice when a way's change is done: a way that was on is emptied. -/
def wayEmptied (s : State) (n w : Nat) : State :=
  if (s.fld (wayReg n) F.l3Waypwr.OFF).testBit (w - 8) then s else s.l3CleanWay n w

/-- Then its switch is as it was asked to be, and the slice goes on with the next way. -/
def waySwitched (s : State) (n w : Nat) : State :=
  let off := s.fld (wayReg n) F.l3Waypwr.OFF
  let t := wayEmptied s n w
  ({ t with coh := { t.coh with wayBusy := t.coh.wayBusy.erase n } } : State).setFld (wayReg n) F.l3Waypwr.OFF
    (if (s.fld (wayReg n) F.l3Waypwr.REQ).testBit (w - 8) then off ||| 2 ^ (w - 8) else off &&& (255 - 2 ^ (w - 8)))

theorem wayPowerChangeDone_switches {s : State} {n : BitVec 7} {w : Nat} (hbusy : s.coh.wayBusy.find n.toNat = some w) :
    exec (.wayPowerChangeDone n) s = .next ((waySwitched s n.toNat w).wayNext n.toNat) := by
  refine congrArg Host.Outcome.next ?_
  simp only [hbusy]
  rfl

section Switched
variable (s : State) (n w : Nat)

theorem wayEmptied_frame : (wayEmptied s n w).m.mem = s.m.mem ∧ (wayEmptied s n w).cores = s.cores ∧
    (wayEmptied s n w).csr = s.csr := by
  unfold wayEmptied
  split <;> exact ⟨rfl, rfl, rfl⟩

theorem waySwitched_frame : (waySwitched s n w).m.mem = s.m.mem ∧ (waySwitched s n w).cores = s.cores ∧
    ∀ r, r ≠ wayReg n → (waySwitched s n w).reg r = s.reg r := by
  obtain ⟨hmem, hcores, hcsr⟩ := wayEmptied_frame s n w
  exact ⟨hmem, hcores, fun r hr => (reg_setFld_other _ _ _ hr).trans (reg_of_csr hcsr r)⟩

theorem waySwitched_off {k : Nat} (hw : 8 ≤ w ∧ w < 16) (hk : k < 8) :
    ((waySwitched s n w).fld (wayReg n) F.l3Waypwr.OFF).testBit k =
      (if k = w - 8 then s.fld (wayReg n) F.l3Waypwr.REQ
        else s.fld (wayReg n) F.l3Waypwr.OFF).testBit k := by
  unfold waySwitched
  extract_lets off t
  rw [fld_setFld_ways _ _ _ (by decide), show (256 : Nat) = 2 ^ 8 from rfl, Nat.testBit_mod_two_pow,
    testBit_oneWay off _ (by omega) hk]
  simp only [hk, decide_true, Bool.true_and]
  split
  · next h => rw [h]
  · rfl

theorem waySwitched_empty (hdown : (s.fld (wayReg n) F.l3Waypwr.OFF).testBit (w - 8) = false) :
    ∀ p ∈ (waySwitched s n w).coh.l3, p.2.way = w → s.home p.1 ≠ n := by
  have hclean : wayEmptied s n w = s.l3CleanWay n w := if_neg (by simp [hdown])
  unfold waySwitched
  rw [hclean]
  exact l3CleanWay_empty s n w

end Switched

/-- A finished change: the switch is as it was asked to be, a way going down is empty, and no byte changes. -/
theorem wayPowerChangeDone_effects {s : State} {n : BitVec 7} {w : Nat} (hw : 8 ≤ w ∧ w < 16)
    (hbusy : s.coh.wayBusy.find n.toNat = some w) :
    Answers (exec (.wayPowerChangeDone n) s) fun t =>
      (∀ k, k < 8 → (t.fld (wayReg n.toNat) F.l3Waypwr.OFF).testBit k =
        (if k = w - 8 then s.fld (wayReg n.toNat) F.l3Waypwr.REQ
          else s.fld (wayReg n.toNat) F.l3Waypwr.OFF).testBit k) ∧
      ((s.fld (wayReg n.toNat) F.l3Waypwr.OFF).testBit (w - 8) = false →
        ∀ p ∈ t.coh.l3, p.2.way = w → t.home p.1 ≠ n.toNat) ∧
      t.m.mem = s.m.mem ∧ t.cores = s.cores := by
  obtain ⟨hmem, hcores, hreg⟩ := waySwitched_frame s n.toNat w
  have hstep := wayStep_wayNext (waySwitched s n.toNat w) n.toNat
  refine ⟨_, wayPowerChangeDone_switches hbusy, fun k hk => ?_, fun hdown => ?_, ?_, hstep.cores.trans hcores⟩
  · rw [hstep.off, waySwitched_off s n.toNat w hw hk]
  · have hhome : ∀ line, ((waySwitched s n.toNat w).wayNext n.toNat).home line = s.home line :=
      home_of_reg fun k => (hstep.reg _ (by simp)).trans (hreg _ (by simp))
    simp only [hstep.l3, hhome]
    exact waySwitched_empty s n.toNat w hdown
  · rw [hstep.m, hmem]

theorem wayPowerRequest_effects {r : Req} {n : BitVec 7} {ways : BitVec 8} {s : State}
    (hserved : Served r (wayReg n.toNat) s)
    (hlock : (anyBelow 8 fun k => ways.toNat.testBit k && !(s.fld (wayReg n.toNat) F.l3Waypwr.OFF).testBit k &&
      (s.wake (domTile n.toNat)).l3Locked n.toNat (8 + k)) = false)
    (huse : 8 ≤ (s.wake (domTile n.toNat)).l3Usable n.toNat ways.toNat) :
    Answers (exec (.wayPowerRequest r n ways) s) fun t =>
      t.fld (wayReg n.toNat) F.l3Waypwr.REQ = ways.toNat ∧
      t.fld (wayReg n.toNat) F.l3Waypwr.OFF = s.fld (wayReg n.toNat) F.l3Waypwr.OFF ∧
      t.m = s.m ∧ t.coh.l3 = s.coh.l3 := by
  have hdone : exec (.wayPowerRequest r n ways) s = .next ((s.wake (domTile n.toNat)).wayPower n.toNat ways.toNat) := by
    rw [← regDom_slice n]
    exact congrArg Host.Outcome.next (access_served _ hserved)
  have hstep := wayPower_granted (s := s.wake (domTile n.toNat)) (by rwa [wake_fld]) huse
  refine ⟨_, hdone, ?_, ?_, hstep.m.trans (wake_m s _), hstep.l3.trans (by simp)⟩
  · rw [hstep.req, fld_setFld_ways _ _ _ (by decide), Nat.mod_eq_of_lt ways.isLt]
  · rw [hstep.off, fld_setFld_place _ _ _ _ _ (by decide), wake_fld]

/-! ### Locks (R234, R238) -/

/-- The ways 8-11 that a lock finds off, powering down, or asked to power down. -/
def lockHits (s : State) (n ways : Nat) : List Nat :=
  (List.range 4).filter fun k => ways.testBit (8 + k) && (s.l3Off n (8 + k) || s.coh.wayBusy.find n == some (8 + k) ||
    (s.fld (wayReg n) F.l3Waypwr.REQ).testBit k)

/-- The lock register written. -/
def lockSet (s : State) (n ways : Nat) : State := s.setReg (.l3Lock (ix 128 n)) (dw (ways % 4096))

/-- The power-down of ways ended, by a lock on them. -/
def lockPowered (s : State) (n : Nat) (hit : List Nat) : State :=
  (s.setFld (wayReg n) F.l3Waypwr.OFF (clearWays (s.fld (wayReg n) F.l3Waypwr.OFF) hit)).setFld
    (wayReg n) F.l3Waypwr.REQ (clearWays (s.fld (wayReg n) F.l3Waypwr.REQ) hit)

section Lock
variable {s : State} {n ways : Nat}

theorem lockSet_fld (p : Place) :
    (lockSet s n ways).fld (wayReg n) p = s.fld (wayReg n) p := by
  rw [State.fld, lockSet, reg_setReg_other _ _ (by simp), State.fld]

theorem lockWrite_plain (h : lockHits (lockSet s n ways) n ways = []) : s.lockWrite n ways = lockSet s n ways := by
  unfold State.lockWrite
  extract_lets r s1 hit
  have hnone : hit = [] := h
  simp [hnone]
  rfl

theorem lockWrite_hits (h : lockHits (lockSet s n ways) n ways ≠ []) :
    ∃ u, WayStep n (lockPowered (lockSet s n ways) n (lockHits (lockSet s n ways) n ways)) u ∧
      s.lockWrite n ways = u.setFld (wayReg n) F.l3Waypwr.STATUS 2 := by
  unfold State.lockWrite
  extract_lets r s1 hit clr s2 busy _ s3
  have hsome : ¬(hit.isEmpty = true) := fun he => h (List.isEmpty_iff.1 he)
  rw [if_neg hsome]
  refine ⟨s3.wayNext n, ?_, rfl⟩
  have h3 : WayStep n s2 s3 := by
    simp only [s3]
    split
    · exact wayStep_busy n s2 _
    · exact .refl n s2
  exact h3.trans (wayStep_wayNext s3 n)

theorem lockPowered_frame (t : State) (hit : List Nat) {k : Nat} (hk : k ∈ hit) (h8 : k < 8) :
    ((lockPowered t n hit).fld (wayReg n) F.l3Waypwr.OFF).testBit k = false ∧
    ((lockPowered t n hit).fld (wayReg n) F.l3Waypwr.REQ).testBit k = false ∧
    (lockPowered t n hit).reg (.l3Lock (ix 128 n)) = t.reg (.l3Lock (ix 128 n)) := by
  have hbit : ∀ v, (clearWays v hit % 256).testBit k = false := fun v => by
    rw [show (256 : Nat) = 2 ^ 8 from rfl, Nat.testBit_mod_two_pow, testBit_cleared v hk h8, Bool.and_false]
  unfold lockPowered
  refine ⟨?_, ?_, ?_⟩
  · rw [fld_setFld_place _ _ _ _ _ (by decide), fld_setFld_ways _ _ _ (by decide), hbit]
  · rw [fld_setFld_ways _ _ _ (by decide), hbit]
  · rw [reg_setFld_other _ _ _ (by simp), reg_setFld_other _ _ _ (by simp)]

end Lock

theorem l3LockWrite_served {r : Req} {n : BitVec 7} {s : State} (l : BitVec 12)
    (hserved : Served r (.l3Lock (ix 128 n.toNat)) s) :
    exec (.l3LockWrite r n l) s = .next ((s.wake (domTile n.toNat)).lockWrite n.toNat l.toNat) := by
  rw [← regDom_slice n]
  exact congrArg Host.Outcome.next (access_served _ hserved)

theorem lockSet_bits (s : State) (n : Nat) (l : BitVec 12) :
    lockSet s n l.toNat = s.setReg (.l3Lock (ix 128 n)) (dw l.toNat) := by
  rw [lockSet, Nat.mod_eq_of_lt l.isLt]

section LockWrite
variable {r : Req} {n : BitVec 7} {s : State} {l : BitVec 12} (hserved : Served r (.l3Lock (ix 128 n.toNat)) s)
include hserved

/-- While every way is on and to stay on, a lock is written and nothing else. -/
theorem l3LockWrite_plain (hoff : s.fld (wayReg n.toNat) F.l3Waypwr.OFF = 0)
    (hreq : s.fld (wayReg n.toNat) F.l3Waypwr.REQ = 0) (hbusy : s.coh.wayBusy.find n.toNat = none) :
    exec (.l3LockWrite r n l) s =
      .next ((s.wake (domTile n.toNat)).setReg (.l3Lock (ix 128 n.toNat)) (dw l.toNat)) := by
  have hnone : lockHits (lockSet (s.wake (domTile n.toNat)) n.toNat l.toNat) n.toNat l.toNat = [] := by
    have hbusy' : (lockSet (s.wake (domTile n.toNat)) n.toNat l.toNat).coh.wayBusy.find n.toNat = none := by
      rw [lockSet, setReg_coh, wake_coh, hbusy]
    simp [lockHits, State.l3Off, lockSet_fld, hoff, hreq, hbusy']
  rw [l3LockWrite_served l hserved, lockWrite_plain hnone, lockSet_bits]

/-- A lock of a way that is off, or asked to power down, powers it on. -/
theorem l3LockWrite_powers {k : Nat} (hk : k < 4) (hl : l.getLsbD (8 + k) = true)
    (hdown : (s.fld (wayReg n.toNat) F.l3Waypwr.OFF).testBit k = true ∨
      (s.fld (wayReg n.toNat) F.l3Waypwr.REQ).testBit k = true) :
    Answers (exec (.l3LockWrite r n l) s) fun t =>
      (t.fld (wayReg n.toNat) F.l3Waypwr.OFF).testBit k = false ∧
      (t.fld (wayReg n.toNat) F.l3Waypwr.REQ).testBit k = false ∧
      t.fld (wayReg n.toNat) F.l3Waypwr.STATUS = 2 ∧ t.reg (.l3Lock (ix 128 n.toNat)) = dw l.toNat := by
  have hhit : k ∈ lockHits (lockSet (s.wake (domTile n.toNat)) n.toNat l.toNat) n.toNat l.toNat := by
    refine List.mem_filter.2 ⟨List.mem_range.2 hk, ?_⟩
    rcases hdown with hoff | hreq
    · simp [State.l3Off, lockSet_fld, hoff, BitVec.testBit_toNat, hl]
    · simp [lockSet_fld, hreq, BitVec.testBit_toNat, hl]
  obtain ⟨u, hstep, hwrite⟩ := lockWrite_hits (List.ne_nil_of_mem hhit)
  obtain ⟨hoff, hreq, hlock⟩ := lockPowered_frame (n := n.toNat) (lockSet (s.wake (domTile n.toNat)) n.toNat l.toNat) _ hhit
    (by omega)
  rw [l3LockWrite_served l hserved, hwrite]
  refine ⟨_, rfl, ?_, ?_, ?_, ?_⟩
  · rw [fld_setFld_place _ _ _ _ _ (by decide), hstep.off, hoff]
  · rw [fld_setFld_place _ _ _ _ _ (by decide), hstep.req, hreq]
  · exact fld_setFld_same _ _ _ _ (by decide)
  · rw [reg_setFld_other _ _ _ (by simp), hstep.reg _ (by simp), hlock, lockSet_bits, reg_setReg_same]

end LockWrite

/-! ### Failing ways (R242) -/

/-- A way of a slice or L2 that is marked as disabled. -/
theorem fld_setFld_disabled (s : State) (r : Reg) {p : Place} {w : Nat} (hp : p.2 ≤ p.1 ∧ p.1 < 64) (hw : w < p.1 - p.2 + 1) :
    (s.setFld r p (s.fld r p ||| 2 ^ w)).fld r p = s.fld r p ||| 2 ^ w := by
  rw [fld_setFld_same _ _ _ _ hp]
  refine Nat.mod_eq_of_lt (Nat.or_lt_two_pow ?_ (Nat.pow_lt_pow_right (by omega) hw))
  exact Nat.mod_lt _ (Nat.two_pow_pos _)

/-- A way of a slice emptied, marked as disabled, and unlocked. -/
def l3Disabled (s : State) (n w : Nat) : State :=
  let t := (s.l3CleanWay n w).setFld (.l3Stat (ix 128 n)) F.l3Stat.WAY_DIS
    (s.fld (.l3Stat (ix 128 n)) F.l3Stat.WAY_DIS ||| 2 ^ w)
  t.setReg (.l3Lock (ix 128 n)) (t.reg (.l3Lock (ix 128 n)) &&& ~~~(1#64 <<< w))

theorem l3Disabled_spec (s : State) (n : Nat) {w : Nat} (hw : w < 16) :
    (l3Disabled s n w).fld (.l3Stat (ix 128 n)) F.l3Stat.WAY_DIS = s.fld (.l3Stat (ix 128 n)) F.l3Stat.WAY_DIS ||| 2 ^ w ∧
    (l3Disabled s n w).l3Locked n w = false ∧ (l3Disabled s n w).m.mem = s.m.mem := by
  refine ⟨?_, ?_, rfl⟩
  · rw [State.fld, l3Disabled, reg_setReg_other _ _ (by simp)]
    exact fld_setFld_disabled (s.l3CleanWay n w) _ (by decide) hw
  · rw [State.l3Locked, l3Disabled, reg_setReg_same, BitVec.getLsbD_and, BitVec.getLsbD_not, BitVec.getLsbD_shiftLeft]
    simp

/-- A way of a slice whose errors have reached the threshold, while the slice keeps enough ways. -/
theorem wayDisable_l3 {s : State} {n : BitVec 7} {w : BitVec 4} (hset : 0 < s.fld .l3Thresh F.l3Thresh.COUNT)
    (hreached : s.fld .l3Thresh F.l3Thresh.COUNT ≤ s.wayErrs true n.toNat w.toNat) (hnew : s.l3Dis n.toNat w.toNat = false)
    (hfloor :
      let off := s.fld (wayReg n.toNat) F.l3Waypwr.OFF ||| s.fld (wayReg n.toNat) F.l3Waypwr.REQ
      8 < s.l3Usable n.toNat off ∨ (8 ≤ w.toNat ∧ off.testBit (w.toNat - 8) = true)) :
    exec (.wayDisable true (n.zeroExtend 8) w) s =
      .next ((l3Disabled s n.toNat w.toNat).logErr { bank := n.toNat, cls := 0x07, sev := 0, src := w.toNat }) := by
  have hidx : (n.zeroExtend 8).toNat % 128 = n.toNat := by
    have := n.isLt
    rw [BitVec.toNat_setWidth]
    omega
  have hdue : ¬(s.fld .l3Thresh F.l3Thresh.COUNT = 0 ∨
      s.wayErrs true n.toNat w.toNat < s.fld .l3Thresh F.l3Thresh.COUNT ∨ s.l3Dis n.toNat w.toNat = true) := by
    rw [hnew]
    simp
    omega
  refine congrArg Host.Outcome.next ?_
  rw [if_pos rfl, hidx, if_neg hdue]
  refine (if_neg fun hrefused => ?_).trans rfl
  rcases hfloor with huse | hoff
  · exact absurd hrefused.1 (Nat.not_le.2 huse)
  · exact hrefused.2 hoff

/-- A way of an L2 emptied and marked as disabled. -/
def l2Disabled (s : State) (c w : Nat) : State :=
  (s.l2CleanWay c w).setFld (.l2Stat (ix 256 c)) F.l2Stat.WAY_DIS (s.fld (.l2Stat (ix 256 c)) F.l2Stat.WAY_DIS ||| 2 ^ w)

theorem l2Disabled_way (s : State) (c : Nat) {w : Nat} (hw : w < 8) :
    (l2Disabled s c w).fld (.l2Stat (ix 256 c)) F.l2Stat.WAY_DIS = s.fld (.l2Stat (ix 256 c)) F.l2Stat.WAY_DIS ||| 2 ^ w :=
  fld_setFld_disabled (s.l2CleanWay c w) _ (by decide) hw

theorem wayDisable_l2 {s : State} {c : BitVec 8} {w : BitVec 4} (hw : w.toNat < 8)
    (hset : 0 < s.fld .l2Thresh F.l2Thresh.COUNT)
    (hreached : s.fld .l2Thresh F.l2Thresh.COUNT ≤ s.wayErrs false c.toNat w.toNat) (hnew : s.l2Dis c.toNat w.toNat = false)
    (hfloor : 4 < s.l2Usable c.toNat) :
    exec (.wayDisable false c w) s =
      .next ((l2Disabled s c.toNat w.toNat).logErr { bank := c.toNat / 2, cls := 0x07, sev := 0, src := w.toNat }) := by
  have hdue : ¬(8 ≤ w.toNat ∨ s.fld .l2Thresh F.l2Thresh.COUNT = 0 ∨
      s.wayErrs false c.toNat w.toNat < s.fld .l2Thresh F.l2Thresh.COUNT ∨ s.l2Dis c.toNat w.toNat = true) := by
    rw [hnew]
    simp
    omega
  refine congrArg Host.Outcome.next ?_
  rw [if_neg Bool.false_ne_true, if_neg hdue]
  exact (if_neg (Nat.not_le.2 hfloor)).trans rfl

/-- A map from which a test of the key alone removes pairs. -/
theorem find_keep_key {κ α : Type} [DecidableEq κ] (m : Map κ α) (f : κ → Bool) (k : κ) :
    (m.keep fun j _ => f j).find k = if f k then m.find k else none := by
  induction m with
  | nil => simp [Map.keep]
  | cons p m ih =>
    obtain ⟨j, a⟩ := p
    unfold Map.keep at ih ⊢
    by_cases hj : j = k
    · subst hj
      by_cases hf : f j = true
      · simp [hf, Map.find]
      · simpa [hf] using ih
    · by_cases hf : f j = true
      · simpa [hf, Map.find, hj] using ih
      · simpa [hf, Map.find, hj] using ih

/-- The end of a window clears the counts of its L2 (R242). -/
theorem wayErrorWindowEnd_l2 (s : State) (c : BitVec 8) :
    Answers (exec (.wayErrorWindowEnd false c) s) fun t =>
      (∀ w, t.wayErrs false c.toNat w = 0) ∧ (∀ w j, t.wayErrs true j w = s.wayErrs true j w) ∧
      t = { s with coh := { s.coh with wayErr := t.coh.wayErr } } := by
  refine ⟨_, rfl, fun w => ?_, fun w j => ?_, rfl⟩
  · simp [State.wayErrs, Map.getD, find_keep_key]
  · simp [State.wayErrs, Map.getD, find_keep_key]

/-! ### Retirement (R447) -/

section Retire
variable {r : Req} {n : BitVec 7} {s : State}

/-- GO of RAS.RETIRE belongs to the trusted world. -/
theorem retire_normal (hserved : Served r .retireReg s) (hw : r.world = false) :
    exec (.retire r n) s = .next (s.wake (regDom .retireReg)) := by
  refine congrArg Host.Outcome.next ((access_served _ hserved).trans ?_)
  simp [hw]

theorem retire_starts (hserved : Served r .retireReg s) (hw : r.world = true) (hnone : s.coh.retiring = none)
    (hroom : ((s.wake (regDom .retireReg)).setFld .retireReg F.retireReg.TILE n.toNat).retireRefused n.toNat = false) :
    let s2 := (s.wake (regDom .retireReg)).setFld .retireReg F.retireReg.TILE n.toNat
    exec (.retire r n) s = .next (State.setFld { s2 with coh := { s2.coh with retiring := some n.toNat } } .retireReg
      F.retireReg.STATUS 1) := by
  refine congrArg Host.Outcome.next ((access_served _ hserved).trans ?_)
  have hidle : ¬((s.wake (regDom .retireReg)).setFld .retireReg F.retireReg.TILE n.toNat).coh.retiring.isSome = true := by
    simp [hnone]
  rw [if_pos hw, State.retireStart, if_neg hidle, if_neg (by simp [hroom])]

/-- No packet waits: nothing moves. -/
theorem flow_idle (quiet : Bool) (h : s.mesh.held = []) : s.flow quiet = s := by
  unfold State.flow
  rw [h]
  rfl

theorem sliceRetireDone_waits {t : Nat} (hret : s.coh.retiring = some t) (hbusy : s.inFlight t = true) :
    exec .sliceRetireDone s = .next s := by
  refine congrArg Host.Outcome.next ?_
  simp only [hret, hbusy, if_true]

/-- A retirement ends when nothing is on its way to the slice. -/
theorem sliceRetireDone_ends {t : Nat} (hret : s.coh.retiring = some t) (hquiet : s.inFlight t = false)
    (hheld : (s.retireDone t).mesh.held = []) :
    exec .sliceRetireDone s = .next ((s.retireDone t).setFld .retireReg F.retireReg.STATUS 0) := by
  have hsame : ∀ u : State, u.mesh.held = [] → (u.onMesh fun m => { m with held := [] }) = u := fun u hu => by
    rw [← hu]
    rfl
  have hheld' : ((s.retireDone t).setFld .retireReg F.retireReg.STATUS 0).mesh.held = [] := hheld
  refine congrArg Host.Outcome.next ?_
  simp only [hret, hquiet, Bool.false_eq_true, if_false, hheld', List.map_nil, List.zip_nil_left, List.foldl_nil,
    hsame _ hheld', flow_idle false hheld']

end Retire

/-- Settles O49: each command's effect is a lemma above of its name; the arrays' initialisation is as the model has it. -/
theorem l3SliceCommands : Obligations.L3SliceCommands := by
  unfold Obligations.L3SliceCommands
  intro r n ways s i s1
  refine ⟨wayPowerRequest_effects, fun w h8 h16 hbusy => wayPowerChangeDone_effects ⟨h8, h16⟩ hbusy,
    fun l hserved => ⟨l3LockWrite_plain hserved, fun k hk hl hdown => l3LockWrite_powers hserved hk hl hdown⟩, ?l3, ?l2,
    wayErrorWindowEnd_l2 s, fun c => ⟨rfl, rfl, rfl⟩, rfl, rfl, retire_normal, ?starts,
    fun t hret => ⟨sliceRetireDone_waits hret, sliceRetireDone_ends hret⟩⟩
  case l3 =>
    intro w hset hreached hnew hfloor
    exact ⟨_, wayDisable_l3 hset hreached hnew hfloor, l3Disabled_spec s n.toNat w.isLt⟩
  case l2 =>
    intro c w hw hset hreached hnew hfloor
    exact ⟨_, wayDisable_l2 hw hset hreached hnew hfloor, l2Disabled_way s c.toNat hw, rfl⟩
  case starts => exact fun hserved hw hnone hroom => retire_starts hserved hw hnone hroom

end Sys2Proof.Proofs
end

section
/-! PROOFS. What accesses, notices and INTs leave of the mesh: the errors kept for initiators, the transactions but for their
timers, and the requests that wait. -/

namespace Sys2Proof.Proofs
open Sys2Proof.Machine Sys2Proof.Laws

/-! ### What touches nothing of the mesh -/

@[simp] theorem wake_mesh (s : State) (n : Nat) : (s.wake n).mesh = s.mesh := by rw [wake_frame]

@[simp] theorem count_mesh (s : State) (r : Reg) (p : Place) : (s.count r p).mesh = s.mesh := by
  unfold State.count
  dsimp only
  split <;> rfl

@[simp] theorem toLog_mesh (s : State) (typ sev : Nat) (tr : Bool) (l : List DWord) : (s.toLog typ sev tr l).mesh = s.mesh := by
  unfold State.toLog
  split <;> rfl

@[simp] theorem record_mesh (s : State) (e : Event) : (s.record e).2.mesh = s.mesh := by
  unfold State.record
  extract_lets cnt counted _ words _ s1
  have h1 : s1.mesh = s.mesh := by
    simp only [s1]
    split
    · exact count_mesh s cnt F.ebCnt.CORR
    · simp
    · simp
    · split <;> simp
  split
  · simpa using h1
  · split
    · exact h1
    · split
      · exact h1
      · exact List.foldlRecOn (motive := fun t : State => t.mesh = s.mesh) _ _ h1 fun t ht _ _ => ht

@[simp] theorem recordOwed_mesh (s : State) (e : Event) : (s.recordOwed e).mesh = s.mesh := by
  unfold State.recordOwed
  extract_lets s1
  split <;> exact record_mesh s e

@[simp] theorem poisonMem_mesh (s : State) (n line : Nat) : (s.poisonMem n line).mesh = s.mesh := by
  unfold State.poisonMem
  split <;> rfl

@[simp] theorem dramCorrected_mesh (s : State) (n pa : Nat) (r : DramRow) : (s.dramCorrected n pa r).mesh = s.mesh :=
  recordOwed_mesh _ _

@[simp] theorem dramUncorrectable_mesh (s : State) (n pa : Nat) (good : Bool) :
    (s.dramUncorrectable n pa good).mesh = s.mesh := by
  unfold State.dramUncorrectable State.dramEvent
  split <;> simp

@[simp] theorem freeLine_mesh (s : State) : s.freeLine.2.mesh = s.mesh :=
  List.foldlRecOn (motive := fun a : Line × State => a.2.mesh = s.mesh) _ _ rfl fun _ h _ _ => h

@[simp] theorem dramBeyond_mesh (s : State) (n pa : Nat) (r : DramRow) (good : Bool) :
    (s.dramBeyond n pa r good).mesh = s.mesh := by
  unfold State.dramBeyond
  dsimp only
  split
  · simp
  · split <;> simp

@[simp] theorem dramRead_mesh (s : State) (n line : Nat) : (s.dramRead n line).mesh = s.mesh := by
  unfold State.dramRead
  extract_lets m gone
  split
  · rfl
  · rfl
  · split <;> rfl
  · extract_lets good'
    split <;> simp [gone]

@[simp] theorem memRead_mesh (s : State) (line : Nat) : (s.memRead line).mesh = s.mesh := by
  unfold State.memRead State.cxlRead
  split
  · split
    · simp
    · dsimp only
      split <;> rfl
  · rfl

@[simp] theorem memIn_mesh (s : State) (line : Nat) : (s.memIn line).mesh = s.mesh := by
  unfold State.memIn
  split <;> simp

@[simp] theorem wakePath_mesh (s : State) (line : Nat) : (s.wakePath line).mesh = s.mesh := by
  unfold State.wakePath State.awaitSlice
  split <;> simp

@[simp] theorem underClasp_mesh (s : State) (line : Nat) (wr : Bool) : (s.underClasp line wr).mesh = s.mesh := by
  unfold State.underClasp
  dsimp only
  split
  · split <;> simp
  · simp

@[simp] theorem withCs_mesh (s : State) (x : Cs) : (s.withCs x).mesh = s.mesh := rfl

@[simp] theorem readHome_mesh (s : State) (line key : Nat) : (s.readHome line key).2.2.mesh = s.mesh := by
  unfold State.readHome
  dsimp only
  split <;> simp

@[simp] theorem wakePartner_mesh (s : State) (line : Nat) : (s.wakePartner line).mesh = s.mesh := by
  unfold State.wakePartner
  split <;> simp

@[simp] theorem writeNc_mesh (s : State) (line key : Nat) (mask : BitVec 64) (data : Line) (dp : BitVec 2) (whole : Bool) :
    (s.writeNc line key mask data dp whole).mesh = s.mesh := by
  unfold State.writeNc State.dramWritten
  dsimp only
  split <;> simp

@[simp] theorem discard_mesh (s : State) (line : Nat) : (s.discard line).mesh = s.mesh := by
  unfold State.discard
  split <;> rfl

@[simp] theorem writeHome_mesh (s : State) (line key : Nat) (mask : BitVec 64) (data : Line) (dp : BitVec 2) (whole : Bool) :
    (s.writeHome line key mask data dp whole).mesh = s.mesh := by
  unfold State.writeHome State.invLine
  split <;> simp

@[simp] theorem ownCore_mesh (s : State) (c page : Nat) : (s.ownCore c page).mesh = s.mesh := by
  unfold State.ownCore State.ownAsk
  split <;> simp

@[simp] theorem agentGone_mesh (s : State) (e : Fail) (cmd key pa : Nat) : (s.agentGone e cmd key pa).mesh = s.mesh := by
  unfold State.agentGone
  split <;> simp

/-! ### What traffic leaves of the mesh -/

/-- A transaction without its timer's state. -/
def untimed (t : Txn) : Txn := { t with paused := false }

/-- Accesses, notices and INTs add statistics, flits and INT packets: the errors that initiators have received stay, each tag's
transaction stays but for a pause of its timer (R267), and no request starts to wait. -/
structure Passes (s t : State) : Prop where
  errs : t.mesh.errs = s.mesh.errs
  txn : ∀ k, (t.mesh.txns.find k).map untimed = (s.mesh.txns.find k).map untimed
  held : ∀ p ∈ t.mesh.held, p.isReq = true → p ∈ s.mesh.held

theorem Passes.trans {s t u : State} (h : Passes s t) (h' : Passes t u) : Passes s u where
  errs := h'.errs.trans h.errs
  txn k := (h'.txn k).trans (h.txn k)
  held p hp hr := h.held p (h'.held p hp hr) hr

theorem Passes.of_parts {s t : State} (he : t.mesh.errs = s.mesh.errs) (ht : t.mesh.txns = s.mesh.txns)
    (hh : t.mesh.held = s.mesh.held) : Passes s t where
  errs := he
  txn k := by rw [ht]
  held p hp _ := hh ▸ hp

theorem Passes.of_mesh {s t : State} (h : t.mesh = s.mesh) : Passes s t := .of_parts (by rw [h]) (by rw [h]) (by rw [h])

theorem Passes.refl (s : State) : Passes s s := .of_mesh rfl

theorem Passes.foldl {α : Type} {f : State → α → State} (h : ∀ s a, Passes s (f s a)) (l : List α) (s : State) :
    Passes s (l.foldl f s) :=
  List.foldlRecOn (motive := Passes s) l f (.refl s) fun t ht a _ => ht.trans (h t a)

/-- A tag that is free stays free. -/
theorem Passes.free {s t : State} (h : Passes s t) {k : Nat × Nat} (hk : s.mesh.txns.find k = none) :
    t.mesh.txns.find k = none := by
  have := h.txn k
  rw [hk] at this
  simpa using this

/-- A tag that is taken stays so, by the same transaction but for its timer. -/
theorem Passes.taken {s t : State} (h : Passes s t) {k : Nat × Nat} {x : Txn} (hk : s.mesh.txns.find k = some x) :
    ∃ y, t.mesh.txns.find k = some y ∧ untimed y = untimed x := by
  have := h.txn k
  rw [hk] at this
  simpa using this

/-! ### Statistics and packets -/

theorem passes_statOf (s : State) (i : Nat) (id : Ident) (flits : Nat) : Passes s (s.statOf i id flits) := by
  unfold State.statOf
  split
  · exact .of_parts rfl rfl rfl
  · exact .refl s

theorem passes_statAgent (s : State) (src : Stop) (id : Ident) : Passes s (s.statAgent src id) := by
  unfold State.statAgent
  split
  · exact passes_statOf _ _ _ _
  · exact .refl s

theorem passes_statSent (s : State) (src : Stop) (w : Bool) : Passes s (s.statSent src w) := by
  unfold State.statSent
  split
  · split
    · exact .of_parts rfl rfl rfl
    · exact .refl s
  · exact .refl s

theorem passes_cross (s : State) (p : Packet) (vc : BitVec 2) (ls : List LinkId) : Passes s (s.cross p vc ls) :=
  .of_parts rfl rfl rfl

theorem setPaused_frame (s : State) (p : HeldPacket) (on : Bool) :
    s.setPaused p on = { s with mesh := (s.setPaused p on).mesh } := by
  unfold State.setPaused State.onTxn
  dsimp only
  split
  · rfl
  · split
    · split
      · split <;> rfl
      · rfl
    · split
      · split
        · rfl
        · split <;> rfl
      · rfl

/-- A timer that stops or runs again leaves the packets and the failed links as they are. -/
theorem setPaused_spares (s : State) (p : HeldPacket) (on : Bool) : let t := s.setPaused p on
    t.mesh.held = s.mesh.held ∧ t.mesh.failed = s.mesh.failed ∧ t.mesh.errs = s.mesh.errs := by
  unfold State.setPaused State.onTxn
  dsimp only
  split
  · simp
  · split
    · split
      · split <;> simp [State.pauseSent, State.cross]
      · simp
    · split
      · split
        · simp
        · split <;> simp [State.pauseSent, State.cross]
      · simp

/-- The timer of one transaction, if any, is set. -/
theorem setPaused_txns (s : State) (p : HeldPacket) (on : Bool) : (s.setPaused p on).mesh.txns = s.mesh.txns ∨
    ∃ t, s.mesh.txns.find p.key = some t ∧ (s.setPaused p on).mesh.txns = s.mesh.txns.set p.key { t with paused := on } := by
  unfold State.setPaused State.onTxn
  dsimp only
  split
  · exact .inl rfl
  · split
    · split
      · split <;> exact .inl rfl
      · exact .inl rfl
    · split
      · next t ht =>
        split
        · exact .inl rfl
        · split
          · next t' ht' =>
            cases ht.symm.trans ht'
            exact .inr ⟨t, ht, rfl⟩
          · exact .inl rfl
      · exact .inl rfl

theorem passes_setPaused (s : State) (p : HeldPacket) (on : Bool) : Passes s (s.setPaused p on) where
  errs := (setPaused_spares s p on).2.2
  txn k := by
    rcases setPaused_txns s p on with h | ⟨t, ht, h⟩
    · rw [h]
    · rw [h]
      by_cases hk : k = p.key
      · subst hk
        simp [ht, untimed]
      · rw [find_set_other _ _ hk]
  held q hq _ := (setPaused_spares s p on).1 ▸ hq

/-- A packet that carries no request comes to rest. -/
theorem passes_come (s : State) {p : HeldPacket} (b : Option BufId) (dom : Option Nat) (hp : p.isReq = false) :
    Passes s (s.come p b dom) := by
  unfold State.come
  extract_lets s1 q s2 s3 all
  have h2 : Passes s s2 := ⟨rfl, fun _ => rfl, fun r hr hreq => by
    rcases List.mem_append.1 hr with hr | hr
    · exact hr
    · rw [List.mem_singleton.1 hr] at hreq
      exact absurd (show p.isReq = true from hreq) (by simp [hp])⟩
  have h3 : Passes s s3 := by
    simp only [s3]
    split
    · exact h2.trans (.of_mesh (wake_mesh _ _))
    · exact h2
  split
  · exact h3.trans (.foldl (fun s r => passes_setPaused s r true) _ _)
  · exact h3

/-! ### Accesses of agents -/

section Agent
variable {s t : State} {sec : Bool} {src : Stop} {id : Ident} {key : Nat}

theorem agentWay_mesh (s : State) (sec : Bool) (src : Stop) (line : Nat) :
    ((if sec then s else s.ownSeen src (line / 64)).wakePath line).mesh = s.mesh := by
  split <;> simp [ownSeen_mesh]

theorem passes_agentLine {line : Nat} {l : Line} {p : Bool} (h : s.agentLine sec src id line key = .ok (l, p, t)) :
    Passes s t := by
  unfold State.agentLine at h
  split at h
  · cases h
  · split at h
    · cases h
    · cases h
      exact (Passes.of_mesh ((readHome_mesh _ _ _).trans (agentWay_mesh s sec src line))).trans (passes_statAgent _ _ _)

theorem passes_agentRead {f pa n : Nat} {bs : List Byte} {p : Bool} (h : s.agentRead sec src id key f pa n = .ok (bs, p, t)) :
    Passes s t := by
  induction f generalizing s pa n bs p with
  | zero => cases h; exact .refl _
  | succ f ih =>
    rw [State.agentRead] at h
    split at h
    · cases h; exact .refl _
    · dsimp only at h
      split at h
      · cases h
      · next hl =>
        split at h
        · cases h
        · next hr =>
          cases h
          exact (passes_agentLine hl).trans (ih hr)

theorem passes_agentNat {pa n v : Nat} {p : Bool} (h : s.agentNat sec src id key pa n = .ok (v, p, t)) : Passes s t := by
  unfold State.agentNat at h
  split at h
  · cases h
  · next hr => cases h; exact passes_agentRead hr

theorem passes_agentWriteLine {line : Nat} {mask : BitVec 64} {data : Line} {p : Bool}
    (h : s.agentWriteLine sec src id line key mask data p = .ok t) : Passes s t := by
  unfold State.agentWriteLine at h
  split at h
  · cases h
  · split at h
    · cases h
    · cases h
      exact (Passes.of_mesh ((writeHome_mesh _ _ _ _ _ _ _).trans (agentWay_mesh s sec src line))).trans (passes_statAgent _ _ _)

theorem passes_agentWrite {f pa : Nat} {bs : List Byte} {p : Bool} (h : s.agentWrite sec src id key p f pa bs = .ok t) :
    Passes s t := by
  induction f generalizing s pa bs with
  | zero => cases h; exact .refl _
  | succ f ih =>
    rw [State.agentWrite] at h
    split at h
    · cases h; exact .refl _
    · dsimp only at h
      split at h
      · cases h
      · next hw => exact (passes_agentWriteLine hw).trans (ih h)

theorem passes_agentAtomic {pa n v : Nat} {p : Bool} {f : Nat → Nat} (h : s.agentAtomic sec src id key pa n f = .ok (v, p, t)) :
    Passes s t := by
  unfold State.agentAtomic at h
  split at h
  · cases h
  · next hn =>
    split at h
    · cases h; exact passes_agentNat hn
    · split at h
      · cases h
      · next hw => cases h; exact (passes_agentNat hn).trans (passes_agentWrite hw)

/-- A core's own access, once its checks have passed, is its work on the state after them. -/
theorem coreAsk_ok {α : Type} {c pa : Nat} {f : State → Nat → Except Fail α} {a : α} (h : s.coreAsk c id key pa f = .ok a) :
    ∃ k, f (s.ownCore c (pa / 4096)) k = .ok a := by
  unfold State.coreAsk at h
  split at h
  · cases h
  · split at h
    · cases h
    · exact ⟨_, h⟩

theorem exceptMap_ok {ε α β : Type} {x : Except ε α} {f : α → β} {b : β} (h : x.map f = .ok b) : ∃ a, x = .ok a ∧ f a = b := by
  cases x with
  | error e => cases h
  | ok a => cases h; exact ⟨a, rfl, rfl⟩

/-- The checks of a core's own access, and its count. -/
theorem Passes.asked {c pa flits : Nat} (h : Passes (s.ownCore c (pa / 4096)) t) : Passes s (t.statCore c flits) :=
  ((Passes.of_mesh (ownCore_mesh s c _)).trans h).trans (passes_statOf _ _ _ _)

theorem passes_coreNat {c pa n v : Nat} {p : Bool} (h : s.coreNat c id key pa n = .ok (v, p, t)) : Passes s t := by
  obtain ⟨k, hk⟩ := coreAsk_ok h
  obtain ⟨r, hr, hrt⟩ := exceptMap_ok hk
  cases hrt
  exact (passes_agentNat hr).asked

theorem passes_coreAtomic {c pa n v : Nat} {p : Bool} {f : Nat → Nat} (h : s.coreAtomic c id key pa n f = .ok (v, p, t)) :
    Passes s t := by
  obtain ⟨k, hk⟩ := coreAsk_ok h
  obtain ⟨r, hr, hrt⟩ := exceptMap_ok hk
  cases hrt
  exact (passes_agentAtomic hr).asked

end Agent

/-! ### INTs and notices -/

theorem passes_swapWord (s : State) (c off n : Nat) : Passes s (s.swapWord c off n).2 := by
  unfold State.swapWord
  dsimp only
  split
  · exact .of_mesh (agentGone_mesh _ _ _ _ _)
  · next h => exact passes_coreNat h
  · next h =>
    split
    · exact (passes_coreNat h).trans (.of_mesh (agentGone_mesh _ _ _ _ _))
    · next h' => exact (passes_coreNat h).trans (passes_coreAtomic h')

theorem passes_harvest (s : State) (c : Nat) : Passes s (s.harvest c) := by
  refine (passes_swapWord s c _ _).trans (.foldl (fun t k => ?_) _ _)
  unfold State.harvestClass
  have h := passes_swapWord t c (4 * k) 4
  split
  · next e => rw [e] at h; exact h
  · next e => rw [e] at h; exact h.trans (.of_mesh rfl)

@[simp] theorem endWait_mesh (s : State) (c : Nat) : (s.endWait c).mesh = s.mesh := by
  unfold State.endWait
  extract_lets k virt
  split
  · split <;> rfl
  · split
    · rfl
    · split <;> rfl
  · rfl

theorem passes_intArrive (s : State) (c : Nat) (w : Bool) (vec prio lvl : Nat) : Passes s (s.intArrive c w vec prio lvl).1 := by
  unfold State.intArrive
  split
  · exact .refl s
  · split
    · exact .of_mesh rfl
    · extract_lets s1 k
      have h1 : s1.mesh = s.mesh := by
        simp only [s1]
        split <;> rfl
      split
      · exact .of_mesh ((endWait_mesh s1 c).trans h1)
      · split
        · exact ((Passes.of_mesh h1).trans (passes_harvest s1 c)).trans (.of_mesh (endWait_mesh (s1.harvest c) c))
        · split <;> exact .of_mesh (by simp [h1])

theorem passes_intRaw (s : State) (src : Stop) (c : Nat) (w : Bool) (vec prio lvl : Nat) :
    Passes s (s.intRaw src c w vec prio lvl).1 := by
  unfold State.intRaw
  extract_lets s1 p
  have h1 : Passes s s1 := passes_statSent s src w
  split
  · exact h1
  · split
    · exact h1.trans ((passes_cross _ _ _ _).trans (passes_intArrive _ _ _ _ _ _))
    · exact h1.trans (passes_come _ _ _ rfl)
    · exact h1

theorem passes_virtDeliver (s : State) (src : IntSrc) (v : Nat) : Passes s (s.virtDeliver src v).1 := by
  unfold State.virtDeliver
  extract_lets hi key pa st bad
  split
  · exact .of_mesh (agentGone_mesh _ _ _ _ _)
  · next h => exact passes_agentAtomic h
  · next h1 =>
    replace h1 := passes_agentAtomic h1
    split
    · exact h1.trans (.of_mesh (agentGone_mesh _ _ _ _ _))
    · next h2 => exact h1.trans (passes_agentAtomic h2)
    · next h2 =>
      replace h2 := h1.trans (passes_agentAtomic h2)
      split
      · exact h2
      · split
        · exact h2.trans (.of_mesh (agentGone_mesh _ _ _ _ _))
        · next h3 => exact h2.trans (passes_agentNat h3)
        · next h3 => exact h2.trans ((passes_agentNat h3).trans (passes_intRaw _ _ _ _ _ _ _))

theorem passes_routeRaw (s : State) (src : IntSrc) : Passes s (s.routeRaw src).1 := by
  unfold State.routeRaw
  dsimp only
  split
  · exact .refl s
  · split
    · exact passes_virtDeliver _ _ _
    · exact passes_intRaw _ _ _ _ _ _ _

theorem passes_notice (s : State) (k : Nat) : Passes s (s.notice k) := by
  unfold State.notice
  have h := passes_routeRaw s (.stw (BitVec.ofNat 8 k))
  split
  · next e => rw [e] at h; exact h
  · next e => rw [e] at h; exact h.trans (.of_mesh (recordOwed_mesh _ _))

/-- An error event, recorded with its notice. -/
theorem passes_logErr (s : State) (e : Event) : Passes s (s.logErr e) := by
  unfold State.logErr State.logErrSlot
  have h : Passes s (s.record e).2 := .of_mesh (record_mesh s e)
  dsimp only
  split
  · exact h
  · exact h.trans (passes_notice _ _)

theorem Passes.logged {s : State} {r : State × Option Event} (h : Passes s r.1) : Passes s (logged r) := by
  unfold Machine.logged
  split
  · exact h
  · exact h.trans (passes_logErr _ _)

/-- A committed store of a core that fails: its record and the core's own MC_NOTIFY (R180). -/
theorem passes_storeFailed (s : State) (c : Nat) (e : MbEntry) (status : Nat) : Passes s (s.storeFailed c e status) :=
  (passes_logErr s _).trans (passes_intArrive _ _ _ _ _ _).logged

end Sys2Proof.Proofs
end

section
/-! PROOFS. Transactions of the mesh: responses (R249, R260-R262), pauses (R267), expiry and quarantine (R261). -/

namespace Sys2Proof.Proofs
open Sys2Proof.Machine Sys2Proof.Laws

/-! ### A saturating count -/

theorem count_frame (s : State) (r : Reg) (p : Place) : s.count r p = { s with csr := (s.count r p).csr } := by
  unfold State.count
  dsimp only
  split <;> rfl

theorem fld_count_other (s : State) {r q : Reg} (p f : Place) (h : q ≠ r) : (s.count r p).fld q f = s.fld q f := by
  unfold State.count
  dsimp only
  split
  · exact fld_setFld_other s _ _ _ h
  · rfl

/-! ### Responses (R249, R260-R262) -/

/-- A tag's transaction is over; the other tags, memory, the cores and the registers are as before. -/
def Completed (k : Nat × Nat) (s u : State) : Prop :=
  u.mesh.txns.find k = none ∧ (∀ j, j ≠ k → u.mesh.txns.find j = s.mesh.txns.find j) ∧ u.m = s.m ∧ u.cores = s.cores ∧
    u.csr = s.csr

/-- The state with a tag's transaction taken out, and with it the request that its target kept at a port's link. -/
def withoutTxn (s : State) (k : Nat × Nat) : State := (s.outDone k).onMesh fun m => { m with txns := m.txns.erase k }

theorem withoutTxn_completed (s : State) (k : Nat × Nat) : Completed k s (withoutTxn s k) :=
  ⟨find_erase_same _ _, fun _ hj => find_erase_other _ hj, rfl, rfl, rfl⟩

/-- What an initiator does with the answer it has received: it keeps an error (R262). -/
def afterAnswer (s : State) (i : Nat) (t : Txn) : Answer → State
  | .err e => s.keepErr i t e
  | _ => s

/-- An error that an initiator keeps changes the list of errors alone. -/
theorem keepErr_kept {s : State} {i e : Nat} {t : Txn} (h : t.posted i = false) : s.keepErr i t e =
    s.onMesh fun m => { m with errs := if i < 256 ∧ t.esc then m.errs
      else m.errs ++ [(i, t.pkt.cmd.toNat, t.pkt.addr.toNat / 64, e)] } := by
  unfold State.keepErr
  rw [if_neg (by simp [h])]
  split <;> rfl

/-- The error of a committed store or CMO is acted on at once, and not kept. -/
theorem keepErr_posted {s : State} {i e : Nat} {t : Txn} (h : t.posted i = true) : Passes s (s.keepErr i t e) := by
  unfold State.keepErr
  rw [if_pos h]
  exact passes_storeFailed _ _ _ _

/-- The statistics of a completed transaction, where it is counted, move the live counts alone. -/
theorem statDone_moves (s : State) (counts : Prop) [Decidable counts] (i flits lat : Nat) :
    ∃ l, (if counts then s.statDone i flits lat else s) = s.onMesh fun m => { m with live := l } := by
  split
  · exact ⟨(s.statDone i flits lat).mesh.live, rfl⟩
  · exact ⟨s.mesh.live, rfl⟩

section Response
variable {s : State} {i : Fin 272} {tag : BitVec 12} {g : BitVec 4} {lat : Nat} {t : Txn} {a : Answer} {ok : Txn → Option Answer}

/-- The response to an open transaction takes it out; what else it moves are the statistics. -/
theorem respond_answered (hopen : s.mesh.txns.find (tagKey i tag) = some t) (hgen : t.pkt.gen = g) (hlive : t.quarantined = false)
    (hok : ok t = some a) : ∃ l, s.respond i tag g lat ok =
      (afterAnswer (withoutTxn s (tagKey i tag)) i.val t a).onMesh fun m => { m with live := l } := by
  unfold State.respond
  dsimp only
  rw [hopen]
  dsimp only
  rw [if_pos ⟨hgen, by simp [hlive]⟩, hok]
  cases a <;> exact statDone_moves _ _ _ _ _

/-- A response that raises no error at a core's committed store completes its transaction and nothing else. -/
theorem respond_completes (hopen : s.mesh.txns.find (tagKey i tag) = some t) (hgen : t.pkt.gen = g)
    (hlive : t.quarantined = false) (hok : ok t = some a) (ha : ∀ e, a = .err e → t.posted i.val = false) :
    Completed (tagKey i tag) s (s.respond i tag g lat ok) := by
  obtain ⟨l, hl⟩ := respond_answered (lat := lat) hopen hgen hlive hok
  rw [hl]
  cases a with
  | data _ _ _ | ack _ => exact withoutTxn_completed s _
  | err e =>
    rw [afterAnswer, keepErr_kept (ha e rfl)]
    exact withoutTxn_completed s _

/-- The initiator keeps the error of a request that something waits for. -/
theorem respond_keepsErr {e : Nat} (hopen : s.mesh.txns.find (tagKey i tag) = some t) (hgen : t.pkt.gen = g)
    (hlive : t.quarantined = false) (hok : ok t = some (.err e)) (hwait : t.posted i.val = false) :
    (s.respond i tag g lat ok).mesh.errs = if i.val < 256 ∧ t.esc then s.mesh.errs
      else s.mesh.errs ++ [(i.val, t.pkt.cmd.toNat, t.pkt.addr.toNat / 64, e)] := by
  obtain ⟨l, hl⟩ := respond_answered (lat := lat) hopen hgen hlive hok
  rw [hl, afterAnswer, keepErr_kept hwait]
  rfl

/-- The error of a committed store completes its transaction, and is not kept. -/
theorem respond_posted {e : Nat} (hopen : s.mesh.txns.find (tagKey i tag) = some t) (hgen : t.pkt.gen = g)
    (hlive : t.quarantined = false) (hok : ok t = some (.err e)) (hposted : t.posted i.val = true) :
    (s.respond i tag g lat ok).mesh.txns.find (tagKey i tag) = none ∧ (s.respond i tag g lat ok).mesh.errs = s.mesh.errs := by
  obtain ⟨l, hl⟩ := respond_answered (lat := lat) hopen hgen hlive hok
  rw [hl, afterAnswer]
  have hpass : Passes (withoutTxn s (tagKey i tag)) _ := keepErr_posted (e := e) hposted
  exact ⟨hpass.free (find_erase_same _ _), hpass.errs⟩

/-- A response that comes when its tag is free is counted, and does nothing else. -/
theorem respond_late (hfree : s.mesh.txns.find (tagKey i tag) = none) :
    s.respond i tag g lat ok = s.count .lateCnt F.lateCnt.COUNT := by
  have hfree' : (s.count .lateCnt F.lateCnt.COUNT).mesh.txns.find (tagKey i tag) = none := by rw [count_mesh, hfree]
  simp only [State.respond, hfree, State.lateRsp, hfree']

/-- A late response to a quarantined tag is counted and releases the tag. -/
theorem respond_releases (hopen : s.mesh.txns.find (tagKey i tag) = some t) (hgen : t.pkt.gen = g) (hquar : t.quarantined = true) :
    s.respond i tag g lat ok = withoutTxn (s.count .lateCnt F.lateCnt.COUNT) (tagKey i tag) := by
  have hopen' : (s.count .lateCnt F.lateCnt.COUNT).mesh.txns.find (tagKey i tag) = some t := by rw [count_mesh, hopen]
  simp only [State.respond, hopen, State.lateRsp, hopen', hquar, hgen, Bool.not_true, Bool.false_eq_true, and_false, and_self,
    if_true, if_false]
  rfl

/-! ### Pauses (R267) -/

theorem pauseTxn_open (on : Bool) (hopen : s.mesh.txns.find (tagKey i tag) = some t) (hgen : t.pkt.gen = g)
    (hlive : t.quarantined = false) : s.pauseTxn i tag g on = s.setTxn (tagKey i tag) { t with paused := on } := by
  rw [State.pauseTxn, State.onTxn, hopen]
  dsimp only
  rw [if_pos ⟨hgen, by simp [hlive]⟩]
  rfl

/-! ### Expiry (R261) -/

/-- An error that an initiator acts on or keeps leaves the transactions but for their timers, and no request starts to wait. -/
theorem keepErr_spares (s : State) (i : Nat) (t : Txn) (e : Nat) :
    (∀ k, ((s.keepErr i t e).mesh.txns.find k).map untimed = (s.mesh.txns.find k).map untimed) ∧
      ∀ p ∈ (s.keepErr i t e).mesh.held, p.isReq = true → p ∈ s.mesh.held := by
  cases h : t.posted i with
  | true =>
    have hpass := keepErr_posted (s := s) (e := e) h
    exact ⟨hpass.txn, hpass.held⟩
  | false =>
    rw [keepErr_kept h]
    exact ⟨fun _ => rfl, fun _ hp _ => hp⟩

/-- A transaction whose timer runs out: its tag is quarantined, a request that has not come through is dropped or goes on as
the operand says (log entry 64), and the initiator's bank records the TIMEOUT. -/
theorem expire_quarantines (b : Bool) (hopen : s.mesh.txns.find (tagKey i tag) = some t) (hlive : t.quarantined = false)
    (hruns : t.paused = false) :
    ∃ (ev : Event) (s2 : State), ev.cls = 0x14 ∧ ev.bank = initBank i.val ∧ ev.sev = 2 ∧
      ev.addr = some (t.pkt.key.toNat, t.pkt.addr.toNat) ∧
      (∃ t', s2.mesh.txns.find (tagKey i tag) = some t' ∧ t'.quarantined = true ∧ t'.pkt = t.pkt) ∧
      (b = false → ∀ p ∈ s2.mesh.held, p.isReq = true → p.key ≠ tagKey i tag) ∧ s.expire i tag b = s2.logErr ev := by
  unfold State.expire
  extract_lets k
  split
  · next h => cases h.symm.trans hopen
  · next t0 ht0 =>
    cases ht0.symm.trans hopen
    rw [if_neg (by simp [hlive, hruns])]
    extract_lets s1 s2 s3
    have htxn : s3.mesh.txns.find k = some { t with quarantined := true } := by
      have h1 : s1.mesh.txns.find k = some { t with quarantined := true } := find_set_same _ _ _
      simp only [s3, s2]
      split <;> split <;> exact h1
    have hheld : b = false → ∀ p ∈ s3.mesh.held, p.isReq = true → p.key ≠ k := by
      rintro rfl p hp hreq hk
      have hp2 : p ∈ s2.mesh.held := by
        revert hp
        simp only [s3]
        split <;> exact id
      simpa [s2, hreq, hk] using (List.mem_filter.1 hp2).2
    obtain ⟨htxn', hheld'⟩ := keepErr_spares s3 i.val t 0x01
    refine ⟨_, _, ?_, ?_, ?_, ?_, ?_, ?_, rfl⟩
    · rfl
    · rfl
    · rfl
    · rfl
    · have hk := htxn' k
      rw [htxn] at hk
      obtain ⟨t', ht', hsame⟩ := Option.map_eq_some_iff.1 hk
      have hquar : (untimed t').quarantined = true := by rw [hsame]; rfl
      have hpkt : (untimed t').pkt = t.pkt := by rw [hsame]; rfl
      exact ⟨t', ht', hquar, hpkt⟩
    · exact fun hb p hp hreq => hheld hb p (hheld' p hp hreq) hreq

end Response

end Sys2Proof.Proofs
end

section
/-! PROOFS. Snoops and their expiry (R220, R222, R258, R263), packets that are not performed (R21, R251, R252), and links
(R246, R247). -/

namespace Sys2Proof.Proofs
open Sys2Proof.Machine Sys2Proof.Laws

/-! ### A packet that comes to rest (R265-R267) -/

theorem setPaused_fold_frame (l : List HeldPacket) (s : State) :
    l.foldl (fun s r => s.setPaused r true) s = { s with mesh := (l.foldl (fun s r => s.setPaused r true) s).mesh } :=
  List.foldlRecOn (motive := fun t : State => t = { s with mesh := t.mesh }) l _ rfl fun t ht r _ => by
    rw [setPaused_frame t r true, ht]

/-- It moves the mesh, and the power controllers where it asks for a wake. -/
theorem come_frame (s : State) (p : HeldPacket) (b : Option BufId) (dom : Option Nat) : s.come p b dom =
    { s with mesh := (s.come p b dom).mesh, pwr := (s.come p b dom).pwr, free := (s.come p b dom).free } := by
  unfold State.come
  extract_lets s1 q s2 s3 all
  have h3 : s3 = { s with mesh := s3.mesh, pwr := s3.pwr, free := s3.free } := by
    simp only [s3]
    split
    · next d => rw [wake_frame s2 d]; rfl
    · rfl
  split
  · rw [setPaused_fold_frame all s3, h3]
  · exact h3

/-! ### Snoops (R220, R222, R263) -/

/-- What the way of a snoop's answer leaves: the bytes of memory, the cores, and what the cores' own caches hold. -/
structure KeepsCopies (s t : State) : Prop where
  mem : t.m.mem = s.m.mem
  cores : t.cores = s.cores
  priv : t.coh.priv = s.coh.priv

theorem KeepsCopies.trans {s t u : State} (h : KeepsCopies s t) (h' : KeepsCopies t u) : KeepsCopies s u :=
  ⟨h'.mem.trans h.mem, h'.cores.trans h.cores, h'.priv.trans h.priv⟩

theorem keepsCopies_withCs (s : State) {x : Cs} (h : x.coh.priv = s.coh.priv) : KeepsCopies s (s.withCs x) := ⟨rfl, rfl, h⟩

theorem keepsCopies_come (s : State) (p : HeldPacket) (b : Option BufId) (dom : Option Nat) : KeepsCopies s (s.come p b dom) := by
  rw [come_frame]
  exact ⟨rfl, rfl, rfl⟩

theorem keepsCopies_snoopHome (s : State) (m : SnoopMsg) : KeepsCopies s (s.snoopHome m) := by
  have hrefl : KeepsCopies s s := ⟨rfl, rfl, rfl⟩
  unfold State.snoopHome
  split
  · split
    · exact hrefl
    · split
      · refine keepsCopies_withCs s ?_
        split
        · exact l3Victim_priv _ _ _ _ _
        · exact unlend_priv _ _
      · split
        · exact keepsCopies_withCs s rfl
        · exact hrefl
  · exact hrefl

theorem keepsCopies_snoopEnds (s : State) (m : SnoopMsg) {a : Answer} (ha : ∀ e, a ≠ .err e) :
    KeepsCopies s (s.snoopEnds m a) := by
  unfold State.snoopEnds
  dsimp only
  split
  · rw [count_frame]
    exact ⟨rfl, rfl, rfl⟩
  · cases a with
    | data _ _ _ | ack _ =>
      have h := keepsCopies_snoopHome (s.onMesh fun q => { q with snoops := q.snoops.erase (m.core, m.line) }) m
      exact ⟨h.mem, h.cores, h.priv⟩
    | err e => exact absurd rfl (ha e)

theorem keepsCopies_snoopReply (s : State) (p : HeldPacket) (m : SnoopMsg) (src : Stop) {a : Answer} (ha : ∀ e, a ≠ .err e) :
    KeepsCopies s (s.snoopReply p m src a) := by
  have hcross : ∀ q vc ls, KeepsCopies s (s.cross q vc ls) := fun _ _ _ => ⟨rfl, rfl, rfl⟩
  unfold State.snoopReply
  dsimp only
  split
  · exact (hcross _ _ _).trans (keepsCopies_snoopEnds _ _ ha)
  · exact keepsCopies_come _ _ _ _
  · exact hcross _ _ _

/-- A snooped core's own caches follow the snoop; what happens after that to its answer changes no copy. -/
theorem snoopAt_copies (s : State) (p : HeldPacket) (m : SnoopMsg) (hcore : s.noCore m.core = false) :
    KeepsCopies (s.withCs (if m.inv then s.cs.snoopInv m.core m.line else s.cs.snoopShared m.core m.line)) (s.snoopAt p m) := by
  unfold State.snoopAt
  extract_lets st f data a s1 s2
  rw [if_neg (show ¬s.noCore m.core = true by simp [hcore])]
  have h2 : KeepsCopies s1 s2 := by
    simp only [s2]
    split <;> exact ⟨rfl, rfl, rfl⟩
  refine h2.trans (keepsCopies_snoopReply _ _ _ _ fun e => ?_)
  simp only [a]
  split <;> simp

theorem atTarget_snoop (s : State) {p : HeldPacket} {m : SnoopMsg} (hrsp : p.rsp = none) (hsnoop : p.snoop = some m) :
    s.atTarget p = s.snoopAt p m := by
  rw [State.atTarget, hrsp, hsnoop]

section Snoop
variable {s : State} {c line : Nat} {p : PrivLine} {d : DirEntry}

/-- A snoop that nothing holds up reaches its core. -/
theorem snoop_arrives (inv : Bool) (hdir : s.coh.dir.find line = some d) (hholds : d.holders.contains c = true)
    (hfree : s.mesh.snoops.find (c, line) = none) (hcore : s.noCore c = false) :
    let s1 := s.snoopOpened c line d
    (s1.way false s1.mesh.held s1.mesh.held (s1.snoopPacket c line d.key inv)).2 = .arrives →
      KeepsCopies (s.withCs (if inv then s.cs.snoopInv c line else s.cs.snoopShared c line)) (s.snoop c line inv) := by
  intro s1 hway
  have hgoes : s.snoop c line inv = s1.goes false s1.mesh.held s1.mesh.held (s1.snoopPacket c line d.key inv) := by
    rw [State.snoop, hdir]
    exact if_neg (by rw [hholds, hfree]; simp)
  have hspace : s1.queueFull (s1.snoopPacket c line d.key inv) = false := by
    simp [State.queueFull, State.forArrays, State.snoopPacket]
  rw [hgoes, goes_arrives false (by rw [hspace]; exact hway), atTarget_snoop _ rfl rfl]
  obtain ⟨m, hm⟩ : ∃ m, s1.cross (s1.snoopPacket c line d.key inv).pkt (s1.snoopPacket c line d.key inv).vc
      ((s1.snoopPacket c line d.key inv).legs.filterMap (·.1)) = { s with mesh := m } := ⟨_, rfl⟩
  rw [hm]
  have hcopies := snoopAt_copies { s with mesh := m } (s1.snoopPacket c line d.key inv) ⟨c, line, inv, none⟩ hcore
  exact ⟨hcopies.mem, hcopies.cores, hcopies.priv⟩

/-- SNP_SHARED at a core that holds the line: M becomes O, E becomes S. -/
theorem find_snoopShared (h : s.coh.priv.find (c, line) = some p) : (s.cs.snoopShared c line).coh.priv.find (c, line) =
    some { p with st := match p.st with | .m => .o | .e => .s | x => x } := by
  have h' : s.cs.coh.priv.find (c, line) = some p := h
  unfold Cs.snoopShared
  rw [h']
  obtain ⟨st, key, way, l1d, l1i, l2old⟩ := p
  cases st with
  | m | e => exact find_set_same _ _ _
  | o | s => exact h

theorem dropDirty_frame (s : State) (line : Nat) : s.dropDirty line = { s with m := (s.dropDirty line).m } := by
  unfold State.dropDirty State.discard
  split
  · rfl
  · split
    · rfl
    · split <;> rfl

/-- A lost snoop's core holds nothing of the line any more; the record names the home and the core. -/
theorem snoopLost_recorded (x : OpenSnoop) (hdir : s.coh.dir.find line = some d) :
    ∃ (ev : Event) (s2 : State), ev.cls = 0x15 ∧ ev.bank = s.home line ∧ ev.sev = 2 ∧ s2.coh.priv.find (c, line) = none ∧
      s2.coh.wbuf.find (c, line) = none ∧ s2.mesh = s.mesh ∧ s.snoopLost c line x = s2.logErr ev := by
  unfold State.snoopLost
  split
  · next h => cases h.symm.trans hdir
  next d0 hd0 =>
  extract_lets dirty y coh s1 s2 s3
  have h1 : s1.coh.priv.find (c, line) = none := by
    have hy : y.coh.priv = s.coh.priv.erase (c, line) := unlend_priv _ _
    show y.coh.priv.find (c, line) = none
    rw [hy]
    exact find_erase_same _ _
  have h3 : s3 = { s1 with m := s3.m } := by
    have h2 : s2 = { s1 with m := s2.m } := by
      simp only [s2]
      split
      · exact dropDirty_frame s1 line
      · rfl
    simp only [s3]
    split
    · rw [h2]
    · exact h2
  have hcoh : s3.coh = s1.coh := by rw [h3]
  refine ⟨_, s3, ?_, ?_, ?_, by rw [hcoh]; exact h1, by rw [hcoh]; exact find_erase_same _ _, by rw [h3]; rfl, rfl⟩
  · rfl
  · show s3.home line = s.home line
    rw [h3]
    rfl
  · rfl

/-- A snoop that its home has waited for too long is lost. -/
theorem snoopExpire_records {x : OpenSnoop} (hopen : s.mesh.snoops.find (c, line) = some x) (hruns : x.paused = false)
    (hdir : s.coh.dir.find line = some d) :
    ∃ (ev : Event) (s2 : State), ev.cls = 0x15 ∧ ev.bank = s.home line ∧ ev.sev = 2 ∧ s2.coh.priv.find (c, line) = none ∧
      s2.coh.wbuf.find (c, line) = none ∧ s2.mesh.snoops.find (c, line) = none ∧
      s.snoopExpire c line = (s2.logErr ev).flow := by
  unfold State.snoopExpire
  split
  · next h => cases h.symm.trans hopen
  next x0 hx0 =>
  cases hx0.symm.trans hopen
  rw [if_neg (by simp [hruns])]
  extract_lets its s1 s2
  have h1 : s1 = { s with csr := s1.csr } ∧ s1.home line = s.home line := by
    simp only [s1]
    split
    · exact ⟨count_frame _ _ _, fld_count_other s _ _ (by simp)⟩
    · exact ⟨rfl, rfl⟩
  have hdir2 : s2.coh.dir.find line = some d := by
    show s1.coh.dir.find line = some d
    rw [h1.1]
    exact hdir
  obtain ⟨ev, s3, hcls, hbank, hsev, hpriv, hwbuf, hmesh, hlost⟩ := snoopLost_recorded (c := c) x hdir2
  refine ⟨ev, s3, hcls, hbank.trans h1.2, hsev, hpriv, hwbuf, ?_, by rw [hlost]⟩
  rw [hmesh]
  exact find_erase_same _ _

end Snoop

/-! ### Packets that are not performed (R21, R251, R252) -/

section Unfit
variable (s : State) (st : Stop) (port : BitVec 2) (h : Hdr) (cmd : BitVec 8) (pa : BitVec 52)

@[simp] theorem toPort_cmd : (s.toPort st port h cmd pa).pkt.cmd = cmd :=
  (BitVec.ofNat_toNat 8 cmd).trans (BitVec.setWidth_eq cmd)
@[simp] theorem toPort_dport : (s.toPort st port h cmd pa).pkt.dport = port :=
  (BitVec.ofNat_toNat 2 port).trans (BitVec.setWidth_eq port)

theorem refuseAt_int {p : HeldPacket} (e : Nat) (f : State → State) (hint : p.pkt.cmd = 0x0A) : s.refuseAt p e f = f s := by
  rw [State.refuseAt, if_pos hint]

theorem refuseAt_request {s s1 : State} {p : HeldPacket} (e : Nat) (f : State → State) (hreq : p.pkt.cmd ≠ 0x0A)
    (hopen : s.openReq p = some s1) : s.refuseAt p e f = (f s1).answer p p.pkt.dst (.err e) := by
  rw [State.refuseAt, if_neg hreq, hopen]

/-- The record of a command that its agent does not perform. -/
theorem badCmd_toPort (u : State) : u.badCmd (s.toPort st port h cmd pa).pkt =
    u.logErr { bank := agentBank st, cls := 0x13, sev := 2, src := port.toNat, info := cmd.toNat } := by
  rw [State.badCmd, toPort_cmd, toPort_dport]
  rfl

theorem badCmdReceived_refuses (hfits : cmdFits st port.toNat cmd.toNat = false) (hport : s.noPort st port.toNat = false) :
    exec (.badCmdReceived st port h cmd) s =
      .next (s.refuseAt (s.toPort st port h cmd 0) 0x07 fun u => u.badCmd (s.toPort st port h cmd 0).pkt) := by
  refine congrArg Host.Outcome.next (if_neg ?_)
  simp [hfits, hport]

theorem noAgentAnswer_refuses (hport : s.noPort st port.toNat = true) : exec (.noAgentAnswer st port h cmd pa) s =
    .next (s.refuseAt (s.toPort st port h cmd pa) 0x02 fun u =>
      u.noAgent st port.toNat cmd.toNat (some (h.key.toNat, pa.toNat))) :=
  congrArg Host.Outcome.next (if_pos hport)

end Unfit

/-! ### Links (R246, R247) -/

section Link
variable {s : State} {l : LinkId} {n : BitVec 8} {j : Nat}

/-- An entry that is not there does not come back when another goes. -/
theorem find_erase_none {κ α : Type} [DecidableEq κ] {m : Map κ α} {k : κ} (j : κ) (h : m.find k = none) :
    (Map.erase m j).find k = none := by
  by_cases hk : k = j
  · subst hk
    exact find_erase_same m k
  · rw [find_erase_other m hk, h]

/-- The acknowledgement set on a link stands there. -/
theorem setIdle_idle (s : State) (l : LinkId) (f : Option (BitVec 288)) :
    ((s.setIdle l f).mesh.links.find l).bind (·.idle) = f := by
  rw [State.setIdle, onMesh_mesh, find_set_same]
  rfl

theorem flitCrcMismatch_names (hlink : s.mesh.failed.contains l = false) (hfree : s.mesh.retry.find l = none)
    (hnext : (s.mesh.links.getD l Link.fresh).expects n = true) :
    Answers (exec (.flitCrcMismatch l n) s) fun u => u.mesh.retry.find l = some (n, 0) ∧
      ((u.mesh.links.find (linkBack l)).bind (·.idle)) = some (idleFlit (s.mesh.links.getD (linkBack l) Link.fresh).next n true) ∧
      u = { s with mesh := { s.mesh with retry := u.mesh.retry, links := u.mesh.links } } := by
  refine ⟨_, congrArg Host.Outcome.next (if_neg ?_), find_set_same _ _ _, setIdle_idle _ _ _, rfl⟩
  simp only [hlink, hfree, hnext]
  simp

/-- A replay that succeeds: the receiver goes on, and the error counts as corrected. -/
theorem replay_corrected (hretry : s.mesh.retry.find l = some (n, j)) :
    ∃ (ev : Event) (u : State), ev.cls = 0x10 ∧ ev.sev = 0 ∧ u.mesh.retry.find l = none ∧ u.mesh.failed = s.mesh.failed ∧
      ((u.mesh.links.find (linkBack l)).bind (·.idle)) = none ∧ s.replay l n false = u.logErr ev := by
  simp only [State.replay, hretry, ne_eq, not_true_eq_false, if_false, Bool.not_false, if_true]
  refine ⟨_, _, ?_, ?_, ?_, ?_, ?_, rfl⟩
  · rfl
  · rfl
  · exact find_erase_same _ _
  · rfl
  · exact setIdle_idle _ _ _

/-- A replay that fails, fewer than eight times in a row so far. -/
theorem replay_again (hretry : s.mesh.retry.find l = some (n, j)) (hj : j + 1 < 8) : s.replay l n true =
    { s with mesh := { s.mesh with retry := s.mesh.retry.set l (n, j + 1) } } := by
  simp only [State.replay, hretry, ne_eq, not_true_eq_false, Bool.not_true, Bool.false_eq_true, if_false, hj, if_true]
  rfl

/-- The eighth failed replay in a row: the link fails in both directions, and no other does. -/
theorem replay_fails (hretry : s.mesh.retry.find l = some (n, j)) (hj : 8 ≤ j + 1) :
    ∃ (ev : Event) (u : State), ev.cls = 0x11 ∧ ev.sev = 3 ∧ u.mesh.retry.find l = none ∧
      u.mesh.retry.find (linkBack l) = none ∧ l ∈ u.mesh.failed ∧ linkBack l ∈ u.mesh.failed ∧
      (∀ d ∈ u.mesh.failed, d ∈ s.mesh.failed ∨ d = l ∨ d = linkBack l) ∧ s.replay l n true = u.logErr ev := by
  simp only [State.replay, hretry, ne_eq, not_true_eq_false, Bool.not_true, Bool.false_eq_true, if_false, Nat.not_lt.2 hj]
  refine ⟨_, _, ?_, ?_, ?_, ?_, ?_, ?_, ?_, rfl⟩
  · rfl
  · rfl
  · exact find_erase_none _ (find_erase_same _ _)
  · exact find_erase_same _ _
  · show l ∈ s.mesh.failed ++ [l] ++ _
    simp
  · show linkBack l ∈ s.mesh.failed ++ [l] ++ _
    split <;> simp_all
  · intro d hd
    replace hd : d ∈ s.mesh.failed ++ [l] ++ (if s.mesh.failed.contains (linkBack l) then [] else [linkBack l]) := hd
    rcases List.mem_append.1 hd with hd | hd
    · rcases List.mem_append.1 hd with hd | hd
      · exact .inl hd
      · exact .inr (.inl (List.mem_singleton.1 hd))
    · split at hd
      · cases hd
      · exact .inr (.inr (List.mem_singleton.1 hd))

end Link

end Sys2Proof.Proofs
end

section
/-! PROOFS. Ages of waiting packets (R254, R255), holds for a domain and their limit (R265, R266), windows of the statistics
(R268), and the statement about the mesh's transactions. -/

namespace Sys2Proof.Proofs
open Sys2Proof.Machine Sys2Proof.Laws

/-! ### Ages (R255) -/

/-- The first packet of a buffer ages, up to 15. -/
theorem older_first {b : BufId} {p : HeldPacket} (pre post : List HeldPacket) (hpre : ∀ q ∈ pre, q.at_ ≠ some b)
    (hp : p.at_ = some b) : older b (pre ++ p :: post) =
      pre ++ { p with pkt := { p.pkt with age := if p.pkt.age = 15 then 15 else p.pkt.age + 1 } } :: post := by
  induction pre with
  | nil => exact if_pos hp
  | cons q pre ih =>
    have hq : q.at_ ≠ some b := hpre q List.mem_cons_self
    rw [List.cons_append, older, if_neg hq, ih fun r hr => hpre r (List.mem_cons_of_mem q hr), List.cons_append]

/-! ### Holds (R265, R266) -/

section Hold
variable {s : State} {p : HeldPacket} {b : BufId} {dom : Nat}

theorem setPaused_fold_spares (l : List HeldPacket) (s : State) : let t := l.foldl (fun s r => s.setPaused r true) s
    t.mesh.held = s.mesh.held ∧ t.mesh.failed = s.mesh.failed :=
  List.foldlRecOn (motive := fun t : State => t.mesh.held = s.mesh.held ∧ t.mesh.failed = s.mesh.failed) l _ ⟨rfl, rfl⟩
    fun t ht r _ => ⟨(setPaused_spares t r true).1.trans ht.1, (setPaused_spares t r true).2.1.trans ht.2⟩

/-- A tag's transaction is open with a generation. -/
def OpenAs (k : Nat × Nat) (g : BitVec 4) (s : State) : Prop := ∃ t, s.mesh.txns.find k = some t ∧ t.pkt.gen = g

/-- A tag's transaction is paused. -/
def PausedAt (k : Nat × Nat) (s : State) : Prop := ∃ t, s.mesh.txns.find k = some t ∧ t.paused = true

theorem setPaused_openAs {k : Nat × Nat} {g : BitVec 4} (q : HeldPacket) (on : Bool) (h : OpenAs k g s) :
    OpenAs k g (s.setPaused q on) := by
  obtain ⟨t, ht, hg⟩ := h
  obtain ⟨t', ht', hsame⟩ := (passes_setPaused s q on).taken ht
  exact ⟨t', ht', (congrArg (fun x : Txn => x.pkt.gen) hsame).trans hg⟩

/-- A pause that comes for another packet does not end one. -/
theorem setPaused_pausedAt {k : Nat × Nat} (q : HeldPacket) (h : PausedAt k s) : PausedAt k (s.setPaused q true) := by
  obtain ⟨t, ht, hon⟩ := h
  rcases setPaused_txns s q true with hs | ⟨t', -, hs⟩
  · exact ⟨t, hs ▸ ht, hon⟩
  · by_cases hk : k = q.key
    · subst hk
      exact ⟨_, hs ▸ find_set_same _ _ _, rfl⟩
    · exact ⟨t, hs ▸ (find_set_other _ _ hk).trans ht, hon⟩

/-- The timer of a request whose pause can come back stops. -/
theorem setPaused_pauses {q : HeldPacket} (hq : q.isReq = true) (hback : s.rspDown q.stop q.pkt.src = false)
    (h : OpenAs q.key q.pkt.gen s) : PausedAt q.key (s.setPaused q true) := by
  obtain ⟨t, ht, hg⟩ := h
  simp only [HeldPacket.isReq, Bool.and_eq_true, Option.isNone_iff_eq_none, Bool.not_eq_true'] at hq
  obtain ⟨⟨⟨hint, hrsp⟩, hsnoop⟩, hnote⟩ := hq
  unfold State.setPaused
  rw [if_neg (by simp [hint, hrsp, hnote, hback]), hsnoop, ht]
  dsimp only
  by_cases hon : t.paused = true
  · rw [if_pos (.inr hon)]
    exact ⟨t, ht, hon⟩
  · have ht' : (s.pauseSent q true).mesh.txns.find q.key = some t := ht
    rw [if_neg (by simp [hg, hon]), State.onTxn, ht']
    exact ⟨_, find_set_same _ _ _, rfl⟩

/-- The timers of the packets of a buffer stop, that of a request among them. -/
theorem setPaused_fold_pauses {q : HeldPacket} (l : List HeldPacket) (s : State) (hmem : q ∈ l) (hq : q.isReq = true)
    (hback : s.rspDown q.stop q.pkt.src = false) (h : OpenAs q.key q.pkt.gen s) :
    PausedAt q.key (l.foldl (fun s r => s.setPaused r true) s) := by
  induction l generalizing s with
  | nil => cases hmem
  | cons r l ih =>
    rw [List.foldl_cons]
    rcases List.mem_cons.1 hmem with rfl | hmem
    · exact List.foldlRecOn (motive := PausedAt q.key) l _ (setPaused_pauses hq hback h) fun t ht r _ => setPaused_pausedAt r ht
    · have hfailed : (s.setPaused r true).rspDown q.stop q.pkt.src = s.rspDown q.stop q.pkt.src := by
        rw [State.rspDown, (setPaused_spares s r true).2.1, State.rspDown]
      exact ih _ hmem (hfailed.trans hback) (setPaused_openAs r true h)

/-- A packet stands in its buffer and a domain has been asked to wake; the cores and memory are as before. -/
def HeldFor (p : HeldPacket) (b : BufId) (dom : Nat) (s u : State) : Prop :=
  u.mesh.held = s.mesh.held ++ [{ p with at_ := some b, wake := true }] ∧ dom ∈ u.pwr.wakeReq ∧ u.cores = s.cores ∧ u.m = s.m

theorem request_asks (hasleep : s.awake dom = false) : dom ∈ (s.request dom).pwr.wakeReq := by
  unfold State.request
  split
  · next h => simpa [hasleep] using h
  · simp

/-- A packet that comes to rest for a domain that is not awake stands last in its buffer, with every packet there paused. -/
theorem come_holds (hasleep : s.awake dom = false) : ∃ u : State, HeldFor p b dom s u ∧ u.mesh.txns = s.mesh.txns ∧
    u.mesh.failed = s.mesh.failed ∧
    s.come p (some b) (some dom) = (u.mesh.held.filter fun r => r.at_ == some b).foldl (fun s r => s.setPaused r true) u := by
  unfold State.come
  extract_lets s1 q s2 s3 all
  have h3 : HeldFor p b dom s s3 ∧ s3.mesh = s2.mesh := by
    refine ⟨⟨congrArg MeshState.held (wake_mesh s2 dom), request_asks (s := s2) hasleep, ?_, wake_m s2 dom⟩, wake_mesh s2 dom⟩
    show (s2.wake dom).cores = s.cores
    rw [wake_frame]
    rfl
  have hq : q ∈ s3.mesh.held := by
    rw [h3.2]
    exact List.mem_append_right _ (List.mem_singleton.2 rfl)
  have hany : all.any (·.wake) = true := List.any_eq_true.2 ⟨q, List.mem_filter.2 ⟨hq, by simp [q]⟩, rfl⟩
  refine ⟨s3, h3.1, by rw [h3.2]; rfl, by rw [h3.2]; rfl, ?_⟩
  rw [if_pos (.inl ⟨rfl, hany⟩)]
  rfl

theorem come_heldFor (hasleep : s.awake dom = false) : HeldFor p b dom s (s.come p (some b) (some dom)) := by
  obtain ⟨u, ⟨hheld, hasks, hcores, hm⟩, -, -, hcome⟩ := come_holds (p := p) (b := b) hasleep
  have hframe := setPaused_fold_frame (u.mesh.held.filter fun r => r.at_ == some b) u
  rw [← hcome] at hframe
  refine ⟨?_, by rw [hframe]; exact hasks, by rw [hframe]; exact hcores, by rw [hframe]; exact hm⟩
  rw [hcome, (setPaused_fold_spares _ u).1, hheld]

/-- A request that comes to rest for a domain is paused, where its pause can come back to its initiator. -/
theorem come_pauses (hasleep : s.awake dom = false) (hreq : p.isReq = true) (hback : s.rspDown b.stop p.pkt.src = false)
    (hopen : OpenAs p.key p.pkt.gen s) : PausedAt p.key (s.come p (some b) (some dom)) := by
  obtain ⟨u, ⟨hheld, -, -, -⟩, htxns, hfailed, hcome⟩ := come_holds (p := p) (b := b) hasleep
  rw [hcome]
  refine setPaused_fold_pauses (q := { p with at_ := some b, wake := true }) _ u (List.mem_filter.2 ⟨?_, by simp⟩) hreq ?_ ?_
  · rw [hheld]
    simp
  · show u.rspDown b.stop p.pkt.src = false
    rw [State.rspDown, hfailed]
    exact hback
  · obtain ⟨t, ht, hg⟩ := hopen
    exact ⟨t, htxns ▸ ht, hg⟩

/-- An opened request changes the transactions and generations alone, and its own tag's transaction carries it. -/
theorem openReq_opens {s1 : State} (h : s.openReq p = some s1) :
    s1 = { s with mesh := { s.mesh with txns := s1.mesh.txns, gens := s1.mesh.gens } } ∧ OpenAs p.key p.pkt.gen s1 := by
  unfold State.openReq at h
  split at h
  · split at h
    · cases h
      exact ⟨rfl, _, find_set_same _ _ _, rfl⟩
    · cases h
  · split at h
    · cases h
      exact ⟨rfl, _, find_set_same _ _ _, rfl⟩
    · cases h

theorem holdPacket_int {h : Hdr} {cmd : BitVec 8} {pa : BitVec 52} {x : HeldInt} (hasleep : s.awake dom = false)
    (hlimit : s.mesh.wakeFail.contains dom = false) (hcore : s.noCore x.core.toNat = false)
    (hold : (intPacket (hdrSrc h) x.core.toNat x.world x.vec.toNat x.prio.toNat x.lvl.toNat).holdAt dom = some b) :
    s.holdPacket dom h cmd pa (some x) =
      s.come (intPacket (hdrSrc h) x.core.toNat x.world x.vec.toNat x.prio.toNat x.lvl.toNat) (some b) (some dom) := by
  rw [State.holdPacket, if_neg (by rw [hasleep, hlimit]; simp)]
  simp only [hold, hcore, Bool.false_eq_true, if_false]

theorem holdPacket_request {h : Hdr} {cmd : BitVec 8} {pa : BitVec 52} {s1 : State} (hasleep : s.awake dom = false)
    (hlimit : s.mesh.wakeFail.contains dom = false) (hold : (s.announced dom h cmd pa).holdAt dom = some b)
    (hopen : s.openReq (s.announced dom h cmd pa) = some s1) :
    s.holdPacket dom h cmd pa none = s1.come (s.announced dom h cmd pa) (some b) (some dom) := by
  rw [State.holdPacket, if_neg (by rw [hasleep, hlimit]; simp)]
  simp only [hold, hopen]

theorem wakeLimit_expires (hoff : s.isOn dom = false) (hlimit : s.mesh.wakeFail.contains dom = false) (hasked : dom ∈ s.pwr.wakeReq) :
    s.wakeLimit dom = (State.logErr { s with mesh := { s.mesh with wakeFail := s.mesh.wakeFail ++ [dom] } }
      { bank := meshBank (domStop dom), cls := 0x16, sev := 2, src := dom }).flow true := by
  rw [State.wakeLimit, if_neg (by simp [hoff, hasked, List.contains_eq_mem] at hlimit ⊢; exact hlimit)]
  rfl

end Hold

/-! ### Windows of the statistics (R268) -/

/-- What a register of the statistics takes from the live counts when a window ends. -/
def windowCount (live : Map (Nat × Nat) Nat) : Reg → DWord
  | .statReq j => dw (live.getD (j.val, 0) 0)
  | .statBytes j => dw (live.getD (j.val, 1) 0)
  | .statMax j => dw (live.getD (j.val, 10) 0)
  | .statTmo j => dw (live.getD (j.val, 11) 0)
  | .statHist j b => dw (live.getD (j.val, 2 + b.val) 0)
  | _ => 0

def copyCount (s : State) (r : Reg) : State := s.setReg r (windowCount s.mesh.live r)

/-- The registers of an initiator's statistics, and those of all. -/
def statRow (j : Fin 272) : List Reg :=
  [.statReq j, .statBytes j, .statMax j, .statTmo j] ++ (List.finRange 8).map (.statHist j)
def statRegs : List Reg := (List.finRange 272).flatMap statRow

theorem ix_val {n : Nat} [NeZero n] (j : Fin n) : ix n j.val = j := Fin.ofNat_val_eq_self j

/-- A fold over the numbers below a bound, as one over the indices below it. -/
theorem foldl_range {β : Type} (f : β → Nat → β) (n : Nat) (x : β) :
    (List.range n).foldl f x = (List.finRange n).foldl (fun x i => f x i.val) x := by
  rw [← List.map_coe_finRange_eq_range, List.foldl_map]

theorem statEnd_copies (s : State) : s.statEnd =
    ((statRegs.foldl copyCount s).onMesh fun m => { m with live := [] }).countWrap .statSeq F.statSeq.SEQ := by
  have hrow : ∀ (t : State) (j : Fin 272), (statRow j).foldl copyCount t =
      (List.finRange 8).foldl (fun u (b : Fin 8) => u.setReg (.statHist (ix 272 j.val) (ix 8 b.val)) (dw (u.liveCt j.val (2 + b.val))))
        ((((t.setReg (.statReq (ix 272 j.val)) (dw (t.liveCt j.val 0))).setReg (.statBytes (ix 272 j.val))
          (dw (t.liveCt j.val 1))).setReg (.statMax (ix 272 j.val)) (dw (t.liveCt j.val 10))).setReg (.statTmo (ix 272 j.val))
          (dw (t.liveCt j.val 11))) := by
    intro t j
    simp only [ix_val, statRow, List.foldl_append, List.foldl_map]
    rfl
  simp only [State.statEnd, foldl_range, statRegs, List.foldl_flatMap, hrow]
  rfl

theorem copies_frame (l : List Reg) (s : State) : l.foldl copyCount s = { s with csr := (l.foldl copyCount s).csr } :=
  List.foldlRecOn (motive := fun t : State => t = { s with csr := t.csr }) l _ rfl fun t ht r _ => by
    rw [copyCount, ht]
    rfl

/-- Each register copied has its live count in the end. -/
theorem reg_copies {l : List Reg} {r : Reg} (hr : r ∈ l) (s : State) :
    (l.foldl copyCount s).reg r = windowCount s.mesh.live r := by
  have h := foldl_establishes (f := copyCount)
    (P := fun r (t : State) => t.mesh.live = s.mesh.live → t.reg r = windowCount s.mesh.live r) ?_ ?_ hr s
  · exact h (by rw [copies_frame])
  · intro t q hlive
    rw [copyCount, reg_setReg, if_pos rfl]
    exact congrArg (windowCount · q) hlive
  · intro t q r hkept hlive
    rw [copyCount, reg_setReg]
    split
    · next e =>
      subst e
      exact congrArg (windowCount · r) hlive
    · exact hkept hlive

theorem reg_copies_other {l : List Reg} {r : Reg} (hr : r ∉ l) (s : State) : (l.foldl copyCount s).reg r = s.reg r :=
  List.foldlRecOn (motive := fun t : State => t.reg r = s.reg r) l _ rfl fun t ht q hq =>
    (reg_setReg_other t _ (by rintro rfl; exact hr hq)).trans ht

theorem mem_statRegs {r : Reg} : r ∈ statRegs ↔ ∃ j, r = .statReq j ∨ r = .statBytes j ∨ r = .statMax j ∨ r = .statTmo j ∨
    ∃ b, r = .statHist j b := by
  simp [statRegs, statRow, eq_comm]

/-- The end of a window: the live counts go to the registers and begin again, and SEQ goes on. -/
def WindowEnds (s u : State) : Prop :=
  u.mesh.live = [] ∧
  (∀ j : Fin 272, u.reg (.statReq j) = dw (s.liveCt j.val 0) ∧ u.reg (.statBytes j) = dw (s.liveCt j.val 1) ∧
    u.reg (.statMax j) = dw (s.liveCt j.val 10) ∧ u.reg (.statTmo j) = dw (s.liveCt j.val 11) ∧
    ∀ b : Fin 8, u.reg (.statHist j b) = dw (s.liveCt j.val (2 + b.val))) ∧
  u.fld .statSeq F.statSeq.SEQ = (s.fld .statSeq F.statSeq.SEQ + 1) % 2 ^ 32 ∧ u.m = s.m ∧ u.cores = s.cores

/-- The counts once copied, the window ends with the live ones cleared and SEQ counted on. -/
theorem windowEnds_of_copied {s u : State} (hcopied : ∀ r ∈ statRegs, u.reg r = windowCount s.mesh.live r)
    (hseq : u.reg .statSeq = s.reg .statSeq) (hm : u.m = s.m) (hcores : u.cores = s.cores) :
    WindowEnds s ((u.onMesh fun m => { m with live := [] }).countWrap .statSeq F.statSeq.SEQ) := by
  have hreg : ∀ r, (∃ j, r = .statReq j ∨ r = .statBytes j ∨ r = .statMax j ∨ r = .statTmo j ∨ ∃ b, r = .statHist j b) →
      ((u.onMesh fun m => { m with live := [] }).countWrap .statSeq F.statSeq.SEQ).reg r = windowCount s.mesh.live r := by
    intro r hr
    rw [State.countWrap, reg_setFld_other _ _ _ (by rintro rfl; simp at hr)]
    exact hcopied r (mem_statRegs.2 hr)
  refine ⟨rfl, fun j => ⟨hreg _ ⟨j, ?_⟩, hreg _ ⟨j, ?_⟩, hreg _ ⟨j, ?_⟩, hreg _ ⟨j, ?_⟩, fun b => hreg _ ⟨j, ?_⟩⟩, ?_, hm, hcores⟩
  iterate 5 simp
  have hfld : u.fld .statSeq F.statSeq.SEQ = s.fld .statSeq F.statSeq.SEQ := by rw [State.fld, hseq, State.fld]
  refine (fld_setFld_same _ _ _ _ (by decide)).trans ?_
  show (u.fld .statSeq F.statSeq.SEQ + 1) % 2 ^ 32 % 2 ^ 32 = _
  rw [hfld, Nat.mod_mod]

theorem statEnd_windowEnds (s : State) : WindowEnds s s.statEnd := by
  rw [statEnd_copies]
  have hframe := copies_frame statRegs s
  exact windowEnds_of_copied (fun r hr => reg_copies hr s) (reg_copies_other (by simp [mem_statRegs]) s)
    (by rw [hframe]) (by rw [hframe])

/-- A window that software ends: the wake of the statistics' domain moves no count. -/
theorem windowEnds_of_wake {s u : State} {n : Nat} (h : WindowEnds (s.wake n) u) : WindowEnds s u := by
  rw [wake_frame] at h
  exact h

/-! ### The statement -/

/-- Settles O48. Responses by `respond_answered`, expiries by `expire_quarantines`; a snoop that arrives by `snoop_arrives`, one
that does not end by `snoopExpire_records`; links by `State.replay`'s three outcomes; holds by `come_holds`; windows by
`statEnd_copies`. -/
theorem meshTransactions : Obligations.MeshTransactions := by
  unfold Obligations.MeshTransactions
  intro i tag g lat s key late
  refine ⟨?opened, ?free, ?quarantined, ?snoop, ?snoopTimeout, ?unfit, ?links, ?age, ?holds, ?limit, ?window⟩
  case opened =>
    intro t hopen hgen hlive P
    refine ⟨?data, ?ack, ?err, ?posted, ?pause, ?resume, ?timeout⟩
    case data =>
      intro x dp fs ha
      exact ⟨_, rfl, respond_completes hopen hgen hlive (a := .data x dp fs) (by simp [ha]) (by simp)⟩
    case ack =>
      intro aux ha
      exact ⟨_, rfl, respond_completes hopen hgen hlive (a := .ack aux) (by simp [ha]) (by simp)⟩
    case err =>
      intro e ha hwait
      exact ⟨_, rfl, respond_completes hopen hgen hlive (if_pos (.inl ha)) fun _ _ => hwait,
        respond_keepsErr hopen hgen hlive (if_pos (.inl ha)) hwait⟩
    case posted =>
      intro e ha hposted
      exact ⟨_, rfl, respond_posted hopen hgen hlive (if_pos (.inl ha)) hposted⟩
    case pause => exact congrArg Host.Outcome.next (pauseTxn_open true hopen hgen hlive)
    case resume => exact congrArg Host.Outcome.next (pauseTxn_open false hopen hgen hlive)
    case timeout =>
      intro b hruns
      obtain ⟨ev, s2, hcls, hbank, hsev, haddr, htag, hheld, hexpire⟩ := expire_quarantines (tag := tag) b hopen hlive hruns
      exact ⟨ev, s2, hcls, hbank, hsev, haddr, htag, hheld, congrArg (fun u => Host.Outcome.next (State.flow u)) hexpire⟩
  case free =>
    intro hfree
    exact ⟨fun _ _ => congrArg Host.Outcome.next (respond_late hfree), fun _ => congrArg Host.Outcome.next (respond_late hfree),
      fun _ => congrArg Host.Outcome.next (respond_late hfree)⟩
  case quarantined =>
    intro t hopen hquar
    refine ⟨fun hgen x => ⟨_, congrArg Host.Outcome.next (respond_releases hopen hgen hquar), find_erase_same _ _, rfl⟩, ?_⟩
    refine congrArg Host.Outcome.next ?_
    simp only [show s.mesh.txns.find (tagKey i tag) = some t from hopen, hquar, if_true]
    rfl
  case snoop =>
    intro core pa p d line k hcopy hdir hholds hfree hcore s1 arrives
    constructor
    · intro hway
      have hkept := snoop_arrives true hdir hholds hfree hcore hway
      exact ⟨_, rfl, hkept.priv ▸ find_erase_same _ _, hkept.mem, hkept.cores⟩
    · intro hway
      have hkept := snoop_arrives false hdir hholds hfree hcore hway
      exact ⟨_, rfl, hkept.mem, hkept.cores, hkept.priv ▸ find_snoopShared hcopy⟩
  case snoopTimeout =>
    intro core pa d x line k hopen hruns hdir
    obtain ⟨ev, s2, hcls, hbank, hsev, hpriv, hwbuf, hsnoop, hexpire⟩ := snoopExpire_records hopen hruns hdir
    exact ⟨ev, s2, hcls, hbank, hsev, hpriv, hwbuf, hsnoop, congrArg Host.Outcome.next hexpire⟩
  case unfit =>
    intro st port h cmd pa s1
    constructor
    · intro p ev hfits hport
      rw [badCmdReceived_refuses s st port h cmd hfits hport]
      refine ⟨fun hint => congrArg Host.Outcome.next ?_, fun hreq hopen => congrArg Host.Outcome.next ?_⟩
      · rw [refuseAt_int s _ _ (by rw [toPort_cmd, hint]), badCmd_toPort]
      · rw [refuseAt_request _ _ (by rwa [toPort_cmd]) hopen, badCmd_toPort]
        rfl
    · intro p N hport
      rw [noAgentAnswer_refuses s st port h cmd pa hport]
      refine ⟨fun hint => congrArg Host.Outcome.next ?_, fun hreq hopen => congrArg Host.Outcome.next ?_⟩
      · rw [refuseAt_int s _ _ (by rw [toPort_cmd, hint])]
      · rw [refuseAt_request _ _ (by rwa [toPort_cmd]) hopen]
        rfl
  case links =>
    intro l n back
    refine ⟨flitCrcMismatch_names, fun j hretry => ⟨?_, fun hj => ?_, fun hj => ?_⟩⟩
    · obtain ⟨ev, u, hcls, hsev, hdone, hfailed, hidle, hreplay⟩ := replay_corrected hretry
      exact ⟨ev, u, hcls, hsev, hdone, hfailed, hidle, congrArg (fun u => Host.Outcome.next (State.flow u)) hreplay⟩
    · exact congrArg (fun u => Host.Outcome.next (State.flow u)) (replay_again hretry hj)
    · obtain ⟨ev, u, hcls, hsev, hdone, hback, hl, hbackFailed, hothers, hreplay⟩ := replay_fails hretry hj
      exact ⟨ev, u, hcls, hsev, hdone, hback, hl, hbackFailed, hothers,
        congrArg (fun u => Host.Outcome.next (State.flow u)) hreplay⟩
  case age =>
    intro b pre post p hheld hpre hp
    refine congrArg (fun l => Host.Outcome.next { s with mesh := { s.mesh with held := l } }) ?_
    rw [hheld]
    exact older_first pre post hpre hp
  case holds =>
    intro dom h cmd pa b hasleep hlimit K
    constructor
    · intro x hcore p hold
      exact ⟨_, congrArg Host.Outcome.next (holdPacket_int hasleep hlimit hcore hold), come_heldFor hasleep⟩
    · intro s1 p hold hopen hback
      obtain ⟨hs1, hcarried⟩ := openReq_opens hopen
      have hasleep1 : s1.awake dom.val = false := by
        rw [hs1]
        exact hasleep
      have hback1 : s1.rspDown b.stop p.pkt.src = false := by
        rw [hs1]
        exact hback
      obtain ⟨hheld, hasks, hcores, hm⟩ := come_heldFor (p := p) (b := b) hasleep1
      refine ⟨_, congrArg Host.Outcome.next (holdPacket_request hasleep hlimit hold hopen), ⟨?_, hasks, ?_, ?_⟩,
        come_pauses hasleep1 rfl hback1 hcarried⟩
      · rw [hheld, hs1]
      · rw [hcores, hs1]
      · rw [hm, hs1]
  case limit =>
    intro dom hoff hlimit hasked
    exact congrArg Host.Outcome.next (wakeLimit_expires hoff hlimit hasked)
  case window =>
    intro Ends
    refine ⟨fun hset => ⟨_, congrArg Host.Outcome.next (if_neg hset), statEnd_windowEnds s⟩, fun r hserved => ?_⟩
    exact ⟨_, congrArg Host.Outcome.next (access_served _ hserved), windowEnds_of_wake (statEnd_windowEnds _)⟩

end Sys2Proof.Proofs
end

section
/-! PROOFS. Return from an exception (R274, R314). -/

namespace Sys2Proof.Proofs
open Sys2Proof.Machine Sys2Proof.Laws

/-! ### ESTATE (R272) -/

/-- A field of one bit, as a flag. -/
theorem getF_bit (w : DWord) (n : Nat) : (getF w (n, n) == 1) = w.getLsbD n := by
  rw [getF, Nat.sub_self, Nat.zero_add, pow_one, BitVec.getLsbD, Nat.testBit_eq_decide_div_mod_eq, Nat.shiftRight_eq_div_pow]
  exact beq_eq_decide _ _

theorem getF_plvl (w : DWord) : getF w G.estate.PLVL = w.toNat % 4 := rfl

/-- The core after ERET, as ESTATE and EPC of its level say. -/
theorem eret_eq (k : Core) :
    let w := k.rs (Sys.estateAt k.lvl) (bankOf k.lvl k.world)
    k.eret = { k with pc := k.rs (Sys.epcAt k.lvl) (bankOf k.lvl k.world), lvl := w.toNat % 4, world := w.getLsbD 2,
                      ie := w.getLsbD 3, barred := false, wret := if w.getLsbD 2 then k.wret else none } := by
  simp only [Core.eret, getF_bit, getF_plvl]

/-- What R274 permits is not refused. -/
theorem eretBad_legal {s : State} {k : Core} (w : DWord) (hw : w = k.rs (Sys.estateAt k.lvl) (bankOf k.lvl k.world))
    (hlvl : w.toNat % 4 ≤ k.lvl) (hworld : w.getLsbD 2 = k.world ∨ k.lvl = 3)
    (h2 : ¬(w.toNat % 4 = 2 ∧ (w.getLsbD 2 = true ∨ s.iso = .lk))) (h3 : ¬(w.toNat % 4 = 3 ∧ w.getLsbD 2 = false)) :
    s.eretBad k = false := by
  subst hw
  have hlvl' : ¬ k.lvl < (k.rs (Sys.estateAt k.lvl) (bankOf k.lvl k.world)).toNat % 4 := by omega
  simp only [State.eretBad, getF_bit, getF_plvl, hlvl', decide_false, Bool.false_or, Bool.or_eq_false_iff,
    Bool.and_eq_false_imp, beq_iff_eq, bne_iff_ne, Bool.not_eq_false', ne_eq]
  refine ⟨⟨⟨fun hother => ?_, fun h => ?_⟩, fun h => ?_⟩, fun h => ?_⟩
  · simp [hworld.resolve_left hother]
  · exact Bool.eq_false_of_not_eq_true fun htrusted => h2 ⟨h, .inl htrusted⟩
  · exact Bool.eq_true_of_not_eq_false fun hnormal => h3 ⟨h, hnormal⟩
  · exact beq_false_of_ne fun hlk => h2 ⟨h, .inr hlk⟩

/-! ### Virtual CPUs (R314) -/

/-- A core whose virtual CPU is off takes no notice. -/
theorem noticed_vcpuOff {k : Core} (h : k.vcpuOn = false) (w : Bool) (vec lvl : Nat) : k.noticed w vec lvl = false := by
  simp [Core.noticed, h]

/-- A core whose virtual CPU is off harvests no record when it comes to another level. -/
theorem resumed_vcpuOff {s : State} {c : Nat} (h : (s.core c).vcpuOn = false) (fromL2 : Bool) : s.resumed c fromL2 = s := by
  simp [State.resumed, State.collect, h, noticed_vcpuOff h]

/-! ### The statement -/

/-- A legal ERET leaves the state after it with its core resumed. -/
theorem eretBody_legal {s : State} {c : Nat} (hlvl : 1 ≤ (s.core c).lvl) (hlegal : s.eretBad (s.core c) = false) :
    eretBody c s = (.ok { pc := (s.core c).eret.pc, flow := .other },
      (s.setCore c (s.core c).eret).resumed c ((s.core c).lvl == 2)) := by
  simp [eretBody, Act.bind, atLeast_passes hlvl, Act.with, Act.check, hlegal, Act.pure]

/-- Settles O36: a legal ERET is not refused (`eretBad_legal`), its core is as ESTATE says (`eret_eq`), and without a virtual
CPU nothing is harvested (`resumed_vcpuOff`). -/
theorem eretResults : Obligations.EretResults := by
  unfold Obligations.EretResults
  intro x s s1 h hlvl k b w q s2 ⟨hle, hworld, h2, h3⟩
  have hq : k.eret = q := eret_eq k
  have hbody := eretBody_legal hlvl (eretBad_legal w rfl hle hworld h2 h3)
  rw [show (s1.core x.c).eret = q from hq] at hbody
  have hruns := run_writesNone (sh := { ser := true }) h hbody
  refine ⟨fun hoff => ?_, fun _ => hruns⟩
  have hoff2 : (s2.core x.c).vcpuOn = false := by simpa [s2, q, Core.vcpuOn, Core.sflag, Core.sf, Core.rs] using hoff
  rwa [resumed_vcpuOff hoff2] at hruns

end Sys2Proof.Proofs
end

section
/-! PROOFS. An interrupt accepted at the boundary before an instruction (R273, R304, R305). -/

namespace Sys2Proof.Proofs
open Sys2Proof.Machine Sys2Proof.Laws

/-! ### A core whose counters do not count (R148) -/

/-- Events met by a core that does not count. -/
def Uncounted (evs : List Met) : Prop := ∀ e ∈ evs, e.counts = false

theorem metAmount_uncounted {evs : List Met} (h : Uncounted evs) (sel : DWord) : metAmount sel evs = 0 := by
  have hnone : (evs.filter fun e => e.ev == getF sel G.pmevsel.EVENT && getF sel G.pmevsel.EVENT != 0 && e.counts &&
      (getF sel G.pmevsel.LVL).testBit e.lvl) = [] :=
    List.filter_eq_nil_iff.2 fun e he => by simp [h e he]
  rw [metAmount, hnone, List.foldl_nil]

theorem pmAdd_zero (s : State) (c num bit : Nat) : s.pmAdd c num bit 0 = s := by
  rw [State.pmAdd]
  simp [((s.core c).rs num).isLt]

theorem pmMet_uncounted {evs : List Met} (h : Uncounted evs) (s : State) (c : Nat) (k : Core) : s.pmMet c k evs = s := by
  simp only [State.pmMet, metAmount_uncounted h, pmAdd_zero]
  exact List.foldlRecOn (motive := fun t => t = s) _ _ rfl fun _ ht _ _ => ht

theorem pmEvents_uncounted {k : Core} (h : k.counts = false) (s : State) (c : Nat) (evs : List (Nat × Nat)) :
    s.pmEvents c k evs = s := by simp [State.pmEvents, h]

theorem uncounted_append {l r : List Met} (hl : Uncounted l) (hr : Uncounted r) : Uncounted (l ++ r) := fun e he =>
  (List.mem_append.1 he).elim (hl e) (hr e)

theorem uncounted_metAll {k : Core} (h : k.counts = false) (evs : List (Nat × Nat)) : Uncounted (k.metAll evs) := by
  intro e he
  obtain ⟨p, -, rfl⟩ := List.mem_map.1 he
  exact h

/-- The committed variant of an event counts where the event does. -/
theorem uncounted_committedMet {l : List Met} (h : Uncounted l) : Uncounted (committedMet l) := by
  intro e he
  obtain ⟨d, hd, hvar⟩ := List.mem_filterMap.1 he
  obtain ⟨ev, -, rfl⟩ := Option.map_eq_some_iff.1 hvar
  exact h d hd

theorem uncounted_sublist {l r : List Met} (hs : l.Sublist r) (h : Uncounted r) : Uncounted l := fun e he => h e (hs.subset he)

theorem events_uncounted {u : Under} {seen : List Met} (hu : u.core.counts = false) (hseen : Uncounted seen) (n : Nat)
    (evs : List (Nat × Nat)) (done cycles : Bool) : Uncounted (u.events n seen evs done cycles) := by
  have hown : Uncounted ((seen.drop u.before).filter fun e => !e.past) :=
    uncounted_sublist (List.filter_sublist.trans (List.drop_sublist _ _)) hseen
  refine uncounted_append (uncounted_append (uncounted_append hseen ?_) ?_) (uncounted_metAll hu _)
  · exact uncounted_committedMet (uncounted_sublist List.filter_sublist hseen)
  · split
    · exact uncounted_committedMet hown
    · exact fun e he => absurd he List.not_mem_nil

/-- The end of an instruction of a core that does not count. -/
theorem pmEnd_uncounted {s : State} {c : Nat} {u : Under} (hu : u.core.counts = false) (hseen : Uncounted (s.ucore c).seen)
    (evs : List (Nat × Nat)) (done : Bool) :
    s.pmEnd c u evs done = ({ s with free := s.free + 1 } : State).onUcore c fun q => { q with seen := [] } := by
  simp only [State.pmEnd, pmMet_uncounted (events_uncounted hu hseen _ _ _ _), hu, Bool.false_eq_true, if_false]

/-! ### What is accepted (R305) -/

section Accept
variable {s : State} {c : Nat} {b : IntBit}

/-- A physical interrupt is taken where no virtual one comes before it. -/
theorem taking_phys (hoff : s.offered c = some b) (hvirt : ∀ v, (s.core c).virtOffered = some v → b.yields v = false) :
    s.taking c = some (.phys b) := by
  cases hv : (s.core c).virtOffered with
  | none => simp [State.taking, hoff, hv]
  | some v => simp [State.taking, hoff, hv, hvirt v hv]

/-- No arrivals: every selection sees none. -/
theorem lateGroups_nil (inLocket : Bool) : ∀ l ∈ lateGroups inLocket [], l = [] := by
  simp [lateGroups]

/-- An entry without arrivals is that of what was taken. -/
theorem acceptLate_nil (s : State) (c : Nat) (b : IntBit) : s.acceptLate c (.phys b) [] = s.acceptPhys c b := by
  have hsame : ∀ w : Takeover, (lateGroups (s.core c).lk.isSome []).foldl (Takeover.select c (s.core c)) w = w := fun w =>
    List.foldlRecOn (motive := fun v => v = w) _ _ rfl fun v hv l hl => by rw [lateGroups_nil _ l hl]; exact hv
  simp only [State.acceptLate, hsame]
  rfl

/-- An interrupt in service, at the level it is taken at, and not pending (R303). -/
def inService (k : Core) (b : IntBit) : Core :=
  { k with
    serv := (k.serv.filter fun d => !(d.world == b.world && d.vec == b.vec && d.tmr == b.tmr)) ++ [{ b with lvl := k.takenAt b }]
    pend := k.pend.filter fun d => !(d.world == b.world && d.vec == b.vec && d.tmr == b.tmr) }

/-- The entry of an interrupt. -/
def intEntry (k : Core) (b : IntBit) : Entry :=
  { lvl := k.takenAt b, world := b.world, code := 0x17, vec := b.vec, epc := k.pc, off := 0x1000 + 8 * b.vec }

/-- Outside a locket, and where the core does not count, an accepted interrupt is an entry. -/
theorem acceptPhys_enters (hcounts : (s.core c).counts = false) (hlk : (s.core c).lk = none) :
    s.acceptPhys c b = (s.onCore c fun k => inService k b).enterAt c (intEntry (s.core c) b) := by
  have hlk' : ((s.onCore c fun k => inService k b).core c).lk = none := by simpa [inService] using hlk
  rw [State.acceptPhys, pmEvents_uncounted hcounts]
  exact (by rw [State.takeEntry, hlk'] :
    (s.onCore c fun k => inService k b).takeEntry c (intEntry (s.core c) b) = _)

/-! ### A core that has entered L1 of the normal world -/

/-- An entry, without a translation report, at L1 of the normal world leaves PMCTL. -/
theorem enter_pmctl (k : Core) {e : Entry} (ht : e.tf = none) (hl : e.lvl = 1) : (k.enter e).rs Sys.pmctl = k.rs Sys.pmctl := by
  rw [enter_rs k e ht, hl]
  simp [rs_ws, show Sys.pmctl ≠ Sys.ecauseAt 1 by decide, show Sys.pmctl ≠ Sys.epcAt 1 by decide,
    show Sys.pmctl ≠ Sys.eaddrAt 1 by decide, show Sys.pmctl ≠ Sys.estateAt 1 by decide]

/-- A core of the normal world that does not count goes on not counting in its handler. -/
theorem enter_uncounted {k : Core} {e : Entry} (ht : e.tf = none) (hl : e.lvl = 1) (he : e.world = false) (hk : k.world = false)
    (hlk : k.lk = none) (h : k.counts = false) : (k.enter e).counts = false := by
  have hw : (k.enter e).world = false := he
  simpa [Core.counts, Core.sflag, Core.sf, enter_pmctl k ht hl, hw, hk, hlk, show (k.enter e).lk = none from rfl] using h

/-- A core that leaves its loop meets an exit, where it was replaying (R113). -/
theorem loopExit_seen (h : Uncounted (s.ucore c).seen) (hc : (s.core c).counts = false) :
    Uncounted ((s.loopExit c).ucore c).seen := by
  rw [State.loopExit, ucore_onUcore, if_pos rfl]
  dsimp only
  split
  · exact uncounted_append h fun d hd => by rw [List.mem_singleton.1 hd]; exact hc
  · exact h

/-- The events met by a core that enters: an exit from its loop is met in the handler. -/
theorem enterAt_seen (e : Entry) (h : Uncounted (s.ucore c).seen) (hc : ((s.core c).enter e).counts = false) :
    Uncounted ((s.enterAt c e).ucore c).seen :=
  loopExit_seen (s := s.onCore c fun k => k.enter e) h (by rwa [core_onCore, if_pos rfl])

end Accept

/-! ### The statement -/

/-- The state after an accepted interrupt of L1 of the normal world. -/
theorem interruptAccept_enters {core : BitVec 8} {s : State} {b : IntBit} (hrun : s.canRun core.toNat = true)
    (htake : s.taking core.toNat = some (.phys b)) (hcounts : (s.core core.toNat).counts = false)
    (hseen : Uncounted (s.ucore core.toNat).seen) (hlk : (s.core core.toNat).lk = none) (hb : b.world = false) (hl : b.lvl = 1)
    (hk : (s.core core.toNat).world = false) :
    let t := (s.onCore core.toNat fun k => inService k b).enterAt core.toNat (intEntry (s.core core.toNat) b)
    exec (.interruptAccept core []) s =
      .next (({ t with free := t.free + 1 } : State).onUcore core.toNat fun q => { q with seen := [] }) := by
  intro t
  have hat : (intEntry (s.core core.toNat) b).lvl = 1 := by simp [intEntry, Core.takenAt, hb, hl]
  have hquiet : Uncounted (t.ucore core.toNat).seen := by
    refine enterAt_seen _ hseen ?_
    rw [core_onCore, if_pos rfl]
    exact enter_uncounted rfl hat hb hk hlk hcounts
  have hgo : exec (.interruptAccept core []) s = .next (s.interrupt core.toNat []) := rfl
  rw [hgo, State.interrupt, if_pos hrun, htake]
  simp only [acceptLate_nil, acceptPhys_enters hcounts hlk]
  rw [pmEnd_uncounted (by exact hcounts) hquiet]

/-- Settles O40: what is accepted is an entry (`interruptAccept_enters`), whose effects on the core and on the chip
`enterAt_spec` and `enter_rs` name. -/
theorem interruptAccepted : Obligations.InterruptAccepted := by
  unfold Obligations.InterruptAccepted
  intro core s b hrun hoff hvirt hcounts hseen hlk hb hl hk _ k
  have htake := taking_phys hoff hvirt
  refine ⟨_, interruptAccept_enters hrun htake hcounts hseen hlk hb hl hk, ?_⟩
  have hat : k.takenAt b = 1 := by simp [k, Core.takenAt, hb, hl]
  obtain ⟨hcore, hchip⟩ := enterAt_spec (s.onCore core.toNat fun k => inService k b) core.toNat (intEntry k b)
  rw [core_onCore, if_pos rfl] at hcore
  generalize (s.onCore core.toNat fun k => inService k b).enterAt core.toNat (intEntry k b) = t at hcore hchip
  simp only [core_onUcore]
  have hcore' : State.core { t with free := t.free + 1 } core.toNat = (inService k b).enter (intEntry k b) := hcore
  rw [hcore']
  obtain ⟨-, -, hserv, hpend, -⟩ := enter_keeps (inService k b) (intEntry k b)
  have hrs : ∀ n, ((inService k b).enter (intEntry k b)).rs n false = _ := fun n => enter_rs _ _ rfl n false
  obtain ⟨hca, hce, hcs, hea, hes, -⟩ := entry_regs (lvl := 1) (.inl rfl)
  refine ⟨hat, hb, rfl, ?_, ?_, ?_, ?_, ?_, fun r => enter_g _ _ r, fun r => enter_v _ _ r, ?_⟩
  · rw [hserv]
    exact List.mem_append_right _ (List.mem_singleton.2 (by simp [hat, ← hl]))
  · intro d hd
    rw [hpend] at hd
    have hnot := (List.mem_filter.1 hd).2
    rintro ⟨hw, hv, ht⟩
    simp [hw, hv, ht, hb] at hnot
  · rw [hrs]
    simp [rs_ws, intEntry, hat, bankOf, hb, hca, causeWord]
  · rw [hrs]
    simp [rs_ws, intEntry, hat, bankOf, hb, hea, hce.symm]
  · simp only [Core.enter, intEntry, hat, hb]
    rfl
  · exact keptChip_trans (keptChip_trans (keptChip_onCore _ s _) hchip)
      (keptChip_trans (Counts.free core.toNat _ t).1 (Counts.seen core.toNat _ fun _ => []).1)

end Sys2Proof.Proofs
end

section
/-! PROOFS. Entering and leaving a locket (R289, R290), and reports asked for inside one (R293). -/

namespace Sys2Proof.Proofs
open Sys2Proof.Machine Sys2Proof.Laws

/-! ### Requests to the SEC (R26, R247, R266) -/

theorem toSec_reaches {c : Nat} {s : State} (h : ToSec c s) : toSec c s = (.ok (), s.wake domSec) := by
  have hway : s.pathErr (tileStop (c / 2)) secStop domSec = none := h
  rw [toSec, hway]

@[simp] theorem wake_core (s : State) (n c : Nat) : (s.wake n).core c = s.core c := by rw [wake_frame]; rfl
theorem wake_sec (s : State) (n : Nat) : (s.wake n).sec = s.sec := by rw [wake_frame]

/-! ### The registers of a slot (R287) -/

/-- The address that a slot saves, its two low bits cleared. -/
theorem aligned_pc (n : Nat) : dw n &&& ~~~3#64 = dw (n / 4 * 4) := by
  have hlow : ∀ i < 64, (3#64).getLsbD i = decide (i < 2) := by decide
  have hdiv : n / 4 * 4 = n >>> 2 <<< 2 := by rw [Nat.shiftRight_eq_div_pow, Nat.shiftLeft_eq]
  apply BitVec.eq_of_getLsbD_eq
  intro i hi
  rw [BitVec.getLsbD_and, BitVec.getLsbD_not, hlow i hi, hdiv, BitVec.getLsbD_ofNat, BitVec.getLsbD_ofNat, Nat.testBit_shiftLeft,
    Nat.testBit_shiftRight]
  by_cases h2 : i < 2
  · simp [h2]
  · simp [h2, hi, show 2 ≤ i by omega, show 2 + (i - 2) = i by omega]

/-- A map of the numbers of a list, each under a key of its own. -/
theorem find_map_key {κ α : Type} [DecidableEq κ] (key : Nat → κ) (f : Nat → α) {l : List Nat} {k : Nat} (hk : k ∈ l)
    (hkey : ∀ i ∈ l, key i = key k → i = k) : Map.find (l.map fun i => (key i, f i)) (key k) = some (f k) := by
  induction l with
  | nil => cases hk
  | cons j l ih =>
    rw [List.map_cons, Map.find]
    split
    · next e => rw [hkey j List.mem_cons_self e]
    · next e =>
      exact ih ((List.mem_cons.1 hk).resolve_left fun h => e (by rw [h])) fun i hi => hkey i (List.mem_cons_of_mem _ hi)

theorem ofNat5_inj {i j : Nat} (hi : i < 32) (hj : j < 32) (h : BitVec.ofNat 5 i = BitVec.ofNat 5 j) : i = j := by
  have hn := congrArg BitVec.toNat h
  rwa [BitVec.toNat_ofNat, BitVec.toNat_ofNat, Nat.mod_eq_of_lt hi, Nat.mod_eq_of_lt hj] at hn

section Load
variable (k : Core) (y : LkCtx) (bs : List Byte)

theorem lkLoad_rg {i : Nat} (h1 : 1 ≤ i) (h32 : i < 32) :
    (k.lkLoad y bs).rg (BitVec.ofNat 5 i) = dw (wordAt bs (0x100 + 8 * (i - 1)) 8) := by
  have hne : BitVec.ofNat 5 i ≠ 0 := fun h => by have := ofNat5_inj (j := 0) h32 (by decide) h; omega
  have hfind := find_map_key (fun i => BitVec.ofNat 5 (i + 1)) (fun i => dw (wordAt bs (0x100 + 8 * i) 8)) (l := List.range 31)
    (k := i - 1) (List.mem_range.2 (by omega)) fun j hj h => by
      have := ofNat5_inj (by have := List.mem_range.1 hj; omega) (by omega) h
      omega
  rw [Nat.sub_add_cancel h1] at hfind
  rw [Core.rg, if_neg hne]
  exact congrArg (·.getD 0) hfind

theorem lkLoad_rv {i : Nat} (h32 : i < 32) :
    (k.lkLoad y bs).rv (BitVec.ofNat 5 i) = BitVec.ofNat 256 (wordAt bs (0x200 + 32 * i) 32) :=
  congrArg (·.getD 0) (find_map_key (fun i => BitVec.ofNat 5 i) (fun i => BitVec.ofNat 256 (wordAt bs (0x200 + 32 * i) 32))
    (List.mem_range.2 h32) fun _ hj => ofNat5_inj (List.mem_range.1 hj) h32)

theorem lkLoad_pc : (k.lkLoad y bs).pc = dw (wordAt bs 8 8 / 4 * 4) := aligned_pc _

end Load

/-! ### LKENTER (R289) -/

/-- An instruction that leaves its core as `k`: what its commit keeps of it. -/
theorem run_core {s s1 s2 : State} {x : Issue} {sh : Shape} {body : Nat → Act Done} {d : Done} {k : Core} (h : Begins s x s1)
    (hb : body x.c s1 = (.ok d, s2.setCore x.c k)) : Answers (.next (s.run x sh body)) fun t =>
      (t.core x.c).pc = d.pc ∧ (∀ r, (t.core x.c).rg r = k.rg r) ∧ (∀ r, (t.core x.c).rv r = k.rv r) ∧ (t.core x.c).lk = k.lk ∧
      KeptChip x.c s2 t := by
  obtain ⟨t, ht, hpc, hg, hv, hcore, hchip⟩ := run_writesNone (sh := sh) h hb
  rw [core_setCore, if_pos rfl] at hg hv hcore
  obtain ⟨-, -, -, hlk, -⟩ := hcore
  exact ⟨t, ht, hpc, hg, hv, hlk, keptChip_trans (keptChip_setCore x.c s2 k) hchip⟩

/-- LKENTER with a slot that is FRESH or SAVED: the slot becomes RUNNING, and the core takes its registers. -/
theorem lkSlot_enters {s s2 : State} {rd : BitVec 5} {l slot page key c : Nat} {bs : List Byte}
    (hread : s.agentRead true (tileStop (c / 2)) hypId key 26 page 0x600 = .ok (bs, false, s2)) (hst : wordAt bs 0 8 < 2) :
    let s3 := s2.slotWrite c key page (leBytes 8 2)
    let k := (s3.core c).lkLoad ⟨l, slot, (s3.core c).pc, rd⟩ bs
    lkSlot rd l slot page key c s = (.ok { pc := k.pc, flow := .other }, s3.setCore c k) := by
  have h2 : wordAt bs 0 8 ≠ 2 := by omega
  have h3 : ¬ 2 < wordAt bs 0 8 := by omega
  simp [lkSlot, hread, h2, h3]

/-- LKENTER of a READY locket of the caller, with a slot that it has, asks the SEC and comes to the slot. -/
theorem lkenterBody_slot {s : State} {rd rs1 : BitVec 5} {c page : Nat} {l : Locket} (hiso : s.iso ≠ .hv)
    (hworld : (s.core c).world = false) (hlvl : (s.core c).lvl = 0) (hv : ((s.core c).rg rs1).toNat < 2 ^ 20)
    (hl : s.sec.lockets.find (((s.core c).rg rs1).toNat % 2 ^ 12) = some l) (hst : l.st = 2) (hvmid : l.vmid = (s.ident c).vmid)
    (hpage : l.slots[((s.core c).rg rs1).toNat / 2 ^ 12]? = some page) (hsec : ToSec c s) :
    lkenterBody rd rs1 c s = lkSlot rd (((s.core c).rg rs1).toNat % 2 ^ 12) (((s.core c).rg rs1).toNat / 2 ^ 12) page l.key c
      (s.wake domSec) := by
  have hmode : (s.iso != .hv && !(s.core c).world) = true := by simp [hiso, hworld]
  have huser : ((s.core c).lvl == 0) = true := by simp [hlvl]
  simp only [lkenterBody, Act.with, Act.bind, Act.check, hmode, huser, if_true, Act.pure, if_neg (not_le.2 hv), toSec_reaches hsec,
    hl, hst, hvmid, hpage, ne_eq, not_true_eq_false, if_false]

/-! ### LKEXIT (R290) -/

/-- The slot of a thread becomes FRESH. -/
def slotFreed (s : State) (c : Nat) (y : LkCtx) : State :=
  match s.slotPage y.id y.slot with
  | some (p, key) => s.slotWrite c key p (leBytes 8 0)
  | none => s

/-- LKEXIT in a locket: its slot becomes FRESH, and the core goes on behind the LKENTER with 0 in that instruction's rd. -/
theorem lkexitBody_leaves {s : State} {c : Nat} {y : LkCtx} (hiso : s.iso ≠ .hv) (hlk : (s.core c).lk = some y) :
    lkexitBody c s = (.ok { pc := y.enter + 4, flow := .other },
      (slotFreed s c y).setCore c { ((slotFreed s c y).core c).wg y.rd 0 with lk := none }) := by
  simp only [lkexitBody, Act.with, if_neg hiso, hlk]
  rfl

/-! ### LKREPORT (R293) -/

theorem neg_eq_ofInt (n : Nat) : neg n = BitVec.ofInt 64 (-n) := by
  rw [neg, BitVec.ofInt_neg, BitVec.ofInt_natCast]
  exact BitVec.zero_sub _

/-- An instruction that completes with a status. -/
theorem run_lkStatus {s s1 : State} {x : Issue} {sh : Shape} {rd : BitVec 5} {n : Nat} {body : Nat → Act Done} (h : Begins s x s1)
    (hb : body x.c s1 = lkStatus rd n x.c s1) :
    WritesG x s1 rd (BitVec.ofInt 64 (-n)) ((s1.core x.c).pc + 4) (.next (s.run x sh body)) := by
  rw [← neg_eq_ofInt]
  exact run_register h hb

section Report
variable {s s2 s3 s4 : State} {x : Issue} {rd rs1 rs2 : BitVec 5} {c w : Nat} {y : LkCtx} {l : Locket}

/-- The buffer of LKREPORT cannot take a report: it is not aligned, or the locket binds no memory to it. -/
def BadBuffer (l : Locket) (buf : Nat) : Prop := buf % 4096 ≠ 0 ∨ l.bind buf = none ∨ l.bind (buf + 4096) = none

/-- A report of the thread slot is under way. -/
def ReportBusy (s : State) (y : LkCtx) : Prop := ∃ r ∈ s.sec.reports, r.locket = y.id ∧ r.slot = y.slot

theorem reportBusy_iff : ReportBusy s y ↔ (s.sec.reports.any fun r => r.locket == y.id && r.slot == y.slot) = true := by
  simp [ReportBusy]

variable (hiso : s.iso ≠ .hv) (hlk : (s.core c).lk = some y) (hl : s.sec.lockets.find y.id = some l)
include hiso hlk hl

theorem lkreportBody_badBuffer (h : BadBuffer l ((s.core c).rg rs1).toNat) : lkreportBody x rd rs1 rs2 c s = lkStatus rd 2 c s := by
  simp only [lkreportBody, Act.with, if_neg hiso, hlk, hl, Option.isNone_iff_eq_none]
  exact congrFun (if_pos h) s

theorem lkreportBody_busy (h : ¬BadBuffer l ((s.core c).rg rs1).toNat) (hbusy : ReportBusy s y) :
    lkreportBody x rd rs1 rs2 c s = lkStatus rd 4 c s := by
  simp only [lkreportBody, Act.with, if_neg hiso, hlk, hl, Option.isNone_iff_eq_none]
  exact (congrFun (if_neg h) s).trans (congrFun (if_pos (reportBusy_iff.1 hbusy)) s)

/-- A report asked for, once the buffer's pages and the user data have been reached. -/
theorem lkreportBody_asks (h : ¬BadBuffer l ((s.core c).rg rs1).toNat) (hbusy : ¬ReportBusy s y)
    (h1 : touchWrite c ((s.core c).rg rs1) s = (.ok (), s2)) (h2 : touchWrite c ((s.core c).rg rs1 + 4096) s2 = (.ok (), s3))
    (hw : loadWords c x ((s.core c).rg rs2) 8 s3 = (.ok w, s4)) (hsec : ToSec c s4) :
    lkreportBody x rd rs1 rs2 c s = (.ok { pc := (s4.core c).pc + 4 },
      State.onCore { s4.wake domSec with sec := { s4.sec with
        reports := s4.sec.reports ++ [⟨y.id, y.slot, ((s.core c).rg rs1).toNat, BitVec.ofNat 512 w⟩] } } c fun k => k.wg rd 0) := by
  simp only [lkreportBody, Act.with, if_neg hiso, hlk, hl, Option.isNone_iff_eq_none]
  refine (congrFun (if_neg h) s).trans ((congrFun (if_neg (mt reportBusy_iff.2 hbusy)) s).trans ?_)
  simp only [Act.bind, h1, h2, hw, toSec_reaches hsec, finish, wake_core, ← wake_sec s4 domSec]
  rfl

end Report

/-! ### The statement -/

/-- Settles O38: each instruction's body (`lkSlot_enters`, `lkexitBody_leaves`, `lkreportBody_asks`), and what its commit
keeps (`run_core`, `run_register`). -/
theorem locketInstructions : Obligations.LocketInstructions := by
  unfold Obligations.LocketInstructions
  refine ⟨?_, ?_⟩
  · intro x rd rs1 s _ s1 _ _ h hiso k v
    refine ⟨?_, ?_⟩
    · intro l page bs s2 hworld hlvl hv hl hst hvmid hpage hsec hread hfree s3 q
      have hbody := lkenterBody_slot (rd := rd) hiso hworld hlvl hv hl hst hvmid hpage hsec
      rw [lkSlot_enters hread hfree] at hbody
      obtain ⟨t, ht, hpc, hg, hvec, hctx, hchip⟩ := run_core (sh := { ser := true }) h hbody
      exact ⟨t, ht, hctx, hpc.trans (lkLoad_pc q ⟨v % 2 ^ 12, v / 2 ^ 12, q.pc, rd⟩ bs), fun i h1 h32 => (hg _).trans (lkLoad_rg _ _ _ h1 h32),
        fun i h32 => (hvec _).trans (lkLoad_rv _ _ _ h32), hchip⟩
    · intro y hlk s2
      obtain ⟨t, ht, hpc, hg, hvec, hctx, hchip⟩ := run_core (sh := { ser := true }) h (lkexitBody_leaves hiso hlk)
      exact ⟨t, ht, hctx, hpc, fun r => (hg r).trans (rg_wg _ _ _ _), fun r => (hvec r).trans (rv_wg _ _ _ _), hchip⟩
  · intro x rd rs1 rs2 s s1 y l h hiso k buf bad busy hlk hl
    refine ⟨?_, ?_, ?_⟩
    · exact fun hbad => run_lkStatus (n := 2) h (lkreportBody_badBuffer hiso hlk hl hbad)
    · exact fun hok hbusy => run_lkStatus (n := 4) h (lkreportBody_busy hiso hlk hl hok hbusy)
    · exact fun s2 s3 s4 w hok hfree h1 h2 hw hsec => run_register h (lkreportBody_asks hiso hlk hl hok hfree h1 h2 hw hsec)

end Sys2Proof.Proofs
end

section
/-! PROOFS. An invalidation of ownership checks that does not last (R281): a notice sent by a store that it performs makes
another core ask for an owner again. -/

namespace Sys2Proof.Proofs
open Sys2Proof.Machine Sys2Proof.Laws

/-! ### The state -/

/-- The first page of the second interleave set. -/
def lostPage : BitVec 40 := 0x140000

/-- A committed store of core 1 to that page. Its line has no way to memory: the wake limit of its controller's domain has
passed (R266). -/
def lostStore : MbEntry :=
  { line := 0x5000000, id := ⟨false, 0, 0⟩, key := 0, mtype := 3, data := 0, mask := 1, closed := true, lows := [], highs := [] }

/-- Core 0 in the guest of a virtual CPU whose record lies in the first interleave set, with notice vector 5 (R314). -/
def guestCore : Core :=
  { Core.reset with
    run := .running, lvl := 0, world := false
    sys := [((Sys.vcpu, false), setF (setF 0 G.vcpu.EN 1) G.vcpu.ADDR 0x2000000)]
    vcpu := { nvec := 5, serv := 0, pend := 0 } }

/-- Routing entry 3 of the Steward, that of uncorrected errors (R431), sends vector 5 to core 0 at L2 (R307). -/
def noticeRoute : DWord :=
  setF (setF (setF (setF 0 F.stwIntLo.V 1) F.stwIntLo.VECTOR 5) F.stwIntLo.PRIO 1) F.stwIntLo.LEVEL 2

/-- Both cores are ON, the errors of their tile ask for a notice, and no core has an ownership check cached. -/
def refilling : State :=
  { State.reset with
    csr := [(.dom 0, dw 0xC000F000), (.dom 1, dw 0xC000F000), (.dom 410, dw 0xC000F000), (.ebCtl 0, setF 0 F.ebCtl.UC_IE 1),
            (.stwIntLo 3, noticeRoute)]
    cores := [(0, guestCore), (1, { Core.reset with run := .running, lvl := 0, world := false })]
    ucores := [(1, { UCore.reset with mbuf := [lostStore] })]
    m := { MemState.reset with dram := [⟨0x100000000, 0x40000000, [0]⟩, ⟨0x140000000, 0x40000000, [1]⟩] }
    mesh := { MeshState.reset with wakeFail := [domMc 1] } }

/-! ### The run -/

/-- Nothing is cached before. -/
theorem refilling_before : (refilling.ucore 0).own = [] := rfl

theorem refilling_isOn : refilling.isOn 0 = true := by decide +kernel

/-- The store fails, its record's notice reaches core 0, and core 0 harvests its record: the check of that access caches
the whole extent of unowned pages, the invalidated page among them. -/
theorem refilling_after : ((refilling.ownInv lostPage.toNat lostPage.toNat).ucore 0).own = [(0, 2 ^ 40 - 1)] := by decide +kernel

/-! ### The statement -/

/-- Refutes O51, in its clause on ownership invalidation: on `refilling`, core 0 holds a check of the invalidated page
afterwards (`refilling_after`). -/
theorem not_securityCommands : ¬ Obligations.SecurityCommands := by
  unfold Obligations.SecurityCommands
  intro h
  obtain ⟨hinv, -⟩ := h ⟨.debug, true, 0xFFFF, 0⟩ refilling
  obtain ⟨t, ht, hcached, -⟩ := hinv lostPage lostPage
  have hrun : refilling.ownInv lostPage.toNat lostPage.toNat = t := Host.Outcome.next.inj ht
  obtain ⟨hown, -⟩ := hcached 0 refilling_isOn
  rw [← hrun, refilling_after] at hown
  exact absurd (hown _ (List.mem_singleton.2 rfl)) (by decide)

end Sys2Proof.Proofs
end

section
/-! PROOFS. What the SEC has on file while agents read and write memory: its lockets, the reports asked for and the serial
number of the next (R285, R293) stand, and so do the cores. -/

namespace Sys2Proof.Proofs
open Sys2Proof.Machine Sys2Proof.Laws

/-! ### Two relations -/

/-- The lockets, the reports asked for and the serial number stand. -/
structure OnFile (s t : State) : Prop where
  lockets : t.sec.lockets = s.sec.lockets
  reports : t.sec.reports = s.sec.reports
  serial : t.sec.serial = s.sec.serial

theorem OnFile.of_sec {s t : State} (h : t.sec = s.sec) : OnFile s t := ⟨by rw [h], by rw [h], by rw [h]⟩
theorem OnFile.refl (s : State) : OnFile s s := .of_sec rfl

theorem OnFile.trans {s t u : State} (h : OnFile s t) (h' : OnFile t u) : OnFile s u :=
  ⟨h'.lockets.trans h.lockets, h'.reports.trans h.reports, h'.serial.trans h.serial⟩

theorem OnFile.foldl {α : Type} {f : State → α → State} (h : ∀ s a, OnFile s (f s a)) (l : List α) (s : State) :
    OnFile s (l.foldl f s) :=
  List.foldlRecOn (motive := OnFile s) l f (.refl s) fun t ht a _ => ht.trans (h t a)

/-- The cores stand too. -/
structure Quiet (s t : State) : Prop extends OnFile s t where
  cores : t.cores = s.cores

theorem Quiet.of_same {s t : State} (hs : t.sec = s.sec) (hc : t.cores = s.cores) : Quiet s t := ⟨.of_sec hs, hc⟩
theorem Quiet.refl (s : State) : Quiet s s := .of_same rfl rfl

theorem Quiet.trans {s t u : State} (h : Quiet s t) (h' : Quiet t u) : Quiet s u :=
  ⟨h.toOnFile.trans h'.toOnFile, h'.cores.trans h.cores⟩

theorem Quiet.foldl {α : Type} {f : State → α → State} (h : ∀ s a, Quiet s (f s a)) (l : List α) (s : State) :
    Quiet s (l.foldl f s) :=
  List.foldlRecOn (motive := Quiet s) l f (.refl s) fun t ht a _ => ht.trans (h t a)

theorem Quiet.ite {s t u : State} {p : Prop} [Decidable p] (ht : Quiet s t) (hu : Quiet s u) : Quiet s (if p then t else u) := by
  split
  · exact ht
  · exact hu

/-! ### Plain updates -/

theorem quiet_setFld (s : State) (r : Reg) (p : Place) (v : Nat) : Quiet s (s.setFld r p v) := .of_same rfl rfl
theorem quiet_fresh (s : State) : Quiet s s.fresh.2 := .of_same rfl rfl
theorem quiet_m (s : State) (m : MemState) : Quiet s { s with m := m } := .of_same rfl rfl
theorem quiet_withCs (s : State) (x : Cs) : Quiet s (s.withCs x) := .of_same rfl rfl
theorem quiet_onMc (s : State) (n : Nat) (f : McState → McState) : Quiet s (s.onMc n f) := .of_same rfl rfl
theorem quiet_onUcore (s : State) (c : Nat) (f : UCore → UCore) : Quiet s (s.onUcore c f) := .of_same rfl rfl

/-! ### Wakes, counters and statistics -/

theorem quiet_wake (s : State) (n : Nat) : Quiet s (s.wake n) := by rw [wake_frame]; exact .of_same rfl rfl
theorem quiet_count (s : State) (r : Reg) (p : Place) : Quiet s (s.count r p) := by rw [count_frame]; exact .of_same rfl rfl

theorem quiet_statOf (s : State) (i : Nat) (id : Ident) (flits : Nat) : Quiet s (s.statOf i id flits) :=
  .ite (.of_same rfl rfl) (.refl s)

theorem quiet_statErr (s : State) (i : Nat) (id : Ident) (flits e : Nat) : Quiet s (s.statErr i id flits e) :=
  .ite (.ite (.of_same rfl rfl) (.refl s)) (quiet_statOf ..)

theorem quiet_statAgent (s : State) (src : Stop) (id : Ident) : Quiet s (s.statAgent src id) := by
  unfold State.statAgent
  split
  · exact quiet_statOf ..
  · exact .refl s

/-! ### Error records -/

theorem quiet_toLog (s : State) (typ sev : Nat) (tr : Bool) (l : List DWord) : Quiet s (s.toLog typ sev tr l) :=
  .ite (.of_same rfl rfl) (.of_same rfl rfl)

theorem quiet_record (s : State) (e : Event) : Quiet s (s.record e).2 := by
  unfold State.record
  extract_lets cnt counted _ words _ s1
  have h1 : Quiet s s1 := by
    simp only [s1]
    split
    · exact (quiet_count s _ _).trans (.of_same rfl rfl)
    · exact quiet_count ..
    · exact quiet_count ..
    · exact .ite ⟨⟨rfl, rfl, rfl⟩, rfl⟩ (quiet_toLog ..)
  split
  · exact h1.trans (quiet_count ..)
  · split
    · exact h1.trans (.of_same rfl rfl)
    · split
      · exact h1.trans (.of_same rfl rfl)
      · exact h1.trans (.foldl (fun t i => quiet_setFld t (rStat e.bank i) F.ebStat.OVF 1) _ _)

theorem quiet_recordOwed (s : State) (e : Event) : Quiet s (s.recordOwed e) := by
  unfold State.recordOwed
  dsimp only
  split
  · exact quiet_record s e
  · exact (quiet_record s e).trans (.of_same rfl rfl)

/-! ### Lines of memory -/

theorem quiet_dramCorrected (s : State) (n pa : Nat) (r : DramRow) : Quiet s (s.dramCorrected n pa r) :=
  (quiet_onMc s n _).trans (quiet_recordOwed ..)

theorem quiet_poisonMem (s : State) (n line : Nat) : Quiet s (s.poisonMem n line) := by
  unfold State.poisonMem
  split <;> exact .of_same rfl rfl

theorem quiet_dramUncorrectable (s : State) (n pa : Nat) (good : Bool) : Quiet s (s.dramUncorrectable n pa good) :=
  .ite (quiet_recordOwed ..) ((quiet_poisonMem ..).trans (quiet_recordOwed ..))

theorem quiet_freeLine (s : State) : Quiet s s.freeLine.2 :=
  List.foldlRecOn (motive := fun a : Line × State => Quiet s a.2) _ _ (.refl s) fun _ h _ _ => h.trans (.of_same rfl rfl)

theorem quiet_dramBeyond (s : State) (n pa : Nat) (r : DramRow) (good : Bool) : Quiet s (s.dramBeyond n pa r good) := by
  unfold State.dramBeyond
  have hfresh := quiet_fresh s
  generalize s.fresh = a at hfresh ⊢
  dsimp only
  split
  · exact hfresh.trans (quiet_dramUncorrectable ..)
  · split
    · exact hfresh.trans (quiet_dramCorrected ..)
    · exact ((hfresh.trans (quiet_freeLine _)).trans (quiet_m _ _)).trans (quiet_dramCorrected ..)

theorem quiet_dramRead (s : State) (n line : Nat) : Quiet s (s.dramRead n line) := by
  unfold State.dramRead
  extract_lets m gone
  have hg : Quiet s gone := quiet_m s _
  split
  · exact .refl s
  · exact .refl s
  · exact .ite (.refl s) (hg.trans (quiet_m _ _))
  · extract_lets good
    split
    · exact hg
    · exact hg.trans (quiet_dramCorrected ..)
    · exact hg.trans (quiet_dramUncorrectable ..)
    · exact hg.trans (quiet_dramBeyond ..)

theorem quiet_memRead (s : State) (line : Nat) : Quiet s (s.memRead line) := by
  unfold State.memRead
  split
  · refine .ite (quiet_dramRead ..) ?_
    unfold State.cxlRead
    dsimp only
    exact .ite ((quiet_fresh s).trans (quiet_m _ _)) (quiet_fresh s)
  · exact .refl s

theorem quiet_memIn (s : State) (line : Nat) : Quiet s (s.memIn line) := by
  unfold State.memIn
  split
  · exact quiet_memRead s line
  · exact .refl s

theorem quiet_awaitSlice (s : State) (n : Nat) : Quiet s (s.awaitSlice n) :=
  .ite (.refl s) ((quiet_setFld ..).trans (quiet_setFld ..))

theorem quiet_wakePath (s : State) (line : Nat) : Quiet s (s.wakePath line) :=
  ((quiet_wake ..).trans (quiet_awaitSlice ..)).trans (quiet_wake ..)

theorem quiet_underClasp (s : State) (line : Nat) (wr : Bool) : Quiet s (s.underClasp line wr) := by
  unfold State.underClasp
  extract_lets s1
  have h1 : Quiet s s1 := quiet_count ..
  split
  · exact .ite (h1.trans (quiet_recordOwed ..)) h1
  · exact h1

theorem quiet_cutIn (s : State) (line : Nat) : Quiet s (s.cutIn line) :=
  .ite ((quiet_underClasp ..).trans (quiet_m _ _)) (quiet_memIn ..)

theorem quiet_readHome (s : State) (line key : Nat) : Quiet s (s.readHome line key).2.2 :=
  ((quiet_memIn s line).trans (.ite (quiet_underClasp ..) (.refl _))).trans (quiet_withCs _ _)

theorem quiet_wakePartner (s : State) (line : Nat) : Quiet s (s.wakePartner line) := by
  unfold State.wakePartner
  split
  · exact quiet_wake ..
  · exact .refl s

theorem quiet_writeNc (s : State) (line key : Nat) (mask : BitVec 64) (data : Line) (dp : BitVec 2) (whole : Bool) :
    Quiet s (s.writeNc line key mask data dp whole) := by
  unfold State.writeNc
  extract_lets s1 s2 s3
  have h1 : Quiet s s1 := (quiet_withCs s _).trans (quiet_wakePartner ..)
  have h2 : Quiet s1 s2 := .ite (quiet_m _ _) (quiet_memRead ..)
  exact ((h1.trans h2).trans (quiet_withCs _ _)).trans (quiet_m _ _)

theorem quiet_discard (s : State) (line : Nat) : Quiet s (s.discard line) := by
  rw [(discard_frame s line).1]
  exact .of_same rfl rfl

theorem quiet_invLine (s : State) (line : Nat) : Quiet s (s.invLine line) := (quiet_withCs s _).trans (quiet_discard ..)

theorem quiet_writeHome (s : State) (line key : Nat) (mask : BitVec 64) (data : Line) (dp : BitVec 2) (whole : Bool) :
    Quiet s (s.writeHome line key mask data dp whole) :=
  .ite ((quiet_invLine ..).trans (quiet_underClasp ..)) (quiet_writeNc ..)

/-! ### Accesses of agents -/

theorem quiet_ownAsk (s : State) (l : List (Nat × Nat)) (page : Nat) : Quiet s (s.ownAsk l page) := by
  unfold State.ownAsk
  split
  · exact .refl s
  · exact quiet_wake ..

theorem quiet_ownSeen (s : State) (src : Stop) (page : Nat) : Quiet s (s.ownSeen src page) :=
  (quiet_ownAsk s _ page).trans ⟨⟨rfl, rfl, rfl⟩, rfl⟩

theorem quiet_ownCore (s : State) (c page : Nat) : Quiet s (s.ownCore c page) := (quiet_ownAsk s _ page).trans (quiet_onUcore ..)

section Agent
variable {s t : State} {sec : Bool} {src : Stop} {id : Ident} {key : Nat}

/-- An agent's check and its way to a line. -/
theorem quiet_agentWay (s : State) (sec : Bool) (src : Stop) (line : Nat) :
    Quiet s ((if sec then s else s.ownSeen src (line / 64)).wakePath line) :=
  (Quiet.ite (.refl s) (quiet_ownSeen ..)).trans (quiet_wakePath ..)

theorem quiet_agentLine {line : Nat} {l : Line} {p : Bool} (h : s.agentLine sec src id line key = .ok (l, p, t)) : Quiet s t := by
  unfold State.agentLine at h
  split at h
  · cases h
  · split at h
    · cases h
    · cases h
      exact ((quiet_agentWay s sec src line).trans (quiet_readHome ..)).trans (quiet_statAgent ..)

theorem quiet_agentRead {f pa n : Nat} {bs : List Byte} {p : Bool} (h : s.agentRead sec src id key f pa n = .ok (bs, p, t)) :
    Quiet s t := by
  induction f generalizing s pa n bs p with
  | zero => cases h; exact .refl _
  | succ f ih =>
    rw [State.agentRead] at h
    split at h
    · cases h; exact .refl _
    · extract_lets k at h
      split at h
      · cases h
      · next l q s1 hl =>
        extract_lets b at h
        split at h
        · cases h
        · next r q2 s2 hr =>
          cases h
          exact (quiet_agentLine hl).trans (ih hr)

theorem quiet_agentNat {pa n v : Nat} {p : Bool} (h : s.agentNat sec src id key pa n = .ok (v, p, t)) : Quiet s t := by
  unfold State.agentNat at h
  split at h
  · cases h
  · next hr => cases h; exact quiet_agentRead hr

theorem quiet_agentWriteLine {line : Nat} {mask : BitVec 64} {data : Line} {p : Bool}
    (h : s.agentWriteLine sec src id line key mask data p = .ok t) : Quiet s t := by
  unfold State.agentWriteLine at h
  split at h
  · cases h
  · split at h
    · cases h
    · cases h
      exact ((quiet_agentWay s sec src line).trans (quiet_writeHome ..)).trans (quiet_statAgent ..)

theorem quiet_agentWrite {f pa : Nat} {bs : List Byte} {p : Bool} (h : s.agentWrite sec src id key p f pa bs = .ok t) :
    Quiet s t := by
  induction f generalizing s pa bs with
  | zero => cases h; exact .refl _
  | succ f ih =>
    rw [State.agentWrite] at h
    split at h
    · cases h; exact .refl _
    · extract_lets k data at h
      split at h
      · cases h
      · next hw => exact (quiet_agentWriteLine hw).trans (ih h)

theorem quiet_agentAtomic {pa n v : Nat} {p : Bool} {f : Nat → Nat} (h : s.agentAtomic sec src id key pa n f = .ok (v, p, t)) :
    Quiet s t := by
  unfold State.agentAtomic at h
  split at h
  · cases h
  · next hn =>
    split at h
    · cases h; exact quiet_agentNat hn
    · split at h
      · cases h
      · next hw => cases h; exact (quiet_agentNat hn).trans (quiet_agentWrite hw)

/-- A core's own access: its checks, what it does, its count. -/
theorem Quiet.asked {c pa flits : Nat} (h : Quiet (s.ownCore c (pa / 4096)) t) : Quiet s (t.statCore c flits) :=
  ((quiet_ownCore ..).trans h).trans (quiet_statOf ..)

theorem quiet_coreNat {c pa n v : Nat} {p : Bool} (h : s.coreNat c id key pa n = .ok (v, p, t)) : Quiet s t := by
  obtain ⟨k, hk⟩ := coreAsk_ok h
  obtain ⟨r, hr, hrt⟩ := exceptMap_ok hk
  cases hrt
  exact (quiet_agentNat hr).asked

theorem quiet_coreAtomic {c pa n v : Nat} {p : Bool} {f : Nat → Nat} (h : s.coreAtomic c id key pa n f = .ok (v, p, t)) :
    Quiet s t := by
  obtain ⟨k, hk⟩ := coreAsk_ok h
  obtain ⟨r, hr, hrt⟩ := exceptMap_ok hk
  cases hrt
  exact (quiet_agentAtomic hr).asked

end Agent

end Sys2Proof.Proofs
end

section
/-! PROOFS. What the SEC has on file while interrupts are sent and cores' stores are performed: a failed store is recorded,
and its notice may reach a core and take it out of a wait. -/

namespace Sys2Proof.Proofs
open Sys2Proof.Machine Sys2Proof.Laws

theorem OnFile.ite {s t u : State} {p : Prop} [Decidable p] (ht : OnFile s t) (hu : OnFile s u) : OnFile s (if p then t else u) := by
  split
  · exact ht
  · exact hu

theorem Quiet.onFile {s t : State} (h : Quiet s t) : OnFile s t := h.toOnFile

/-! ### Interrupts -/

theorem quiet_agentGone (s : State) (e : Fail) (cmd key pa : Nat) : Quiet s (s.agentGone e cmd key pa) := by
  unfold State.agentGone
  split
  · exact quiet_recordOwed ..
  · exact .refl s

theorem quiet_swapWord (s : State) (c off n : Nat) : Quiet s (s.swapWord c off n).2 := by
  unfold State.swapWord
  extract_lets co key pa
  split
  · exact quiet_agentGone ..
  · next h => exact quiet_coreNat h
  · next h =>
    split
    · exact (quiet_coreNat h).trans (quiet_agentGone ..)
    · next h' => exact (quiet_coreNat h).trans (quiet_coreAtomic h')

theorem onFile_setCore (s : State) (c : Nat) (k : Core) : OnFile s (s.setCore c k) := .of_sec rfl
theorem onFile_onCore (s : State) (c : Nat) (f : Core → Core) : OnFile s (s.onCore c f) := .of_sec rfl

theorem onFile_harvest (s : State) (c : Nat) : OnFile s (s.harvest c) := by
  refine (quiet_swapWord s c _ _).onFile.trans (.foldl (fun t k => ?_) _ _)
  unfold State.harvestClass
  have h := (quiet_swapWord t c (4 * k) 4).onFile
  split
  · next e => rw [e] at h; exact h
  · next e => rw [e] at h; exact h.trans (onFile_onCore ..)

theorem onFile_endWait (s : State) (c : Nat) : OnFile s (s.endWait c) := by
  unfold State.endWait
  extract_lets k virt
  split
  · exact .ite (onFile_setCore ..) (.refl s)
  · exact .ite (onFile_setCore ..) (.ite (onFile_setCore ..) (.refl s))
  · exact .refl s

theorem onFile_intArrive (s : State) (c : Nat) (w : Bool) (vec prio lvl : Nat) : OnFile s (s.intArrive c w vec prio lvl).1 := by
  unfold State.intArrive
  split
  · exact .refl s
  · split
    · exact ⟨rfl, rfl, rfl⟩
    · extract_lets s1 k
      have h1 : OnFile s s1 := .ite (onFile_onCore ..) (.refl s)
      split
      · exact h1.trans (onFile_endWait ..)
      · split
        · have h2 : OnFile s (s1.harvest c) := h1.trans (onFile_harvest s1 c)
          dsimp only
          exact h2.trans (onFile_endWait ..)
        · split
          · exact (h1.trans (quiet_count ..).onFile).trans (onFile_endWait ..)
          · exact (h1.trans (onFile_setCore ..)).trans (onFile_endWait ..)

theorem quiet_statSent (s : State) (src : Stop) (w : Bool) : Quiet s (s.statSent src w) := by
  rw [statSent_frame]
  exact .of_same rfl rfl

theorem quiet_come (s : State) (p : HeldPacket) (b : Option BufId) (dom : Option Nat) : Quiet s (s.come p b dom) := by
  have h := come_frame s p b dom
  generalize s.come p b dom = t at h ⊢
  rw [h]
  exact .of_same rfl rfl

theorem quiet_cross (s : State) (p : Packet) (vc : BitVec 2) (ls : List LinkId) : Quiet s (s.cross p vc ls) := .of_same rfl rfl

theorem onFile_intRaw (s : State) (src : Stop) (c : Nat) (w : Bool) (vec prio lvl : Nat) :
    OnFile s (s.intRaw src c w vec prio lvl).1 := by
  unfold State.intRaw
  extract_lets s1 p
  have h1 : OnFile s s1 := (quiet_statSent s src w).onFile
  split
  · exact h1
  · split
    · exact h1.trans ((quiet_cross ..).onFile.trans (onFile_intArrive ..))
    · exact h1.trans (quiet_come ..).onFile
    · exact h1

theorem onFile_virtDeliver (s : State) (src : IntSrc) (v : Nat) : OnFile s (s.virtDeliver src v).1 := by
  unfold State.virtDeliver
  extract_lets hi key pa st bad
  split
  · exact (quiet_agentGone ..).onFile
  · next h => exact (quiet_agentAtomic h).onFile
  · next h1 =>
    replace h1 := quiet_agentAtomic h1
    split
    · exact (h1.trans (quiet_agentGone ..)).onFile
    · next h2 => exact (h1.trans (quiet_agentAtomic h2)).onFile
    · next h2 =>
      replace h2 := h1.trans (quiet_agentAtomic h2)
      split
      · exact h2.onFile
      · split
        · exact (h2.trans (quiet_agentGone ..)).onFile
        · next h3 => exact (h2.trans (quiet_agentNat h3)).onFile
        · next h3 => exact (h2.trans (quiet_agentNat h3)).onFile.trans (onFile_intRaw ..)

theorem onFile_routeRaw (s : State) (src : IntSrc) : OnFile s (s.routeRaw src).1 := by
  unfold State.routeRaw
  extract_lets lo w vec
  split
  · exact .refl s
  · split
    · exact onFile_virtDeliver ..
    · exact onFile_intRaw ..

theorem onFile_notice (s : State) (k : Nat) : OnFile s (s.notice k) := by
  unfold State.notice
  have h := onFile_routeRaw s (.stw (BitVec.ofNat 8 k))
  split
  · next e => rw [e] at h; exact h
  · next e => rw [e] at h; exact h.trans (quiet_recordOwed ..).onFile

theorem onFile_logErr (s : State) (e : Event) : OnFile s (s.logErr e) := by
  unfold State.logErr State.logErrSlot
  have h := (quiet_record s e).onFile
  generalize s.record e = r at h ⊢
  dsimp only
  split
  · exact h
  · exact h.trans (onFile_notice ..)

theorem OnFile.logged {s : State} {r : State × Option Event} (h : OnFile s r.1) : OnFile s (logged r) := by
  unfold Machine.logged
  split
  · exact h
  · exact h.trans (onFile_logErr ..)

/-! ### Expansion windows -/

theorem quiet_onRp (s : State) (p r : Nat) (f : RootPort → RootPort) : Quiet s (s.onRp p r f) := .of_same rfl rfl
theorem quiet_onPort (s : State) (p : Nat) (f : IoState → IoState) : Quiet s (s.onPort p f) := .of_same rfl rfl

theorem quiet_rpActive (s : State) (p r : Nat) : Quiet s (s.rpActive p r) := by
  unfold State.rpActive
  split
  case h_5 => exact .refl s
  all_goals exact quiet_onRp ..

theorem quiet_epTraffic (s : State) (p : Nat) : Quiet s (s.epTraffic p) := by
  unfold State.epTraffic
  split
  case h_5 => exact .refl s
  all_goals exact quiet_onPort ..

theorem quiet_hostBme (s : State) (p f : Nat) : Quiet s (s.hostBme p f) :=
  .ite (((quiet_fresh s).trans (quiet_onPort ..)).trans (quiet_setFld ..)) (.refl s)

theorem quiet_freshBytes (s : State) (n : Nat) : Quiet s (s.freshBytes n).2 := by
  induction n generalizing s with
  | zero => exact .refl s
  | succ n ih => exact (quiet_fresh s).trans (ih _)

theorem onFile_aerErr (s : State) (p r : Nat) : OnFile s (s.aerErr p r).2 := by
  unfold State.aerErr
  dsimp only
  exact onFile_logErr s _

theorem onFile_deviceRead (s : State) (p r n : Nat) (cfg : Bool) : OnFile s (s.deviceRead p r n cfg).2 := by
  unfold State.deviceRead
  have h1 := (quiet_fresh s).onFile
  generalize s.fresh = a at h1 ⊢
  dsimp only
  split
  · split
    · exact h1
    · exact h1.trans (onFile_aerErr ..)
  · exact h1.trans (quiet_freshBytes ..).onFile

theorem onFile_outbound (s : State) (p r n : Nat) (cfg : Bool) (wr : Option Nat) : OnFile s (s.outbound p r n cfg wr).2 := by
  unfold State.outbound
  split
  · exact (quiet_count ..).onFile
  · extract_lets s1
    have h1 : OnFile s s1 := (quiet_rpActive s p r).onFile
    split
    · exact h1
    · exact h1.trans (onFile_deviceRead ..)

theorem onFile_setHdrByte (s : State) (p r a b : Nat) : OnFile s (s.setHdrByte p r a b) := .of_sec rfl

theorem onFile_cfgAccess (s : State) (p off n : Nat) (wr : Option Nat) : OnFile s (s.cfgAccess p off n wr).2 := by
  unfold State.cfgAccess
  extract_lets bus dev fn reg
  split
  · split
    · split
      · exact .foldl (fun t i => onFile_setHdrByte t p dev _ _) _ s
      · exact .refl s
    · exact .refl s
  · split
    · exact onFile_outbound ..
    · exact .refl s

theorem onFile_hostAccess (s : State) (p off n : Nat) (wr : Option Nat) : OnFile s (s.hostAccess p off n wr).2 := by
  unfold State.hostAccess
  extract_lets w s1
  have h1 : OnFile s s1 := .ite (quiet_hostBme ..).onFile (.refl s)
  split
  · have h2 : OnFile s (s1.epTraffic p) := h1.trans (quiet_epTraffic ..).onFile
    split
    · exact h2
    · exact h2.trans (onFile_deviceRead ..)
  · exact h1

theorem onFile_noAgent (s : State) (dst : Stop) (port cmd : Nat) (addr : Option (Nat × Nat)) :
    OnFile s (s.noAgent dst port cmd addr) := onFile_logErr s _

theorem onFile_windowAccess (s : State) (src : Stop) (cmd pa n : Nat) (wr : Option Nat) :
    OnFile s (s.windowAccess src cmd pa n wr).2 := by
  unfold State.windowAccess
  extract_lets none_ port
  have hn : OnFile s none_.2 := by
    simp only [none_]
    exact onFile_noAgent ..
  have hp : ∀ p role f, (∀ t, OnFile t (f t).2) → OnFile s (port p role f).2 := by
    intro p role f hf
    simp only [port]
    split
    · exact hn
    · split
      · exact .refl s
      · exact (quiet_wake s _).onFile.trans (hf _)
  clear_value port none_
  split
  case h_5 =>
    apply hp
    intro t
    split
    · exact onFile_outbound ..
    · exact onFile_aerErr ..
  case h_6 => exact hp _ _ _ fun t => onFile_cfgAccess ..
  case h_7 => exact hp _ _ _ fun t => onFile_hostAccess ..
  all_goals exact hn

theorem onFile_windowMask (s : State) (src : Stop) (cmd block : Nat) (mask : BitVec 64) (data : Line) :
    OnFile s (s.windowMask src cmd block mask data).2 := by
  unfold State.windowMask
  extract_lets own runs
  refine List.foldlRecOn (motive := fun r : DevEnd × State => OnFile s r.2) _ _ (.refl s) fun r h q _ => ?_
  split
  · exact h
  · exact h.trans (onFile_windowAccess ..)

/-! ### A core's stores -/

theorem quiet_clearErr (s : State) (c line st flits : Nat) : Quiet s (s.clearErr c line st flits) := by
  unfold State.clearErr
  split
  · exact .of_same rfl rfl
  · exact quiet_statErr ..

theorem onFile_storeFailed (s : State) (c : Nat) (e : MbEntry) (st : Nat) : OnFile s (s.storeFailed c e st) :=
  (onFile_logErr ..).trans (OnFile.logged (onFile_intArrive ..))

theorem quiet_grantData (s : State) (c : Nat) : Quiet s (s.grantData c) := by
  unfold State.grantData
  extract_lets s1
  have h1 : Quiet s s1 := .ite ((quiet_onUcore s c _).trans (quiet_onUcore _ c _)) (.refl s)
  exact h1.trans (quiet_onUcore _ c _)

theorem quiet_fillL1 (s : State) (c line : Nat) (instr : Bool) : Quiet s (s.fillL1 c line instr) :=
  .ite ((quiet_withCs s _).trans (quiet_grantData ..)) (quiet_withCs s _)

theorem quiet_getUnique (s : State) (c line key : Nat) : Quiet s (s.getUnique c line key) :=
  .ite (.refl s) ((quiet_withCs s _).trans (quiet_statOf ..))

theorem quiet_ownLine (s : State) (c line key : Nat) (past : Bool) : Quiet s (s.ownLine c line key past) := by
  unfold State.ownLine
  extract_lets note in1 s1 s2 s3
  have hnote : ∀ t ev, Quiet t (note t ev) := fun t ev => .ite (quiet_onUcore ..) (quiet_onUcore ..)
  have h1 : Quiet s s1 := .ite (.refl s) (hnote ..)
  have h2 : Quiet s1 s2 := .ite (.refl _) (quiet_grantData ..)
  have h3 : Quiet s2 s3 := .ite (.refl _) (hnote ..)
  exact (((h1.trans h2).trans h3).trans (quiet_getUnique ..)).trans (quiet_fillL1 ..)

theorem quiet_storeLine (s : State) (c line key : Nat) (mask : BitVec 64) (data : Line) :
    Quiet s (s.storeLine c line key mask data) := .of_same rfl rfl

theorem onFile_performStore (s : State) (c : Nat) (e : MbEntry) : OnFile s (s.performStore c e) := by
  unfold State.performStore
  split
  · exact (quiet_clearErr ..).onFile.trans (onFile_storeFailed ..)
  · extract_lets s1
    have h1 : Quiet s s1 := quiet_wakePath ..
    split
    · have h2 : Quiet s1 (if s1.hasLine c e.line then s1 else s1.cutIn e.line) := .ite (.refl _) (quiet_cutIn ..)
      exact (((h1.trans h2).trans (quiet_ownLine ..)).trans (quiet_storeLine ..)).onFile
    · exact ((h1.trans (quiet_statOf ..)).trans (quiet_writeHome ..)).onFile

theorem onFile_gathSend (s : State) (c : Nat) (g : Gathered) : OnFile s (s.gathSend c g).2 := by
  unfold State.gathSend
  split
  · split
    · exact (quiet_clearErr ..).onFile
    · exact (((quiet_wakePath ..).trans (quiet_statOf ..)).trans (quiet_writeHome ..)).onFile
  · exact onFile_windowMask ..

theorem onFile_flushGath (s : State) (c : Nat) : OnFile s (s.flushGath c) := by
  unfold State.flushGath
  split
  · exact .refl s
  · next g _ =>
    extract_lets s1
    have h2 : OnFile s (s1.gathSend c g).2 := (quiet_onUcore ..).onFile.trans (onFile_gathSend ..)
    split
    · next e => rw [e] at h2; exact h2
    · next e => rw [e] at h2; exact h2.trans (onFile_storeFailed ..)

/-! ### Pages that change hands (R281, R285, R288) -/

theorem onFile_drainIn (s : State) (a b c : Nat) : OnFile s (s.drainIn a b c) := by
  unfold State.drainIn
  extract_lets es hit s1
  have h1 : OnFile s s1 := (quiet_onUcore ..).onFile.trans (.foldl (fun t e => onFile_performStore t c e) _ _)
  exact .ite (h1.trans (onFile_flushGath ..)) h1

theorem onFile_ownInv (s : State) (a b : Nat) : OnFile s (s.ownInv a b) := by
  unfold State.ownInv
  extract_lets e s1
  have h1 : OnFile s s1 := ⟨rfl, rfl, rfl⟩
  exact h1.trans (.foldl (fun t p => .ite ((onFile_drainIn ..).trans (quiet_onUcore ..).onFile) (.refl t)) _ _)

theorem quiet_discardKey (s : State) (key : Nat) : Quiet s (s.discardKey key) :=
  (Quiet.foldl (fun t l => quiet_invLine t l) _ s).trans (.of_same rfl rfl)

/-- A page filled with zeros. -/
theorem quiet_fillPage (s : State) (dst key : Nat) : Quiet s (s.fillPage dst key none) := by
  refine .foldl (fun t i => ?_) _ s
  dsimp only
  split
  · next h => exact quiet_agentWriteLine h
  · exact .refl t

theorem quiet_ctxLocket (s : State) (p rid l : Nat) : Quiet s (s.ctxLocket p rid l) := by
  unfold State.ctxLocket
  extract_lets r pa key
  split
  · exact .refl s
  · next h =>
    split
    · next hw => exact (quiet_agentNat h).trans (quiet_agentWrite hw)
    · exact quiet_agentNat h

theorem quiet_chanAssign (s : State) (ch vmid l : Nat) : Quiet s (s.chanAssign ch vmid l) := .of_same rfl rfl

theorem quiet_freeChans (s : State) (l : Nat) : Quiet s (s.freeChans l) :=
  .foldl (fun t _ => .ite (quiet_chanAssign ..) (.refl t)) _ s

end Sys2Proof.Proofs
end

section
/-! PROOFS. The locket services (R285-R288): a service returned to its caller, the lockets it works on, the scrub that ends
a locket and the report that counts (R293). -/

namespace Sys2Proof.Proofs
open Sys2Proof.Machine Sys2Proof.Laws

/-! ### Results in registers -/

/-- Results in successive registers, from number `n` on. -/
def putFrom (g : Map (BitVec 5) DWord) (res : List DWord) (n : Nat) : Map (BitVec 5) DWord :=
  (res.zipIdx n).foldl (fun g p => g.set (BitVec.ofNat 5 p.2) p.1) g

theorem putFrom_cons (g : Map (BitVec 5) DWord) (x : DWord) (res : List DWord) (n : Nat) :
    putFrom g (x :: res) n = putFrom (g.set (BitVec.ofNat 5 n) x) res (n + 1) := rfl

theorem putFrom_other {g : Map (BitVec 5) DWord} {res : List DWord} {n : Nat} {r : BitVec 5} (hn : n + res.length ≤ 32)
    (hr : r.toNat < n ∨ n + res.length ≤ r.toNat) : (putFrom g res n).getD r 0 = g.getD r 0 := by
  induction res generalizing g n with
  | nil => rfl
  | cons x res ih =>
    rw [List.length_cons] at hn hr
    have hne : r ≠ BitVec.ofNat 5 n := by
      rintro rfl
      rw [BitVec.toNat_ofNat, Nat.mod_eq_of_lt (by omega)] at hr
      omega
    rw [putFrom_cons, ih (by omega) (by omega), getD_set_other _ _ _ hne]

theorem putFrom_result {g : Map (BitVec 5) DWord} {res : List DWord} {n i : Nat} (hn : n + res.length ≤ 32) (hi : i < res.length) :
    (putFrom g res n).getD (BitVec.ofNat 5 (i + n)) 0 = res.getD i 0 := by
  induction res generalizing g n i with
  | nil => cases hi
  | cons x res ih =>
    rw [List.length_cons] at hn hi
    rw [putFrom_cons]
    cases i with
    | zero =>
      rw [putFrom_other (by omega) (Or.inl ?_), Nat.zero_add, getD_set_same]
      · rfl
      · rw [BitVec.toNat_ofNat, Nat.mod_eq_of_lt (by omega)]
        omega
    | succ i =>
      rw [show i + 1 + n = i + (n + 1) by omega, ih (by omega) (by omega)]
      rfl

/-! ### A service and its return -/

theorem loopExit_core (s : State) (c d : Nat) : (s.loopExit c).core d = s.core d := rfl

/-- What a call is answered with: a service that is performed where the services stand and the isolation mode has them. -/
theorem serve_returns {c code : Nat} {w : WorldRet} {s s1 : State} {f : WorldRet → State → SvcEnd × State} {st : DWord}
    {res : List DWord} (hcall : s.svcCall c code = some w)
    (hend : (if !s.avail then (⟨neg 16, []⟩, s) else if s.iso = .hv then (⟨neg 2, []⟩, s) else f w s) = (⟨st, res⟩, s1))
    (hlen : res.length ≤ 30) : ReturnsTo c w st res s1 (.next (s.serve c code f)) := by
  have hrun : s.serve c code f = (s1.onCore c fun k => k.back w (putFrom (w.g.set 1 st) res 2)).loopExit c := by
    rw [State.serve, hcall]
    dsimp only
    rw [hend]
    rfl
  have hcore : (s.serve c code f).core c = (s1.core c).back w (putFrom (w.g.set 1 st) res 2) := by
    rw [hrun, loopExit_core, core_onCore, if_pos rfl]
  have hrg : ∀ r : BitVec 5, r ≠ 0 → ((s.serve c code f).core c).rg r = (putFrom (w.g.set 1 st) res 2).getD r 0 := by
    intro r hr
    rw [hcore, Core.rg, if_neg hr]
    rfl
  refine ⟨_, rfl, ?_⟩
  dsimp only
  refine ⟨by rw [hcore]; rfl, by rw [hcore]; rfl, by rw [hcore]; rfl, by rw [hcore]; rfl, by rw [hcore]; rfl, by rw [hcore]; rfl,
    by rw [hcore]; rfl, ?_, ?_, ?_, by rw [hcore]; rfl, ?_, ?_⟩
  · rw [hrg 1 (by decide), putFrom_other (by omega) (Or.inl (by decide)), getD_set_same]
  · intro i hi
    have hne : BitVec.ofNat 5 (i + 2) ≠ 0 := fun h => by have := ofNat5_inj (j := 0) (by omega) (by decide) h; omega
    rw [hrg _ hne, putFrom_result (by omega) hi]
  · intro r hr
    have hne : r ≠ 0 := by rintro rfl; simp at hr
    have h1 : r ≠ 1 := by rintro rfl; simp at hr
    rw [hrg r hne, putFrom_other (by omega) (Or.inr (by omega)), getD_set_other _ _ _ h1]
  · intro d hd
    rw [hrun, loopExit_core, core_onCore, if_neg hd]
  · rw [hrun]
    rfl

/-- A call that is served answers what its service does. -/
theorem serves_returns {c code : Nat} {w : WorldRet} {s s1 : State} {f : WorldRet → State → SvcEnd × State} {st : DWord}
    {res : List DWord} (h : Serves c code w s) (hend : f w s = (⟨st, res⟩, s1)) (hlen : res.length ≤ 30) :
    ReturnsTo c w st res s1 (.next (s.serve c code f)) := by
  obtain ⟨hcall, havail, hiso⟩ := h
  exact serve_returns hcall (by simpa [havail, hiso] using hend) hlen

/-- A locket of the caller, as a call names it in g2. -/
def Named (c : Nat) (w : WorldRet) (s : State) (l : Locket) : Prop :=
  0 < arg w 2 ∧ arg w 2 < 4096 ∧ s.sec.lockets.find (arg w 2) = some l ∧ l.vmid = s.callerVmid c w

theorem onLocket_named {c : Nat} {w : WorldRet} {s : State} {l : Locket} {sts : List Nat} {f : Nat → Locket → State → SvcEnd × State}
    (h : Named c w s l) (hst : l.st ∈ sts) : s.onLocket c w sts f = f (arg w 2) l s := by
  obtain ⟨h0, h4096, hfind, hvmid⟩ := h
  rw [State.onLocket]
  simp [show arg w 2 ≠ 0 by omega, show ¬ 4096 ≤ arg w 2 by omega, hfind, hvmid, hst]

/-! ### LK_CREATE -/

/-- The first number of a range that passes a test. -/
theorem firstOf_range {f : Nat → Bool} {n i : Nat} (hi : i < n) (hf : f i = true) (hmin : ∀ j, j < i → f j = false) :
    firstOf f (List.range n) = some i :=
  List.find?_range_eq_some.2 ⟨hf, List.mem_range.2 hi, fun j hj => by simp [hmin j hj]⟩

/-- A key ID above those of the normal world that no locket has. -/
def FreeKey (s : State) (k : Nat) : Prop := s.fld .keypart F.keypart.NWMAX < k ∧ ∀ p ∈ s.sec.lockets, p.2.key ≠ k

theorem svcCreate_first {c i k : Nat} {w : WorldRet} {s : State} (hlvl : w.lvl ≠ 2)
    (hid : 0 < i ∧ i < 4096 ∧ s.sec.lockets.find i = none ∧ ∀ j, 0 < j → j < i → s.sec.lockets.find j ≠ none)
    (hkey : FreeKey s k ∧ k < s.fld .keypart F.keypart.TWBASE ∧ ∀ j, j < k → ¬FreeKey s j) :
    svcCreate c w s = (⟨0, [dw i]⟩, (s.freshKey k).setLocket i
      { st := 1, vmid := s.callerVmid c w, key := k, ranges := [], slots := [],
        meas := extend 0 (1 :: leBytes 2 (s.callerVmid c w)), devs := [], caller := none }) := by
  obtain ⟨h0, h4096, hnone, hbefore⟩ := hid
  obtain ⟨hfree, hbase, hlower⟩ := hkey
  have htest : ∀ j, (decide (s.fld .keypart F.keypart.NWMAX < j) && !(s.sec.lockets.any fun p => p.2.key == j)) = true ↔
      FreeKey s j := fun j => by simp [FreeKey]
  rw [svcCreate, firstOf_range h4096 (by simp [hnone]; omega) fun j hj => ?_,
    firstOf_range hbase ((htest k).2 hfree) fun j hj => Bool.eq_false_iff.2 fun h => hlower j hj ((htest j).1 h)]
  · exact if_neg hlvl
  · rcases Nat.eq_zero_or_pos j with rfl | hpos
    · rfl
    · simp [Option.isSome_iff_ne_none, hbefore j hpos hj]

/-! ### The other services -/

section Named
variable {c : Nat} {w : WorldRet} {s : State} {l : Locket}

theorem svcAddRange_zeroed {p : Nat} {ks : List Nat} {s1 : State} (h : Named c w s l) (hst : l.st = 1) (hsrc : arg w 7 = 0)
    (hargs : addArgsOk (arg w 3) (arg w 4) (arg w 5) (arg w 6) 0 = true)
    (hrange : s.callerRange c w (arg w 3) (arg w 5) = (some (p, ks), s1)) {r : LkRange}
    (hr : r = { pbase := p, vbase := arg w 4, pages := arg w 5, r := (arg w 6).testBit 0, w := (arg w 6).testBit 1,
                x := (arg w 6).testBit 2, thread := (arg w 6).testBit 3 })
    (hlen : l.ranges.length < 64) (hslots : r.thread = true → l.slots.length + r.pages ≤ 256)
    (hfree : s1.freeNormal (p / 4096) (p / 4096 + r.pages) = true)
    (hover : ∀ q ∈ l.ranges, overlaps r.vbase (r.vbase + 4096 * r.pages) q.vbase (q.vbase + 4096 * q.pages) = false) :
    svcAddRange c w s = (⟨0, []⟩, s1.addRange (arg w 2) l r (arg w 6) none) := by
  have hadd : s1.addChecked (arg w 2) l r (arg w 6) none = (⟨0, []⟩, s1.addRange (arg w 2) l r (arg w 6) none) := by
    have hp : r.pbase = p := by rw [hr]
    have hfew : ¬(64 ≤ l.ranges.length ∨ (r.thread ∧ 256 < l.slots.length + r.pages)) := by
      rintro (hmany | ⟨hthread, hmany⟩)
      · omega
      · have := hslots hthread
        omega
    have hclear : ¬(!s1.freeNormal (p / 4096) (p / 4096 + r.pages) ∨ (l.ranges.any fun q =>
        overlaps r.vbase (r.vbase + 4096 * r.pages) q.vbase (q.vbase + 4096 * q.pages))) := by
      simpa [hfree] using hover
    rw [State.addChecked, hp]
    simp only [Bool.not_true, Bool.false_eq_true, if_false, if_neg hfew, if_neg hclear]
  rw [svcAddRange, onLocket_named h (by simp [hst])]
  simp only [hsrc, hargs, hrange, Bool.not_true, Bool.false_eq_true, if_false, if_true, ← hr]
  exact hadd

theorem svcInit_named (h : Named c w s l) (hst : l.st = 1) : svcInit c w s =
    (⟨0, []⟩, s.setLocket (arg w 2) { l with st := 2, meas := extend l.meas (3 :: leBytes 2 l.slots.length) }) := by
  rw [svcInit, onLocket_named h (by simp [hst])]

theorem svcDestroy_named (h : Named c w s l) (hst : l.st = 1 ∨ l.st = 2) : svcDestroy c w s =
    (⟨if s.threadsRunning l = 0 then 0 else neg 4, []⟩,
      if s.threadsRunning l = 0 then s.setLocket (arg w 2) { l with st := 3, caller := some (c, w.lvl, false) } else s) := by
  rw [svcDestroy, onLocket_named h (by simpa using hst)]
  by_cases hrun : s.threadsRunning l = 0
  · rw [if_neg (not_not.2 hrun), if_pos hrun, if_pos hrun]
  · rw [if_pos hrun, if_neg hrun, if_neg hrun]

theorem svcStatus_named (h : Named c w s l) (h1 : 1 ≤ l.st) (h3 : l.st ≤ 3) : svcStatus c w s =
    (⟨0, [dw l.st, dw (l.ranges.foldl (fun n r => n + r.pages) 0), dw (s.threadsRunning l)]⟩, s) := by
  have hst : l.st ∈ [1, 2, 3] := by simp; omega
  obtain ⟨-, -, hfind, -⟩ := id h
  rw [svcStatus, if_neg (by simp [hfind]), onLocket_named h hst]

theorem svcAssign_channel (h : Named c w s l) (hst : l.st = 1 ∨ l.st = 2) (hkind : arg w 3 = 0) (hch : arg w 4 < 64) :
    svcAssign c w s = (⟨0, []⟩, s.chanAssign (arg w 4) l.vmid (arg w 2)) := by
  rw [svcAssign, onLocket_named h (by simpa using hst)]
  simp only [hkind, if_true, if_neg (Nat.not_le.2 hch)]

end Named

/-! ### The scrub (R288) -/

/-- A locket scrubbed: its lines discarded, its pages filled and given up, its channels and devices without an owner. -/
def scrubbed (s : State) (l : Nat) (k : Locket) : State :=
  let filled := k.ranges.foldl (fun s r => (List.range r.pages).foldl (fun s i => s.fillPage (r.pbase + 4096 * i) 0 none) s)
    (s.discardKey k.key)
  let free := k.ranges.foldl (fun s r => s.ownInv (r.pbase / 4096) (r.pbase / 4096 + r.pages - 1)) filled
  let gone := free.onSec fun e => { e with lockets := e.lockets.erase l }
  k.devs.foldl (fun s d => s.ctxLocket d.1 d.2 0) (gone.freeChans l)

theorem scrubDone_ending {s : State} {l : Nat} {k : Locket} (hfind : s.sec.lockets.find l = some k) (hst : k.st = 3) :
    s.scrubDone l = match k.caller with
      | some (d, lvl, world) => (scrubbed s l k).sendInt secStop d world 5 8 lvl
      | none => scrubbed s l k := by
  rw [State.scrubDone, hfind]
  dsimp only
  rw [if_neg (not_not.2 hst)]
  rfl

theorem scrubbed_lockets (s : State) (l : Nat) (k : Locket) : (scrubbed s l k).sec.lockets = s.sec.lockets.erase l := by
  unfold scrubbed
  extract_lets filled free gone
  have hfilled : OnFile s filled :=
    (quiet_discardKey ..).onFile.trans (.foldl (fun t r => .foldl (fun t i => (quiet_fillPage ..).onFile) _ t) _ _)
  have hfree : OnFile s free := hfilled.trans (.foldl (fun t r => onFile_ownInv ..) _ _)
  have hend : OnFile gone (k.devs.foldl (fun s d => s.ctxLocket d.1 d.2 0) (gone.freeChans l)) :=
    (quiet_freeChans ..).onFile.trans (.foldl (fun t d => (quiet_ctxLocket ..).onFile) _ _)
  rw [hend.lockets]
  exact congrArg (Map.erase · l) hfree.lockets

/-! ### A report that is finished (R293) -/

theorem quiet_secWriteVa (s : State) (l : Locket) (va : Nat) (bs : List Byte) : Quiet s (s.secWriteVa l va bs) := by
  unfold State.secWriteVa
  split
  · exact .refl s
  · split
    · next h => exact quiet_agentWrite h
    · exact .refl s

/-- A report taken off the queue. -/
def reportTaken (s : State) (l slot : Nat) : State :=
  s.onSec fun e => { e with reports := e.reports.filter fun q => !(q.locket == l && q.slot == slot) }

theorem reportDone_counts {s : State} {l slot : Nat} {q : Report} {k : Locket} (hq : q ∈ s.sec.reports) (hl : q.locket = l)
    (hslot : q.slot = slot) (hfind : s.sec.lockets.find l = some k) :
    (s.reportDone l slot).sec.serial = s.sec.serial + 1 ∧
      (s.reportDone l slot).sec.reports = s.sec.reports.filter (fun q => !(q.locket == l && q.slot == slot)) ∧
      (s.reportDone l slot).cores = s.cores := by
  have hsome : (s.sec.reports.find? fun r => r.locket == l && r.slot == slot).isSome = true :=
    List.find?_isSome.2 ⟨q, hq, by simp [hl, hslot]⟩
  obtain ⟨r, hr⟩ := Option.isSome_iff_exists.1 hsome
  have hfind' : (reportTaken s l slot).sec.lockets.find l = some k := hfind
  have hwritten : ∃ t, Quiet (reportTaken s l slot) t ∧ s.reportDone l slot = t.onSec fun e => { e with serial := e.serial + 1 } := by
    rw [State.reportDone, hr]
    dsimp only
    rw [show (s.onSec _).sec.lockets.find l = some k from hfind']
    exact ⟨_, ((quiet_secWriteVa ..).trans (quiet_secWriteVa ..)).trans (quiet_secWriteVa ..), rfl⟩
  obtain ⟨t, ht, hrun⟩ := hwritten
  rw [hrun]
  exact ⟨congrArg (· + 1) ht.serial, ht.reports, ht.cores⟩

/-! ### The statement -/

/-- Settles O50: a service is what its call returns (`serves_returns`), the scrub and the report's writes keep what the SEC
has on file (`scrubbed_lockets`, `reportDone_counts`). -/
theorem locketServices : Obligations.LocketServices := by
  unfold Obligations.LocketServices
  intro core w s
  dsimp only
  refine ⟨?create, ?addRange, ?init, ?destroy, ?status, ?assign, ?unavailable, ?scrub, ?report⟩
  case create => exact fun i k hs hlvl hid hkey => serves_returns hs (svcCreate_first hlvl hid hkey) (by simp)
  case addRange =>
    intro l p ks s1 hs hmine hst hsrc hargs hrange hlen hslots hfree hover
    exact serves_returns hs (svcAddRange_zeroed hmine hst hsrc hargs hrange rfl hlen hslots hfree hover) (by simp)
  case init => exact fun l hs hmine hst => serves_returns hs (svcInit_named hmine hst) (by simp)
  case destroy => exact fun l hs hmine hst => serves_returns hs (svcDestroy_named hmine hst) (by simp)
  case status => exact fun l hs hmine h1 h3 => serves_returns hs (svcStatus_named hmine h1 h3) (by simp)
  case assign => exact fun l hs hmine hst hkind hch => serves_returns hs (svcAssign_channel hmine hst hkind hch) (by simp)
  case unavailable => exact fun hcall havail => serve_returns hcall (if_pos (by simp [havail])) (by simp)
  case scrub =>
    intro l k hfind hst
    have hlockets := scrubbed_lockets s l.toNat k
    refine ⟨scrubbed s l.toNat k, by rw [hlockets, find_erase_same], fun j hj => by rw [hlockets, find_erase_other _ hj], ?_⟩
    exact congrArg Host.Outcome.next (scrubDone_ending hfind hst)
  case report =>
    intro l slot q k hq hl hslot hfind
    obtain ⟨hserial, hreports, hcores⟩ := reportDone_counts hq hl hslot hfind
    refine ⟨_, rfl, hserial, fun p hp hsame => ?_, hcores⟩
    rw [hreports] at hp
    simp [hsame] at hp

end Sys2Proof.Proofs
end

section
/-! PROOFS. SYSWR of SYS.VCPU (R314, R316). -/

namespace Sys2Proof.Proofs
open Sys2Proof.Machine Sys2Proof.Laws

/-- EN of a value of SYS.VCPU. -/
def vcpuEn (w : DWord) : Bool := getF w G.vcpu.EN == 1

/-- A write of SYS.VCPU names another record. -/
def vcpuMoved (old new : DWord) : Bool := getF new G.vcpu.ADDR != getF old G.vcpu.ADDR

/-- A write of SYS.VCPU leaves the old record (R316), and takes up the new one (R314). -/
def vcpuLeaves (old new : DWord) : Bool := vcpuEn old && (!vcpuEn new || vcpuMoved old new)
def vcpuTakes (old new : DWord) : Bool := vcpuEn new && (!vcpuEn old || vcpuMoved old new)

/-- The chip with the register written. -/
def vcpuPut (s : State) (c : Nat) (w : DWord) : State := s.onCore c fun k => k.ws Sys.vcpu false w

/-- The chip after a write of SYS.VCPU whose records the ownership check lets through. -/
def vcpuWritten (s : State) (c : Nat) (old new : DWord) : State :=
  let t := vcpuPut (if vcpuLeaves old new then s.vcpuBack c else s) c new
  if vcpuTakes old new then t.vcpuLoad c else t

section Write
variable {s : State} {c : Nat} {v old new : DWord}

/-- R99: SYSWR of SYS.VCPU is permitted at L2 or above, unless the isolation mode is LK. -/
theorem sysCheck_vcpu (w : Word) (hiso : s.iso ≠ .lk) (hlvl : 2 ≤ (s.core c).lvl) :
    sysCheck c Sys.vcpu true w s = (.ok (), s) := by
  have hnamed : Sys.named Sys.vcpu = true := by decide
  have hlevel : Sys.levelOf Sys.vcpu = 2 := rfl
  have hallowed : s.sysAllowed c Sys.vcpu true = true := by simp [State.sysAllowed, hlevel, hlvl, Sys.vcpu]
  have htrapped : s.sysTrapped c Sys.vcpu true = false := by simp [State.sysTrapped, Sys.vcpu]
  simp [sysCheck, Act.with, Act.bind, Act.check, Act.pure, hnamed, hiso, hallowed, htrapped]

theorem vcpuWrite_written (hold : old = (s.core c).rs Sys.vcpu false)
    (hnew : new = writeFields ((Sys.fields Sys.vcpu).getD []) (s.core c).world (BitVec.allOnes 64) old v)
    (hdold : s.vcpuDenied old = false) (hdnew : s.vcpuDenied new = false) :
    vcpuWrite c v s = (.ok (), vcpuWritten s c old new) := by
  subst hold
  simp only [vcpuWrite, Act.with, ← hnew, hdold, hdnew, Bool.and_false]
  rfl

theorem syswrBody_vcpu {rs1 : BitVec 5} (hiso : s.iso ≠ .lk) (hlvl : 2 ≤ (s.core c).lvl)
    (hold : old = (s.core c).rs Sys.vcpu false)
    (hnew : new = writeFields ((Sys.fields Sys.vcpu).getD []) (s.core c).world (BitVec.allOnes 64) old ((s.core c).rg rs1))
    (hdold : s.vcpuDenied old = false) (hdnew : s.vcpuDenied new = false) :
    syswrBody Sys.vcpu rs1 c s =
      (.ok { pc := ((vcpuWritten s c old new).core c).pc + 4 }, vcpuWritten s c old new) := by
  simp only [syswrBody, Act.bind, sysCheck_vcpu _ hiso hlvl, Act.with, if_true, vcpuWrite_written hold hnew hdold hdnew]
  rfl

/-! ### What a write does, by EN before and after -/

theorem vcpuWritten_stays_off (ho : vcpuEn old = false) (hn : vcpuEn new = false) :
    vcpuWritten s c old new = vcpuPut s c new := by simp [vcpuWritten, vcpuLeaves, vcpuTakes, ho, hn]

theorem vcpuWritten_stays_on (ho : vcpuEn old = true) (hn : vcpuEn new = true) (hm : vcpuMoved old new = false) :
    vcpuWritten s c old new = vcpuPut s c new := by simp [vcpuWritten, vcpuLeaves, vcpuTakes, ho, hn, hm]

theorem vcpuWritten_enables (ho : vcpuEn old = false) (hn : vcpuEn new = true) :
    vcpuWritten s c old new = (vcpuPut s c new).vcpuLoad c := by simp [vcpuWritten, vcpuLeaves, vcpuTakes, ho, hn]

theorem vcpuWritten_disables (ho : vcpuEn old = true) (hn : vcpuEn new = false) :
    vcpuWritten s c old new = vcpuPut (s.vcpuBack c) c new := by simp [vcpuWritten, vcpuLeaves, vcpuTakes, ho, hn]

theorem vcpuWritten_moves (ho : vcpuEn old = true) (hn : vcpuEn new = true) (hm : vcpuMoved old new = true) :
    vcpuWritten s c old new = (vcpuPut (s.vcpuBack c) c new).vcpuLoad c := by
  simp [vcpuWritten, vcpuLeaves, vcpuTakes, ho, hn, hm]

end Write

theorem vcpuEn_iff (w : DWord) : vcpuEn w = true ↔ getF w G.vcpu.EN = 1 := beq_iff_eq
theorem vcpuEn_off (w : DWord) : vcpuEn w = false ↔ ¬ getF w G.vcpu.EN = 1 := beq_eq_false_iff_ne

/-- The three rows are one SYSWR. -/
theorem exec_vcpuRow {x : Issue} {rs1 : BitVec 5} {s : State} {i : Instr}
    (hi : i = .vcpuEnable x rs1 ∨ i = .vcpuWriteback x rs1 ∨ i = .syswr x 0x8034 rs1) :
    exec i s = .next (s.syswr x Sys.vcpu rs1) := by
  rcases hi with rfl | rfl | rfl <;> rfl

/-- Settles O29: the write is permitted (`sysCheck_vcpu`), and what it leaves is `vcpuWritten`, by EN and ADDR before and
after it. -/
theorem vcpuWrites : Obligations.VcpuWrites := by
  unfold Obligations.VcpuWrites
  intro x rs1 s s1 h k old new on put A hiso hlvl hdold hdnew i hi
  have hruns : A (vcpuWritten s1 x.c old new) i := by
    dsimp only [A]
    rw [exec_vcpuRow hi]
    exact run_writesNone (sh := { ser := true }) h (syswrBody_vcpu hiso hlvl rfl rfl hdold hdnew)
  refine ⟨fun ho hn => ?_, fun ho hn hsame => ?_, fun ho hn => ?_, fun ho hn => ?_, fun ho hn hmoved => ?_⟩
  · rwa [vcpuWritten_stays_off ((vcpuEn_off old).2 ho) ((vcpuEn_off new).2 hn)] at hruns
  · rwa [vcpuWritten_stays_on ((vcpuEn_iff old).2 ho) ((vcpuEn_iff new).2 hn) (by simp [vcpuMoved, hsame])] at hruns
  · rwa [vcpuWritten_enables ((vcpuEn_off old).2 ho) ((vcpuEn_iff new).2 hn)] at hruns
  · rwa [vcpuWritten_disables ((vcpuEn_iff old).2 ho) ((vcpuEn_off new).2 hn)] at hruns
  · rwa [vcpuWritten_moves ((vcpuEn_iff old).2 ho) ((vcpuEn_iff new).2 hn) (by simpa [vcpuMoved] using Ne.symm hmoved)] at hruns

end Sys2Proof.Proofs
end

section
/-! PROOFS. WFI and WFQ (R306, R335). -/

namespace Sys2Proof.Proofs
open Sys2Proof.Machine Sys2Proof.Laws

/-! ### The commit of a core that does not count -/

/-- The end of an instruction changes nothing of a core that does not count. -/
theorem pmEnd_uncounted_core {s : State} {c : Nat} {u : Under} (hu : u.core.counts = false)
    (hseen : Uncounted (s.ucore c).seen) (evs : List (Nat × Nat)) (done : Bool) : (s.pmEnd c u evs done).core c = s.core c := by
  rw [pmEnd_uncounted hu hseen, core_onUcore]
  rfl

/-- The loop buffer after an instruction, and the exit from a loop that it meets (R113). -/
def loopStepped (u : Under) (sh : Shape) (line : Option Nat) (d : Done) (q : UCore) : UCore :=
  let l := q.loop.step sh u.core.pc line d.flow u.core.loopOff
  { q with loop := l, seen := if q.loop.run.isSome && l.run.isNone then q.seen ++ [u.core.met 0x21 false] else q.seen }

theorem loopStepped_uncounted {u : Under} {q : UCore} (hu : u.core.counts = false) (hseen : Uncounted q.seen) (sh : Shape)
    (line : Option Nat) (d : Done) : Uncounted (loopStepped u sh line d q).seen := by
  have hmet : Uncounted [u.core.met 0x21 false] := fun e he => by rw [List.mem_singleton.1 he]; exact hu
  dsimp only [loopStepped]
  split
  · exact uncounted_append hseen hmet
  · exact hseen

/-- The commit of a core whose counters do not count sets pc and moves the loop buffer. -/
theorem commit_uncounted {s : State} {c : Nat} {u : Under} (hu : u.core.counts = false) (hseen : Uncounted (s.ucore c).seen)
    (sh : Shape) (line : Option Nat) (d : Done) : (s.commit c u sh line d).core c = { s.core c with pc := d.pc } := by
  have hmoved : s.commit c u sh line d =
      ((s.onCore c fun q => { q with pc := d.pc }).onUcore c (loopStepped u sh line d)).pmEnd c u
        ((0x02, 1) :: (0x04, sh.uops) :: d.evs) true := rfl
  rw [hmoved, pmEnd_uncounted_core hu, core_onUcore, core_onCore, if_pos rfl]
  rw [ucore_onUcore, if_pos rfl]
  exact loopStepped_uncounted hu hseen sh line d

/-- An instruction whose checks pass and whose body goes on commits with what was known before it. -/
theorem run_commits {s s0 s1 s2 : State} {x : Issue} {sh : Shape} {body : Nat → Act Done} {d : Done}
    (hpass : (s.opened x).checked x.c x.checks = (none, s0)) (h : Begins s x s1) (hb : body x.c s1 = (.ok d, s2)) :
    ∃ line, s.run x sh body = s2.commit x.c ((s.opened x).under s0 x sh) sh line d := by
  obtain ⟨hrun, s0', line, hpass', hfetch⟩ := h
  rw [hpass] at hpass'
  obtain ⟨-, rfl⟩ := Prod.mk.inj hpass'
  refine ⟨line, ?_⟩
  simp only [State.run, Issue.c] at *
  simp [hrun, hpass, attempt, Act.bind, hfetch, hb, Act.pure]

/-- What a core that does not count has after an instruction that goes on: what the instruction's work left, at the next pc. -/
theorem run_uncounted {s s0 s1 s2 : State} {x : Issue} {sh : Shape} {body : Nat → Act Done} {d : Done}
    (hpass : (s.opened x).checked x.c x.checks = (none, s0)) (hcounts : (s0.core x.c).counts = false) (h : Begins s x s1)
    (hb : body x.c s1 = (.ok d, s2)) (hseen : Uncounted (s2.ucore x.c).seen) :
    (s.run x sh body).core x.c = { s2.core x.c with pc := d.pc } ∧ KeptChip x.c s2 (s.run x sh body) := by
  obtain ⟨line, hcommit⟩ := run_commits (sh := sh) hpass h hb
  have hu : ((s.opened x).under s0 x sh).core.counts = false := hcounts
  obtain ⟨hchip, -⟩ := commit_spec s2 x.c ((s.opened x).under s0 x sh) sh line d
  rw [hcommit]
  exact ⟨commit_uncounted hu hseen sh line d, hchip⟩

/-! ### Waits -/

section Wait
variable {s : State} {c : Nat}

theorem wakeable_false_iff : s.wakeable c = false ↔ s.anyDeliverable c = false ∧ (s.core c).virtOffered false = none := by
  simp [State.wakeable]

theorem wakeable_true_iff :
    s.wakeable c = true ↔ ¬(s.anyDeliverable c = false ∧ (s.core c).virtOffered false = none) := by
  rw [← wakeable_false_iff, Bool.not_eq_false]

/-- WFI at L1 or above, where HTRAP does not trap it: it waits unless an interrupt would end the wait (R306). -/
theorem wfiBody_waits (hlvl : 1 ≤ (s.core c).lvl) (htrap : s.traps c G.htrap.TWFI = false) :
    wfiBody c s = (.ok { pc := (s.core c).pc + 4 },
      if s.wakeable c then s else s.onCore c fun k => { k with run := .wfi }) := by
  simp [wfiBody, Act.bind, atLeast_passes hlvl, Act.with, Act.check, Act.pure, htrap, finish]

/-- WFQ: it consumes the latch, or goes on where an interrupt would end the wait, or waits (R335). -/
theorem wfqBody_waits : wfqBody c s = (.ok { pc := (s.core c).pc + 4 },
    if (s.core c).latch then s.onCore c Core.unlatch
    else if s.wakeable c then s else s.onCore c fun k => { k with run := .wfq }) := rfl

end Wait

/-- Settles O37: the wait itself is `wfiBody_waits` or `wfqBody_waits`, and its commit sets pc alone (`run_uncounted`). -/
theorem waitResults : Obligations.WaitResults := by
  unfold Obligations.WaitResults
  intro x s s0 s1 hpass hcounts h hseen k A idle
  have hstays : ∀ {i : Instr} {sh : Shape} {body : Nat → Act Done}, exec i s = .next (s.run x sh body) →
      body x.c s1 = (.ok { pc := k.pc + 4 }, s1) → A i k := fun hexec hb =>
    ⟨_, hexec, run_uncounted hpass hcounts h hb hseen⟩
  have hchanges : ∀ {i : Instr} {sh : Shape} {body : Nat → Act Done} (f : Core → Core),
      exec i s = .next (s.run x sh body) → body x.c s1 = (.ok { pc := k.pc + 4 }, s1.onCore x.c f) → A i (f k) := by
    intro i sh body f hexec hb
    obtain ⟨hcore, hchip⟩ := run_uncounted (sh := sh) hpass hcounts h hb hseen
    rw [core_onCore, if_pos rfl] at hcore
    exact ⟨_, hexec, hcore, keptChip_trans (keptChip_onCore x.c s1 f) hchip⟩
  have hwfq := wfqBody_waits (s := s1) (c := x.c)
  have hlatch : (s1.core x.c).latch = if k.world then k.latchT else k.latchN := rfl
  refine ⟨fun hlvl htrap => ?wfi, fun hw hl => ?latchN, fun hw hl => ?latchT, fun hl => ?unlatched⟩
  case wfi =>
    have hwfi := wfiBody_waits hlvl htrap
    refine ⟨fun hidle => ?_, fun hbusy => ?_⟩
    · rw [wakeable_false_iff.2 hidle, if_neg Bool.false_ne_true] at hwfi
      exact hchanges (fun k => { k with run := .wfi }) rfl hwfi
    · rw [wakeable_true_iff.2 hbusy, if_pos rfl] at hwfi
      exact hstays rfl hwfi
  case latchN =>
    rw [hlatch, hw, if_neg Bool.false_ne_true, if_pos hl] at hwfq
    have hq : Core.unlatch k = { k with latchN := false } := by simp [Core.unlatch, hw]
    rw [← hq]
    exact hchanges Core.unlatch rfl hwfq
  case latchT =>
    rw [hlatch, hw, if_pos rfl, if_pos hl] at hwfq
    have hq : Core.unlatch k = { k with latchT := false } := by simp [Core.unlatch, hw]
    rw [← hq]
    exact hchanges Core.unlatch rfl hwfq
  case unlatched =>
    rw [hlatch, hl, if_neg Bool.false_ne_true] at hwfq
    refine ⟨fun hidle => ?_, fun hbusy => ?_⟩
    · rw [wakeable_false_iff.2 hidle, if_neg Bool.false_ne_true] at hwfq
      exact hchanges (fun k => { k with run := .wfq }) rfl hwfq
    · rw [wakeable_true_iff.2 hbusy, if_pos rfl] at hwfq
      exact hstays rfl hwfq

end Sys2Proof.Proofs
end

section
/-! PROOFS. Interrupt sources (R303, R307-R313), gather counters (R319, R320), and what configures, breaks and feeds a
hardware queue (R322-R325, R329, R332, R336). -/

namespace Sys2Proof.Proofs
open Sys2Proof.Machine Sys2Proof.Laws

/-- A flag that is not set. -/
theorem getF_ne_one_of_flag {s : State} {r : Reg} {p : Place} (h : s.flag r p = false) : getF (s.reg r) p ≠ 1 := by
  simpa [State.flag, State.fld] using h

theorem getF_of_flag {s : State} {r : Reg} {p : Place} (h : s.flag r p = true) : getF (s.reg r) p = 1 := by
  simpa [State.flag, State.fld] using h

/-! ### Message interrupts (R307) -/

section Message
variable {s : State}

/-- A message comes in where no root port on its way is clasped (R373, R380). -/
theorem msiVia_unclasped {p : Nat} {rid : BitVec 16} (data : Nat)
    (hopen : ∀ j, 256 ≤ rid.toNat → s.busPort p (rid.toNat / 256) = some j → s.clasped p j = false) :
    s.msiVia p rid data = s.msi p rid data := by
  by_cases hown : rid.toNat < 256
  · rw [State.msiVia, if_pos hown]
  · rw [State.msiVia, if_neg hown]
    cases hbus : s.busPort p (rid.toNat / 256) with
    | none => rfl
    | some j => exact if_neg (by simp [hopen j (by omega) hbus])

theorem execMsi_comes {p : BitVec 3} {rid : BitVec 16} {data : BitVec 32} (hrole : s.role p.toNat = .root)
    (hopen : ∀ j, 256 ≤ rid.toNat → s.busPort p.toNat (rid.toNat / 256) = some j → s.clasped p.toNat j = false) :
    exec (.msi p rid data) s = .next (s.msi p.toNat rid data.toNat) :=
  congrArg Host.Outcome.next ((if_pos hrole).trans (msiVia_unclasped _ hopen))

/-- The routing entry of a message. -/
theorem msi_source (p : BitVec 3) (data : BitVec 32) :
    IntSrc.io (BitVec.ofNat 3 p.toNat) (BitVec.ofNat 11 data.toNat) = .io p (data.truncate 11) := by
  rw [BitVec.ofNat_toNat, BitVec.ofNat_toNat, BitVec.setWidth_eq]

theorem msi_routed {p : BitVec 3} {rid : BitVec 16} {data : BitVec 32} (hdata : data.toNat < 2048)
    (hv : getF (s.reg (srcRegs (.io p (data.truncate 11))).1) F.ioIntLo.V = 1)
    (hrid : getF (s.reg (srcRegs (.io p (data.truncate 11))).1) F.ioIntLo.RID = rid.toNat) :
    s.msi p.toNat rid data.toNat = s.raiseSrc (.io p (data.truncate 11)) := by
  rw [State.msi, msi_source]
  exact if_pos ⟨hdata, hv, hrid⟩

theorem msi_invalid {p : BitVec 3} {rid : BitVec 16} {data : BitVec 32}
    (hv : getF (s.reg (srcRegs (.io p (data.truncate 11))).1) F.ioIntLo.V = 0) :
    s.msi p.toNat rid data.toNat = s.logErr { bank := 144 + p.toNat, cls := 0x32, sev := 0, src := rid.toNat } := by
  rw [State.msi, msi_source]
  exact if_neg fun h => by simp [hv] at h

end Message

/-! ### Routing entries (R308-R310, R313) -/

section Route
variable {s : State} {src : IntSrc}

/-- A valid entry that names no record sends its INT (R308). -/
theorem raiseSrc_sends (hv : getF (s.reg (srcRegs src).1) F.stwIntLo.V = 1)
    (hvirt : getF (s.reg (srcRegs src).1) F.stwIntLo.VIRT = 0) :
    let lo := s.reg (srcRegs src).1
    s.raiseSrc src = s.sendInt (srcStop src) (getF lo F.stwIntLo.TARGET) (getF lo F.stwIntLo.WORLD == 1)
      (getF lo F.stwIntLo.VECTOR) (getF lo F.stwIntLo.PRIO) (getF lo F.stwIntLo.LEVEL) := by
  simp [State.raiseSrc, State.routeRaw, State.sendInt, hv, hvirt]

/-- A valid entry with VIRT = 1 delivers through its record (R313). -/
theorem raiseSrc_delivers (hv : getF (s.reg (srcRegs src).1) F.stwIntLo.V = 1)
    (hvirt : getF (s.reg (srcRegs src).1) F.stwIntLo.VIRT = 1) :
    s.raiseSrc src = logged (s.virtDeliver src (getF (s.reg (srcRegs src).1) F.stwIntLo.VECTOR)) := by
  simp [State.raiseSrc, State.routeRaw, hv, hvirt]

/-- Where the vector's class or a higher one is pending in the record already, no notice follows (R313). -/
theorem virtDeliver_quiet {v o top key pa : Nat} {s1 s2 : State}
    (hkey : getF (s.reg (srcRegs src).2) F.ioIntHi.KEYID = key) (hpa : getF (s.reg (srcRegs src).2) F.ioIntHi.RECORD * 128 = pa)
    (hmark : s.agentAtomic false (srcStop src) stopId key (pa + 4 * (v / 32)) 4 (fun o => o ||| 2 ^ (v % 32)) =
      .ok (o, false, s1))
    (hraise : s1.agentAtomic false (srcStop src) stopId key (pa + 0x40) 8 (fun o => max o (v / 32)) = .ok (top, false, s2))
    (hle : v / 32 ≤ top) : s.virtDeliver src v = (s2, none) := by
  simp [State.virtDeliver, hkey, hpa, hmark, hraise, hle]

theorem routeSet_denied {q : Req} (hi : Bool) (mask v : DWord) (hw : s.flag (srcRegs src).1 F.stwIntLo.WORLD = true)
    (hq : q.world = false) : s.routeSet q src hi mask v = s.setFld (srcRegs src).2 F.stwIntHi.DENIED 1 := by
  simp [State.routeSet, getF_of_flag hw, hq]

theorem routeSet_high {q : Req} (mask v : DWord) (hw : s.flag (srcRegs src).1 F.stwIntLo.WORLD = false)
    (hq : s.mayManage q = true) : s.routeSet q src true mask v = s.writeReg (srcRegs src).2 q.world mask v := by
  simp [State.routeSet, getF_ne_one_of_flag hw, hq]

/-- The low half takes what is written where its vector and level are legal (R308, R310). -/
theorem routeSet_low {q : Req} {mask v : DWord} (hw : s.flag (srcRegs src).1 F.stwIntLo.WORLD = false)
    (hq : s.mayManage q = true) :
    let w := writeFields (srcRegs src).1.fields q.world mask (s.reg (srcRegs src).1) v
    vecOk src (getF w F.stwIntLo.VECTOR) = true → s.levelOk (getF w F.stwIntLo.WORLD == 1) (getF w F.stwIntLo.LEVEL) = true →
      s.routeSet q src false mask v = s.setReg (srcRegs src).1 w := by
  intro w hvec hlevel
  have hkeep : keepIf (vecOk src) F.stwIntLo.VECTOR (s.reg (srcRegs src).1) w = w := if_pos hvec
  have hkeep' : keepIf (s.levelOk (getF w F.stwIntLo.WORLD == 1)) F.stwIntLo.LEVEL (s.reg (srcRegs src).1) w = w := if_pos hlevel
  simp [State.routeSet, getF_ne_one_of_flag hw, hq, w, hkeep, hkeep']

end Route

/-! ### Core timers (R306, R312) -/

section Timer
variable {s : State} {c : Nat} {t : Nat × Bool}

theorem slewed_frame (s : State) (ns : Nat) : s.slewed ns = { s with free := (s.slewed ns).free, rtu := (s.slewed ns).rtu } := by
  unfold State.slewed
  extract_lets st
  split <;> rfl

/-- Bringing rack time forward moves rack time and the model's count of free values alone. -/
theorem reach_frame (s : State) (t : DWord) : s.reach t = { s with free := (s.reach t).free, rtu := (s.reach t).rtu } := by
  unfold State.reach
  split
  · rw [slewed_frame]
  · rfl

theorem reach_awake (s : State) (t : DWord) (n : Nat) : (s.reach t).awake n = s.awake n := by rw [reach_frame]; rfl
theorem reach_core (s : State) (t : DWord) (c : Nat) : (s.reach t).core c = s.core c := by rw [reach_frame]; rfl

/-- A core that runs waits for nothing. -/
theorem endWait_running (h : (s.core c).run = .running) : s.endWait c = s := by rw [State.endWait, h]

theorem timerDue_asleep (hen : (s.core c).sflag (Sys.tmrctlAt t.1) (bankOf t.1 t.2) G.tmrctl.EN = true)
    (hcore : s.noCore c = false) (hawake : s.awake (domCore c) = false) :
    s.timerDue c t = (s.reach ((s.core c).rs (Sys.tmrcmpAt t.1) (bankOf t.1 t.2))).wake (domCore c) := by
  simp [State.timerDue, hen, hcore, reach_awake, hawake]

theorem timerDue_running (hen : (s.core c).sflag (Sys.tmrctlAt t.1) (bankOf t.1 t.2) G.tmrctl.EN = true)
    (hcore : s.noCore c = false) (hawake : s.awake (domCore c) = true) (hrun : (s.core c).run = .running) :
    s.timerDue c t = s.reach ((s.core c).rs (Sys.tmrcmpAt t.1) (bankOf t.1 t.2)) := by
  have hrun' : ∀ u, ((s.reach u).core c).run = .running := fun u => by rw [reach_core, hrun]
  simp [State.timerDue, hen, hcore, reach_awake, hawake, endWait_running (hrun' _)]

end Timer

/-! ### Gather counters (R320) -/

/-- An acknowledgement by the counter's world that sends no interrupt: the count goes down by one. -/
theorem gatherAck_counts {s : State} {q : Req} {k : Nat} (hw : s.flag (.gather (ix 64 k)) F.gather.WORLD = q.world)
    (hn : 0 < s.fld (.gather (ix 64 k)) F.gather.COUNT)
    (hlast : s.fld (.gather (ix 64 k)) F.gather.COUNT = 1 → s.flag (.gather (ix 64 k)) F.gather.ZIE = false) :
    s.gatherAck q k = s.setFld (.gather (ix 64 k)) F.gather.COUNT (s.fld (.gather (ix 64 k)) F.gather.COUNT - 1) := by
  have hmine : ¬(getF (s.reg (.gather (ix 64 k))) F.gather.WORLD = 1 ∧ !q.world ∨
      getF (s.reg (.gather (ix 64 k))) F.gather.COUNT = 0) := by
    rintro (⟨hone, hq⟩ | hzero)
    · simp [← hw, State.flag, State.fld, hone] at hq
    · exact hn.ne' hzero
  have hquiet : ¬(getF (s.reg (.gather (ix 64 k))) F.gather.COUNT = 1 ∧ getF (s.reg (.gather (ix 64 k))) F.gather.ZIE = 1) :=
    fun h => getF_ne_one_of_flag (hlast h.1) h.2
  rw [State.gatherAck, if_neg hmine, if_neg hquiet]
  rfl

/-! ### Queue configuration (R323, R324) -/

section Config
variable {s : State} {q : Req} {t k : Nat} {mask v : DWord}

theorem qcfgSet_refused (h : s.mayConfigure q (s.qOwner t k) = false) : s.qcfgSet q t k mask v = s := by
  simp [State.qcfgSet, h]

/-- An enable is performed or refused, with the reason in CFGERR (R324). -/
theorem qcfgSet_enables (hmay : s.mayConfigure q (s.qOwner t k) = true) (hoff : s.flag (rQcfg t k) F.qcfg.V = false)
    (hon : getF (s.qcfgWord q t k mask v) F.qcfg.V = 1) :
    let w := s.qcfgWord q t k mask v
    let e := s.qRefused t k w
    s.qcfgSet q t k mask v = (s.setReg (rQcfg t k) (setF w F.qcfg.V (b2n (e == 0)))).setFld (rQstat t k) F.qstat.CFGERR e := by
  simp [State.qcfgSet, hmay, getF_ne_one_of_flag hoff, hon]

/-- QCFG of a queue with V = 1 after a write of the word w: the fields that may change while it is enabled. -/
def qcfgLive (old w : DWord) : DWord := qLive.foldl (fun u p => setF u p (getF w p)) old

/-- Writing fields that all lie elsewhere keeps a field. -/
theorem getF_setAll_other (w : DWord) {p : Place} (ps : List Place)
    (h : ∀ q ∈ ps, q.2 ≤ q.1 ∧ p.2 ≤ p.1 ∧ (q.1 < p.2 ∨ p.1 < q.2)) (old : DWord) :
    getF (ps.foldl (fun u q => setF u q (getF w q)) old) p = getF old p := by
  induction ps generalizing old with
  | nil => rfl
  | cons q ps ih =>
    rw [List.foldl_cons, ih (fun r hr => h r (List.mem_cons_of_mem q hr)), getF_setF_other _ _ _ _ (h q List.mem_cons_self)]

theorem getF_qcfgLive_valid (old w : DWord) : getF (qcfgLive old w) F.qcfg.V = getF w F.qcfg.V % 2 := by
  rw [qcfgLive, qLive, List.foldl_cons, getF_setAll_other _ _ (by decide)]
  exact getF_setF_same _ _ _ (by decide)

/-- CAP and BASE are fixed while a queue is enabled (R323). -/
theorem getF_qcfgLive_cap (old w : DWord) : getF (qcfgLive old w) F.qcfg.CAP = getF old F.qcfg.CAP :=
  getF_setAll_other w qLive (by decide) old
theorem getF_qcfgLive_base (old w : DWord) : getF (qcfgLive old w) F.qcfg.BASE = getF old F.qcfg.BASE :=
  getF_setAll_other w qLive (by decide) old

theorem qcfgSet_disables (hmay : s.mayConfigure q (s.qOwner t k) = true) (hon : s.flag (rQcfg t k) F.qcfg.V = true)
    (hoff : getF (s.qcfgWord q t k mask v) F.qcfg.V = 0) :
    s.qcfgSet q t k mask v =
      (s.qEmpty t k).setReg (rQcfg t k) (qcfgLive (s.reg (rQcfg t k)) (s.qcfgWord q t k mask v)) := by
  have hnow : getF (qcfgLive (s.reg (rQcfg t k)) (s.qcfgWord q t k mask v)) F.qcfg.V = 0 := by
    rw [getF_qcfgLive_valid, hoff]
  rw [qcfgLive] at hnow
  simp [State.qcfgSet, hmay, getF_of_flag hon, hnow, qcfgLive]

theorem qEmpty_queue (s : State) (t k : Nat) : (s.qEmpty t k).queue t k = ⟨[], none⟩ := by
  simp [State.queue, State.qEmpty, Map.getD]

end Config

/-! ### Reassembly and claims (R329, R332) -/

section Station
variable {s : State} {t : Nat}

/-- A held part 0 that times out is discarded and recorded (R329). -/
theorem partLost_records {b : Nat} {p : Part} (h : s.qs.parts.find (t, b) = some p) :
    ∃ ev : Event, ev.bank = t ∧ ev.cls = 0x40 ∧ ev.sev = 2 ∧
      s.partLost t b = (s.setParts fun m => m.erase (t, b)).logErr ev :=
  ⟨{ bank := t, cls := 0x40, sev := 2, src := p.src, hidden := (s.qOwner t (hIndex p.handle)).world }, rfl, rfl, rfl,
    by rw [State.partLost, h]⟩

/-- A broken claim drops the message that it held (R332). -/
theorem claimBreak_drops {k src : Nat} (h : (s.queue t k).claim = some src) :
    s.claimBreak t k = (s.setQueue t k ⟨dropMessage (s.queue t k).words, none⟩).count (rQstat t k) F.qstat.BROKEN :=
  if_pos (by rw [h]; rfl)

end Station

/-! ### The queue aperture (R336) -/

section Aperture
variable {s s1 s2 s3 : State} {p : Nat}

/-- An access by a device whose context the unit finds (R336, R374). -/
theorem apVia_device {rp : BitVec 2} {rid : BitVec 16} {x : IoCtx} (h : Word) (wr : Bool) (off : Nat)
    (f : State → Ident → State) (hrp : s.isRp p rp.toNat = true) (hup : s.flag (rClasp p rp.toNat) F.clasp.LINKUP = true)
    (hopen : s.clasped p rp.toNat = false)
    (hctx : ((s.rpActive p rp.toNat).wake (domIo p)).ioCtx p rid.toNat = (.ok x, s1)) :
    s.apVia p (.device rp rid) h wr off f = f s1 x.x.id := by
  simp [State.apVia, State.apDevice, hrp, hup, hopen, hctx]

/-- A put of one message that its station takes. -/
theorem apPut_puts {id : Ident} {h : Word} {ws : List (BitVec 64)} (hsome : 1 ≤ ws.length) (hmost : ws.length ≤ 32)
    (hway : s1.ioStation p id (hStation h) 0x08 ((ws.length + 3) / 4) = (none, s2))
    (hput : s2.qPut (portOfIo p) id h (ws.map fun w => w.truncate 56) false false = (0, s3)) :
    s1.apPut p id h ws false = s3 := by
  have hlen : ¬(ws.length = 0 ∨ 32 < ws.length) := by omega
  have hsend : s2.qSend (portOfIo p) id h (ws.map fun w => w.truncate 56) = (0, s3) := by
    rw [State.qSend, if_pos (by simpa using hmost), hput]
  rw [State.apPut, if_neg hlen]
  simp [hway, hsend]

end Aperture

/-! ### The statement -/

/-- A field of one bit that reads 0 is a flag that is not set. -/
theorem flag_of_getF_zero {s : State} {r : Reg} {p : Place} (h : getF (s.reg r) p = 0) : s.flag r p = false := by
  simp [State.flag, State.fld, h]

/-- A write of QCFG that its station performs (R469, R470). -/
theorem qcfgWrite_served {r : Req} {t : BitVec 7} {k : BitVec 9} {s : State} (v : BitVec 64)
    (h : Served r (rQcfg t.toNat k.toNat) s) :
    exec (.qcfgWrite r t k v) s =
      .next ((s.wake (domTile t.toNat)).qcfgSet r t.toNat k.toNat (BitVec.allOnes 64) v) := by
  rw [← regDom_slice t]
  exact congrArg Host.Outcome.next (access_served _ h)

/-- A queue disabled is empty, and keeps its place in the station's storage (R323). -/
theorem qcfgDisabled {s : State} {t k : Nat} {w : DWord} (hoff : getF w F.qcfg.V = 0) :
    let u := (s.qEmpty t k).setReg (rQcfg t k) (qcfgLive (s.reg (rQcfg t k)) w)
    u.queue t k = ⟨[], none⟩ ∧ u.flag (rQcfg t k) F.qcfg.V = false ∧
      u.fld (rQcfg t k) F.qcfg.CAP = s.fld (rQcfg t k) F.qcfg.CAP ∧
      u.fld (rQcfg t k) F.qcfg.BASE = s.fld (rQcfg t k) F.qcfg.BASE ∧ u.cores = s.cores ∧ u.m = s.m := by
  intro u
  have hreg : u.reg (rQcfg t k) = qcfgLive (s.reg (rQcfg t k)) w := reg_setReg_same _ _ _
  refine ⟨qEmpty_queue s t k, flag_of_getF_zero ?_, ?_, ?_, rfl, rfl⟩
  · rw [hreg, getF_qcfgLive_valid, hoff]
  · rw [State.fld, hreg, getF_qcfgLive_cap, State.fld]
  · rw [State.fld, hreg, getF_qcfgLive_base, State.fld]

/-- Settles O52, command by command: each clause is a lemma above of its name, and a register access that is served is the
write itself (`access_served`), after a wake that leaves the registers as they are (`wake_reg`). -/
theorem interruptAndQueueCommands : Obligations.InterruptAndQueueCommands := by
  unfold Obligations.InterruptAndQueueCommands
  intro r s
  refine ⟨?msi, ?virt, ?routing, ?timer, ?gather, ?qcfg, ?reassembly, ?claim, ?aperture⟩
  case msi =>
    intro p rid data hrole src lo hopen
    rw [execMsi_comes hrole hopen]
    exact ⟨fun hdata hv hrid => ⟨congrArg Host.Outcome.next (msi_routed hdata hv hrid), fun hvirt => raiseSrc_sends hv hvirt⟩,
      fun hv => congrArg Host.Outcome.next (msi_invalid hv)⟩
  case virt =>
    intro src v lo hv hvirt hvec
    have hexec : exec (.virtualInterruptDelivery src v) s = .next (logged (s.virtDeliver src v.toNat)) :=
      congrArg Host.Outcome.next (if_pos ⟨hv, hvirt, hvec⟩)
    refine ⟨hexec, ?_, ?_⟩
    · rw [raiseSrc_delivers hv hvirt, hvec]
    · intro hi pa key n o s1 top s2 hmark hraise hle
      rw [hexec, virtDeliver_quiet rfl rfl hmark hraise hle]
      rfl
  case routing =>
    intro src v rl rh s1 hserved
    have hexec : ∀ hi w, exec (.routingEntryWrite r src hi w) s = .next (s1.routeSet r src hi (BitVec.allOnes 64) w) :=
      fun hi w => congrArg Host.Outcome.next (access_served _ hserved)
    have hreg : s1.reg rl = s.reg rl := wake_reg s _ rl
    have hflag : s1.flag rl F.stwIntLo.WORLD = s.flag rl F.stwIntLo.WORLD := by rw [State.flag, State.fld, hreg]; rfl
    rw [← hflag, ← hreg]
    refine ⟨fun hw hq hi => ?_, fun hw hq => ⟨?_, fun hvec hlevel => ?_⟩⟩
    · rw [hexec, routeSet_denied hi _ v hw hq]
    · rw [hexec, routeSet_high _ v hw hq]
    · rw [hexec, routeSet_low hw hq hvec hlevel]
  case timer =>
    intro core t c k m u hen hcore
    exact ⟨fun hawake => congrArg Host.Outcome.next (timerDue_asleep hen hcore hawake),
      fun hawake hrun => congrArg Host.Outcome.next (timerDue_running hen hcore hawake hrun)⟩
  case gather =>
    intro k g n hserved hw hn hlast
    have hexec : exec (.gatherAck r k) s = .next ((s.wake (regDom (.gack (ix 64 k.toNat)))).gatherAck r k.toNat) :=
      congrArg Host.Outcome.next (access_served _ hserved)
    generalize regDom (.gack (ix 64 k.toNat)) = dom at hexec ⊢
    have hfld : ∀ p, (s.wake dom).fld g p = s.fld g p := wake_fld s dom g
    have hflag : ∀ p, (s.wake dom).flag g p = s.flag g p := fun p => by rw [State.flag, hfld]; rfl
    rw [hexec, gatherAck_counts (by rw [hflag, hw]) (by rw [hfld]; exact hn)
      (by rw [hfld, hflag]; exact hlast), hfld]
  case qcfg =>
    intro t k v q s1 w hserved
    have hreg : s1.reg q = s.reg q := wake_reg s _ q
    have hfld : ∀ p, s1.fld q p = s.fld q p := wake_fld s _ q
    have hflag : s1.flag q F.qcfg.V = s.flag q F.qcfg.V := by rw [State.flag, hfld]; rfl
    rw [qcfgWrite_served v hserved, ← hflag]
    refine ⟨fun hmay => congrArg Host.Outcome.next (qcfgSet_refused hmay), fun hmay => ⟨fun hoff hon => ?_, fun hon hoff => ?_⟩⟩
    · exact congrArg Host.Outcome.next (qcfgSet_enables hmay hoff hon)
    · obtain ⟨hqueue, hv, hcap, hbase, hcores, hmem⟩ := qcfgDisabled (s := s1) (t := t.toNat) (k := k.toNat) hoff
      refine ⟨_, congrArg Host.Outcome.next (qcfgSet_disables hmay hon hoff), hqueue, hv, hcap.trans (hfld _),
        hbase.trans (hfld _), hcores.trans ?_, hmem.trans (wake_m s _)⟩
      rw [show s1 = s.wake (domTile t.toNat) from rfl, wake_frame]
  case reassembly =>
    intro t b p hpart
    obtain ⟨ev, hbank, hcls, hsev, hlost⟩ := partLost_records hpart
    exact ⟨ev, hbank, hcls, hsev, congrArg Host.Outcome.next hlost⟩
  case claim =>
    intro t k src q hclaim
    exact congrArg Host.Outcome.next (claimBreak_drops hclaim)
  case aperture =>
    intro p rp rid h x s1 hrp hup hopen hctx
    refine ⟨fun ws b => ?_, fun b => ?_, fun ws s2 s3 hsome hmost hway hput => apPut_puts hsome hmost hway hput⟩
    · exact congrArg Host.Outcome.next (apVia_device h true 0 _ hrp hup hopen hctx)
    · exact congrArg Host.Outcome.next (apVia_device h false 0x100 _ hrp hup hopen hctx)

end Sys2Proof.Proofs
end

section
/-! PROOFS. Data Mover channels: their control registers (R338, R339, R344), their descriptors (R341-R343) and their
completions (R344, R345). -/

namespace Sys2Proof.Proofs
open Sys2Proof.Machine Sys2Proof.Laws

/-! ### A register's fields written (R11) -/

section Fields
variable {mask new old : DWord} {trusted : Bool}

/-- A field that the write does not reach is kept, whatever its access code. -/
theorem writeField_unmasked {f : Field} (h : maskF f.at_ &&& mask = 0#64) : writeField trusted mask new old f = old := by
  cases hacc : f.acc <;>
    simp only [writeField, hacc, h, BitVec.and_zero, BitVec.or_zero, BitVec.not_zero, BitVec.and_allOnes, ite_self]

theorem writeField_readOnly {f : Field} (h : f.acc = .ro) : writeField trusted mask new old f = old := by
  simp [writeField, h]

/-- A field that takes every value takes the new word's. -/
theorem writeField_takes {p : Place} {z : Nat} (h : maskF p &&& mask = maskF p) :
    writeField trusted mask new old ⟨p, .rw, z, .any⟩ = setF old p (getF new p) := by
  have hkeep : writeField trusted mask new old ⟨p, .rw, z, .any⟩ = (old &&& ~~~maskF p) ||| (new &&& maskF p) := by
    simp [writeField, h, Legal.ok]
  rw [hkeep]
  apply BitVec.eq_of_getLsbD_eq
  intro i hi
  rw [getLsbD_setF, testBit_getF, BitVec.getLsbD_or, BitVec.getLsbD_and, BitVec.getLsbD_and, BitVec.getLsbD_not]
  cases hp : (maskF p).getLsbD i with
  | true =>
    obtain ⟨⟨-, hle⟩, hwidth⟩ : (i < 64 ∧ p.2 ≤ i) ∧ i - p.2 < p.1 - p.2 + 1 := by simpa [getLsbD_maskF] using hp
    simp [hwidth, Nat.add_sub_cancel' hle]
  | false => simp [hi]

/-- A 1 written to a W1C flag clears it. -/
theorem writeField_clears {n z : Nat} {l : Legal} :
    writeField trusted (maskF (n, n)) (maskF (n, n)) old ⟨(n, n), .w1c, z, l⟩ = setF old (n, n) 0 := by
  simp [writeField, setF]

end Fields

/-! ### CHc_CTL (R338, R339, R344) -/

section Control
variable {s : State} {d : Fin 2} {c : BitVec 5}

theorem chanOf_device (d : Fin 2) (c : BitVec 5) : chanOf d c / 32 = d.val := by
  have := c.isLt
  simp only [chanOf]
  omega

theorem rCtl_chanOf (d : Fin 2) (c : BitVec 5) : rCtl (chanOf d c) = .dmCtl d (ix 32 c.toNat) := by
  have hc : ix 32 (chanOf d c) = ix 32 c.toNat := Fin.ext (Nat.mul_add_mod 32 d.val c.toNat)
  rw [rCtl, chanOf_device, ix_val, hc]

variable {q : Req} {ch : Nat} {old : DWord}

theorem ctl_enabled (trusted : Bool) (sq : BitVec 32) :
    writeFields (rCtl ch).fields trusted (maskF F.dmCtl.SQ ||| maskF F.dmCtl.EN) old (dw (sq.toNat * 2 ^ 32 + 1)) =
      setF (setF old F.dmCtl.SQ sq.toNat) F.dmCtl.EN 1 := by
  have hsq : getF (dw (sq.toNat * 2 ^ 32 + 1)) F.dmCtl.SQ = sq.toNat := by
    have := sq.isLt
    simp only [getF, dw, BitVec.toNat_ofNat, Nat.shiftRight_eq_div_pow]
    omega
  have hen : getF (dw (sq.toNat * 2 ^ 32 + 1)) F.dmCtl.EN = 1 := by
    simp only [getF, dw, BitVec.toNat_ofNat, Nat.shiftRight_eq_div_pow]
    omega
  simp only [writeFields, rCtl, Reg.fields, List.foldl_cons, List.foldl_nil]
  rw [writeField_takes (by decide), writeField_unmasked (by decide), writeField_readOnly rfl, writeField_readOnly rfl,
    writeField_takes (by decide), hsq, hen]

theorem ctl_disabled (trusted : Bool) :
    writeFields (rCtl ch).fields trusted (maskF F.dmCtl.EN) old 0 = setF old F.dmCtl.EN 0 := by
  simp only [writeFields, rCtl, Reg.fields, List.foldl_cons, List.foldl_nil]
  rw [writeField_takes (by decide), writeField_unmasked (by decide), writeField_readOnly rfl, writeField_readOnly rfl,
    writeField_unmasked (by decide)]
  rfl

theorem ctl_resumed (trusted : Bool) :
    writeFields (rCtl ch).fields trusted (maskF F.dmCtl.HALTED) old (maskF F.dmCtl.HALTED) = setF old F.dmCtl.HALTED 0 := by
  simp only [writeFields, rCtl, Reg.fields, List.foldl_cons, List.foldl_nil]
  rw [writeField_unmasked (by decide), writeField_clears, writeField_readOnly rfl, writeField_readOnly rfl,
    writeField_unmasked (by decide)]

theorem chanSet_refused {mask v : DWord} (h : s.mayConfigure q (s.chanOwner ch) = false) : s.chanSet q ch mask v = s := by
  simp [State.chanSet, h]

/-- An enable whose queue is not the channel's fails (R339). -/
def enableFails (s : State) (ch : Nat) (w : DWord) : Prop :=
  getF w F.dmCtl.EN = 1 ∧
    (getF (s.reg (rCtl ch)) F.dmCtl.EN = 0 ∨ getF w F.dmCtl.SQ ≠ getF (s.reg (rCtl ch)) F.dmCtl.SQ) ∧
    (s.setReg (rCtl ch) w).sqOf ch = none

theorem chanSet_fails {mask v w : DWord} (hmay : s.mayConfigure q (s.chanOwner ch) = true)
    (hw : writeFields (rCtl ch).fields q.world mask (s.reg (rCtl ch)) v = w) (hfails : enableFails s ch w) :
    s.chanSet q ch mask v = ((s.setReg (rCtl ch) w).setFld (rCtl ch) F.dmCtl.EN 0).setFld (rCtl ch) F.dmCtl.ERR 1 := by
  subst hw
  obtain ⟨hen, hnew, hsq⟩ := hfails
  have hmine : ¬((!s.mayConfigure q (s.chanOwner ch)) = true) := by simp [hmay]
  exact (if_neg hmine).trans (if_pos ⟨hen, hnew, Option.isNone_iff_eq_none.2 hsq⟩)

theorem chanSet_takes {mask v w : DWord} (hmay : s.mayConfigure q (s.chanOwner ch) = true)
    (hw : writeFields (rCtl ch).fields q.world mask (s.reg (rCtl ch)) v = w) (hholds : ¬enableFails s ch w) :
    s.chanSet q ch mask v = s.setReg (rCtl ch) w := by
  subst hw
  have hmine : ¬((!s.mayConfigure q (s.chanOwner ch)) = true) := by simp [hmay]
  refine (if_neg hmine).trans (if_neg ?_)
  rintro ⟨hen, hnew, hsq⟩
  exact hholds ⟨hen, hnew, Option.isNone_iff_eq_none.1 hsq⟩

theorem chanSet_disables (hmay : s.mayConfigure q (s.chanOwner ch) = true) :
    s.chanSet q ch (maskF F.dmCtl.EN) 0 = s.setFld (rCtl ch) F.dmCtl.EN 0 := by
  refine chanSet_takes hmay (ctl_disabled _) ?_
  rintro ⟨hen, -⟩
  rw [getF_setF_same _ _ _ (by decide)] at hen
  exact absurd hen (by decide)

theorem chanSet_resumes (hmay : s.mayConfigure q (s.chanOwner ch) = true) :
    s.chanSet q ch (maskF F.dmCtl.HALTED) (maskF F.dmCtl.HALTED) = s.setFld (rCtl ch) F.dmCtl.HALTED 0 := by
  refine chanSet_takes hmay (ctl_resumed _) ?_
  rintro ⟨hen, hoff | hsq, -⟩
  · rw [getF_setF_other _ _ _ _ (by decide), hoff] at hen
    exact absurd hen (by decide)
  · exact hsq (getF_setF_other _ _ _ _ (by decide))

/-- An enable fails unless it changes nothing, or its queue is the channel's. -/
theorem enableFails_iff (sq : BitVec 32) :
    let w := setF (setF (s.reg (rCtl ch)) F.dmCtl.SQ sq.toNat) F.dmCtl.EN 1
    enableFails s ch w ↔ ¬((s.flag (rCtl ch) F.dmCtl.EN = true ∧ s.fld (rCtl ch) F.dmCtl.SQ = sq.toNat) ∨
      (s.setReg (rCtl ch) w).sqOf ch ≠ none) := by
  intro w
  have hen : getF w F.dmCtl.EN = 1 := getF_setF_same _ _ _ (by decide)
  have hsq : getF w F.dmCtl.SQ = sq.toNat := by
    rw [getF_setF_other _ _ _ _ (by decide), getF_setF_same _ _ _ (by decide)]
    exact Nat.mod_eq_of_lt sq.isLt
  have hbit : getF (s.reg (rCtl ch)) F.dmCtl.EN = 0 ↔ ¬getF (s.reg (rCtl ch)) F.dmCtl.EN = 1 := by
    simp only [getF]
    omega
  have hflag : s.flag (rCtl ch) F.dmCtl.EN = true ↔ getF (s.reg (rCtl ch)) F.dmCtl.EN = 1 := beq_iff_eq
  rw [enableFails, hen, hsq, hflag, hbit, State.fld]
  tauto

end Control

/-! ### Descriptors (R341-R343) -/

section Descriptor
variable {s u s2 : State} {ch : Nat} {o : DmOp} {ws : List DWord}

/-- The way to a station that stands open. -/
theorem stationErr_open {src : Stop} {t : Nat} (cmd : Nat) (ht : s.fencedTile t = false)
    (hpath : s.pathErr src (tileStop t) (domTile t) = none) : s.stationErr src t cmd = (none, s.wake (domTile t)) := by
  simp [State.stationErr, ht, hpath]

theorem dOk_shape (h : dOk o ws = true) : ws.length = 8 ∧ dOp ws = o.code := by
  simp only [dOk, Bool.and_eq_true, beq_iff_eq] at h
  tauto

/-- A well-formed descriptor at the head of a channel's queue is taken and performed. -/
theorem chanTake_performs {t k : Nat} (hsq : s.sqOf ch = some (t, k)) (hfree : s.chanFree ch = true)
    (ht : s.fencedTile t = false) (hpath : s.pathErr (dmStop (ch / 32)) (tileStop t) (domTile t) = none)
    (hws : headMessage (s.queue t k).words = ws) (hfence : dFence ws = true → (s.chan ch).descs = [])
    (hok : dOk o ws = true) :
    let s2 := (((s.wake (domTile t)).wake (domDm (ch / 32))).chanQread ch ws.length).setQueue t k
      ⟨dropMessage (s.queue t k).words, none⟩
    let z := dmRun o ws ch (dWord ws 3) ⟨0, 0, BitVec.ofNat 32 (dWord ws 6)⟩ s2
    s.chanTake ch o false = (z.2.setChan ch { z.2.chan ch with descs := (z.2.chan ch).descs ++
      [⟨ws, z.1.status, if o = .crc then z.1.crc.toNat else z.1.done⟩] }).chanHalt ch z.1.status := by
  obtain ⟨hlen, hop⟩ := dOk_shape hok
  have hsome : ws ≠ [] := by
    rintro rfl
    simp at hlen
  have hclear : ¬(dFence ws = true ∧ (s.chan ch).descs ≠ []) := fun h => h.2 (hfence h.1)
  simp [State.chanTake, hsq, hfree, stationErr_open _ ht hpath, hws, hsome, hclear, hop, hok]

/-- All bytes done. -/
theorem dmRun_done {f : Nat} {r : DmRun} (h : dWord ws 3 ≤ r.done) : dmRun o ws ch f r s = (r, s) := by
  cases f with
  | zero => rfl
  | succ f => rw [dmRun]; exact if_pos h

/-- The piece of a descriptor whose bytes stand in one line of each side is the whole of it. -/
theorem dmPiece_whole {n a b : Nat} (hmost : n ≤ 64) (hsrc : o.reads = true → a % 64 + n ≤ 64)
    (hdst : o.writes = true → b % 64 + n ≤ 64) :
    min n (min (if o.reads then 64 - a % 64 else 64) (if o.writes then 64 - b % 64 else 64)) = n := by
  refine Nat.min_eq_left (Nat.le_min.2 ⟨?_, ?_⟩)
  · split
    next h => exact Nat.le_sub_of_add_le' (hsrc h)
    next => exact hmost
  · split
    next h => exact Nat.le_sub_of_add_le' (hdst h)
    next => exact hmost

/-- A descriptor whose bytes stand in one line of each side: one read, one write, the CRC of its bytes. -/
theorem dmRun_oneLine {v : Nat} {crc : BitVec 32} (hn : 0 < dWord ws 3) (hmost : dWord ws 3 ≤ 64)
    (hsrc : o.reads = true → dWord ws 1 % 64 + dWord ws 3 ≤ 64) (hdst : o.writes = true → dWord ws 2 % 64 + dWord ws 3 ≤ 64)
    (hgot : if o.reads then s.chanRead ch (dWord ws 1) (dWord ws 3) (dWord ws 4 % 2 ^ 12) = (.ok (v, false), u)
      else u = s ∧ v = if o = .fill then fillBytes (dWord ws 6) 0 (dWord ws 3) else 0)
    (hput : if o.writes then u.chanWrite ch (dWord ws 2) (dWord ws 3) (dWord ws 4 / 2 ^ 12) (o == .rekey) v false = (none, s2)
      else s2 = u) :
    dmRun o ws ch (dWord ws 3) ⟨0, 0, crc⟩ s = (⟨0, dWord ws 3, crc32cFrom crc (leBytes (dWord ws 3) v)⟩, s2) := by
  have hread : (if o.reads then s.chanRead ch (dWord ws 1) (dWord ws 3) (dWord ws 4 % 2 ^ 12)
      else (.ok (if o = .fill then fillBytes (dWord ws 6) 0 (dWord ws 3) else 0, false), s)) = (.ok (v, false), u) := by
    split at hgot
    next h => rw [if_pos h, hgot]
    next h => obtain ⟨rfl, rfl⟩ := hgot; exact if_neg h
  have hwrite : (if o.writes then u.chanWrite ch (dWord ws 2) (dWord ws 3) (dWord ws 4 / 2 ^ 12) (o == .rekey) v false
      else (none, u)) = (none, s2) := by
    split at hput
    next h => rw [if_pos h, hput]
    next h => rw [if_neg h, hput]
  obtain ⟨f, hf⟩ := Nat.exists_eq_succ_of_ne_zero hn.ne'
  have hstep : dmRun o ws ch (f + 1) ⟨0, 0, crc⟩ s =
      dmRun o ws ch f ⟨0, dWord ws 3, crc32cFrom crc (leBytes (dWord ws 3) v)⟩ s2 := by
    simp only [dmRun, Nat.add_zero, Nat.sub_zero, Nat.zero_add, dmPiece_whole hmost hsrc hdst, hread, hwrite,
      if_neg (Nat.not_le.2 hn), Bool.false_eq_true, if_false]
  calc dmRun o ws ch (dWord ws 3) ⟨0, 0, crc⟩ s
      = dmRun o ws ch (f + 1) ⟨0, 0, crc⟩ s := by rw [hf]
    _ = dmRun o ws ch f ⟨0, dWord ws 3, crc32cFrom crc (leBytes (dWord ws 3) v)⟩ s2 := hstep
    _ = _ := dmRun_done le_rfl

/-- FILL's bytes: the pattern's four, over and over. -/
theorem leBytes_fillBytes (pat i n : Nat) :
    leBytes n (fillBytes pat i n) = (List.range n).map fun j => BitVec.ofNat 8 (pat / 256 ^ ((i + j) % 4)) := by
  induction n generalizing i with
  | zero => rfl
  | succ n ih =>
    have hhead : BitVec.ofNat 8 (fillBytes pat i (n + 1)) = BitVec.ofNat 8 (pat / 256 ^ (i % 4)) := by
      apply BitVec.eq_of_toNat_eq
      simp only [fillBytes, fillByte, BitVec.toNat_ofNat]
      omega
    have htail : fillBytes pat i (n + 1) / 256 = fillBytes pat (i + 1) n := by
      simp only [fillBytes, fillByte]
      omega
    rw [leBytes, hhead, htail, ih, List.range_succ_eq_map, List.map_cons, List.map_map]
    refine congrArg₂ List.cons rfl (List.map_congr_left fun j _ => ?_)
    rw [Function.comp_apply, Nat.add_right_comm, Nat.add_assoc]

/-- A channel that does not translate writes Normal memory at the address it names. -/
theorem chanWrite_untranslated {a n key v : Nat} {own poison : Bool} (hctx : s.chanCtx ch = none)
    (herr : s.initErr (chanInit ch) a n = none) (hnormal : s.physDevice a = false)
    (hw : s.agentWrite false (dmStop (ch / 32)) (s.chanOwner ch) key poison 2 a (leBytes n v) = .ok s2) :
    s.chanWrite ch a n key own v poison = (none, s2.chanMade ch) := by
  simp [State.chanWrite, State.chanAddr, hctx, herr, hnormal, hw]

end Descriptor

/-! ### Completions (R344, R345) -/

section Completion
variable {s s1 s2 s3 : State} {ch e : Nat} {h : Word} {ws : List (BitVec 56)}

/-- A completion that reaches its station ends by the answer to its put. -/
theorem chanSend_put (herr : s.unitErr (chanInit ch) 0x08 = none)
    (hway : (s.setChan ch { s.chan ch with retry := none }).stationErr (dmStop (ch / 32)) (hStation h) 0x08 = (none, s2))
    (hput : (s2.statOf (chanInit ch) (s2.chanOwner ch) ((ws.length + 3) / 4)).qPut (portOfChan ch) (s2.chanOwner ch) h ws
      false false = (e, s3)) :
    s.chanSend ch h ws = if e = 0 then s3 else if e = 1 ∨ e = 2 then s3.setChan ch { s3.chan ch with retry := some (h, ws) }
      else s3.logErr { bank := dmBank ch, cls := 0x41, sev := 2, src := ch, hidden := (s3.chanOwner ch).world } := by
  have herr' : (s.setChan ch { s.chan ch with retry := none }).unitErr (chanInit ch) 0x08 = none := herr
  simp [State.chanSend, herr', hway, hput]

/-- The oldest descriptor of a channel that waits for no retry completes. -/
theorem descDone_completes {x : Desc} {ds : List Desc} (hc : s.chan ch = ⟨x :: ds, none⟩) :
    let s2 := s.setChan ch ⟨ds, none⟩
    s.descDone ch = if x.status = 0 ∧ dQuiet x.words then s2
      else s2.chanSend ch (BitVec.ofNat 32 (dWord x.words 5))
        [BitVec.ofNat 56 (dTag x.words + x.status * 2 ^ 32 + ch * 2 ^ 40), BitVec.ofNat 56 x.result] := by
  simp [State.descDone, hc]

end Completion

/-! ### The statement -/

/-- A write of CHc_CTL that its Data Mover performs. -/
theorem access_ctl {r : Req} {d : Fin 2} {c : BitVec 5} {s : State} (f : State → State)
    (h : Served r (.dmCtl d (ix 32 c.toNat)) s) : s.access r (.dmCtl d (ix 32 c.toNat)) f = f (s.wake (domDm d.val)) :=
  access_served f h

theorem wake_flag (s : State) (n : Nat) (r : Reg) (p : Place) : (s.wake n).flag r p = s.flag r p := by
  rw [State.flag, wake_fld]
  rfl

/-- Settles O53. A control register's write is `chanSet` after its Data Mover's wake (`access_ctl`), by what its fields
become (`ctl_enabled`, `ctl_disabled`, `ctl_resumed`); a descriptor is taken by `chanTake_performs` and, within one line of
each side, performed by `dmRun_oneLine`; a completion ends by the answer to its put (`chanSend_put`). -/
theorem dataMoverCommands : Obligations.DataMoverCommands := by
  unfold Obligations.DataMoverCommands
  intro r d c s ch q s1
  have hq : rCtl ch = q := rCtl_chanOf d c
  have hreg : ∀ k, s1.reg k = s.reg k := wake_reg s _
  refine ⟨?manager, ?stranger, ?tinv, ?descriptor, ?fill, ?oneLine, ?completion, ?complete, ?retry⟩
  case manager =>
    intro hserved hmay
    refine ⟨fun sq => ?enable, ?disable, ?resume⟩
    case enable =>
      let w := setF (setF (s1.reg q) F.dmCtl.SQ sq.toNat) F.dmCtl.EN 1
      have hw : (s1.setReg q w).reg q = w := reg_setReg_same _ _ _
      refine ⟨s1.setReg q w, ?_, ?_, rfl, fun k hk => (reg_setReg_other _ _ hk).trans (hreg k),
        congrArg Host.Outcome.next ((access_ctl _ hserved).trans ?_)⟩
      · rw [State.fld, hw, getF_setF_other _ _ _ _ (by decide), getF_setF_same _ _ _ (by decide)]
        exact Nat.mod_eq_of_lt sq.isLt
      · rw [State.flag, State.fld, hw, getF_setF_same _ _ _ (by decide)]
        rfl
      · have hfails := enableFails_iff (s := s1) (ch := ch) sq
        rw [hq] at hfails
        rw [← wake_flag s (domDm d.val) q, ← wake_fld s (domDm d.val) q]
        split
        next h => rw [chanSet_takes hmay (ctl_enabled _ sq) (by rw [hq]; exact fun hf => hfails.1 hf h), hq]
        next h => rw [chanSet_fails hmay (ctl_enabled _ sq) (by rw [hq]; exact hfails.2 h), hq]
    case disable =>
      rw [← hq]
      exact congrArg Host.Outcome.next ((access_ctl _ hserved).trans (chanSet_disables hmay))
    case resume =>
      refine ⟨s1.setFld q F.dmCtl.HALTED 0, ?_, flag_setFld_zero _ _ _ (by decide), ?_, ?_, ?_, wake_m s _⟩
      · rw [← hq]
        exact congrArg Host.Outcome.next ((access_ctl _ hserved).trans (chanSet_resumes hmay))
      · rw [State.flag, fld_setFld_place _ _ _ _ _ (by decide), ← wake_flag s (domDm d.val) q]
        rfl
      · rw [setFld_dm, show s1 = s.wake (domDm d.val) from rfl, wake_frame]
      · rw [setFld_qs, show s1 = s.wake (domDm d.val) from rfl, wake_frame]
  case stranger =>
    intro hserved hmay
    exact congrArg Host.Outcome.next ((access_ctl _ hserved).trans (chanSet_refused hmay))
  case tinv =>
    intro hserved
    have hdm : s1.dm = s.dm := by rw [show s1 = s.wake (domDm d.val) from rfl, wake_frame]
    rw [← hdm]
    exact congrArg Host.Outcome.next (access_served _ hserved)
  case descriptor =>
    intro o i t k hoi ws s2 n hsq hfree ht hpath hfence hok z
    have hexec : exec i s = .next (s.chanTake ch o false) := by
      simp only [List.mem_cons, Prod.mk.injEq, List.not_mem_nil, or_false] at hoi
      obtain ⟨rfl, rfl⟩ | ⟨rfl, rfl⟩ | ⟨rfl, rfl⟩ | ⟨rfl, rfl⟩ | ⟨rfl, rfl⟩ := hoi <;> rfl
    rw [hexec, chanTake_performs hsq hfree ht hpath rfl hfence hok]
  case fill =>
    intro ws pat s2 n dst hn hline hctx hnormal hpat herr hw
    have hbytes : leBytes n (fillBytes pat 0 n) = (List.range n).map fun j => BitVec.ofNat 8 (pat / 256 ^ (j % 4)) := by
      simpa using leBytes_fillBytes pat 0 n
    rw [← hbytes] at hw
    exact ⟨_, dmRun_oneLine (o := .fill) hn (by omega) (fun h => absurd h (by decide)) (fun _ => hline)
      ⟨rfl, by rw [hpat]; rfl⟩ (chanWrite_untranslated hctx herr hnormal hw)⟩
  case oneLine =>
    intro o ws v crc u s2 n src dst hn hsrc hdst hmost hgot hput
    exact dmRun_oneLine hn hmost hsrc hdst hgot hput
  case completion =>
    intro h ws s2 e s3 herr s1 hway hput
    rw [chanSend_put herr hway hput]
    refine ⟨fun he => if_pos he, fun he => ?_, fun he => ?_⟩
    · rw [if_neg (by omega), if_pos he]
    · rw [if_neg (by omega), if_neg (by omega)]
      exact ⟨_, rfl, rfl, rfl⟩
  case complete =>
    intro x ds hc s2
    exact congrArg Host.Outcome.next (descDone_completes hc)
  case retry =>
    intro h ws hretry
    have hexec : exec (.completionRetry d c) s = .next (match (s.chan ch).retry with
      | none => s
      | some (h, ws) => s.chanSend ch h ws) := rfl
    rw [hexec, hretry]

end Sys2Proof.Proofs
end
